-- ==== Sys2Proof/Word.lean ====
section
/-! DEFINITION. The word types of the device (R2, R18, R53): 64-bit register values, 32-bit instruction words, bytes. -/

namespace Sys2Proof

/-- A 64-bit register value, object pointer or control-window register. -/
abbrev W64 := BitVec 64

/-- A 32-bit instruction word, stride field or lane mask. -/
abbrev W32 := BitVec 32

/-- A byte of memory. -/
abbrev Byte := BitVec 8

/-- A 7-bit operand specifier (R74). -/
abbrev Opnd := BitVec 7

end Sys2Proof
end

