-- ==== Sys2Proof/Syntax.lean ====
section
/-! DEFINITION. The instructions and events of the device: one constructor for each row of the opcode table. The encoded rows carry the fields of their word (R73, R85); the event rows carry what names the occurrence: the unit, the cut, the register and the value written, or the bytes that arrive. -/

namespace Sys2Proof

/-- An instruction of the opcode map (R85) or an event of the device. -/
inductive Instr where
  /-- NOP (R94): Does nothing but retire. -/
  | nop
  /-- YIELD (R94): Retires and makes the cut ineligible until another cut of its scheduler issues, or for 16 cycles. -/
  | yield
  /-- EXIT (R95): Ends the governed items after waiting for outstanding results; they leave their crew, and the cut ends when no item remains. -/
  | exit
  /-- SEAM (R173): Reconvergence point: rejoins siblings, tests seamability, waits for partners, zeroes l0 and l1. -/
  | seam
  /-- TFENCE (R96): Waits for flag-setting instructions, then raises ARI if an enabled ASF flag is set. -/
  | tfence
  /-- HALTD (R97): Halts the whole context on both dies when a debugger holds it; otherwise acts as NOP. -/
  | haltd
  /-- BKPT (R97): Raises BKP for the whole cut with TDONE holding every active lane. -/
  | bkpt
  /-- RET (R92): Transfers each governed lane to the address in o7, grouping lanes by target. -/
  | ret
  /-- MODE (R98): Writes the low 32 bits of register a to MODE, raising MOD on a mixed guard, differing lanes or reserved values. -/
  | mode (a : BitVec 7)
  /-- MODEI (R99): Sets MODE[17:0] to the unsigned immediate, raising MOD on a reserved field value. -/
  | modei (i : BitVec 18)
  /-- BR (R90): Branches to the J-format target in lanes where guard and the named predicate with its sense hold, splitting the cut if mixed. -/
  | br (s : BitVec 1) (p : BitVec 3) (o : BitVec 21)
  /-- JMP (R90): Jumps to the J-format target in lanes whose guard is true. -/
  | jmp (o : BitVec 21)
  /-- CALL (R90): Jumps to the J-format target and writes the link to o7 in taken lanes. -/
  | call (o : BitVec 21)
  /-- JMPR (R92): Jumps to each lane's target in register a, grouping lanes by target. -/
  | jmpr (a : BitVec 7)
  /-- CALLR (R92): Calls each lane's target in register a and writes the link to o7 in taken lanes. -/
  | callr (a : BitVec 7)
  /-- LOOP (R106): Opens a zero-overhead loop with a count from register c, or skips the body when the count is not positive. -/
  | loop (c : BitVec 7) (n : BitVec 14)
  /-- LOOPI (R106): Opens a zero-overhead loop with an immediate count. -/
  | loopi (i : BitVec 11) (n : BitVec 14)
  /-- LBRK (R108): Pops the innermost live loop level and continues as though its count had reached zero. -/
  | lbrk
  /-- TRAP (R97): Raises TRP with TADDR holding the immediate when the guard is true in some active lane. -/
  | trap (i : BitVec 18)
  /-- PAND (R104): Predicate AND of two predicates with optional inversion. -/
  | pand (d : BitVec 3) (t : BitVec 1) (a : BitVec 3) (u : BitVec 1) (b : BitVec 3)
  /-- POR (R104): Predicate OR. -/
  | por (d : BitVec 3) (t : BitVec 1) (a : BitVec 3) (u : BitVec 1) (b : BitVec 3)
  /-- PXOR (R104): Predicate XOR. -/
  | pxor (d : BitVec 3) (t : BitVec 1) (a : BitVec 3) (u : BitVec 1) (b : BitVec 3)
  /-- PANDN (R104): Predicate a AND NOT b. -/
  | pandn (d : BitVec 3) (t : BitVec 1) (a : BitVec 3) (u : BitVec 1) (b : BitVec 3)
  /-- PNOT (R104): Predicate NOT. -/
  | pnot (d : BitVec 3) (t : BitVec 1) (a : BitVec 3)
  /-- PMOV (R104): Predicate move. -/
  | pmov (d : BitVec 3) (t : BitVec 1) (a : BitVec 3)
  /-- PANY (R104): Uniform predicate: true if the source is true in some governed item. -/
  | pany (d : BitVec 3) (t : BitVec 1) (a : BitVec 3)
  /-- PALL (R104): Uniform predicate: true if the source is true in every governed item. -/
  | pall (d : BitVec 3) (t : BitVec 1) (a : BitVec 3)
  /-- PCNT (R104): Writes the uniform count of governed items where the predicate is true. -/
  | pcnt (d : BitVec 7) (t : BitVec 1) (a : BitVec 3)
  /-- PMASK (R104): Writes a uniform 32-bit lane mask of the predicate over governed lanes. -/
  | pmask (d : BitVec 7) (t : BitVec 1) (a : BitVec 3)
  /-- PFROM (R104): Sets the predicate in lane i from bit i of lane i's register value. -/
  | pfrom (d : BitVec 3) (a : BitVec 7)
  /-- CMP (R101): Compares two registers under a condition and ET, writing a predicate. -/
  | cmp (k : BitVec 4) (d : BitVec 3) (a : BitVec 7) (b : BitVec 7)
  /-- CMPI (R102): Compares a register with an immediate under a condition, writing a predicate. -/
  | cmpi (k : BitVec 4) (d : BitVec 3) (a : BitVec 7) (i : BitVec 11)
  /-- FORM (R164): Copies a value giving it the narrowest form (U, P or L) that holds it. -/
  | form (d : BitVec 7) (a : BitVec 7)
  /-- MATL (R165): Copies a value in L form, materializing a pattern cut first. -/
  | matl (d : BitVec 7) (a : BitVec 7)
  /-- PGET (R166): Writes a uniform description of a register's stored form: base, a stride or form code. -/
  | pget (d : BitVec 7) (a : BitVec 7) (b : BitVec 7)
  /-- PMAKE (R167): Sets a predicate where an index register lies in [lo, hi). -/
  | pmake (k : BitVec 2) (d : BitVec 3) (a : BitVec 7) (b : BitVec 7)
  /-- KILL (R168): Sets a register range to uniform zero and masked predicates to uniform false after their pending writes. -/
  | kill (m : BitVec 7) (a : BitVec 7) (b : BitVec 7)
  /-- CUTID (R169): Writes the cut's CUTID value. -/
  | cutid (d : BitVec 7)
  /-- PARID (R169): Writes the parent lane cut's identifier for a fragment or stray, else the cut's own. -/
  | parid (d : BitVec 7)
  /-- CUTBOX (R169): Writes a selected description of the cut's active items and bounding box. -/
  | cutbox (d : BitVec 7) (b : BitVec 7)
  /-- ADD (R112): Integer add. -/
  | add (d : BitVec 7) (a : BitVec 7) (b : BitVec 7)
  /-- SUB (R112): Integer subtract. -/
  | sub (d : BitVec 7) (a : BitVec 7) (b : BitVec 7)
  /-- AND (R112): Bitwise AND. -/
  | and (d : BitVec 7) (a : BitVec 7) (b : BitVec 7)
  /-- OR (R112): Bitwise OR. -/
  | or (d : BitVec 7) (a : BitVec 7) (b : BitVec 7)
  /-- XOR (R112): Bitwise XOR. -/
  | xor (d : BitVec 7) (a : BitVec 7) (b : BitVec 7)
  /-- ANDN (R112): Bitwise a AND NOT b. -/
  | andn (d : BitVec 7) (a : BitVec 7) (b : BitVec 7)
  /-- SHL (R112): Shift left. -/
  | shl (d : BitVec 7) (a : BitVec 7) (b : BitVec 7)
  /-- SHR (R112): Logical shift right. -/
  | shr (d : BitVec 7) (a : BitVec 7) (b : BitVec 7)
  /-- SAR (R112): Arithmetic shift right. -/
  | sar (d : BitVec 7) (a : BitVec 7) (b : BitVec 7)
  /-- ROL (R112): Rotate left. -/
  | rol (d : BitVec 7) (a : BitVec 7) (b : BitVec 7)
  /-- MIN (R112): Signed minimum. -/
  | min (d : BitVec 7) (a : BitVec 7) (b : BitVec 7)
  /-- MAX (R112): Signed maximum. -/
  | max (d : BitVec 7) (a : BitVec 7) (b : BitVec 7)
  /-- MINU (R112): Unsigned minimum. -/
  | minu (d : BitVec 7) (a : BitVec 7) (b : BitVec 7)
  /-- MAXU (R112): Unsigned maximum. -/
  | maxu (d : BitVec 7) (a : BitVec 7) (b : BitVec 7)
  /-- ABSD (R112): Absolute difference written unsigned. -/
  | absd (d : BitVec 7) (a : BitVec 7) (b : BitVec 7)
  /-- NEG (R112): Integer negate. -/
  | neg (d : BitVec 7) (a : BitVec 7)
  /-- MUL (R113): Integer multiply, wrapped. -/
  | mul (d : BitVec 7) (a : BitVec 7) (b : BitVec 7)
  /-- MULHI (R113): High half of the signed product. -/
  | mulhi (d : BitVec 7) (a : BitVec 7) (b : BitVec 7)
  /-- MULHIU (R113): High half of the unsigned product. -/
  | mulhiu (d : BitVec 7) (a : BitVec 7) (b : BitVec 7)
  /-- MULW (R113): Exact signed widening multiply. -/
  | mulw (d : BitVec 7) (a : BitVec 7) (b : BitVec 7)
  /-- MULWU (R113): Exact unsigned widening multiply. -/
  | mulwu (d : BitVec 7) (a : BitVec 7) (b : BitVec 7)
  /-- CLZ (R114): Leading zero count. -/
  | clz (d : BitVec 7) (a : BitVec 7)
  /-- CTZ (R114): Trailing zero count. -/
  | ctz (d : BitVec 7) (a : BitVec 7)
  /-- POPC (R114): Population count. -/
  | popc (d : BitVec 7) (a : BitVec 7)
  /-- BREV (R114): Bit reverse. -/
  | brev (d : BitVec 7) (a : BitVec 7)
  /-- BSWAP (R114): Byte swap. -/
  | bswap (d : BitVec 7) (a : BitVec 7)
  /-- BFE (R114): Signed bit-field extract. -/
  | bfe (d : BitVec 7) (a : BitVec 7) (b : BitVec 7)
  /-- BFEU (R114): Unsigned bit-field extract. -/
  | bfeu (d : BitVec 7) (a : BitVec 7) (b : BitVec 7)
  /-- BFI (R114): Bit-field insert into d. -/
  | bfi (d : BitVec 7) (a : BitVec 7) (b : BitVec 7)
  /-- ADDW (R115): Exact signed widening add. -/
  | addw (d : BitVec 7) (a : BitVec 7) (b : BitVec 7)
  /-- ADDWU (R115): Exact unsigned widening add. -/
  | addwu (d : BitVec 7) (a : BitVec 7) (b : BitVec 7)
  /-- SUBW (R115): Exact widening subtract. -/
  | subw (d : BitVec 7) (a : BitVec 7) (b : BitVec 7)
  /-- ACCW (R115): Adds a narrow signed value to a wide accumulator. -/
  | accw (d : BitVec 7) (a : BitVec 7) (b : BitVec 7)
  /-- ACCWU (R115): Adds a narrow unsigned value to a wide accumulator. -/
  | accwu (d : BitVec 7) (a : BitVec 7) (b : BitVec 7)
  /-- SATADD (R115): Saturating add. -/
  | satadd (d : BitVec 7) (a : BitVec 7) (b : BitVec 7)
  /-- SATSUB (R115): Saturating subtract. -/
  | satsub (d : BitVec 7) (a : BitVec 7) (b : BitVec 7)
  /-- NARROW (R115): Narrows a 2w-bit value to ET, saturating or wrapping by SAT. -/
  | narrow (d : BitVec 7) (a : BitVec 7)
  /-- SEXT (R115): Sign-extends to 64 bits. -/
  | sext (d : BitVec 7) (a : BitVec 7)
  /-- ZEXT (R115): Zero-extends to 64 bits. -/
  | zext (d : BitVec 7) (a : BitVec 7)
  /-- MOV (R115): Copies all 64 bits with the form. -/
  | mov (d : BitVec 7) (a : BitVec 7)
  /-- SEL (R115): Selects a or b per lane by the predicate MODE.FP names. -/
  | sel (d : BitVec 7) (a : BitVec 7) (b : BitVec 7)
  /-- ADDI (R116): Add immediate. -/
  | addi (d : BitVec 7) (a : BitVec 7) (i : BitVec 11)
  /-- ANDI (R116): AND immediate. -/
  | andi (d : BitVec 7) (a : BitVec 7) (i : BitVec 11)
  /-- ORI (R116): OR immediate. -/
  | ori (d : BitVec 7) (a : BitVec 7) (i : BitVec 11)
  /-- XORI (R116): XOR immediate. -/
  | xori (d : BitVec 7) (a : BitVec 7) (i : BitVec 11)
  /-- SHLI (R116): Shift left by immediate. -/
  | shli (d : BitVec 7) (a : BitVec 7) (i : BitVec 11)
  /-- SHRI (R116): Logical shift right by immediate. -/
  | shri (d : BitVec 7) (a : BitVec 7) (i : BitVec 11)
  /-- SARI (R116): Arithmetic shift right by immediate. -/
  | sari (d : BitVec 7) (a : BitVec 7) (i : BitVec 11)
  /-- MULI (R116): Multiply by immediate. -/
  | muli (d : BitVec 7) (a : BitVec 7) (i : BitVec 11)
  /-- MOVX (R117): Shifts d left 18 bits and ORs in the unsigned immediate. -/
  | movx (d : BitVec 7) (i : BitVec 18)
  /-- MOVI (R117): Writes the sign-extended 18-bit immediate. -/
  | movi (d : BitVec 7) (i : BitVec 18)
  /-- DIV (R118): Signed long-latency divide: quotient to d and l0, remainder to l1. -/
  | div (l : BitVec 4) (d : BitVec 7) (a : BitVec 7) (b : BitVec 7)
  /-- DIVU (R118): Unsigned long-latency divide. -/
  | divu (l : BitVec 4) (d : BitVec 7) (a : BitVec 7) (b : BitVec 7)
  /-- FADD (R151): Floating add rounded once. -/
  | fadd (d : BitVec 7) (a : BitVec 7) (b : BitVec 7)
  /-- FSUB (R151): Floating subtract. -/
  | fsub (d : BitVec 7) (a : BitVec 7) (b : BitVec 7)
  /-- FMUL (R151): Floating multiply. -/
  | fmul (d : BitVec 7) (a : BitVec 7) (b : BitVec 7)
  /-- FMIN (R151): Floating minimum, NaN if either input is NaN. -/
  | fmin (d : BitVec 7) (a : BitVec 7) (b : BitVec 7)
  /-- FMAX (R151): Floating maximum, NaN if either input is NaN. -/
  | fmax (d : BitVec 7) (a : BitVec 7) (b : BitVec 7)
  /-- FMINN (R151): Floating minimum returning the number when one input is NaN. -/
  | fminn (d : BitVec 7) (a : BitVec 7) (b : BitVec 7)
  /-- FMAXN (R151): Floating maximum returning the number when one input is NaN. -/
  | fmaxn (d : BitVec 7) (a : BitVec 7) (b : BitVec 7)
  /-- FABS (R151): Clears the sign bit. -/
  | fabs (d : BitVec 7) (a : BitVec 7)
  /-- FNEG (R151): Inverts the sign bit. -/
  | fneg (d : BitVec 7) (a : BitVec 7)
  /-- FCPSGN (R151): Copies the sign of b onto a. -/
  | fcpsgn (d : BitVec 7) (a : BitVec 7) (b : BitVec 7)
  /-- FCLASS (R152): Writes the 10-bit class mask of a. -/
  | fclass (d : BitVec 7) (a : BitVec 7)
  /-- FRND (R151): Rounds to an integer value under RM. -/
  | frnd (d : BitVec 7) (a : BitVec 7)
  /-- FFRAC (R151): Exact fractional part. -/
  | ffrac (d : BitVec 7) (a : BitVec 7)
  /-- FSCALE (R151): Multiplies by 2 to the integer in b, rounded. -/
  | fscale (d : BitVec 7) (a : BitVec 7) (b : BitVec 7)
  /-- FEXPO (R152): Writes floor(log2|a|) as i64. -/
  | fexpo (d : BitVec 7) (a : BitVec 7)
  /-- TWOSUM (R153): Rounded sum to d and l0, exact error to l1. -/
  | twosum (d : BitVec 7) (a : BitVec 7) (b : BitVec 7)
  /-- FCVT (R155): Converts from the fn4 source type to ET. -/
  | fcvt (t : BitVec 4) (d : BitVec 7) (a : BitVec 7)
  /-- F2I (R156): Float to i64. -/
  | f2i (d : BitVec 7) (a : BitVec 7)
  /-- F2U (R156): Float to n64. -/
  | f2u (d : BitVec 7) (a : BitVec 7)
  /-- I2F (R156): i64 to float. -/
  | i2f (d : BitVec 7) (a : BitVec 7)
  /-- U2F (R156): n64 to float. -/
  | u2f (d : BitVec 7) (a : BitVec 7)
  /-- FRCP (R157): Correctly rounded reciprocal. -/
  | frcp (l : BitVec 4) (d : BitVec 7) (a : BitVec 7)
  /-- FRSQ (R157): Correctly rounded reciprocal square root. -/
  | frsq (l : BitVec 4) (d : BitVec 7) (a : BitVec 7)
  /-- FSQRT (R157): Correctly rounded square root. -/
  | fsqrt (l : BitVec 4) (d : BitVec 7) (a : BitVec 7)
  /-- FEXP2 (R157): Correctly rounded 2^x. -/
  | fexp2 (l : BitVec 4) (d : BitVec 7) (a : BitVec 7)
  /-- FLOG2 (R157): Correctly rounded log2. -/
  | flog2 (l : BitVec 4) (d : BitVec 7) (a : BitVec 7)
  /-- FSIN (R157): Correctly rounded sine. -/
  | fsin (l : BitVec 4) (d : BitVec 7) (a : BitVec 7)
  /-- FCOS (R157): Correctly rounded cosine. -/
  | fcos (l : BitVec 4) (d : BitVec 7) (a : BitVec 7)
  /-- FDIV (R157): Correctly rounded division. -/
  | fdiv (l : BitVec 4) (d : BitVec 7) (a : BitVec 7) (b : BitVec 7)
  /-- SHFL (R160): Reads a from the lane named by b. -/
  | shfl (d : BitVec 7) (a : BitVec 7) (b : BitVec 7)
  /-- SHFLX (R160): Reads a from lane i xor b. -/
  | shflx (d : BitVec 7) (a : BitVec 7) (b : BitVec 7)
  /-- SHFLU (R160): Reads a from lane i minus k. -/
  | shflu (d : BitVec 7) (a : BitVec 7) (b : BitVec 7)
  /-- SHFLD (R160): Reads a from lane i plus k. -/
  | shfld (d : BitVec 7) (a : BitVec 7) (b : BitVec 7)
  /-- BCAST (R160): Broadcasts a from the lane named by uniform b. -/
  | bcast (d : BitVec 7) (a : BitVec 7) (b : BitVec 7)
  /-- VOTE (R160): Writes the mask of governed active lanes whose a is nonzero. -/
  | vote (d : BitVec 7) (a : BitVec 7)
  /-- COMPACT (R160): Packs the governed lanes' values into the low lanes. -/
  | compact (d : BitVec 7) (a : BitVec 7)
  /-- LIDX (R160): Writes each lane's index. -/
  | lidx (d : BitVec 7)
  /-- RED (R161): Reduces the 32 lanes in the fixed tree of R70. -/
  | red (l : BitVec 4) (d : BitVec 7) (a : BitVec 7) (b : BitVec 7)
  /-- SCAN (R161): Prefix scan over lanes in the Kogge-Stone order of R71. -/
  | scan (l : BitVec 4) (d : BitVec 7) (a : BitVec 7) (b : BitVec 7)
  /-- DP4 (R162): Exact dot product over groups of four lanes, signed or floating. -/
  | dp4 (d : BitVec 7) (a : BitVec 7) (b : BitVec 7)
  /-- DP4U (R162): Unsigned dot product over groups of four lanes. -/
  | dp4u (d : BitVec 7) (a : BitVec 7) (b : BitVec 7)
  /-- DP2 (R162): Exact dot product over lane pairs. -/
  | dp2 (d : BitVec 7) (a : BitVec 7) (b : BitVec 7)
  /-- LD (R129): Loads through L1, with checks, absent and errored lanes under LF. -/
  | ld (l : BitVec 4) (d : BitVec 7) (a : BitVec 7) (b : BitVec 7)
  /-- ST (R134): Stores the low w bits of each lane through L1 to the home. -/
  | st (d : BitVec 7) (a : BitVec 7) (b : BitVec 7)
  /-- LDB (R129): Loads from the home L2 slice, bypassing L1. -/
  | ldb (l : BitVec 4) (d : BitVec 7) (a : BitVec 7) (b : BitVec 7)
  /-- LDA (R129): Acquire load at scope SC, flash-invalidating L1 at bench scope or wider. -/
  | lda (l : BitVec 4) (d : BitVec 7) (a : BitVec 7) (b : BitVec 7)
  /-- STL (R134): Release store at scope SC. -/
  | stl (d : BitVec 7) (a : BitVec 7) (b : BitVec 7)
  /-- LDT (R132): Transposed load with a per-lane stride. -/
  | ldt (l : BitVec 4) (d : BitVec 7) (a : BitVec 7) (b : BitVec 7)
  /-- LDS (R205): Loads from the crew's scratch space. -/
  | lds (l : BitVec 4) (d : BitVec 7) (a : BitVec 7) (b : BitVec 7)
  /-- STS (R205): Stores to the crew's scratch space. -/
  | sts (d : BitVec 7) (a : BitVec 7) (b : BitVec 7)
  /-- ATOM (R139): Atomic of MODE.AOP at the home, returning the old value. -/
  | atom (l : BitVec 4) (d : BitVec 7) (a : BitVec 7) (b : BitVec 7)
  /-- ARED (R139): Atomic update returning nothing. -/
  | ared (a : BitVec 7) (b : BitVec 7)
  /-- PGREQ (R143): Requests residency of the pages of governed lanes and writes per-lane status. -/
  | pgreq (l : BitVec 4) (d : BitVec 7) (a : BitVec 7)
  /-- PGWAIT (R144): Blocks until pages are resident, replay-all, or the page-wait limit, then writes residency. -/
  | pgwait (d : BitVec 7) (a : BitVec 7)
  /-- PGTEST (R145): Writes per-lane page residency without blocking. -/
  | pgtest (d : BitVec 7) (a : BitVec 7)
  /-- PREF (R142): Asks for a line to be brought to L2 and possibly L1; never faults. -/
  | pref (a : BitVec 7) (b : BitVec 7)
  /-- SALLOC (R207): Makes a range of scratch pages resident, returning how many. -/
  | salloc (d : BitVec 7) (a : BitVec 7) (b : BitVec 7)
  /-- SFREE (R207): Makes a range of scratch pages ZERO and frees their frames. -/
  | sfree (a : BitVec 7) (b : BitVec 7)
  /-- SPIN (R207): Pins a range of scratch pages if frames allow, returning success. -/
  | spin (d : BitVec 7) (a : BitVec 7) (b : BitVec 7)
  /-- SUNPIN (R207): Lowers the pin counts of a range of scratch pages. -/
  | sunpin (a : BitVec 7) (b : BitVec 7)
  /-- SPGQ (R208): Queries a scratch page state, the space handle, length or RES count. -/
  | spgq (d : BitVec 7) (a : BitVec 7) (b : BitVec 7)
  /-- LDM (R133): Loads k consecutive elements into k registers. -/
  | ldm (l : BitVec 4) (d : BitVec 7) (a : BitVec 7) (b : BitVec 7)
  /-- STM (R134): Stores k consecutive registers. -/
  | stm (d : BitVec 7) (a : BitVec 7) (b : BitVec 7)
  /-- FENCE (R181): Opens a release, acquire or full fence, optionally covering Mill commands and engine jobs, and writes its token. -/
  | fence (e : BitVec 1) (f : BitVec 1) (k : BitVec 2) (d : BitVec 7)
  /-- FWAIT (R184): Blocks until a token's fence completes, frees its slot, and delivers late faults. -/
  | fwait (a : BitVec 7)
  /-- FTEST (R185): Writes whether a token's fence has completed, freeing the slot if so. -/
  | ftest (d : BitVec 7) (a : BitVec 7)
  /-- BAR (R216): Arrives at a crew barrier and blocks until the phase completes. -/
  | bar (a : BitVec 7)
  /-- BARA (R216): Arrives at a crew barrier and writes a phase token without blocking. -/
  | bara (d : BitVec 7) (a : BitVec 7)
  /-- BARW (R216): Blocks until the phase a barrier token names has completed. -/
  | barw (a : BitVec 7)
  /-- CNEW (R213): Creates a crew with a capacity and scratch space, the cut its first member. -/
  | cnew (d : BitVec 7) (a : BitVec 7)
  /-- CJOIN (R214): Adds the cut to a crew, moving it to the crew's Bench, and writes a status. -/
  | cjoin (d : BitVec 7) (a : BitVec 7)
  /-- CLEAVE (R214): Removes the cut's items from its crew; the crew ends when none remain. -/
  | cleave
  /-- CSIZE (R215): Writes the number of live member items of the crew. -/
  | csize (d : BitVec 7)
  /-- CRANK (R215): Writes each item's rank among the crew's live member items. -/
  | crank (d : BitVec 7)
  /-- ROLE (R218): Switches the cut to a declared role's allotment, class and entry point. -/
  | role (a : BitVec 7)
  /-- QBIND (R219): Binds a q register to a chute's pop or push end. -/
  | qbind (d : BitVec 7) (a : BitVec 7) (b : BitVec 7)
  /-- QUNBIND (R219): Removes a q register's binding. -/
  | qunbind (d : BitVec 7)
  /-- QCNT (R220): Writes a chute's entry count. -/
  | qcnt (d : BitVec 7) (a : BitVec 7)
  /-- QCLOSE (R220): Closes a chute from its push end, or discards and closes from its pop end. -/
  | qclose (d : BitVec 7)
  /-- SBIND (R222): Binds a q register to a stream of the cut's crew. -/
  | sbind (d : BitVec 7) (a : BitVec 7)
  /-- SREL (R222): Returns credits to a stream. -/
  | srel (d : BitVec 7) (a : BitVec 7)
  /-- SCNT (R222): Writes the number of stream entries ready to pop. -/
  | scnt (d : BitVec 7) (a : BitVec 7)
  /-- CPY (R226): Issues a linear Carter copy job per distinct card pointer. -/
  | cpy (l : BitVec 4) (a : BitVec 7)
  /-- CPYT (R226): Issues a tile Carter copy job per distinct card pointer. -/
  | cpyt (l : BitVec 4) (a : BitVec 7)
  /-- CPYM (R226): Issues a multicast copy job toward a Bench's quadrants. -/
  | cpym (l : BitVec 4) (a : BitVec 7) (m : BitVec 14)
  /-- CWAIT (R230): Blocks until a counter reaches a value, then acquires at SC. -/
  | cwait (l : BitVec 4) (d : BitVec 7) (a : BitVec 7) (b : BitVec 7)
  /-- CADD (R230): Adds to a counter as ARED does, as a release at SC. -/
  | cadd (a : BitVec 7) (b : BitVec 7)
  /-- EVWAIT (R231): Pops the oldest event record, blocking on an empty queue. -/
  | evwait (d : BitVec 7)
  /-- EVPEEK (R231): Returns the oldest event record without popping it, or 0. -/
  | evpeek (d : BitVec 7)
  /-- COLL (R294): Checks a collective card and starts the operation on a communicator, writing a ticket. -/
  | coll (l : BitVec 4) (d : BitVec 7) (a : BitVec 7) (b : BitVec 7)
  /-- CSTAT (R300): Returns a collective's status word, testing or waiting for its ending. -/
  | cstat (d : BitVec 7) (a : BitVec 7) (b : BitVec 7)
  /-- CABORT (R301): Reports CANCEL for a pending collective. -/
  | cabort (a : BitVec 7)
  /-- LAUNCH (R331): Enqueues a child launch entry on a queue of the issuing virtual function. -/
  | launch (l : BitVec 4) (d : BitVec 7) (a : BitVec 7) (b : BitVec 7)
  /-- MLD (R248): Loads a 16x16 tile into an accumulator. -/
  | mld (d : BitVec 7) (a : BitVec 7) (b : BitVec 7)
  /-- MWB (R255): Asks for B tiles to be brought into the weight buffer. -/
  | mwb (a : BitVec 7) (b : BitVec 7)
  /-- MMA (R243): Queues a tile matrix multiply-accumulate on the Loom, taking a power token. -/
  | mma (d : BitVec 7) (a : BitVec 7) (b : BitVec 7)
  /-- MMAP (R246): Queues a pair-fused product into two accumulators with a follower Loom. -/
  | mmap (a : BitVec 7) (m : BitVec 14)
  /-- MZERO (R247): Zeroes an accumulator and sets its kind. -/
  | mzero (d : BitVec 7)
  /-- MDRN (R249): Queues a drain of an accumulator pair into a D tile. -/
  | mdrn (d : BitVec 7) (a : BitVec 7) (b : BitVec 7)
  /-- MSTAT (R250): Waits for an accumulator's operations and writes its status. -/
  | mstat (d : BitVec 7) (a : BitVec 7)
  /-- MTEST (R258): Runs the Loom self-test at once and writes the number of first-pass failures. -/
  | mtest (d : BitVec 7)
  /-- MFENCED (R258): Writes the mask of fenced sub-arrays. -/
  | mfenced (d : BitVec 7)
  /-- THMAKE (R240): Makes a tile handle or stream handle. -/
  | thmake (d : BitVec 7) (a : BitVec 7) (b : BitVec 7)
  /-- THOFF (R240): Writes the object pointer of a tile's element (0,0). -/
  | thoff (d : BitVec 7) (a : BitVec 7)
  /-- THSHAPE (R240): Writes a tile's unclipped extents. -/
  | thshape (d : BitVec 7) (a : BitVec 7)
  /-- MSECT (R272): Opens a Mill section or begins its next attempt. -/
  | msect (w : BitVec 4) (a : BitVec 7)
  /-- MCOMMIT (R274): Waits for the attempt's reads and offers it to the Assay unit. -/
  | mcommit (l : BitVec 4) (d : BitVec 7)
  /-- MSEND (R261): Sends Mill commands per distinct card pointer to a Mill. -/
  | msend (l : BitVec 4) (a : BitVec 7) (m : BitVec 14)
  /-- MRCNT (R280): Writes the cut's replay counts. -/
  | mrcnt (d : BitVec 7)
  /-- MSIG (R278): Writes a 64-bit word of a section signature. -/
  | msig (d : BitVec 7) (a : BitVec 7) (b : BitVec 7)
  /-- MSTATE (R279): Writes the cut's section state word. -/
  | mstate (d : BitVec 7)
  /-- MESC (R281): Reads escalation counts, or forces a flushed attempt or a return trap. -/
  | mesc (d : BitVec 7) (a : BitVec 7)
  /-- CSRR (R346): Reads a CSR. -/
  | csrr (d : BitVec 7) (i : BitVec 11)
  /-- CSRW (R346): Writes a CSR where permitted. -/
  | csrw (a : BitVec 7) (i : BitVec 11)
  /-- TRET (R348): Returns from the trap handler, replaying or resuming after TPC. -/
  | tret
  /-- FLAGS (R347): Returns TCAUSE and sets the bits in a. -/
  | flags (d : BitVec 7) (a : BitVec 7)
  /-- FLAGC (R347): Returns TCAUSE and clears the bits in a. -/
  | flagc (d : BitVec 7) (a : BitVec 7)
  /-- TLBINV (R349): Drops TLB entries of an address space or page everywhere and waits until complete. -/
  | tlbinv (a : BitVec 7) (b : BitVec 7)
  /-- SCRINV (R349): Writes back and drops scratch translations of an address space on Benches. -/
  | scrinv (a : BitVec 7) (b : BitVec 7)
  /-- CLOCK (R350): Writes the cycle count since device reset. -/
  | clock (d : BitVec 7)
  /-- PERF (R350): Reads a leased profiling counter. -/
  | perf (d : BitVec 7) (a : BitVec 7)
  /-- FMA (R154): Fused multiply-add rounded once. -/
  | fma (d : BitVec 7) (a : BitVec 7) (b : BitVec 7) (c : BitVec 7)
  /-- FNMA (R154): Fused c minus a times b rounded once. -/
  | fnma (d : BitVec 7) (a : BitVec 7) (b : BitVec 7) (c : BitVec 7)
  /-- MADW (R119): Widening integer multiply-add. -/
  | madw (d : BitVec 7) (a : BitVec 7) (b : BitVec 7) (c : BitVec 7)
  /-- MADL (R119): Integer multiply-add kept in ET. -/
  | madl (d : BitVec 7) (a : BitVec 7) (b : BitVec 7) (c : BitVec 7)
  /-- CUT_QUEUE_ISSUE (R24): A queued lane cut becomes resident when a quadrant slot frees, in ascending identifier order. -/
  | cutQueueIssue (bench quad : Nat)
  /-- REJOIN (R26): Siblings waiting at a SEAM rejoin once every sibling has exited, reached a SEAM or entered a trap. -/
  | rejoin (uid : Nat)
  /-- SEAM_WAIT_LIMIT (R174): 64 cycles after the first arrival the seam wait ends and waiting cuts are grouped into pattern cuts. -/
  | seamWaitLimit (lid : Nat) (pc : W64)
  /-- SEAM_WAIT_END (R174): When every live cut of the launch waits at the SEAM or has exited, the wait ends and groups form. -/
  | seamWaitEnd (lid : Nat) (pc : W64)
  /-- YIELD_EXPIRY (R94): A yielded cut becomes eligible again after 16 cycles with no other issue. -/
  | yieldExpiry (uid : Nat)
  /-- QUANTUM_END (R38): When every resident cut has retired Q instructions, exited or blocked, the quantum commits, seams and takes pre-emption. -/
  | quantumEnd (lid : Nat)
  /-- TRAP_ENTRY (R338): After outstanding results arrive, trap CSRs are written and the cut enters its handler. -/
  | trapEntry (uid : Nat)
  /-- HOME_WRITE (R190): A store or atomic performs at its home slice and takes its place in coherence order. -/
  | homeWrite (id : Nat)
  /-- LATE_STORE_FAULT (R128): A write fails at its home after issue checks passed and is held as a late fault of the issuing cut. -/
  | lateStoreFault (id : Nat)
  /-- PAGE_IN (R204): The pager brings a faulting instruction's scratch pages into frames, then the instruction executes again, or SPF is raised. -/
  | pageIn (uid : Nat)
  /-- CREW_MOVE (R209): A crew's members stop, its space is written back and moved, pinned pages paged in, and members resume. -/
  | crewMove (key bench : Nat)
  /-- SCRATCH_WRITE_DELIVERY (R210): A Carter or multicast write reaches a scratch space or is discarded and counted in SDROP. -/
  | scratchWriteDelivery (id : Nat)
  /-- JOB_START (R222): A Carter job starts once its edges clear and a stream credit is free. -/
  | jobStart (id : Nat)
  /-- JOB_COMPLETION (R229): A job's writes have performed; stream push, event record and counter add follow in order. -/
  | jobCompletion (id : Nat)
  /-- EVENT_POST (R231): A posted event record enters the crew's event queue once there is room, and the counter add follows. -/
  | eventPost (key : Nat)
  /-- JOB_FAILURE (R228): A job whose page stays absent past the page-wait limit fails and completes with a failure status. -/
  | jobFailure (id : Nat)
  /-- PAGE_WAIT_LIMIT (R144): The partition's page-wait limit passes and a waiting PGWAIT ends. -/
  | pageWaitLimit (uid : Nat)
  /-- LOOM_STEP (R243): The sequencer runs one 32-deep step of an MMA or MMAP, popping a stream entry if needed. -/
  | loomStep (loom : Nat)
  /-- LOOM_DRAIN (R249): The sequencer drains an accumulator pair into a D tile with optional block scales. -/
  | loomDrain (loom : Nat)
  /-- SELF_TEST (R257): After an MMA or MMAP retires, a self-test runs; failures are counted, fence sub-arrays or take the Loom out of service. -/
  | selfTest (loom : Nat) (first second : BitVec 16)
  /-- MILL_CUT_START (R262): A Mill takes the next queued command and starts its Mill cut. -/
  | millCutStart (mill : Nat)
  /-- ASSAY_COMMIT (R274): The Assay unit takes a waiting commit, tests signatures, and drains or discards the attempt. -/
  | assayCommit (stack : Nat)
  /-- FLUSHED_ATTEMPT_START (R276): A flushed attempt is admitted when no other of its stack runs and its sectors are written back. -/
  | flushedAttemptStart (stack : Nat)
  /-- FLUSHED_LIMIT (R276): A flushed attempt exceeding 65536 unfrozen cycles ends with a return trap. -/
  | flushedLimit (uid : Nat)
  /-- RETURNED_CUT_RESUME (R266): A returned Mill cut forms a crew of one on the home Bench and resumes as a lane cut. -/
  | returnedCutResume (uid : Nat)
  /-- REFRESH_START (R267): Refresh of a bank the Mill has open freezes the Mill's pipeline. -/
  | refreshStart (mill : Nat)
  /-- REFRESH_END (R267): At refresh end the Mill reactivates its rows and continues. -/
  | refreshEnd (mill : Nat)
  /-- CHUNK_ARRIVAL (R292): A collective data chunk arrives from a rank and is folded or written under the schedule. -/
  | chunkArrival (cid seq rank off : Nat) (bytes : List Byte)
  /-- CONTROL_FLIT (R295): Rank 0 receives a member's card fields and compares them, reporting MISMATCH if they differ. -/
  | controlFlit (cid seq rank : Nat) (fields : List Nat)
  /-- COMPLETION_NOTICE (R292): A member of a reduce receives ROOT's completion notice and ends done. -/
  | completionNotice (cid seq : Nat)
  /-- COLLECTIVE_DEADLINE (R295): An operation's deadline passes while waiting for data and the member reports TIMEOUT. -/
  | collectiveDeadline (cid seq : Nat)
  /-- ABORT_REPORT (R298): A member receives a report, stops its schedule and sends its own report to rank 0. -/
  | abortReport (cid seq rank reason failrank : Nat)
  /-- ARBITER_WORD (R298): A member receives the arbiter's status word and ends with it. -/
  | arbiterWord (cid seq : Nat) (word : W64)
  /-- AGREEMENT_WINDOW_EXPIRY (R298): AGW passes at the arbiter, which chooses the least report and sends the word. -/
  | agreementWindowExpiry (cid seq : Nat)
  /-- ISOLATED_ENDING (R298): AGW passes at a member with no arbiter word; it ends with its own report, ISOLATED set. -/
  | isolatedEnding (cid seq : Nat)
  /-- REMOTE_REQUEST (R363): An access from another device arrives and is translated and performed here. -/
  | remoteRequest (kind asid obj off et aop : Nat) (data : List Byte)
  /-- REMOTE_REPLY (R363): A remote access's reply arrives: performed or refused. -/
  | remoteReply (id : Nat) (performed : Bool) (data : List Byte)
  /-- REMOTE_DEADLINE (R296): A remote access gets no reply by the remote deadline and TMO follows. -/
  | remoteDeadline (id : Nat)
  /-- LINK_DOWN (R381): A link goes down after 16 failed resends of one flit. -/
  | linkDown (link : Nat)
  /-- RETRAIN (R383): Writing RETRAIN in LKCTL trains the link. -/
  | retrain (link : Nat) (success : Bool)
  /-- HOST_WRITE (R322): A host write over the attach performs at its home in issue order. -/
  | hostWrite (asid : Nat) (ptr : W64) (bytes : List Byte)
  /-- HOST_READ (R322): A host read of device memory as an object of the issuing context. -/
  | hostRead (asid : Nat) (ptr : W64) (len : Nat)
  /-- DEVICE_RESET (R335): Device reset clears state; slot GENs and health state return to reset values. -/
  | deviceReset
  /-- QTAIL_WRITE (R323): The driver advances a queue's tail, ignored with OVF set if too far ahead of QHEAD. -/
  | qtailWrite (queue : Nat) (v : W64)
  /-- ENTRY_TAKE (R324): The device takes a queue entry in ring order, reads it and its patch block, and advances QHEAD. -/
  | entryTake (queue : Nat)
  /-- ADMISSION (R329): A record is checked in order, its parameters copied, and the launch admitted or rejected. -/
  | admission (queue : Nat)
  /-- ADMISSION_WAIT_LIMIT (R329): WAITLIM passes while admission waits for a page, and the launch is rejected with reason 2. -/
  | admissionWaitLimit (queue : Nat)
  /-- PRE_MIGRATION (R328): The scheduler indivisibly moves a resident page of a declared range to a stack of the placement. -/
  | preMigration (lid range page frame : Nat)
  /-- DISPATCH (R16): After pre-migration the launch begins as one bolt in its entry state. -/
  | dispatch (lid : Nat)
  /-- LAUNCH_COMPLETION (R330): When cuts, commands, jobs and collectives have ended, the completion record is written and the interrupt sent. -/
  | launchCompletion (lid : Nat)
  /-- SLICE_END (R380): Every SLICE the budgets are credited, exhausted launches and a starved context are pre-empted. -/
  | sliceEnd (part : Nat)
  /-- DRAIN_DEADLINE (R352): A drain not ended by PDL/2 saves its remaining cuts. -/
  | drainDeadline (part : Nat)
  /-- PREEMPTION_DEADLINE (R352): An action not ended by PDL becomes a forced context reset. -/
  | preemptionDeadline (part : Nat)
  /-- PREEMPTION_REPORT (R355): Once actions end, the pre-emption report is written to the partition's report buffer. -/
  | preemptionReport (part : Nat)
  /-- CUT_RESUME (R353): A saved cut resumes when its tenant next runs. -/
  | cutResume (uid bench quad : Nat)
  /-- CONTEXT_RELOAD (R378): CTXCMD op 1 makes the device read a context descriptor again. -/
  | contextReload (asid : Nat)
  /-- FORCED_CONTEXT_RESET (R352): CTXCMD op 2 stops every cut of the context and ends its launches with STATE 3. -/
  | forcedContextReset (asid : Nat)
  /-- CREATE (R335): CCMD create installs a member list in a free communicator slot with GEN+1. -/
  | create (v : W64)
  /-- RE_FORM (R335): CCMD re-form ends pending operations STALE and installs a new generation. -/
  | reForm (v : W64)
  /-- DESTROY (R335): CCMD destroy ends pending operations and frees the slot. -/
  | destroy (v : W64)
  /-- REPLAY_ALL (R368): PRCMD replay-all clears the buffer and DROPPED, advances RGEN and ends older PGWAITs. -/
  | replayAll (part : Nat)
  /-- OWNERSHIP_RELOAD (R373): OWNCMD reload reads the ownership table, saves work on changed units and installs the copy. -/
  | ownershipReload
  /-- CHECKPOINT_SAVE (R385): CKPTCMD op 1 flushes and copies device memory to host, listing poisoned sectors. -/
  | checkpointSave
  /-- CHECKPOINT_ABORT (R385): CKPTCMD op 2 stops the running copy with CODE 3. -/
  | checkpointAbort
  /-- CHECKPOINT_RESTORE (R385): CKPTCMD op 3 copies the image back, re-poisons listed sectors and invalidates caches. -/
  | checkpointRestore
  /-- CHECKPOINT_DONE (R385): The copy ends, STATE becomes done and held host writes perform. -/
  | checkpointDone
  /-- HALT (R391): Writing HALT in DBGCTL halts the held context with CAUSE 4. -/
  | halt (slot : Nat)
  /-- RESUME (R393): Writing RESUME makes every stopped cut of the held context eligible again. -/
  | resume (slot : Nat)
  /-- DEBUG_STOP (R393): The cross-trigger reaches a scheduler, which stops the context's cuts at instruction boundaries. -/
  | debugStop (slot bench : Nat)
  /-- DUMP (R394): Once every scheduler has stopped and pending results arrived, cut records are written and STATE becomes 2. -/
  | dump (slot : Nat)
  /-- SAMPLE (R387): In its sampling cycle a scheduler writes a sample record to the ring, or drops it. -/
  | sample (bench sched : Nat)
  /-- FWBASE_WRITE (R13): A write to FWBASE is checked and turns the window off if its conditions fail. -/
  | fwbaseWrite (stack win : Nat) (v : W64)
  /-- FWCTL_WRITE (R13): A write to FWCTL enables or disables a format window under its conditions. -/
  | fwctlWrite (stack win : Nat) (v : W64)
  /-- PMAP_WRITE (R374): A write of PMAP advances PMGEN. -/
  | pmapWrite (part : Nat) (v : W64)
  /-- SDROP_WRITE (R211): A write to SDROP sets COUNT to 0. -/
  | sdropWrite (bench : Nat) (v : W64)
  /-- QSTAT_WRITE (R323): A write to QSTAT clears OVF and CDROP where 1 is written. -/
  | qstatWrite (queue : Nat) (v : W64)
  /-- MSUM_WRITE (R268): A write to MSUM zeroes VWDROP and clears MTRAP bits written 1. -/
  | msumWrite (stack : Nat) (v : W64)
  /-- MDERR_WRITE (R268): A write to MDERR zeroes COUNT and clears BANK bits written 1. -/
  | mderrWrite (stack dist : Nat) (v : W64)
  /-- BRERR_WRITE (R383): A write to BRERR zeroes its counts. -/
  | brerrWrite (bench : Nat) (v : W64)
  /-- MEMERR_WRITE (R383): A write to MEMERR zeroes its counts. -/
  | memerrWrite (stack : Nat) (v : W64)
  /-- MEMADDR_WRITE (R383): Writing 1 to MEMADDR.VALID clears it. -/
  | memaddrWrite (stack : Nat) (v : W64)
  /-- LHEALTH_WRITE (R383): A write to LHEALTH zeroes TRANS. -/
  | lhealthWrite (loom : Nat) (v : W64)
  /-- LKSTAT_WRITE (R383): A write to LKSTAT zeroes DOWNS and RESENDS. -/
  | lkstatWrite (link : Nat) (v : W64)
  /-- PRSTAT_WRITE (R367): A write to PRSTAT zeroes DROPCNT. -/
  | prstatWrite (part : Nat) (v : W64)
  /-- WALKERR_WRITE (R370): A write to WALKERR zeroes REASON and COUNT. -/
  | walkerrWrite (v : W64)
  /-- SMPHEAD_WRITE (R387): A write to SMPHEAD zeroes DROPPED and sets HEAD. -/
  | smpheadWrite (v : W64)
  /-- ELIG_WRITE (R386): A write to an ELIG counter sets it to 0. -/
  | eligWrite (bench sched bin : Nat) (v : W64)
  /-- STALL_WRITE (R386): A write to a STALL counter sets it to 0. -/
  | stallWrite (bench sched reason : Nat) (v : W64)
  /-- REGISTER_WRITE (R322): An aligned 8-byte write to a control-window register with no behaviour of its own. -/
  | registerWrite (off : Nat) (v : W64)
  /-- ILLEGAL_INSTRUCTION (R87): A fetched word with an unassigned op7, an unlisted fn4, a nonzero reserved bit or specifier 0x4F raises ILL exactly and performs nothing. -/
  | illegalInstruction (word : W32)
  /-- RESULT_ARRIVAL (R77): The value of an outstanding long-latency instruction or load arrives, is written to its destination and reserved slot, and releases stalled readers and covering fences. -/
  | resultArrival (uid id : Nat)
  /-- SCHEDULER_CYCLE (R33): Each arithmetic-clock cycle every scheduler picks or fails to pick an eligible cut, ages cuts, adds to its ELIG bin and charges stalls and budgets. -/
  | schedulerCycle
  /-- FLIT_RESEND (R381): An Axnex flit that fails its CRC is resent, counted, and after 16 failed resends of one flit leads to the link going down. -/
  | flitResend (link : Nat) (delivered : Bool)
  /-- UCIE_MODULE_RETIREMENT (R381): A UCIe module with a lasting fault is retired and the attach runs on the remaining modules, lowering the checkpoint rate. -/
  | ucieModuleRetirement (module : Nat)
  /-- COMPLETION_RECORD_WAIT_LIMIT (R330): WAITLIM passes while a completion record waits for its absent DONE page, so the record is dropped, QSTAT.CDROP is set and the interrupt is sent. -/
  | completionRecordWaitLimit (lid : Nat)
  /-- COMMUNICATOR_COMMAND_DONE (R334): A communicator command finishes and CRES.DONE and CODE are set, so that a new command is accepted. -/
  | communicatorCommandDone
  /-- OWNERSHIP_RELOAD_DONE (R373): An ownership-table reload finishes installing its copy, or fails, and OWNSTAT.DONE returns to 1. -/
  | ownershipReloadDone
  deriving DecidableEq, Repr

end Sys2Proof
end

