-- ==== Sys2Proof/Decode.lean ====
section
/-! DEFINITION. Decoding an instruction word into an instruction (R72, R73, R85), and after it the encoder, written from the
same layouts. Decoding reads the format, the opcode and the fixed bits; which operand values an instruction then accepts is
decided where it executes (R74, R75, R84, R86, R87). -/

namespace Sys2Proof

/-- Why bytes are not an instruction. -/
inductive DecodeError where
  /-- fewer than four bytes are left -/
  | tooShort
  /-- op7 0x0F, 0x2F or 0x5F, or an opcode whose minor function the map does not list (R85, R87) -/
  | unassigned
  deriving DecidableEq, Repr

/-! ## The fields of a word in each format (R73) -/

/-- A word of the R layout from its fields, high to low. -/
def wordR (op : BitVec 7) (f : BitVec 4) (d : BitVec 7) (a : BitVec 7) (b : BitVec 7) : W32 :=
  op ++ f ++ d ++ a ++ b

/-- A word of the I layout from its fields, high to low. -/
def wordI (op : BitVec 7) (d : BitVec 7) (a : BitVec 7) (i : BitVec 11) : W32 :=
  op ++ d ++ a ++ i

/-- A word of the W layout from its fields, high to low. -/
def wordW (op : BitVec 7) (d : BitVec 7) (i : BitVec 18) : W32 :=
  op ++ d ++ i

/-- A word of the J layout from its fields, high to low. -/
def wordJ (op : BitVec 7) (f : BitVec 4) (o : BitVec 21) : W32 :=
  op ++ f ++ o

/-- A word of the K layout from its fields, high to low. -/
def wordK (op : BitVec 7) (c : BitVec 7) (n : BitVec 14) (r : BitVec 4) : W32 :=
  op ++ c ++ n ++ r

/-- A word of the P layout from its fields, high to low. -/
def wordP (op : BitVec 7) (i : BitVec 11) (n : BitVec 14) : W32 :=
  op ++ i ++ n

/-- A word of the C layout from its fields, high to low. -/
def wordC (op : BitVec 7) (f : BitVec 4) (a : BitVec 7) (m : BitVec 14) : W32 :=
  op ++ f ++ a ++ m

/-- A word of the Q layout from its fields, high to low. -/
def wordQ (q : BitVec 2) (k : BitVec 2) (d : BitVec 7) (a : BitVec 7) (b : BitVec 7) (c : BitVec 7) : W32 :=
  q ++ k ++ d ++ a ++ b ++ c

/-- Bits `lo` to `lo + len - 1` of a word. -/
def bitsOf (w : W32) (lo len : Nat) : BitVec len := w.extractLsb' lo len

/-! ## One decoder for each format -/

/-- Decodes the fields of the R layout. -/
def decR (op : BitVec 7) (f : BitVec 4) (d : BitVec 7) (a : BitVec 7) (b : BitVec 7) : Option Instr :=
  match op with
  | 0x00#7 =>
    match f with
    | 0#4 => if d = 0#7 ∧ a = 0#7 ∧ b = 0#7 then some .nop else none
    | 1#4 => if d = 0#7 ∧ a = 0#7 ∧ b = 0#7 then some .yield else none
    | 2#4 => if d = 0#7 ∧ a = 0#7 ∧ b = 0#7 then some .exit else none
    | 3#4 => if d = 0#7 ∧ a = 0#7 ∧ b = 0#7 then some .seam else none
    | 4#4 => if d = 0#7 ∧ a = 0#7 ∧ b = 0#7 then some .tfence else none
    | 5#4 => if d = 0#7 ∧ a = 0#7 ∧ b = 0#7 then some .haltd else none
    | 6#4 => if d = 0#7 ∧ a = 0#7 ∧ b = 0#7 then some .bkpt else none
    | 7#4 => if d = 0#7 ∧ a = 0#7 ∧ b = 0#7 then some .ret else none
    | _ => none
  | 0x01#7 => if f = 0#4 ∧ d = 0#7 ∧ b = 0#7 then some (.mode a) else none
  | 0x06#7 =>
    match f with
    | 0#4 => if d = 0#7 ∧ b = 0#7 then some (.jmpr a) else none
    | 1#4 => if d = 0#7 ∧ b = 0#7 then some (.callr a) else none
    | _ => none
  | 0x09#7 => if f = 0#4 ∧ d = 0#7 ∧ a = 0#7 ∧ b = 0#7 then some .lbrk else none
  | 0x0B#7 =>
    match f with
    | 0#4 => if d.extractLsb' 3 4 = 0#4 ∧ a.extractLsb' 4 3 = 0#3 ∧ b.extractLsb' 4 3 = 0#3 then some (.pand (d.extractLsb' 0 3) (a.extractLsb' 3 1) (a.extractLsb' 0 3) (b.extractLsb' 3 1) (b.extractLsb' 0 3)) else none
    | 1#4 => if d.extractLsb' 3 4 = 0#4 ∧ a.extractLsb' 4 3 = 0#3 ∧ b.extractLsb' 4 3 = 0#3 then some (.por (d.extractLsb' 0 3) (a.extractLsb' 3 1) (a.extractLsb' 0 3) (b.extractLsb' 3 1) (b.extractLsb' 0 3)) else none
    | 2#4 => if d.extractLsb' 3 4 = 0#4 ∧ a.extractLsb' 4 3 = 0#3 ∧ b.extractLsb' 4 3 = 0#3 then some (.pxor (d.extractLsb' 0 3) (a.extractLsb' 3 1) (a.extractLsb' 0 3) (b.extractLsb' 3 1) (b.extractLsb' 0 3)) else none
    | 3#4 => if d.extractLsb' 3 4 = 0#4 ∧ a.extractLsb' 4 3 = 0#3 ∧ b.extractLsb' 4 3 = 0#3 then some (.pandn (d.extractLsb' 0 3) (a.extractLsb' 3 1) (a.extractLsb' 0 3) (b.extractLsb' 3 1) (b.extractLsb' 0 3)) else none
    | 4#4 => if d.extractLsb' 3 4 = 0#4 ∧ a.extractLsb' 4 3 = 0#3 ∧ b = 0#7 then some (.pnot (d.extractLsb' 0 3) (a.extractLsb' 3 1) (a.extractLsb' 0 3)) else none
    | 5#4 => if d.extractLsb' 3 4 = 0#4 ∧ a.extractLsb' 4 3 = 0#3 ∧ b = 0#7 then some (.pmov (d.extractLsb' 0 3) (a.extractLsb' 3 1) (a.extractLsb' 0 3)) else none
    | 6#4 => if d.extractLsb' 3 4 = 0#4 ∧ a.extractLsb' 4 3 = 0#3 ∧ b = 0#7 then some (.pany (d.extractLsb' 0 3) (a.extractLsb' 3 1) (a.extractLsb' 0 3)) else none
    | 7#4 => if d.extractLsb' 3 4 = 0#4 ∧ a.extractLsb' 4 3 = 0#3 ∧ b = 0#7 then some (.pall (d.extractLsb' 0 3) (a.extractLsb' 3 1) (a.extractLsb' 0 3)) else none
    | 8#4 => if a.extractLsb' 4 3 = 0#3 ∧ b = 0#7 then some (.pcnt d (a.extractLsb' 3 1) (a.extractLsb' 0 3)) else none
    | 9#4 => if a.extractLsb' 4 3 = 0#3 ∧ b = 0#7 then some (.pmask d (a.extractLsb' 3 1) (a.extractLsb' 0 3)) else none
    | 10#4 => if d.extractLsb' 3 4 = 0#4 ∧ b = 0#7 then some (.pfrom (d.extractLsb' 0 3) a) else none
    | _ => none
  | 0x0C#7 => if d.extractLsb' 3 4 = 0#4 then some (.cmp f (d.extractLsb' 0 3) a b) else none
  | 0x0E#7 =>
    match f with
    | 0#4 => if b = 0#7 then some (.form d a) else none
    | 1#4 => if b = 0#7 then some (.matl d a) else none
    | 2#4 => some (.pget d a b)
    | 3#4 => if d.extractLsb' 5 2 = 0#2 then some (.pmake (d.extractLsb' 3 2) (d.extractLsb' 0 3) a b) else none
    | 4#4 => some (.kill d a b)
    | 5#4 => if a = 0#7 ∧ b = 0#7 then some (.cutid d) else none
    | 6#4 => if a = 0#7 ∧ b = 0#7 then some (.parid d) else none
    | 7#4 => if a = 0#7 then some (.cutbox d b) else none
    | _ => none
  | 0x10#7 =>
    match f with
    | 0#4 => some (.add d a b)
    | 1#4 => some (.sub d a b)
    | 2#4 => some (.and d a b)
    | 3#4 => some (.or d a b)
    | 4#4 => some (.xor d a b)
    | 5#4 => some (.andn d a b)
    | 6#4 => some (.shl d a b)
    | 7#4 => some (.shr d a b)
    | 8#4 => some (.sar d a b)
    | 9#4 => some (.rol d a b)
    | 10#4 => some (.min d a b)
    | 11#4 => some (.max d a b)
    | 12#4 => some (.minu d a b)
    | 13#4 => some (.maxu d a b)
    | 14#4 => some (.absd d a b)
    | 15#4 => if b = 0#7 then some (.neg d a) else none
    | _ => none
  | 0x11#7 =>
    match f with
    | 0#4 => some (.mul d a b)
    | 1#4 => some (.mulhi d a b)
    | 2#4 => some (.mulhiu d a b)
    | 3#4 => some (.mulw d a b)
    | 4#4 => some (.mulwu d a b)
    | _ => none
  | 0x12#7 =>
    match f with
    | 0#4 => if b = 0#7 then some (.clz d a) else none
    | 1#4 => if b = 0#7 then some (.ctz d a) else none
    | 2#4 => if b = 0#7 then some (.popc d a) else none
    | 3#4 => if b = 0#7 then some (.brev d a) else none
    | 4#4 => if b = 0#7 then some (.bswap d a) else none
    | 5#4 => some (.bfe d a b)
    | 6#4 => some (.bfeu d a b)
    | 7#4 => some (.bfi d a b)
    | _ => none
  | 0x13#7 =>
    match f with
    | 0#4 => some (.addw d a b)
    | 1#4 => some (.addwu d a b)
    | 2#4 => some (.subw d a b)
    | 3#4 => some (.accw d a b)
    | 4#4 => some (.accwu d a b)
    | 5#4 => some (.satadd d a b)
    | 6#4 => some (.satsub d a b)
    | 7#4 => if b = 0#7 then some (.narrow d a) else none
    | 8#4 => if b = 0#7 then some (.sext d a) else none
    | 9#4 => if b = 0#7 then some (.zext d a) else none
    | 10#4 => if b = 0#7 then some (.mov d a) else none
    | 11#4 => some (.sel d a b)
    | _ => none
  | 0x1E#7 => some (.div f d a b)
  | 0x1F#7 => some (.divu f d a b)
  | 0x20#7 =>
    match f with
    | 0#4 => some (.fadd d a b)
    | 1#4 => some (.fsub d a b)
    | 2#4 => some (.fmul d a b)
    | 3#4 => some (.fmin d a b)
    | 4#4 => some (.fmax d a b)
    | 5#4 => some (.fminn d a b)
    | 6#4 => some (.fmaxn d a b)
    | 7#4 => if b = 0#7 then some (.fabs d a) else none
    | 8#4 => if b = 0#7 then some (.fneg d a) else none
    | 9#4 => some (.fcpsgn d a b)
    | 10#4 => if b = 0#7 then some (.fclass d a) else none
    | 11#4 => if b = 0#7 then some (.frnd d a) else none
    | 12#4 => if b = 0#7 then some (.ffrac d a) else none
    | 13#4 => some (.fscale d a b)
    | 14#4 => if b = 0#7 then some (.fexpo d a) else none
    | 15#4 => some (.twosum d a b)
    | _ => none
  | 0x21#7 => if b = 0#7 then some (.fcvt f d a) else none
  | 0x22#7 =>
    match f with
    | 0#4 => if b = 0#7 then some (.f2i d a) else none
    | 1#4 => if b = 0#7 then some (.f2u d a) else none
    | 2#4 => if b = 0#7 then some (.i2f d a) else none
    | 3#4 => if b = 0#7 then some (.u2f d a) else none
    | _ => none
  | 0x23#7 => if b = 0#7 then some (.frcp f d a) else none
  | 0x24#7 => if b = 0#7 then some (.frsq f d a) else none
  | 0x25#7 => if b = 0#7 then some (.fsqrt f d a) else none
  | 0x26#7 => if b = 0#7 then some (.fexp2 f d a) else none
  | 0x27#7 => if b = 0#7 then some (.flog2 f d a) else none
  | 0x28#7 => if b = 0#7 then some (.fsin f d a) else none
  | 0x29#7 => if b = 0#7 then some (.fcos f d a) else none
  | 0x2A#7 => some (.fdiv f d a b)
  | 0x2B#7 =>
    match f with
    | 0#4 => some (.shfl d a b)
    | 1#4 => some (.shflx d a b)
    | 2#4 => some (.shflu d a b)
    | 3#4 => some (.shfld d a b)
    | 4#4 => some (.bcast d a b)
    | 5#4 => if b = 0#7 then some (.vote d a) else none
    | 6#4 => if b = 0#7 then some (.compact d a) else none
    | 7#4 => if a = 0#7 ∧ b = 0#7 then some (.lidx d) else none
    | _ => none
  | 0x2C#7 => some (.red f d a b)
  | 0x2D#7 => some (.scan f d a b)
  | 0x2E#7 =>
    match f with
    | 0#4 => some (.dp4 d a b)
    | 1#4 => some (.dp4u d a b)
    | 2#4 => some (.dp2 d a b)
    | _ => none
  | 0x30#7 => some (.ld f d a b)
  | 0x31#7 => if f = 0#4 then some (.st d a b) else none
  | 0x32#7 => some (.ldb f d a b)
  | 0x33#7 => some (.lda f d a b)
  | 0x34#7 => if f = 0#4 then some (.stl d a b) else none
  | 0x35#7 => some (.ldt f d a b)
  | 0x36#7 => some (.lds f d a b)
  | 0x37#7 => if f = 0#4 then some (.sts d a b) else none
  | 0x38#7 => some (.atom f d a b)
  | 0x39#7 => if f = 0#4 ∧ d = 0#7 then some (.ared a b) else none
  | 0x3A#7 => if b = 0#7 then some (.pgreq f d a) else none
  | 0x3B#7 =>
    match f with
    | 0#4 => if b = 0#7 then some (.pgwait d a) else none
    | 1#4 => if b = 0#7 then some (.pgtest d a) else none
    | _ => none
  | 0x3C#7 => if f = 0#4 ∧ d = 0#7 then some (.pref a b) else none
  | 0x3D#7 =>
    match f with
    | 0#4 => some (.salloc d a b)
    | 1#4 => if d = 0#7 then some (.sfree a b) else none
    | 2#4 => some (.spin d a b)
    | 3#4 => if d = 0#7 then some (.sunpin a b) else none
    | 4#4 => some (.spgq d a b)
    | _ => none
  | 0x3E#7 => some (.ldm f d a b)
  | 0x3F#7 => if f = 0#4 then some (.stm d a b) else none
  | 0x40#7 => if a = 0#7 ∧ b = 0#7 then some (.fence (f.extractLsb' 3 1) (f.extractLsb' 2 1) (f.extractLsb' 0 2) d) else none
  | 0x41#7 =>
    match f with
    | 0#4 => if d = 0#7 ∧ b = 0#7 then some (.fwait a) else none
    | 1#4 => if b = 0#7 then some (.ftest d a) else none
    | _ => none
  | 0x42#7 =>
    match f with
    | 0#4 => if d = 0#7 ∧ b = 0#7 then some (.bar a) else none
    | 1#4 => if b = 0#7 then some (.bara d a) else none
    | 2#4 => if d = 0#7 ∧ b = 0#7 then some (.barw a) else none
    | _ => none
  | 0x43#7 =>
    match f with
    | 0#4 => if b = 0#7 then some (.cnew d a) else none
    | 1#4 => if b = 0#7 then some (.cjoin d a) else none
    | 2#4 => if d = 0#7 ∧ a = 0#7 ∧ b = 0#7 then some .cleave else none
    | 3#4 => if a = 0#7 ∧ b = 0#7 then some (.csize d) else none
    | 4#4 => if a = 0#7 ∧ b = 0#7 then some (.crank d) else none
    | _ => none
  | 0x44#7 => if f = 0#4 ∧ d = 0#7 ∧ b = 0#7 then some (.role a) else none
  | 0x45#7 =>
    match f with
    | 0#4 => some (.qbind d a b)
    | 1#4 => if a = 0#7 ∧ b = 0#7 then some (.qunbind d) else none
    | 2#4 => if b = 0#7 then some (.qcnt d a) else none
    | 3#4 => if a = 0#7 ∧ b = 0#7 then some (.qclose d) else none
    | _ => none
  | 0x46#7 =>
    match f with
    | 0#4 => if b = 0#7 then some (.sbind d a) else none
    | 1#4 => if b = 0#7 then some (.srel d a) else none
    | 2#4 => if b = 0#7 then some (.scnt d a) else none
    | _ => none
  | 0x47#7 => if d = 0#7 ∧ b = 0#7 then some (.cpy f a) else none
  | 0x48#7 => if d = 0#7 ∧ b = 0#7 then some (.cpyt f a) else none
  | 0x4A#7 => some (.cwait f d a b)
  | 0x4B#7 => if f = 0#4 ∧ d = 0#7 then some (.cadd a b) else none
  | 0x4C#7 =>
    match f with
    | 0#4 => if a = 0#7 ∧ b = 0#7 then some (.evwait d) else none
    | 1#4 => if a = 0#7 ∧ b = 0#7 then some (.evpeek d) else none
    | _ => none
  | 0x4D#7 => some (.coll f d a b)
  | 0x4E#7 =>
    match f with
    | 0#4 => some (.cstat d a b)
    | 1#4 => if d = 0#7 ∧ b = 0#7 then some (.cabort a) else none
    | _ => none
  | 0x4F#7 => some (.launch f d a b)
  | 0x50#7 => if f = 0#4 then some (.mld d a b) else none
  | 0x51#7 => if f = 0#4 ∧ d = 0#7 then some (.mwb a b) else none
  | 0x52#7 => if f = 0#4 then some (.mma d a b) else none
  | 0x54#7 => if f = 0#4 ∧ a = 0#7 ∧ b = 0#7 then some (.mzero d) else none
  | 0x55#7 => if f = 0#4 then some (.mdrn d a b) else none
  | 0x56#7 =>
    match f with
    | 0#4 => if b = 0#7 then some (.mstat d a) else none
    | 1#4 => if a = 0#7 ∧ b = 0#7 then some (.mtest d) else none
    | 2#4 => if a = 0#7 ∧ b = 0#7 then some (.mfenced d) else none
    | _ => none
  | 0x57#7 =>
    match f with
    | 0#4 => some (.thmake d a b)
    | 1#4 => if b = 0#7 then some (.thoff d a) else none
    | 2#4 => if b = 0#7 then some (.thshape d a) else none
    | _ => none
  | 0x58#7 => if d = 0#7 ∧ b = 0#7 then some (.msect f a) else none
  | 0x59#7 => if a = 0#7 ∧ b = 0#7 then some (.mcommit f d) else none
  | 0x5B#7 =>
    match f with
    | 0#4 => if a = 0#7 ∧ b = 0#7 then some (.mrcnt d) else none
    | 1#4 => some (.msig d a b)
    | 2#4 => if a = 0#7 ∧ b = 0#7 then some (.mstate d) else none
    | 3#4 => if b = 0#7 then some (.mesc d a) else none
    | _ => none
  | 0x5E#7 =>
    match f with
    | 0#4 => if d = 0#7 ∧ a = 0#7 ∧ b = 0#7 then some .tret else none
    | 1#4 => if b = 0#7 then some (.flags d a) else none
    | 2#4 => if b = 0#7 then some (.flagc d a) else none
    | 3#4 => if d = 0#7 then some (.tlbinv a b) else none
    | 4#4 => if d = 0#7 then some (.scrinv a b) else none
    | 5#4 => if a = 0#7 ∧ b = 0#7 then some (.clock d) else none
    | 6#4 => if b = 0#7 then some (.perf d a) else none
    | _ => none
  | _ => none

/-- Decodes the fields of the I layout. -/
def decI (op : BitVec 7) (d : BitVec 7) (a : BitVec 7) (i : BitVec 11) : Option Instr :=
  match op with
  | 0x0D#7 => some (.cmpi (d.extractLsb' 3 4) (d.extractLsb' 0 3) a i)
  | 0x14#7 => some (.addi d a i)
  | 0x15#7 => some (.andi d a i)
  | 0x16#7 => some (.ori d a i)
  | 0x17#7 => some (.xori d a i)
  | 0x18#7 => some (.shli d a i)
  | 0x19#7 => some (.shri d a i)
  | 0x1A#7 => some (.sari d a i)
  | 0x1B#7 => some (.muli d a i)
  | 0x5C#7 => if a = 0#7 then some (.csrr d i) else none
  | 0x5D#7 => if d = 0#7 then some (.csrw a i) else none
  | _ => none

/-- Decodes the fields of the W layout. -/
def decW (op : BitVec 7) (d : BitVec 7) (i : BitVec 18) : Option Instr :=
  match op with
  | 0x02#7 => if d = 0#7 then some (.modei i) else none
  | 0x0A#7 => if d = 0#7 then some (.trap i) else none
  | 0x1C#7 => some (.movx d i)
  | 0x1D#7 => some (.movi d i)
  | _ => none

/-- Decodes the fields of the J layout. -/
def decJ (op : BitVec 7) (f : BitVec 4) (o : BitVec 21) : Option Instr :=
  match op with
  | 0x03#7 => some (.br (f.extractLsb' 3 1) (f.extractLsb' 0 3) o)
  | 0x04#7 => if f = 0#4 then some (.jmp o) else none
  | 0x05#7 => if f = 0#4 then some (.call o) else none
  | _ => none

/-- Decodes the fields of the K layout. -/
def decK (op : BitVec 7) (c : BitVec 7) (n : BitVec 14) (r : BitVec 4) : Option Instr :=
  match op with
  | 0x07#7 => if r = 0#4 then some (.loop c n) else none
  | _ => none

/-- Decodes the fields of the P layout. -/
def decP (op : BitVec 7) (i : BitVec 11) (n : BitVec 14) : Option Instr :=
  match op with
  | 0x08#7 => some (.loopi i n)
  | _ => none

/-- Decodes the fields of the C layout. -/
def decC (op : BitVec 7) (f : BitVec 4) (a : BitVec 7) (m : BitVec 14) : Option Instr :=
  match op with
  | 0x49#7 => some (.cpym f a m)
  | 0x53#7 => if f = 0#4 then some (.mmap a m) else none
  | 0x5A#7 => some (.msend f a m)
  | _ => none

/-- Decodes the fields of the Q layout. -/
def decQ (k : BitVec 2) (d : BitVec 7) (a : BitVec 7) (b : BitVec 7) (c : BitVec 7) : Option Instr :=
  match k with
  | 0#2 => some (.fma d a b c)
  | 1#2 => some (.fnma d a b c)
  | 2#2 => some (.madw d a b c)
  | 3#2 => some (.madl d a b c)

/-- The instruction of a word, if it is one. -/
def decodeWord (w : W32) : Option Instr :=
  if bitsOf w 30 2 = 3#2 then decQ (bitsOf w 28 2) (bitsOf w 21 7) (bitsOf w 14 7) (bitsOf w 7 7) (bitsOf w 0 7)
  else
    let op := bitsOf w 25 7
    match op with
    | 0x02#7 | 0x0A#7 | 0x1C#7 | 0x1D#7 => decW op (bitsOf w 18 7) (bitsOf w 0 18)
    | 0x03#7 | 0x04#7 | 0x05#7 => decJ op (bitsOf w 21 4) (bitsOf w 0 21)
    | 0x07#7 => decK op (bitsOf w 18 7) (bitsOf w 4 14) (bitsOf w 0 4)
    | 0x08#7 => decP op (bitsOf w 14 11) (bitsOf w 0 14)
    | 0x0D#7 | 0x14#7 | 0x15#7 | 0x16#7 | 0x17#7 | 0x18#7 | 0x19#7 | 0x1A#7 | 0x1B#7 | 0x5C#7 | 0x5D#7 =>
      decI op (bitsOf w 18 7) (bitsOf w 11 7) (bitsOf w 0 11)
    | 0x49#7 | 0x53#7 | 0x5A#7 => decC op (bitsOf w 21 4) (bitsOf w 14 7) (bitsOf w 0 14)
    | _ => decR op (bitsOf w 21 4) (bitsOf w 14 7) (bitsOf w 7 7) (bitsOf w 0 7)

/-- The word whose bytes stand little-endian at the lowest address first (R2, R72). -/
def wordOfBytes (b0 b1 b2 b3 : Byte) : W32 := b3 ++ b2 ++ b1 ++ b0

/-- Decodes the instruction at the head of a list of bytes and gives the bytes after it. -/
def decode : List Byte → Except DecodeError (Instr × List Byte)
  | b0 :: b1 :: b2 :: b3 :: rest =>
    match decodeWord (wordOfBytes b0 b1 b2 b3) with
    | some i => .ok (i, rest)
    | none => .error .unassigned
  | _ => .error .tooShort

/-- The bytes of a word, lowest address first (R2). -/
def bytesOfWord (w : W32) : List Byte :=
  [w.extractLsb' 0 8, w.extractLsb' 8 8, w.extractLsb' 16 8, w.extractLsb' 24 8]

/-- The instruction the decoder reads from an instruction whose bits are `w`, numbered as the opcode table numbers them. -/
def decodeTableWord (nbits w : Nat) : Option Instr :=
  match decode (bytesOfWord (BitVec.ofNat 32 (w % 2 ^ nbits))) with
  | .ok (i, _) => some i
  | .error _ => none

/-! ## The encoder -/

/-- The word of an encoded instruction; events have none. -/
def encodeWord (i : Instr) : Option W32 :=
  match i with
  | .nop => some (wordR 0#7 0#4 0#7 0#7 0#7)
  | .yield => some (wordR 0#7 1#4 0#7 0#7 0#7)
  | .exit => some (wordR 0#7 2#4 0#7 0#7 0#7)
  | .seam => some (wordR 0#7 3#4 0#7 0#7 0#7)
  | .tfence => some (wordR 0#7 4#4 0#7 0#7 0#7)
  | .haltd => some (wordR 0#7 5#4 0#7 0#7 0#7)
  | .bkpt => some (wordR 0#7 6#4 0#7 0#7 0#7)
  | .ret => some (wordR 0#7 7#4 0#7 0#7 0#7)
  | .mode a => some (wordR 1#7 0#4 0#7 a 0#7)
  | .modei i => some (wordW 2#7 0#7 i)
  | .br s p o => some (wordJ 3#7 (s ++ p) o)
  | .jmp o => some (wordJ 4#7 0#4 o)
  | .call o => some (wordJ 5#7 0#4 o)
  | .jmpr a => some (wordR 6#7 0#4 0#7 a 0#7)
  | .callr a => some (wordR 6#7 1#4 0#7 a 0#7)
  | .loop c n => some (wordK 7#7 c n 0#4)
  | .loopi i n => some (wordP 8#7 i n)
  | .lbrk => some (wordR 9#7 0#4 0#7 0#7 0#7)
  | .trap i => some (wordW 10#7 0#7 i)
  | .pand d t a u b => some (wordR 11#7 0#4 (0#4 ++ d) (0#3 ++ t ++ a) (0#3 ++ u ++ b))
  | .por d t a u b => some (wordR 11#7 1#4 (0#4 ++ d) (0#3 ++ t ++ a) (0#3 ++ u ++ b))
  | .pxor d t a u b => some (wordR 11#7 2#4 (0#4 ++ d) (0#3 ++ t ++ a) (0#3 ++ u ++ b))
  | .pandn d t a u b => some (wordR 11#7 3#4 (0#4 ++ d) (0#3 ++ t ++ a) (0#3 ++ u ++ b))
  | .pnot d t a => some (wordR 11#7 4#4 (0#4 ++ d) (0#3 ++ t ++ a) 0#7)
  | .pmov d t a => some (wordR 11#7 5#4 (0#4 ++ d) (0#3 ++ t ++ a) 0#7)
  | .pany d t a => some (wordR 11#7 6#4 (0#4 ++ d) (0#3 ++ t ++ a) 0#7)
  | .pall d t a => some (wordR 11#7 7#4 (0#4 ++ d) (0#3 ++ t ++ a) 0#7)
  | .pcnt d t a => some (wordR 11#7 8#4 d (0#3 ++ t ++ a) 0#7)
  | .pmask d t a => some (wordR 11#7 9#4 d (0#3 ++ t ++ a) 0#7)
  | .pfrom d a => some (wordR 11#7 10#4 (0#4 ++ d) a 0#7)
  | .cmp k d a b => some (wordR 12#7 k (0#4 ++ d) a b)
  | .cmpi k d a i => some (wordI 13#7 (k ++ d) a i)
  | .form d a => some (wordR 14#7 0#4 d a 0#7)
  | .matl d a => some (wordR 14#7 1#4 d a 0#7)
  | .pget d a b => some (wordR 14#7 2#4 d a b)
  | .pmake k d a b => some (wordR 14#7 3#4 (0#2 ++ k ++ d) a b)
  | .kill m a b => some (wordR 14#7 4#4 m a b)
  | .cutid d => some (wordR 14#7 5#4 d 0#7 0#7)
  | .parid d => some (wordR 14#7 6#4 d 0#7 0#7)
  | .cutbox d b => some (wordR 14#7 7#4 d 0#7 b)
  | .add d a b => some (wordR 16#7 0#4 d a b)
  | .sub d a b => some (wordR 16#7 1#4 d a b)
  | .and d a b => some (wordR 16#7 2#4 d a b)
  | .or d a b => some (wordR 16#7 3#4 d a b)
  | .xor d a b => some (wordR 16#7 4#4 d a b)
  | .andn d a b => some (wordR 16#7 5#4 d a b)
  | .shl d a b => some (wordR 16#7 6#4 d a b)
  | .shr d a b => some (wordR 16#7 7#4 d a b)
  | .sar d a b => some (wordR 16#7 8#4 d a b)
  | .rol d a b => some (wordR 16#7 9#4 d a b)
  | .min d a b => some (wordR 16#7 10#4 d a b)
  | .max d a b => some (wordR 16#7 11#4 d a b)
  | .minu d a b => some (wordR 16#7 12#4 d a b)
  | .maxu d a b => some (wordR 16#7 13#4 d a b)
  | .absd d a b => some (wordR 16#7 14#4 d a b)
  | .neg d a => some (wordR 16#7 15#4 d a 0#7)
  | .mul d a b => some (wordR 17#7 0#4 d a b)
  | .mulhi d a b => some (wordR 17#7 1#4 d a b)
  | .mulhiu d a b => some (wordR 17#7 2#4 d a b)
  | .mulw d a b => some (wordR 17#7 3#4 d a b)
  | .mulwu d a b => some (wordR 17#7 4#4 d a b)
  | .clz d a => some (wordR 18#7 0#4 d a 0#7)
  | .ctz d a => some (wordR 18#7 1#4 d a 0#7)
  | .popc d a => some (wordR 18#7 2#4 d a 0#7)
  | .brev d a => some (wordR 18#7 3#4 d a 0#7)
  | .bswap d a => some (wordR 18#7 4#4 d a 0#7)
  | .bfe d a b => some (wordR 18#7 5#4 d a b)
  | .bfeu d a b => some (wordR 18#7 6#4 d a b)
  | .bfi d a b => some (wordR 18#7 7#4 d a b)
  | .addw d a b => some (wordR 19#7 0#4 d a b)
  | .addwu d a b => some (wordR 19#7 1#4 d a b)
  | .subw d a b => some (wordR 19#7 2#4 d a b)
  | .accw d a b => some (wordR 19#7 3#4 d a b)
  | .accwu d a b => some (wordR 19#7 4#4 d a b)
  | .satadd d a b => some (wordR 19#7 5#4 d a b)
  | .satsub d a b => some (wordR 19#7 6#4 d a b)
  | .narrow d a => some (wordR 19#7 7#4 d a 0#7)
  | .sext d a => some (wordR 19#7 8#4 d a 0#7)
  | .zext d a => some (wordR 19#7 9#4 d a 0#7)
  | .mov d a => some (wordR 19#7 10#4 d a 0#7)
  | .sel d a b => some (wordR 19#7 11#4 d a b)
  | .addi d a i => some (wordI 20#7 d a i)
  | .andi d a i => some (wordI 21#7 d a i)
  | .ori d a i => some (wordI 22#7 d a i)
  | .xori d a i => some (wordI 23#7 d a i)
  | .shli d a i => some (wordI 24#7 d a i)
  | .shri d a i => some (wordI 25#7 d a i)
  | .sari d a i => some (wordI 26#7 d a i)
  | .muli d a i => some (wordI 27#7 d a i)
  | .movx d i => some (wordW 28#7 d i)
  | .movi d i => some (wordW 29#7 d i)
  | .div l d a b => some (wordR 30#7 l d a b)
  | .divu l d a b => some (wordR 31#7 l d a b)
  | .fadd d a b => some (wordR 32#7 0#4 d a b)
  | .fsub d a b => some (wordR 32#7 1#4 d a b)
  | .fmul d a b => some (wordR 32#7 2#4 d a b)
  | .fmin d a b => some (wordR 32#7 3#4 d a b)
  | .fmax d a b => some (wordR 32#7 4#4 d a b)
  | .fminn d a b => some (wordR 32#7 5#4 d a b)
  | .fmaxn d a b => some (wordR 32#7 6#4 d a b)
  | .fabs d a => some (wordR 32#7 7#4 d a 0#7)
  | .fneg d a => some (wordR 32#7 8#4 d a 0#7)
  | .fcpsgn d a b => some (wordR 32#7 9#4 d a b)
  | .fclass d a => some (wordR 32#7 10#4 d a 0#7)
  | .frnd d a => some (wordR 32#7 11#4 d a 0#7)
  | .ffrac d a => some (wordR 32#7 12#4 d a 0#7)
  | .fscale d a b => some (wordR 32#7 13#4 d a b)
  | .fexpo d a => some (wordR 32#7 14#4 d a 0#7)
  | .twosum d a b => some (wordR 32#7 15#4 d a b)
  | .fcvt t d a => some (wordR 33#7 t d a 0#7)
  | .f2i d a => some (wordR 34#7 0#4 d a 0#7)
  | .f2u d a => some (wordR 34#7 1#4 d a 0#7)
  | .i2f d a => some (wordR 34#7 2#4 d a 0#7)
  | .u2f d a => some (wordR 34#7 3#4 d a 0#7)
  | .frcp l d a => some (wordR 35#7 l d a 0#7)
  | .frsq l d a => some (wordR 36#7 l d a 0#7)
  | .fsqrt l d a => some (wordR 37#7 l d a 0#7)
  | .fexp2 l d a => some (wordR 38#7 l d a 0#7)
  | .flog2 l d a => some (wordR 39#7 l d a 0#7)
  | .fsin l d a => some (wordR 40#7 l d a 0#7)
  | .fcos l d a => some (wordR 41#7 l d a 0#7)
  | .fdiv l d a b => some (wordR 42#7 l d a b)
  | .shfl d a b => some (wordR 43#7 0#4 d a b)
  | .shflx d a b => some (wordR 43#7 1#4 d a b)
  | .shflu d a b => some (wordR 43#7 2#4 d a b)
  | .shfld d a b => some (wordR 43#7 3#4 d a b)
  | .bcast d a b => some (wordR 43#7 4#4 d a b)
  | .vote d a => some (wordR 43#7 5#4 d a 0#7)
  | .compact d a => some (wordR 43#7 6#4 d a 0#7)
  | .lidx d => some (wordR 43#7 7#4 d 0#7 0#7)
  | .red l d a b => some (wordR 44#7 l d a b)
  | .scan l d a b => some (wordR 45#7 l d a b)
  | .dp4 d a b => some (wordR 46#7 0#4 d a b)
  | .dp4u d a b => some (wordR 46#7 1#4 d a b)
  | .dp2 d a b => some (wordR 46#7 2#4 d a b)
  | .ld l d a b => some (wordR 48#7 l d a b)
  | .st d a b => some (wordR 49#7 0#4 d a b)
  | .ldb l d a b => some (wordR 50#7 l d a b)
  | .lda l d a b => some (wordR 51#7 l d a b)
  | .stl d a b => some (wordR 52#7 0#4 d a b)
  | .ldt l d a b => some (wordR 53#7 l d a b)
  | .lds l d a b => some (wordR 54#7 l d a b)
  | .sts d a b => some (wordR 55#7 0#4 d a b)
  | .atom l d a b => some (wordR 56#7 l d a b)
  | .ared a b => some (wordR 57#7 0#4 0#7 a b)
  | .pgreq l d a => some (wordR 58#7 l d a 0#7)
  | .pgwait d a => some (wordR 59#7 0#4 d a 0#7)
  | .pgtest d a => some (wordR 59#7 1#4 d a 0#7)
  | .pref a b => some (wordR 60#7 0#4 0#7 a b)
  | .salloc d a b => some (wordR 61#7 0#4 d a b)
  | .sfree a b => some (wordR 61#7 1#4 0#7 a b)
  | .spin d a b => some (wordR 61#7 2#4 d a b)
  | .sunpin a b => some (wordR 61#7 3#4 0#7 a b)
  | .spgq d a b => some (wordR 61#7 4#4 d a b)
  | .ldm l d a b => some (wordR 62#7 l d a b)
  | .stm d a b => some (wordR 63#7 0#4 d a b)
  | .fence e f k d => some (wordR 64#7 (e ++ f ++ k) d 0#7 0#7)
  | .fwait a => some (wordR 65#7 0#4 0#7 a 0#7)
  | .ftest d a => some (wordR 65#7 1#4 d a 0#7)
  | .bar a => some (wordR 66#7 0#4 0#7 a 0#7)
  | .bara d a => some (wordR 66#7 1#4 d a 0#7)
  | .barw a => some (wordR 66#7 2#4 0#7 a 0#7)
  | .cnew d a => some (wordR 67#7 0#4 d a 0#7)
  | .cjoin d a => some (wordR 67#7 1#4 d a 0#7)
  | .cleave => some (wordR 67#7 2#4 0#7 0#7 0#7)
  | .csize d => some (wordR 67#7 3#4 d 0#7 0#7)
  | .crank d => some (wordR 67#7 4#4 d 0#7 0#7)
  | .role a => some (wordR 68#7 0#4 0#7 a 0#7)
  | .qbind d a b => some (wordR 69#7 0#4 d a b)
  | .qunbind d => some (wordR 69#7 1#4 d 0#7 0#7)
  | .qcnt d a => some (wordR 69#7 2#4 d a 0#7)
  | .qclose d => some (wordR 69#7 3#4 d 0#7 0#7)
  | .sbind d a => some (wordR 70#7 0#4 d a 0#7)
  | .srel d a => some (wordR 70#7 1#4 d a 0#7)
  | .scnt d a => some (wordR 70#7 2#4 d a 0#7)
  | .cpy l a => some (wordR 71#7 l 0#7 a 0#7)
  | .cpyt l a => some (wordR 72#7 l 0#7 a 0#7)
  | .cpym l a m => some (wordC 73#7 l a m)
  | .cwait l d a b => some (wordR 74#7 l d a b)
  | .cadd a b => some (wordR 75#7 0#4 0#7 a b)
  | .evwait d => some (wordR 76#7 0#4 d 0#7 0#7)
  | .evpeek d => some (wordR 76#7 1#4 d 0#7 0#7)
  | .coll l d a b => some (wordR 77#7 l d a b)
  | .cstat d a b => some (wordR 78#7 0#4 d a b)
  | .cabort a => some (wordR 78#7 1#4 0#7 a 0#7)
  | .launch l d a b => some (wordR 79#7 l d a b)
  | .mld d a b => some (wordR 80#7 0#4 d a b)
  | .mwb a b => some (wordR 81#7 0#4 0#7 a b)
  | .mma d a b => some (wordR 82#7 0#4 d a b)
  | .mmap a m => some (wordC 83#7 0#4 a m)
  | .mzero d => some (wordR 84#7 0#4 d 0#7 0#7)
  | .mdrn d a b => some (wordR 85#7 0#4 d a b)
  | .mstat d a => some (wordR 86#7 0#4 d a 0#7)
  | .mtest d => some (wordR 86#7 1#4 d 0#7 0#7)
  | .mfenced d => some (wordR 86#7 2#4 d 0#7 0#7)
  | .thmake d a b => some (wordR 87#7 0#4 d a b)
  | .thoff d a => some (wordR 87#7 1#4 d a 0#7)
  | .thshape d a => some (wordR 87#7 2#4 d a 0#7)
  | .msect w a => some (wordR 88#7 w 0#7 a 0#7)
  | .mcommit l d => some (wordR 89#7 l d 0#7 0#7)
  | .msend l a m => some (wordC 90#7 l a m)
  | .mrcnt d => some (wordR 91#7 0#4 d 0#7 0#7)
  | .msig d a b => some (wordR 91#7 1#4 d a b)
  | .mstate d => some (wordR 91#7 2#4 d 0#7 0#7)
  | .mesc d a => some (wordR 91#7 3#4 d a 0#7)
  | .csrr d i => some (wordI 92#7 d 0#7 i)
  | .csrw a i => some (wordI 93#7 0#7 a i)
  | .tret => some (wordR 94#7 0#4 0#7 0#7 0#7)
  | .flags d a => some (wordR 94#7 1#4 d a 0#7)
  | .flagc d a => some (wordR 94#7 2#4 d a 0#7)
  | .tlbinv a b => some (wordR 94#7 3#4 0#7 a b)
  | .scrinv a b => some (wordR 94#7 4#4 0#7 a b)
  | .clock d => some (wordR 94#7 5#4 d 0#7 0#7)
  | .perf d a => some (wordR 94#7 6#4 d a 0#7)
  | .fma d a b c => some (wordQ 3#2 0#2 d a b c)
  | .fnma d a b c => some (wordQ 3#2 1#2 d a b c)
  | .madw d a b c => some (wordQ 3#2 2#2 d a b c)
  | .madl d a b c => some (wordQ 3#2 3#2 d a b c)
  | .cutQueueIssue _ _ => none
  | .rejoin _ => none
  | .seamWaitLimit _ _ => none
  | .seamWaitEnd _ _ => none
  | .yieldExpiry _ => none
  | .quantumEnd _ => none
  | .trapEntry _ => none
  | .homeWrite _ => none
  | .lateStoreFault _ => none
  | .pageIn _ => none
  | .crewMove _ _ => none
  | .scratchWriteDelivery _ => none
  | .jobStart _ => none
  | .jobCompletion _ => none
  | .eventPost _ => none
  | .jobFailure _ => none
  | .pageWaitLimit _ => none
  | .loomStep _ => none
  | .loomDrain _ => none
  | .selfTest _ _ _ => none
  | .millCutStart _ => none
  | .assayCommit _ => none
  | .flushedAttemptStart _ => none
  | .flushedLimit _ => none
  | .returnedCutResume _ => none
  | .refreshStart _ => none
  | .refreshEnd _ => none
  | .chunkArrival _ _ _ _ _ => none
  | .controlFlit _ _ _ _ => none
  | .completionNotice _ _ => none
  | .collectiveDeadline _ _ => none
  | .abortReport _ _ _ _ _ => none
  | .arbiterWord _ _ _ => none
  | .agreementWindowExpiry _ _ => none
  | .isolatedEnding _ _ => none
  | .remoteRequest _ _ _ _ _ _ _ => none
  | .remoteReply _ _ _ => none
  | .remoteDeadline _ => none
  | .linkDown _ => none
  | .retrain _ _ => none
  | .hostWrite _ _ _ => none
  | .hostRead _ _ _ => none
  | .deviceReset => none
  | .qtailWrite _ _ => none
  | .entryTake _ => none
  | .admission _ => none
  | .admissionWaitLimit _ => none
  | .preMigration _ _ _ _ => none
  | .dispatch _ => none
  | .launchCompletion _ => none
  | .sliceEnd _ => none
  | .drainDeadline _ => none
  | .preemptionDeadline _ => none
  | .preemptionReport _ => none
  | .cutResume _ _ _ => none
  | .contextReload _ => none
  | .forcedContextReset _ => none
  | .create _ => none
  | .reForm _ => none
  | .destroy _ => none
  | .replayAll _ => none
  | .ownershipReload => none
  | .checkpointSave => none
  | .checkpointAbort => none
  | .checkpointRestore => none
  | .checkpointDone => none
  | .halt _ => none
  | .resume _ => none
  | .debugStop _ _ => none
  | .dump _ => none
  | .sample _ _ => none
  | .fwbaseWrite _ _ _ => none
  | .fwctlWrite _ _ _ => none
  | .pmapWrite _ _ => none
  | .sdropWrite _ _ => none
  | .qstatWrite _ _ => none
  | .msumWrite _ _ => none
  | .mderrWrite _ _ _ => none
  | .brerrWrite _ _ => none
  | .memerrWrite _ _ => none
  | .memaddrWrite _ _ => none
  | .lhealthWrite _ _ => none
  | .lkstatWrite _ _ => none
  | .prstatWrite _ _ => none
  | .walkerrWrite _ => none
  | .smpheadWrite _ => none
  | .eligWrite _ _ _ _ => none
  | .stallWrite _ _ _ _ => none
  | .registerWrite _ _ => none
  | .illegalInstruction _ => none
  | .resultArrival _ _ => none
  | .schedulerCycle => none
  | .flitResend _ _ => none
  | .ucieModuleRetirement _ => none
  | .completionRecordWaitLimit _ => none
  | .communicatorCommandDone => none
  | .ownershipReloadDone => none

/-- The bytes of an encoded instruction. -/
def encode (i : Instr) : Option (List Byte) := (encodeWord i).map bytesOfWord

end Sys2Proof
end

