-- ==== Sys2Proof/Machine/Bits.lean ====
section
/-! DEFINITION. Bit fields, byte order and ordered lists: the helpers that every other definition of the machine shares. -/

namespace Sys2Proof.Machine

/-- Bits `lo` to `lo + len - 1` of a 64-bit word, as a number. -/
def fld (w : W64) (lo len : Nat) : Nat := (w.toNat >>> lo) % 2 ^ len

/-- `w` with its field of `len` bits at `lo` holding `v` modulo 2^len. -/
def putFld (w : W64) (lo len v : Nat) : W64 :=
  BitVec.ofNat 64 (w.toNat - fld w lo len * 2 ^ lo + (v % 2 ^ len) * 2 ^ lo)

/-- Bit `i` of a 64-bit word. -/
def bit (w : W64) (i : Nat) : Bool := w.toNat.testBit i

/-- The `k` bytes of a number, least significant first (R2). -/
def bytesLE : Nat → Nat → List Byte
  | 0, _ => []
  | k + 1, n => BitVec.ofNat 8 n :: bytesLE k (n / 256)

/-- The number that bytes hold, least significant first (R2). -/
def natLE : List Byte → Nat
  | [] => 0
  | b :: bs => b.toNat + 256 * natLE bs

/-- A value of `w` bits filled to 64 with copies of its top bit. -/
def signFill (w n : Nat) : W64 :=
  if n % 2 ^ w < 2 ^ (w - 1) then BitVec.ofNat 64 (n % 2 ^ w) else BitVec.ofInt 64 ((n % 2 ^ w : Nat) - (2 ^ w : Nat) : Int)

/-- The low `w` bits of a number as a signed integer. -/
def signedOf (w n : Nat) : Int :=
  if n % 2 ^ w < 2 ^ (w - 1) then (n % 2 ^ w : Nat) else (n % 2 ^ w : Nat) - (2 ^ w : Nat)

/-- The 64 bits of an integer modulo 2^64. -/
def ofInt (n : Int) : W64 := BitVec.ofInt 64 n

/-- The quotient rounded up. -/
def ceilDiv (n d : Nat) : Nat := (n + d - 1) / d

/-- Inserts by a key, keeping ascending keys; equal keys keep their order. -/
def insertBy {α : Type} (key : α → Nat) (x : α) : List α → List α
  | [] => [x]
  | y :: ys => if key x < key y then x :: y :: ys else y :: insertBy key x ys

/-- A list in ascending order of a key, equal keys in their first order. -/
def sortBy {α : Type} (key : α → Nat) (xs : List α) : List α := xs.foldl (fun acc x => insertBy key x acc) []

/-- A list without repeats, the first of each kept. -/
def distinct {α : Type} [DecidableEq α] (xs : List α) : List α :=
  xs.foldl (fun acc x => if x ∈ acc then acc else acc ++ [x]) []

/-- The list with element `i` replaced, unchanged beyond its end. -/
def setAt {α : Type} (xs : List α) (i : Nat) (x : α) : List α := xs.set i x

/-- The least element of a list of numbers, or `d` for the empty list. -/
def leastOf (d : Nat) : List Nat → Nat
  | [] => d
  | x :: xs => xs.foldl Nat.min x

/-- The lowest number from `lo` below `lo + n` that a list does not hold. -/
def lowestFree : Nat → Nat → List Nat → Option Nat
  | _, 0, _ => none
  | lo, n + 1, used => if lo ∈ used then lowestFree (lo + 1) n used else some lo

/-- A lane mask from the lanes a test admits. -/
def maskOf (n : Nat) (p : Nat → Bool) : W32 :=
  (List.range n).foldl (fun m i => if p i then m ||| (1#32 <<< i) else m) 0#32

/-- Whether lane `i` is in a mask. -/
def inMask (m : W32) (i : Nat) : Bool := m.toNat.testBit i

/-- The lanes of a mask, ascending. -/
def lanesOf (m : W32) : List Nat := (List.range 32).filter (inMask m)

/-- The number of lanes of a mask. -/
def laneCount (m : W32) : Nat := (lanesOf m).length

/-- The bit length of a number; 0 for 0. -/
def bitLen (n : Nat) : Nat := if n = 0 then 0 else Nat.log2 n + 1

end Sys2Proof.Machine
end

