-- ==== Sys2Proof/Machine/Numbers.lean ====
section
/-! DEFINITION. Numbers to the last bit (R53 to R71): the element types, the exact value of an encoding, the one rounding
that turns an exact value into an encoding, and the exact arithmetic that instructions round. -/

namespace Sys2Proof.Machine

/-! ## Flags of R64, as the bits of ASF (R149) -/

def flagNX : Nat := 1
def flagUF : Nat := 2
def flagOF : Nat := 4
def flagDZ : Nat := 8
def flagIV : Nat := 16

/-! ## Types -/

/-- The width in bits of element type ET (R54, R55, R57). -/
def width (et : Nat) : Nat :=
  match et with
  | 0 | 1 | 12 | 13 | 14 => 8
  | 2 | 3 | 8 | 9 => 16
  | 4 | 5 | 10 => 32
  | 6 | 7 | 11 => 64
  | _ => 4

/-- Whether an element type is a signed integer type. -/
def isSigned (et : Nat) : Bool := et == 0 || et == 2 || et == 4 || et == 6

/-- Whether an element type is an integer type (R54). -/
def isInt (et : Nat) : Bool := et < 8

/-- The integer type of `w` bits, signed or not. -/
def intType (w : Nat) (signed : Bool) : Nat :=
  match w with
  | 8 => if signed then 0 else 1
  | 16 => if signed then 2 else 3
  | 32 => if signed then 4 else 5
  | _ => if signed then 6 else 7

/-- `Extend(ET, bits)`: the filling of a result (R53). -/
def extend (et n : Nat) : W64 :=
  if isSigned et then signFill (width et) n else BitVec.ofNat 64 (n % 2 ^ width et)

/-- The low bits of a register that ET reads, unsigned (R53). -/
def lowBits (et : Nat) (v : W64) : Nat := v.toNat % 2 ^ width et

/-- The integer an integer type reads (R53, R54). -/
def intValue (et : Nat) (v : W64) : Int :=
  if isSigned et then signedOf (width et) v.toNat else (lowBits et v : Nat)

/-- `Wrap(ET, n)` filled (R61, R110). -/
def wrapTo (et : Nat) (n : Int) : W64 := extend et (n % (2 ^ width et : Nat)).toNat

/-- The least and the greatest value of an integer type (R54). -/
def intMin (et : Nat) : Int := if isSigned et then -(2 ^ (width et - 1) : Nat) else 0
def intMax (et : Nat) : Int := if isSigned et then (2 ^ (width et - 1) : Nat) - 1 else (2 ^ width et : Nat) - 1

/-- `Saturate(ET, n)` for an integer type (R61). -/
def saturate (et : Nat) (n : Int) : Int := if n < intMin et then intMin et else if intMax et < n then intMax et else n

/-- How the top exponent of a floating type is read (R55). -/
inductive TopKind where
  | ieee | e4m3 | e2m1
  deriving DecidableEq, Repr

/-- The layout of a floating type: exponent bits, fraction bits, bias (R55). -/
structure Fmt where
  ebits : Nat
  mbits : Nat
  bias : Nat
  top : TopKind
  deriving DecidableEq, Repr

/-- The floating types (R55). -/
def fmtOf (et : Nat) : Option Fmt :=
  match et with
  | 8 => some ⟨5, 10, 15, .ieee⟩
  | 9 => some ⟨8, 7, 127, .ieee⟩
  | 10 => some ⟨8, 23, 127, .ieee⟩
  | 11 => some ⟨11, 52, 1023, .ieee⟩
  | 12 => some ⟨4, 3, 7, .e4m3⟩
  | 13 => some ⟨5, 2, 15, .ieee⟩
  | 15 => some ⟨2, 1, 1, .e2m1⟩
  | _ => none

/-- The canonical NaN of a type; 0 where the type has none (R55, R59). -/
def canonNaN (et : Nat) : Nat :=
  match et with
  | 8 => 0x7E00
  | 9 => 0x7FC0
  | 10 => 0x7FC00000
  | 11 => 0x7FF8000000000000
  | 12 => 0x7F
  | 13 => 0x7E
  | _ => 0

/-! ## Exact values -/

/-- A value: a NaN (signalling or quiet), an infinity, or ±m·2^e exactly. -/
inductive Exact where
  | nan (sig : Bool)
  | inf (neg : Bool)
  | fin (neg : Bool) (m : Nat) (e : Int)
  deriving DecidableEq, Repr

/-- The value of the encoding of a floating type (R55, R56). -/
def floatValue (f : Fmt) (n : Nat) : Exact :=
  let neg := n.testBit (f.ebits + f.mbits)
  let ex := (n >>> f.mbits) % 2 ^ f.ebits
  let fr := n % 2 ^ f.mbits
  let u : Int := 1 - (f.bias : Int) - f.mbits
  if ex = 0 then .fin neg fr u
  else if ex = 2 ^ f.ebits - 1 ∧ f.top = .ieee then
    if fr = 0 then .inf neg else .nan (fr < 2 ^ (f.mbits - 1))
  else if ex = 2 ^ f.ebits - 1 ∧ f.top = .e4m3 ∧ fr = 2 ^ f.mbits - 1 then .nan false
  else .fin neg (2 ^ f.mbits + fr) (u + ex - 1)

/-- One term of a ds8 byte in eighths (R57). -/
def ds8Term (s : Bool) (k : Nat) : Int := if k = 0 then 0 else if s then -(2 ^ (k - 1) : Nat) else (2 ^ (k - 1) : Nat)

/-- `DS8Fixed(b)`: eight times the value of a ds8 byte (R57). -/
def ds8Fixed (b : Nat) : Int := ds8Term (b.testBit 7) ((b / 16) % 8) + ds8Term (b.testBit 3) (b % 8)

/-- An integer over 2^k as a value. -/
def ofScaled (n : Int) (k : Nat) : Exact := .fin (n < 0) n.natAbs (-(k : Int))

/-- `Value(ET, bits)` (R54, R55, R57). -/
def value (et : Nat) (v : W64) : Exact :=
  if isInt et then ofScaled (intValue et v) 0
  else if et = 14 then ofScaled (ds8Fixed (lowBits 14 v)) 3
  else match fmtOf et with
    | some f => floatValue f (lowBits et v)
    | none => .nan false

/-- Whether an encoding is a nonzero subnormal of a floating type. -/
def isSubnormal (et : Nat) (v : W64) : Bool :=
  match fmtOf et with
  | some f => (lowBits et v >>> f.mbits) % 2 ^ f.ebits == 0 && lowBits et v % 2 ^ f.mbits != 0
  | none => false

/-- An input as the vector unit reads it: under FTZ a subnormal reads as zero of its sign (R62). -/
def readNum (ftz : Bool) (et : Nat) (v : W64) : Exact :=
  match value et v with
  | .fin neg m e => if ftz && isSubnormal et v then .fin neg 0 0 else .fin neg m e
  | x => x

/-- IV for a signalling NaN among inputs (R56, R64). -/
def sigFlag (xs : List Exact) : Nat := if xs.any (· == .nan true) then flagIV else 0

/-! ## Rounding -/

/-- What a rounding reads of MODE, and its dither (R59, R63). -/
structure Rnd where
  rm : Nat
  sat : Bool
  ftz : Bool
  dither : Nat
  deriving DecidableEq, Repr

/-- Whether the higher neighbour is picked: `r` of `u` parts above the lower one, `r` not 0 (R59). `up` decides a tie of RNE. -/
def pickHi (c : Rnd) (neg up : Bool) (r u : Nat) : Bool :=
  match c.rm with
  | 0 => decide (u < 2 * r) || (decide (2 * r = u) && up)
  | 1 => false
  | 2 => !neg
  | 3 => neg
  | 4 => decide (u ≤ 2 * r)
  | _ => decide (2 ^ 24 ≤ r * 2 ^ 24 / u + c.dither)

/-- `m` with its low `sh` bits rounded away, and whether it changed (R59). -/
def roundShift (c : Rnd) (neg : Bool) (m sh : Nat) : Nat × Bool :=
  let q := m >>> sh
  let r := m % 2 ^ sh
  if r = 0 then (q, false) else (if pickHi c neg (q % 2 == 1) r (2 ^ sh) then q + 1 else q, true)

/-- m·2^e rounded to an integer magnitude, and whether it changed (R59). -/
def roundInt (c : Rnd) (neg : Bool) (m : Nat) (e : Int) : Nat × Bool :=
  if 0 ≤ e then (m <<< e.toNat, false) else roundShift c neg m (-e).toNat

/-- The encoding of ±M, the largest finite value of a floating type (R55). -/
def maxFinite (f : Fmt) : Nat :=
  match f.top with
  | .ieee => (2 ^ f.ebits - 1) * 2 ^ f.mbits - 1
  | .e4m3 => 2 ^ (f.ebits + f.mbits) - 2
  | .e2m1 => 2 ^ (f.ebits + f.mbits) - 1

/-- The magnitude an overflow gives (R60). -/
def overflowMag (f : Fmt) (et : Nat) (c : Rnd) (neg : Bool) : Nat :=
  match f.top with
  | .ieee =>
    let infinity := (2 ^ f.ebits - 1) * 2 ^ f.mbits
    if c.sat || c.rm == 1 || (c.rm == 2 && neg) || (c.rm == 3 && !neg) then maxFinite f else infinity
  | .e4m3 => if c.sat then maxFinite f else canonNaN et
  | .e2m1 => maxFinite f

/-- A magnitude with its sign bit. -/
def withSign (f : Fmt) (neg : Bool) (n : Nat) : Nat := if neg then n + 2 ^ (f.ebits + f.mbits) else n

/-- `RoundTo` of ±m·2^e, m not 0, to a floating type: encoding and flags (R59, R60, R62). -/
def roundFloat (f : Fmt) (et : Nat) (c : Rnd) (neg : Bool) (m : Nat) (e : Int) : Nat × Nat :=
  let p := f.mbits + 1
  let len := bitLen m
  let u : Int := 1 - (f.bias : Int) - f.mbits
  let (q, inexact) := roundShift c neg m (len - p)
  let qe : Int := e + ((len - p : Nat) : Int)
  if (bitLen q : Int) + qe ≤ 1 - (f.bias : Int) then
    if c.ftz then (withSign f neg 0, flagUF + flagNX)
    else
      let (s, ix) := if u ≤ e then (m <<< (e - u).toNat, false) else roundShift c neg m (u - e).toNat
      (withSign f neg s, if ix then flagUF + flagNX else 0)
  else
    let sh := p - bitLen q
    let q1 := if bitLen q > p then q / 2 else q <<< sh
    let e1 : Int := if bitLen q > p then qe + 1 else qe - (sh : Int)
    let n := ((e1 + f.mbits + f.bias).toNat) * 2 ^ f.mbits + (q1 - 2 ^ f.mbits)
    if maxFinite f < n then (withSign f neg (overflowMag f et c neg), flagOF + flagNX)
    else (withSign f neg n, if inexact then flagNX else 0)

/-- The magnitudes ds8 holds, in eighths, ascending (R57). -/
def ds8Mags : List Nat :=
  let ps := (List.range 7).map (2 ^ ·)
  sortBy id (distinct (0 :: ps ++ ps.flatMap (fun a => (ps.filter (· ≤ a)).flatMap fun b => [a + b, a - b])))

/-- The canonical encoding of a magnitude in eighths that ds8 holds, sign apart: terms (exponent codes, sign of term 2)
by fewest terms, then smallest term 1 (R58). -/
def ds8Mag (n : Nat) : Nat × Nat :=
  if n = 0 then (0, 0)
  else match (List.range 7).find? (fun k => 2 ^ k == n) with
    | some k => ((k + 1) * 16, 1)
    | none =>
      match (List.range 7).findSome? (fun k =>
        match (List.range (k + 1)).find? (fun j => 2 ^ k + 2 ^ j == n) with
        | some j => some ((k + 1) * 16 + (j + 1))
        | none => match (List.range (k + 1)).find? (fun j => n + 2 ^ j == 2 ^ k) with
          | some j => some ((k + 1) * 16 + 8 + (j + 1))
          | none => none) with
      | some b => (b, 2)
      | none => (0, 0)

/-- The canonical ds8 byte of ±n eighths (R58): negating flips S1, and S2 where K2 is not 0. -/
def ds8Byte (neg : Bool) (n : Nat) : Nat :=
  let b := (ds8Mag n).1
  if neg && b != 0 then (b ^^^ 0x80) ^^^ (if b % 8 = 0 then 0 else 8) else b

/-- `RoundTo` to ds8 (R58, R59, R60). -/
def roundDs8 (c : Rnd) (neg : Bool) (m : Nat) (e : Int) : Nat × Nat :=
  let e8 := e + 3
  let (x, sh) := if 0 ≤ e8 then (m <<< e8.toNat, 0) else (m, (-e8).toNat)
  if 128 * 2 ^ sh < x then (ds8Byte neg 128, flagOF + flagNX)
  else
    let lo := (ds8Mags.filter fun a => a * 2 ^ sh ≤ x).foldl Nat.max 0
    if lo * 2 ^ sh = x then (ds8Byte neg lo, 0)
    else
      let hi := leastOf 128 (ds8Mags.filter fun a => x < a * 2 ^ sh)
      let up := (ds8Mag hi).2 < (ds8Mag lo).2
      (ds8Byte neg (if pickHi c neg up (x - lo * 2 ^ sh) ((hi - lo) * 2 ^ sh) then hi else lo), flagNX)

/-- `RoundTo` to an integer type (R59, R61): the clamp sets IV alone. -/
def roundToInt (et : Nat) (c : Rnd) (neg : Bool) (m : Nat) (e : Int) : Nat × Nat :=
  let (q, inexact) := if 80 ≤ e ∧ m ≠ 0 then (2 ^ 80, false) else roundInt c neg m e
  let n : Int := if neg then -(q : Int) else q
  let r := saturate et n
  ((r % (2 ^ width et : Nat)).toNat, if r = n then (if inexact then flagNX else 0) else flagIV)

/-- `RoundTo(ET, x, RM)`: the encoding, in the low bits, and the flags (R59 to R62). -/
def roundTo (et : Nat) (c : Rnd) (x : Exact) : Nat × Nat :=
  match x with
  | .nan _ => (canonNaN et, if isInt et || et == 14 || et == 15 then flagIV else 0)
  | .inf neg =>
    if isInt et then (((if neg then intMin et else intMax et) % (2 ^ width et : Nat)).toNat, flagIV)
    else if et = 14 then (ds8Byte neg 128, 0)
    else match fmtOf et with
      | some f =>
        match f.top with
        | .ieee => (withSign f neg ((2 ^ f.ebits - 1) * 2 ^ f.mbits), 0)
        | _ => (withSign f neg (overflowMag f et c neg), 0)
      | none => (0, 0)
  | .fin neg m e =>
    if isInt et then roundToInt et c neg m e
    else if et = 14 then (if m = 0 then (0, 0) else roundDs8 c neg m e)
    else match fmtOf et with
      | some f => if m = 0 then (withSign f neg 0, 0) else roundFloat f et c neg m e
      | none => (0, 0)

/-- A rounding that keeps subnormals, saturates as told and dithers nothing: RNE (R67, R68, R138). -/
def rne (sat : Bool) : Rnd := ⟨0, sat, false, 0⟩

/-! ## Exact arithmetic -/

/-- The signed mantissa of ±m·2^e at the exponent `k`, no greater than e. -/
def mantAt (neg : Bool) (m : Nat) (e k : Int) : Int :=
  let n : Int := ((m <<< (e - k).toNat : Nat) : Int)
  if neg then -n else n

/-- An exact sum; an exact zero is +0, or −0 under RDN, unless both addends are −0 (R59; DEDUCED, log 40); IV for ∞ − ∞ (R64). -/
def numAdd (rm : Nat) (x y : Exact) : Exact × Nat :=
  match x, y with
  | .nan _, _ => (.nan false, 0)
  | _, .nan _ => (.nan false, 0)
  | .inf a, .inf b => if a = b then (.inf a, 0) else (.nan false, flagIV)
  | .inf a, _ => (.inf a, 0)
  | _, .inf b => (.inf b, 0)
  | .fin na ma ea, .fin nb mb eb =>
    let k := if ma = 0 then eb else if mb = 0 then ea else (if ea ≤ eb then ea else eb)
    let n := (if ma = 0 then 0 else mantAt na ma ea k) + (if mb = 0 then 0 else mantAt nb mb eb k)
    if n = 0 then (.fin (if ma = 0 ∧ mb = 0 ∧ na ∧ nb then true else rm == 3) 0 0, 0)
    else (.fin (n < 0) n.natAbs k, 0)

/-- The value negated. -/
def numNeg : Exact → Exact
  | .nan s => .nan s
  | .inf a => .inf !a
  | .fin a m e => .fin (!a) m e

/-- An exact product; 0 · ∞ is invalid (R64). -/
def numMul (x y : Exact) : Exact × Nat :=
  match x, y with
  | .nan _, _ => (.nan false, 0)
  | _, .nan _ => (.nan false, 0)
  | .inf a, .inf b => (.inf (a != b), 0)
  | .inf a, .fin b m _ => if m = 0 then (.nan false, flagIV) else (.inf (a != b), 0)
  | .fin a m _, .inf b => if m = 0 then (.nan false, flagIV) else (.inf (a != b), 0)
  | .fin a m e, .fin b n g => (.fin (a != b) (m * n) (e + g), 0)

/-- Whether a value is a NaN. -/
def isNaN : Exact → Bool
  | .nan _ => true
  | _ => false

/-- Whether a value is an infinity. -/
def isInf : Exact → Bool
  | .inf _ => true
  | _ => false

/-- The exact sum of terms that are all finite. -/
def finiteSum (rm : Nat) : List Exact → Exact
  | [] => .fin false 0 0
  | x :: xs => xs.foldl (fun acc y => (numAdd rm acc y).1) x

/-- An exact sum of many terms, in no order (R68, R162): NaN where a term is, or where infinities of both signs meet, which sets IV; that
a NaN among them changes nothing of IV is the model's reading (DESIGN CHOICE, log 98). -/
def numSum (rm : Nat) (xs : List Exact) : Exact × Nat :=
  let both := xs.any (· == .inf true) && xs.any (· == .inf false)
  (if xs.any isNaN || both then .nan false else (xs.find? isInf).getD (finiteSum rm xs), if both then flagIV else 0)

/-- Whether one value is less than another; false where either is NaN (R101). -/
def numLt (x y : Exact) : Bool :=
  match x, y with
  | .nan _, _ => false
  | _, .nan _ => false
  | .inf a, .inf b => a && !b
  | .inf a, _ => a
  | _, .inf b => !b
  | .fin na ma ea, .fin nb mb eb =>
    let k := if ma = 0 then eb else if mb = 0 then ea else (if ea ≤ eb then ea else eb)
    decide ((if ma = 0 then 0 else mantAt na ma ea k) < (if mb = 0 then 0 else mantAt nb mb eb k))

/-- Whether two values are equal, +0 equal to −0; false where either is NaN (R101). -/
def numEq (x y : Exact) : Bool :=
  match x, y with
  | .nan _, _ => false
  | _, .nan _ => false
  | x, y => !numLt x y && !numLt y x

/-- Whether a value is zero. -/
def isZero : Exact → Bool
  | .fin _ m _ => m == 0
  | _ => false

/-- The sign of a value. -/
def isNeg : Exact → Bool
  | .nan _ => false
  | .inf a => a
  | .fin a _ _ => a

/-- `E8M0Value(s)`: 2^(s−127), or NaN for 0xFF (R66). -/
def e8m0 (s : Nat) : Exact := if s = 255 then .nan false else .fin false 1 ((s : Int) - 127)

/-- `Dither(J)` of an instruction at byte offset `off` from its kernel's first word, for item index `i` (R63). -/
def dither (seed : W64) (off i j : Nat) : Nat :=
  let m := fun (x : Nat) => BitVec.ofNat 64 x
  let h := seed ^^^ (m off * 0x9E3779B97F4A7C15#64) ^^^ (m i * 0xC2B2AE3D27D4EB4F#64) ^^^ (m j * 0x165667B19E3779F9#64)
  let h := h ^^^ (h >>> 33)
  let h := h * 0xFF51AFD7ED558CCD#64
  let h := h ^^^ (h >>> 33)
  let h := h * 0xC4CEB9FE1A85EC53#64
  let h := h ^^^ (h >>> 33)
  fld h 40 24

end Sys2Proof.Machine
end

