-- ==== Sys2Proof/Config.lean ====
section
/-! DEFINITION. The figures the device fixes (R5, R14 and the rules cited) and the values the manual leaves open. -/

namespace Sys2Proof.Config

/-- Benches of the device, 16 rows of 16 (R5, R6). -/
def benches : Nat := 256
/-- Axnex links and UCIe modules (R374, R322). -/
def links : Nat := 16
def ucieModules : Nat := 8
/-- DRAM stacks (R5). -/
def stackCount : Nat := 12
/-- Lane cuts a quadrant holds (R21). -/
def slotsPerQuad : Nat := 16
/-- Pattern cuts live in one launch, and on one Foreman (R21, R23). -/
def boltLimit : Nat := 64
def foremanLimit : Nat := 16
/-- Fragments of one lane cut (R21, R25). -/
def fragLimit : Nat := 8
/-- Lanes of a lane cut and of a Mill cut (R14). -/
def lanes : Nat := 32
def millLanes : Nat := 8
/-- Cycles of the aging override (R31), the seam wait (R174) and the yield (R94). -/
def agingLimit : Nat := 512
def seamWait : Nat := 64
def yieldWait : Nat := 16
/-- Crews of a Bench and capacity of a crew (R213, R29). -/
def crewsPerBench : Nat := 32
def crewCapacity : Nat := 1024
/-- Bytes of a scratch page (R199). -/
def scratchPage : Nat := 2048
/-- Bytes of a Mill's local store (R259); space of a returned Mill cut (R266). -/
def localStore : Nat := 32768
/-- Carter jobs outstanding on one die (R226), records of an event queue (R231), credits of a stream (R222). -/
def jobsPerDie : Nat := 256
def eventQueue : Nat := 64
def credits : Nat := 16
/-- Operations a Loom's sequencer holds (R251); fenced sub-arrays beyond which it goes out of service (R257). -/
def loomQueue : Nat := 4
def fenceLimit : Nat := 8
/-- Mill command queue (R263), section buffer sectors (R259), undo log entries (R273), flushed limit (R276). -/
def millQueue : Nat := 16
def sectorLimit : Nat := 512
def undoLimit : Nat := 512
def flushedLimit : Nat := 65536
/-- Collective operations outstanding on one slot (R294) and status words a slot keeps (R299). -/
def collOutstanding : Nat := 8
def collWords : Nat := 64
/-- Cycles of one microsecond at the arithmetic clock of 940 MHz (R14). -/
def cyclesPerUs : Nat := 940
/-- TLB entries of a Bench, of a die and of a Mill (R14, R259, R360). -/
def l1Tlb : Nat := 96
def l2Tlb : Nat := 16384
def millTlb : Nat := 64
/-- Contexts that hold a profiling lease on one Bench (R390). -/
def leasesPerBench : Nat := 4
/-- Failed resends of one flit that take a link down (R381). -/
def resendLimit : Nat := 16
/-- MiB of device memory; GB/s that the checkpoint engine has, and that one UCIe module carries (R384, R322). -/
def deviceMiB : Nat := 786432
def ckptRate : Nat := 512
def moduleRate : Nat := 250
/-- Entries of a poison list (R384) and launch records of a pre-emption report (R380). -/
def poisonList : Nat := 4096
def reportLaunches : Nat := 240
/-- Bytes of a Loom's weight buffer (R14, R255). -/
def weightBuffer : Nat := 131072
/-- Bytes of an L1 line: the 512-byte line of R14 and R123 (DEDUCED, log 21). -/
def lineBytes : Nat := 512

/-- What a byte of device or host memory that nothing has written reads as: the manual gives DRAM no contents at reset (DESIGN CHOICE, log 2). -/
def unwritten : Byte := 0#8

/-- What `TWOSUM` leaves in `l1` where the exact error of the rounded sum is not a value of ET: R153 calls the error
exactly representable, which a directed rounding or a saturated sum can break, and then the manual gives no value.
A free value of the operands and of MODE (DESIGN CHOICE, log 3). -/
opaque twosumErr : W32 → W64 → W64 → W64

/-- The count of a profiling event that the model does not see: a counter's number, and the cut and the cycle of its reading. R389 names
events of caches, of the network and of waits in engines, whose counts are timing (R40). A free value (DESIGN CHOICE, log 4). -/
opaque unseenCount : Nat → Nat → Nat → BitVec 63

/-- The word of a dump record that holds a cut's predicates: R394 gives the word no layout. A free value of the cut's number and the cycle
of the dump (DESIGN CHOICE, log 5). -/
opaque dumpPreds : Nat → Nat → W64

end Sys2Proof.Config
end

