-- ==== Sys2Proof/Machine/State.lean ====
section
/-! DEFINITION. The state of the device as plain data: everything the manual names, with the rule that names it. -/

namespace Sys2Proof.Machine

/-! ## Register values and predicates -/

/-- A register value with its form (R18): `pat` is pattern form (uniform when the strides are zero), `lanes` is lane
form, item i of the list being lane i's value. -/
inductive RegVal where
  | pat (b : W64) (sx sy sz : W32)
  | lanes (vs : List W64)
  deriving DecidableEq, Repr

/-- A slot of the last-result file (R76): a value, or reserved for outstanding result `id` (`second` marks the remainder
or the error, R77). -/
inductive LSlot where
  | val (v : RegVal)
  | rsv (id : Nat) (second : Bool)
  deriving DecidableEq, Repr

/-- Lower and upper bounds in x, y and z, inclusive; `none` is unbounded (R395). -/
structure Bounds where
  xlo : Option Nat
  xhi : Option Nat
  ylo : Option Nat
  yhi : Option Nat
  zlo : Option Nat
  zhi : Option Nat
  deriving DecidableEq, Repr

/-- A predicate in one of its three forms (R395). -/
inductive PredVal where
  | uni (b : Bool)
  | box (b : Bounds)
  | lanes (m : W32)
  deriving DecidableEq, Repr

/-- An item of a launch by its coordinates (R15). -/
structure Item where
  x : Nat
  y : Nat
  z : Nat
  deriving DecidableEq, Repr

/-- A box of items: lowest corner and extents (R21). -/
structure Box where
  lo : Item
  nx : Nat
  ny : Nat
  nz : Nat
  deriving DecidableEq, Repr

/-- One level of the loop stack: LSTART, LEND, LCNT (R105). -/
structure Level where
  start : W64
  stop : W64
  cnt : W64
  deriving DecidableEq, Repr

/-! ## Cuts -/

/-- The kinds of cut (R21). -/
inductive CutKind where
  | pattern | lane | fragment | stray
  deriving DecidableEq, Repr

/-- Where a cut is held: on the Foreman of a Bench, resident in a quadrant, in the cut queue of a Bench, on a Mill, in the
queue of returned cuts of a Bench (R266), or saved (R36), with the Bench it left. -/
inductive Place where
  | foreman (bench : Nat)
  | quad (bench quad : Nat)
  | queue (bench : Nat)
  | mill (mill : Nat)
  | returned (bench : Nat)
  | saved (bench : Nat)
  deriving DecidableEq, Repr

/-- What a `q` register is bound to (R219, R222): a chute's pop or push end, by the crew's key and the chute number, or a
stream of the cut's crew. -/
inductive Binding where
  | pop (crew chute : Nat)
  | push (crew chute : Nat)
  | stream (crew n : Nat)
  deriving DecidableEq, Repr

/-- A late fault held for delivery (R341): the maker and the sequence number of the faulting access, its item, the TCAUSE
bits, the lowest failing address and lane, the object pointer of the instruction (TLSPC), and what failed: 0 a store or push,
1 an atomic, 2 an engine job. -/
structure LateFault where
  uid : Nat
  seq : Nat
  il : Nat
  causes : W64
  addr : W64
  lanes : W64
  pc : W64
  what : Nat
  deriving DecidableEq, Repr

/-- A fence a cut opened (R181 to R183): its sequence number, kind and coverage bits, scope, its cut's launch, the cuts
whose accesses it covers, and the access number below which they are covered. `done` is set once it is known complete. -/
structure Fence where
  seq : Nat
  kind : Nat
  mills : Bool
  jobs : Bool
  scope : Nat
  lid : Nat
  cover : List Nat
  upto : Nat
  done : Bool
  deriving DecidableEq, Repr

/-- Why a cut is not eligible (R32, R33), with what ends the wait. -/
inductive Wait where
  | none
  | results                                     -- outstanding results (R83, R172)
  | fence (slot seq : Nat)                      -- FWAIT (R184)
  | fenceSlot                                   -- a ninth FENCE (R183)
  | barrier (crew bar phase : Nat)              -- BAR, BARW (R216)
  | chutePush (crew chute : Nat)                -- a full chute (R220)
  | chutePop (crew chute : Nat)                 -- an empty chute (R220)
  | streamPop (crew n : Nat)                    -- an empty stream (R222)
  | event (crew : Nat)                          -- EVWAIT (R231)
  | counter                                     -- CWAIT (R230)
  | page (since : Nat)                          -- PGWAIT (R144): the cycle it began
  | coll (cid gen seq : Nat)                    -- CSTAT (R300)
  | collLimit (cid : Nat)                       -- a ninth COLL (R294)
  | seam (pc : W64) (since : Nat) (seaming : Bool)  -- SEAM (R173, R174): rejoin or seam wait
  | yield (till : Nat)                          -- YIELD (R94)
  | claim                                       -- a Loom claimed by another (R234)
  | loomFull                                    -- a fifth Loom operation (R251)
  | loomDrain (accs : List (Nat × Nat))         -- MDRN, MSTAT, MTEST (R251, R258): Looms with accumulators, 4 the whole Loom
  | token                                       -- power tokens (R252, R375)
  | jobs                                        -- 256 jobs outstanding (R226)
  | millFull (mill : Nat)                       -- a full Mill command queue (R263)
  | scratchPage (accs : List (Nat × Nat))       -- a scratch page fault (R204): positions with their scratch addresses
  | trap                                        -- trap entry (R338)
  | quantum                                     -- the quantum has ended for this cut (R38)
  | commit                                      -- MCOMMIT offered to the Assay unit (R274)
  | flushed                                     -- a flushed attempt awaiting admission (R276)
  | order                                       -- memory order: a fence or acquire of the cut (R129, R188)
  | foremanFull                                 -- gathering onto a full Foreman (R213)
  | tlbinv                                      -- TLBINV, SCRINV (R349)
  deriving DecidableEq, Repr

/-- Where an access reaches memory: device memory by physical address, host memory by host physical address, or a remote
device's object (R359, R363). -/
inductive Loc where
  | dev (p : Nat)
  | host (p : Nat)
  | remote (fid rasid robj off : Nat)
  deriving DecidableEq, Repr

/-- One element that a lane of an outstanding load reads: the lane, which element of the lane's (R133), where it reads, the
object pointer, and once a remote reply or an atomic has performed, the value (R129, R139, R363). -/
structure LaneRead where
  lane : Nat
  elem : Nat
  loc : Loc
  ptr : W64
  got : Option (List Byte)
  errored : Bool
  deriving DecidableEq, Repr

/-- What an outstanding instruction awaits (R77): a computed value (with the second value of `DIV` and the like), a load
through L1 (`LD`) or from home, an atomic's returned values, or a value delivered at the next quantum (R38). -/
inductive Pending where
  | value (v : RegVal) (second : Option RegVal)
  | load (l1 acquire : Bool) (size elems : Nat) (reads : List LaneRead)
  | atomic (size : Nat) (reads : List LaneRead)
  | later
  deriving DecidableEq, Repr

/-- An outstanding instruction of a cut (R77, R81): its number, address, first destination specifier, governed lanes
(`whole` when every item of the cut is governed), the predicate it may set, the flags each lane raises at completion (R150), the
remaining lookahead window, and what it awaits. `uniform` marks a load made once for the cut (R136), `piece` the lanes of an exactly stopped
instruction that performed: they write their registers and shift nothing (R127). -/
structure Outst where
  id : Nat
  seq : Nat
  pc : W64
  dst : Opnd
  et : Nat
  scope : Nat
  gov : W32
  whole : Bool
  uniform : Bool
  flagPred : Option Nat
  flagged : W32
  flags : List Nat
  la : Nat
  second : Bool
  piece : Bool
  what : Pending
  deriving DecidableEq, Repr

/-- The restorable context of a cut: what a Mill section restores (R275) and a save keeps (R36). -/
structure Ctx where
  pc : W64
  v : List RegVal
  o : List RegVal
  l0 : LSlot
  l1 : LSlot
  preds : List PredVal
  mode : W32
  loops : List Level
  fences : List (Option Fence)
  fseq : Nat
  asf : W64
  tenable : W64
  active : W32
  deriving DecidableEq, Repr

/-- The trap CSRs of a cut (R340) and what trap entry saves (R338). -/
structure TrapCsrs where
  tcause : W64
  tpc : W64
  taddr : W64
  tlanes : W64
  tdone : W64
  tparent : W64
  tsibs : W64
  tlspc : W64
  inh : Bool
  hv : Bool
  off : W32
  sl0 : RegVal
  sl1 : RegVal
  sloops : List Level
  deriving DecidableEq, Repr

/-- Causes raised and not yet entered: a trap waits for outstanding results (R338). -/
structure TrapPend where
  causes : W64
  pc : W64
  addr : W64
  lanes : W64
  done : W64
  lspc : W64
  deriving DecidableEq, Repr

/-- The states of a Mill section (R272). -/
inductive SecState where
  | out | ordinary | flushed
  deriving DecidableEq, Repr

/-- An engine effect a Mill section holds until its commit (R265, R274): a Carter job or a Mill command, by its card. -/
structure HeldIssue where
  op : Nat
  card : List W64
  coord : BitVec 14
  il : Nat
  pc : W64
  deriving DecidableEq, Repr

/-- The section state of a Mill cut (R272 to R281). Signatures are 512 bits; the section's width is `width`; `implicit` names the part
of the cut whose one instruction the section is (R283). -/
structure Section where
  state : SecState
  pc : W64
  width : Nat
  limit : Nat
  replays : Nat
  total : Nat
  attempt : Nat
  cause : Nat
  ranFlushed : Bool
  nextFlushed : Bool
  flushedCount : Nat
  returnTraps : Nat
  onBench : Bool
  implicit : Option Nat
  openSeq : Nat
  rs : BitVec 512
  ws : BitVec 512
  cs : BitVec 512
  prevSig : BitVec 512
  lastCs : BitVec 512
  lastHit : BitVec 512
  buffer : List Host.Cell
  undo : List (Nat × List Byte)
  held : List HeldIssue
  restore : Option Ctx
  unfrozen : Nat
  committing : Bool
  commitDst : Opnd
  exited : W32
  deriving DecidableEq, Repr

/-- A cut (R21). `uid` is the model's own number for it; `anc` the numbers of the cuts it descends from. `replay` holds, in
the layout of TDONE, the lanes that performed before the trap whose `TRET` replays the instruction at the pc (R125, R348),
and `part` what they returned: register of the list, lane, value (R127). `exiting` marks a Mill cut whose `EXIT` waits for
its section's commit (R275), `arrived` the barrier and phase a `BAR` waits in, `solo` the barrier phases of a cut in no crew
(R216), `leaving` one whose save waits for its outstanding results (R83), `issuing` the positions and cards that the engine instruction at the
pc has checked and not yet issued (R226, R263, R252), and `haltPc` one that stopped at its pc by a trigger, which
does not trigger again (R392). `age` is the cycle in which it
last issued, `born` the cycle in which it took its present place (R31, R351). -/
structure Cut where
  uid : Nat
  lid : Nat
  kind : CutKind
  frag : Nat
  mill : Bool
  first : Nat
  parent : Nat
  box : Box
  items : List Item
  ctx : Ctx
  trap : TrapCsrs
  pend : Option TrapPend
  late : List LateFault
  outst : List Outst
  binds : List (Option Binding)
  crew : Option Nat
  role : Nat
  allot : Nat
  cls : Nat
  place : Place
  wait : Wait
  anc : List Nat
  age : Nat
  born : Nat
  retired : Nat
  rgen : Nat
  effects : Bool
  sec : Section
  localMem : List Host.Cell
  arrived : Option (Nat × Nat)
  solo : List Nat
  replay : W64
  part : List (Nat × Nat × W64)
  exiting : Bool
  leaving : Bool
  issuing : List (Nat × List W64)
  haltPc : Bool
  deriving DecidableEq, Repr

/-! ## Memory traffic -/

/-- One lane of an atomic (R139): lane, item index, operand and expected value. -/
structure AtomLane where
  lane : Nat
  il : Nat
  opnd : W64
  expect : W64
  deriving DecidableEq, Repr

/-- What a queued write does at its home (R134, R140): write bytes at offsets of its sector, or combine lanes of an atomic on
one element. -/
inductive WriteOp where
  | bytes (bs : List (Nat × Byte))
  | atomic (aop et : Nat) (lanes : List AtomLane)
  deriving DecidableEq, Repr

/-- A store or atomic that has issued and not performed (R177): the store queue entry of its Bench. `outst` links an atomic
to the outstanding instruction that awaits its values; `job` links a write to the Carter job or collective that makes it;
`release` marks an `STL`, `order` holds the fences whose covered stores must perform first (R134, R188), and `anc` the numbers of
the cuts from which its maker descends (R187). -/
structure Store where
  id : Nat
  seq : Nat
  uid : Nat
  anc : List Nat
  cutid : W64
  lid : Nat
  asid : Nat
  bench : Nat
  scope : Nat
  release : Bool
  order : List Fence
  loc : Loc
  op : WriteOp
  outst : Option Nat
  job : Option Nat
  held : Bool
  il : Nat
  ptr : W64
  pc : W64
  deriving DecidableEq, Repr

/-- A line held by a Bench's L1 (R129, R190). -/
structure L1Line where
  bench : Nat
  base : Nat
  bytes : List Byte
  deriving DecidableEq, Repr

/-- A B tile that the weight buffer of a Loom holds (R253, R255): its Loom, and its bytes as they were fetched, piece by piece with
the device address of each. -/
structure WTile where
  loom : Nat
  pieces : List (Nat × List Byte)
  deriving DecidableEq, Repr

/-- The units that hold translations (R360). -/
inductive TlbUnit where
  | bench (n : Nat)
  | die (n : Nat)
  | mill (n : Nat)
  deriving DecidableEq, Repr

/-- The attributes of an object entry (R357): kind 0 device, 1 host, 2 remote. -/
structure ObjEnt where
  len : Nat
  kind : Nat
  large : Bool
  dev : Bool
  x : Bool
  w : Bool
  r : Bool
  plist : Nat
  fid : Nat
  rasid : Nat
  robj : Nat
  deriving DecidableEq, Repr

/-- A TLB entry: an object's entry with one present page (R360). -/
structure TlbEnt where
  unit : TlbUnit
  asid : Nat
  obj : Nat
  page : Nat
  ent : ObjEnt
  frame : Nat
  millx : Bool
  deriving DecidableEq, Repr

/-- A physical flaw of a DRAM sector (R381): found at its next read; a transient one is clean on the retry. -/
structure Flaw where
  sector : Nat
  lasting : Bool
  deriving DecidableEq, Repr

/-- An effect awaiting the quantum commit (R38). -/
inductive QEffect where
  | store (w : Store)
  | push (crew chute : Nat) (entry : List W64)
  | close (crew chute : Nat) (popEnd : Bool)
  | job (op : Nat) (card : List W64) (coord : BitVec 14) (crew : Option Nat)
  | msend (card : List W64) (mill : Nat)
  | coll (card : List W64) (handle : W64) (crew : Option Nat) (outst : Nat)
  | cabort (id : Nat)
  | launch (entry : List W64) (queue : Nat) (outst : Nat)
  | arrive (crew bar : Nat) (items : List (Nat × Nat))
  | scratch (crew : Nat) (bytes : List (Nat × Byte))
  | sfree (crew lo n : Nat)
  | pin (crew lo n : Nat) (up : Bool)
  | touch (crew : Nat) (pages : List Nat)
  | crewEnd (crew : Nat)
  deriving DecidableEq, Repr

/-- A queued effect with its maker, identifier and order (R38). -/
structure QEntry where
  lid : Nat
  uid : Nat
  cutid : W64
  seq : Nat
  il : Nat
  pc : W64
  bench : Nat
  asid : Nat
  eff : QEffect
  deriving DecidableEq, Repr

/-! ## Crews, chutes, streams, scratch -/

/-- The states of a scratch page (R201). -/
inductive PageState where
  | zero | res | backed
  deriving DecidableEq, Repr

/-- A page of a scratch space: its state, frame, pin count, DIRTY bit, and the frame's bytes that are not zero (R200, R201). A
BACKED page with `dirty` set is one whose bytes the device itself keeps: those of a space in the context save area (R266), or
of a page whose backing could not be written. `fresh` marks a frame that was zero-filled, which its backing does not hold yet (R204);
`bad` holds the offsets of bytes with an uncorrectable fault that the next read of them finds, and whether it is lasting (R205, R381). -/
structure SPage where
  state : PageState
  frame : Nat
  pins : Nat
  dirty : Bool
  fresh : Bool
  bad : List (Nat × Bool)
  data : List Host.Cell
  deriving DecidableEq, Repr

/-- A barrier of a crew: phase number, the items counted in this phase and those counted ahead in the next (R216), and the reads
that its arrivals release, which are bound before the phase completes (R194). -/
structure Barrier where
  phase : Nat
  here : List (Nat × Nat)
  next : List (Nat × Nat)
  conds : List Fence
  deriving DecidableEq, Repr

/-- A chute instance of a crew (R219, R220): its depth, entries of 32 lanes oldest first, and whether it is closed. -/
structure Chute where
  depth : Nat
  entries : List (List W64)
  closed : Bool
  deriving DecidableEq, Repr

/-- A stream of a crew (R222): credits taken, entries ready (offset and the job card's scope), entries popped and not
released, and the jobs that push to it in issue order. -/
structure Stream where
  taken : Nat
  ready : List (W64 × Nat)
  popped : Nat
  jobs : List Nat
  deriving DecidableEq, Repr

/-- A crew with all it owns (R29, R213). `key` is the model's own number. -/
structure Crew where
  key : Nat
  lid : Nat
  slot : Nat
  gen : Nat
  ret : Bool
  bench : Nat
  capacity : Nat
  moving : Bool
  pages : List SPage
  barriers : List Barrier
  chutes : List Chute
  streams : List Stream
  events : List (W64 × Nat)
  postWait : List Nat
  deriving DecidableEq, Repr

/-- A scratch write in flight from a Carter or a multicast (R210). -/
structure ScratchWrite where
  id : Nat
  job : Nat
  lid : Nat
  handle : W64
  off : Nat
  bytes : List Byte
  deliver : Nat
  deriving DecidableEq, Repr

/-! ## Engines -/

/-- The bytes that an engine job reads or writes: of an object by its number, or of a scratch space by its handle (R224, R227). -/
structure Span where
  scratch : Bool
  key : Nat
  lo : Nat
  hi : Nat
  deriving DecidableEq, Repr

/-- The life of a Carter job (R226 to R229): issued, waiting for a page before it reads, writing, waiting for the page of a write,
its event held back, its counter add due. -/
inductive JobState where
  | issued | waiting | writing | stalled | posting | adding
  deriving DecidableEq, Repr

/-- A Carter job (R223 to R229): the card's eight words, the operation (0 CPY, 1 CPYT, 2 CPYM), how many copies, the delivery
Bench, the die whose Carters run it, the issuing cut's crew with its space's handle, whether it holds a stream credit, the
status of its event record, and when and under which replay-all count it last asked for its pages. -/
structure Job where
  id : Nat
  seq : Nat
  uid : Nat
  cutid : W64
  lid : Nat
  asid : Nat
  op : Nat
  card : List W64
  copies : Nat
  deliver : Nat
  die : Nat
  bench : Nat
  crew : Option Nat
  handle : W64
  credit : Bool
  state : JobState
  status : Nat
  since : Nat
  rgen : Nat
  il : Nat
  pc : W64
  deriving DecidableEq, Repr

/-- An accumulator (R233): 256 elements row by row, kind I or F, and its status bits. -/
structure Acc where
  elems : List W32
  kindI : Bool
  nan : Bool
  inf : Bool
  err : Bool
  suspect : Bool
  deriving DecidableEq, Repr

/-- An operation of a Loom's sequencer (R251): 0 MLD, 1 MMA, 2 MMAP, 3 MZERO, 4 MDRN, with its maker and item, the operand
values, MODE fields and `o6` scales it read at issue, the il and the instruction offset that a rounding uses (R63), how many
steps it has and the next one, the candidate follower and whether it is slaved (R246), the tokens it holds, the crew and stream
it pops, the fences a drain follows (R188), and the ranges that it writes. -/
structure LoomOp where
  id : Nat
  seq : Nat
  op : Nat
  uid : Nat
  cutid : W64
  lid : Nat
  asid : Nat
  il : Nat
  dil : Nat
  acc : Nat
  a : W64
  b : W64
  et : Nat
  rm : Nat
  sat : Bool
  ss : Nat
  scales : List W64
  scope : Nat
  off : Nat
  steps : Nat
  step : Nat
  follower : Option Nat
  slaved : Bool
  tokens : Nat
  crew : Nat
  stream : Option Nat
  order : List Fence
  dest : List (W64 × Nat)
  pc : W64
  deriving DecidableEq, Repr

/-- A Loom (R233, R234): its claim by launch and holder (a pattern item by its il, a lane cut by 2^41 plus its family), four
accumulators, queued operations, whether it is slaved, the accumulators (by claim and number) a self-test is due for (R257), the cut
whose `MTEST` asked for a test and the count that the test found (R258). -/
structure Loom where
  num : Nat
  claim : Option (Nat × Nat)
  accs : List Acc
  ops : List LoomOp
  slave : Bool
  test : List ((Nat × Nat) × Nat)
  asked : Option Nat
  found : Option Nat
  deriving DecidableEq, Repr

/-- A saved claim (R256), and the Loom's state. -/
structure SavedClaim where
  claim : Nat × Nat
  loom : Loom
  deriving DecidableEq, Repr

/-- A Mill command (R261): its sequence number, launch and card. -/
structure MillCmd where
  seq : Nat
  lid : Nat
  uid : Nat
  acc : Nat
  card : List W64
  deriving DecidableEq, Repr

/-- A Mill (R259, R263): queued commands, the running cut's number and its command, and whether refresh freezes it. -/
structure Mill where
  num : Nat
  queue : List MillCmd
  run : Option (Nat × MillCmd)
  frozen : Bool
  deriving DecidableEq, Repr

/-- The units of a stack's Assay (R274, R276): cuts whose commit waits, oldest first; flushed attempts waiting; the one running. -/
structure Assay where
  stack : Nat
  commits : List Nat
  waiting : List Nat
  running : Option Nat
  deriving DecidableEq, Repr

/-- A remote access awaiting its reply (R363, R296): kind 0 load, 1 store, 2 atomic, 3 the read of the Carter
job or Loom operation `lane`, 4 such a read answered, 5 one refused or without a reply, 6 a `CWAIT`'s read of a counter for the item at
`lane`, 7 that read answered, 8 that read overdue (R230). -/
structure Remote where
  id : Nat
  kind : Nat
  uid : Nat
  outst : Option Nat
  lane : Nat
  loc : Loc
  ptr : W64
  data : List Byte
  since : Nat
  store : Option Store
  deriving DecidableEq, Repr

/-! ## Launches and queues -/

/-- A tile map (R236): its eight words. -/
structure TileMap where
  base : W64
  ctl : W64
  rows : Nat
  cols : Nat
  pitch : Nat
  scale : W64
  spitch : Nat
  deriving DecidableEq, Repr

/-- A declared role (R218, R325). -/
structure Role where
  entry : Nat
  cls : Nat
  allot : Nat
  deriving DecidableEq, Repr

/-- A pipeline stage (R325). -/
structure Stage where
  role : Nat
  inp : Nat
  out : Nat
  cuts : Nat
  deriving DecidableEq, Repr

/-- The life of a launch (R329, R16, R330). -/
inductive LaunchState where
  | admitted | running | recording | ended
  deriving DecidableEq, Repr

/-- A launch (R15, R16, R325). -/
structure Launch where
  lid : Nat
  state : LaunchState
  asid : Nat
  vf : Nat
  part : Nat
  queue : Nat
  index : Nat
  user : W32
  irq : Bool
  doneP : W64
  kcode : W64
  extx : Nat
  exty : Nat
  extz : Nat
  mode : W32
  seed : W64
  hv : Bool
  hoff : W32
  nslot : Nat
  space : Nat
  backing : W64
  parmSlot : Option Nat
  launchId : W64
  boltId : W64
  depth : Nat
  qm : Bool
  quantum : Nat
  serial : Bool
  cls : Nat
  acct : Nat
  roles : List Role
  chutes : List Nat
  stages : List Stage
  maps : List TileMap
  ranges : List (W64 × W64)
  slotGens : List (Nat × Nat)
  millSeq : Nat
  cmds : List MillCmd
  charged : Nat
  listPtr : Option W64
  recIdx : Nat
  endState : Nat
  endReason : Nat
  since : Nat
  rgen : Nat
  lifetimes : List (Nat × Nat)
  deriving DecidableEq, Repr

/-- A queue entry taken and not yet wholly admitted (R324, R329, R332): what is left of its chain. `entered` is set once the entry
and its patch block have been read; `bad` is the reason for which they were found invalid; `waiting` the page that is awaited,
since when, and the replay-all count of its last request. -/
structure Taken where
  queue : Nat
  index : Nat
  asid : Nat
  kind : Nat
  child : Bool
  depth : Nat
  acct : Nat
  irq : Bool
  user : W32
  ptr : W64
  head : W64
  recIdx : Nat
  seen : List W64
  patches : List (W64 × W64)
  doneP : W64
  entered : Bool
  bad : Option Nat
  waiting : Option (W64 × Nat × Nat)
  deriving DecidableEq, Repr

/-- A context as the device holds it (R378): the descriptor words it read, and the event groups they ask for. -/
structure Context where
  asid : Nat
  ctl : W64
  fring : W64
  save : W64
  leaseE : Nat
  deriving DecidableEq, Repr

/-- An instruction that issued in this cycle (R388): the cut, the address, the scheduler by its Bench and number, and what a record
of it names. -/
structure Issued where
  uid : Nat
  pc : W64
  bench : Nat
  sched : Nat
  cutid : W64
  launchId : W64
  asid : Nat
  deriving DecidableEq, Repr

/-- A profiling lease open at a place (R389, R390): the effective set of event groups, and the counters that do not read 0. -/
structure Lease where
  asid : Nat
  atMill : Bool
  place : Nat
  eff : Nat
  counts : List (Nat × Nat)
  deriving DecidableEq, Repr

/-- The pre-emption of a context in a cluster (R351, R352): action 1 drain, 2 save, 3 discard; the launches it affects, each with
its LAUNCHID and its outcome as R355 numbers them. -/
structure Preempt where
  part : Nat
  asid : Nat
  cluster : Nat
  action : Nat
  since : Nat
  took : Nat
  forced : Bool
  cuts : Nat
  finished : Bool
  affected : List (Nat × W64 × Nat)
  deriving DecidableEq, Repr

/-- The slices of a partition (R380): when the present one began, the accounts found exhausted at its beginning, and whether the
report of its beginning is still to be written. -/
structure Slice where
  part : Nat
  began : Nat
  exhausted : List Nat
  reporting : Bool
  deriving DecidableEq, Repr

/-- A halted or halting context (R391, R393): the slot, the trigger cycle and the units that have stopped: Benches by
their numbers, Mills from 256 on. -/
structure HaltState where
  slot : Nat
  asid : Nat
  since : Nat
  stopped : List Nat
  deriving DecidableEq, Repr

/-! ## Collectives -/

/-- A report of a collective (R295, R298): rank that sent it, reason (0 for "none") and named rank. -/
structure Report where
  rank : Nat
  reason : Nat
  failrank : Nat
  deriving DecidableEq, Repr

/-- What a member receives of the schedule of an operation (R292, R295): a chunk of data, a member's card fields, ROOT's notice. -/
inductive CollMsg where
  | chunk (seq rank off : Nat) (bytes : List Byte)
  | fields (seq rank : Nat) (vals : List Nat)
  | notice (seq : Nat)
  deriving DecidableEq, Repr

/-- An operation outstanding on this member (R294 to R298): its place among the engine jobs, its identity in the slot, its
maker, its card with what it reads and writes, whether it has started and stopped, its own report and those received,
the ending word and how far the ending has come (0 the status word is due, 1 the event record, 2 it waits for the event queue, 3
the counter add), the fields that rank 0 holds, and the data received: rank, byte offset and length. -/
structure CollOp where
  id : Nat
  seq : Nat
  gen : Nat
  stale : Bool
  uid : Nat
  cutid : W64
  lid : Nat
  asid : Nat
  aseq : Nat
  crew : Option Nat
  die : Nat
  il : Nat
  pc : W64
  card : List W64
  rank : Nat
  size : Nat
  src : Option Span
  dst : Option Span
  since : Nat
  started : Bool
  stopped : Bool
  own : Option Report
  reports : List Report
  firstAt : Nat
  word : Option W64
  stage : Nat
  fields : List (Nat × List Nat)
  got : List (Nat × Nat × Nat)
  noticed : Bool
  deriving DecidableEq, Repr

/-- An abort on a member that has not issued the operation yet, or on which it has ended (R298): the operation's SEQ, the reports
received, when the first came, and the word it is settled with. -/
structure Settling where
  seq : Nat
  reports : List Report
  firstAt : Nat
  word : Option W64
  deriving DecidableEq, Repr

/-- A communicator slot (R287, R288, R334): generation, liveness, members, times, owner, next sequence number, whether the
generation is broken and by whom, operations, the words kept (generation, SEQ, word, scope; R299), what has arrived for an
operation that has not started, and the aborts of operations that are not under way here. -/
structure Comm where
  cid : Nat
  gen : Nat
  live : Bool
  size : Nat
  rank : Nat
  members : List W64
  deadline : Nat
  agw : Nat
  asid : Nat
  next : Nat
  broken : Option (Nat × Nat)
  ops : List CollOp
  words : List (Nat × Nat × W64 × Nat)
  inbox : List CollMsg
  settling : List Settling
  deriving DecidableEq, Repr

/-- A message this device has put on the fabric (R292, R298, R363): destination device, slot, tag and payload. -/
structure FabMsg where
  fid : Nat
  tag : Nat
  cid : Nat
  seq : Nat
  args : List Nat
  data : List Byte
  deriving DecidableEq, Repr

/-! ## The device -/

/-- A write of the host that is held: one to memory, or an event of the control window that waits behind it (R322). -/
inductive HeldWrite where
  | memory (asid : Nat) (ptr : W64) (bytes : List Byte)
  | event (i : Instr)
  deriving DecidableEq, Repr

/-- The state of the device. -/
structure State where
  /-- which agent moves next: events in order (the model's own field; DESIGN CHOICE, log 1) -/
  agenda : List Instr
  /-- cuts picked this cycle and not yet issued (R31) -/
  issue : List Nat
  /-- the cut whose instruction is executing -/
  cur : Nat
  /-- the word last fetched for it -/
  fetched : W32
  /-- CLOCK: cycles since device reset (R350) -/
  cycle : Nat
  /-- counters for the model's own numbers: cuts, accesses and engine objects -/
  nextUid : Nat
  nextSeq : Nat
  nextId : Nat
  nextLid : Nat
  cuts : List Cut
  launches : List Launch
  taken : List Taken
  /-- device memory as its homes hold it (R10, R190), canonical -/
  mem : List Host.Cell
  /-- DRAM contents under sectors that are dirty on chip: sector base and its 128 stale bytes (R271) -/
  stale : List (Nat × List Byte)
  /-- view sectors cached in L2 (R13) -/
  views : List (Nat × List Byte)
  /-- host memory by host physical address (R359, R384), canonical -/
  host : List Host.Cell
  poison : List Nat
  flaws : List Flaw
  l1 : List L1Line
  /-- the tiles in the weight buffers of the Looms, the newest last (R255) -/
  wbuf : List WTile
  storeQ : List Store
  qeff : List QEntry
  tlb : List TlbEnt
  /-- which of the next L1 hits find their line evicted first (R192; the model's own field, DESIGN CHOICE, log 22) -/
  evict : List Bool
  crews : List Crew
  scratchW : List ScratchWrite
  jobs : List Job
  looms : List Loom
  savedClaims : List SavedClaim
  mills : List Mill
  assays : List Assay
  comms : List Comm
  remotes : List Remote
  contexts : List Context
  leases : List Lease
  preempts : List Preempt
  halts : List HaltState
  slices : List Slice
  /-- what issued in this cycle, and the schedulers that have sampled in it (R387, R388) -/
  issued : List Issued
  sampled : List (Nat × Nat)
  /-- the copy of the ownership table (R372); a byte beyond the list is 0xFF -/
  own : List Byte
  /-- the table that a reload has read and not yet installed (R373) -/
  ownNew : Option (List Byte)
  /-- the control window's registers that do not hold their reset values (R322), by offset, rising; the two counters of an idle
  scheduler by what they lack of `cycle` (R386) -/
  win : List (Nat × W64)
  /-- the checkpoint operation that runs, 1 saving or 3 restoring, and the cycle in which it began (R384) -/
  ckpt : Option (Nat × Nat)
  /-- the host's writes that are held, with those that follow them in their order (R276, R322, R385) -/
  heldHost : List HeldWrite
  /-- UCIe modules retired (R381) -/
  retiredUcie : List Nat
  /-- resends of the flit in hand on a link (R381) -/
  resends : List (Nat × Nat)
  /-- slots taken of the parameter objects: address space, slot, launch (R326) -/
  parmSlots : List (Nat × Nat × Nat)
  /-- ring entries that `LAUNCH` wrote: queue, ring index, nesting depth (R327, R331) -/
  children : List (Nat × Nat × Nat)
  /-- the next number for launches without a parameter object (R326) -/
  launchNo : Nat
  /-- which queue of a virtual function was served last (R324): function, queue -/
  turns : List (Nat × Nat)
  /-- outputs of the device at its pins: interrupts sent, values read by the host, fabric messages -/
  irqs : List Nat
  hostReads : List (List Byte)
  fabric : List FabMsg
  deriving DecidableEq, Repr

/-- Why the machine stops with a fault. -/
inductive Fault where
  /-- Raised by an instruction executed when no live cut is executing: `State.cur` names no cut. The device has no such
  moment, since every instruction is issued by a cut (R21). Safe: the machine stops where the device does nothing. -/
  | noCut
  deriving DecidableEq, Repr

/-- Why an instruction has no meaning here. -/
inductive Refusal where
  /-- Raised by an arm of the dispatch whose instruction has no meaning yet. Safe: the machine stops. -/
  | notModelled (mnemonic : String)
  deriving DecidableEq, Repr

/-- The device after reset (R322, R335 and the Reset columns): nothing is live, memory lists nothing, every control-window
register reads its reset value. -/
def State.reset : State :=
  { agenda := [], issue := [], cur := 0, fetched := 0, cycle := 0, nextUid := 1, nextSeq := 1, nextId := 1, nextLid := 1
    cuts := [], launches := [], taken := [], mem := [], stale := [], views := [], host := [], poison := [], flaws := []
    l1 := [], wbuf := [], storeQ := [], qeff := [], tlb := [], evict := [], crews := [], scratchW := [], jobs := [], looms := []
    savedClaims := [], mills := [], assays := [], comms := [], remotes := [], contexts := [], leases := []
    preempts := [], halts := [], slices := [], issued := [], sampled := [], own := [], ownNew := none, win := [], ckpt := none, heldHost := [], retiredUcie := [], resends := []
    parmSlots := [], children := [], launchNo := 0, turns := [], irqs := [], hostReads := [], fabric := [] }

end Sys2Proof.Machine
end

