-- ==== Sys2Proof/Machine/Window.lean ====
section
/-! DEFINITION. The control window (R322): where each register lies, what it reads after reset, which of its bits a plain
write changes, and the one way the machine reads and writes it. -/

namespace Sys2Proof.Machine

/-! ## Offsets -/

def regAstbase : Nat := 0x100
def regWalkerr : Nat := 0x200
def regOwnbase : Nat := 0x300
def regCtxbase : Nat := 0x308
def regTokpool : Nat := 0x310
def regFabid : Nat := 0x318
def regOwnstat : Nat := 0x328
def regCkptdst : Nat := 0x408
def regCkptpl : Nat := 0x410
def regCkptstat : Nat := 0x418
def regSmpctl : Nat := 0x500
def regSmpbase : Nat := 0x508
def regSmphead : Nat := 0x510
def regSmptail : Nat := 0x518
/-- Debug slot d (R391). -/
def regDbgctl (d : Nat) : Nat := 0x600 + 0x80 * d
def regDbgstat (d : Nat) : Nat := 0x608 + 0x80 * d
def regBpa (d k : Nat) : Nat := 0x610 + 0x80 * d + 8 * k
def regWpa (d k : Nat) : Nat := 0x630 + 0x80 * d + 8 * k
def regWpctl (d : Nat) : Nat := 0x650 + 0x80 * d
def regBpen (d : Nat) : Nat := 0x658 + 0x80 * d
def regDump (d : Nat) : Nat := 0x660 + 0x80 * d
/-- VFMAP (R377), LHEALTH (R383), LKSTAT and LKCTL (R383). -/
def regVfmap (v : Nat) : Nat := 0x1000 + 8 * v
def regLhealth (n : Nat) : Nat := 0x2000 + 8 * n
def regLkstat (k : Nat) : Nat := 0x4000 + 0x20 * k
/-- The page-request and partition registers of partition p (R367, R374). -/
def regPrstat (p : Nat) : Nat := 0x8000 + 0x100 * p
def regPrctl (p : Nat) : Nat := 0x8008 + 0x100 * p
def regPrent (p k : Nat) : Nat := 0x8040 + 0x100 * p + 8 * k
def regPcfg (p : Nat) : Nat := 0x8080 + 0x100 * p
def regPtime (p : Nat) : Nat := 0x8088 + 0x100 * p
def regPlink (p k : Nat) : Nat := 0x8090 + 0x100 * p + 8 * k
def regPmap (p : Nat) : Nat := 0x80C0 + 0x100 * p
def regPrpt (p : Nat) : Nat := 0x80C8 + 0x100 * p
def regRptstat (p : Nat) : Nat := 0x80D0 + 0x100 * p
/-- Budget account a of partition p (R379). -/
def regAcctcfg (p a : Nat) : Nat := 0xC000 + 0x100 * p + 16 * a
def regAcctbal (p a : Nat) : Nat := 0xC008 + 0x100 * p + 16 * a
/-- The counters of scheduler k of Bench n (R386). -/
def regElig (n k b : Nat) : Nat := 0x80000 + 0x800 * n + 0x180 * k + 8 * b
def regStall (n k c : Nat) : Nat := 0x80088 + 0x800 * n + 0x180 * k + 8 * c
/-- The registers of queue q (R323). -/
def regQcfg (q : Nat) : Nat := 0x100000 + 0x200 * q
def regQbase (q : Nat) : Nat := 0x100008 + 0x200 * q
def regQtail (q : Nat) : Nat := 0x100010 + 0x200 * q
def regQhead (q : Nat) : Nat := 0x100018 + 0x200 * q
def regQstat (q : Nat) : Nat := 0x100020 + 0x200 * q
def regQvec (q : Nat) : Nat := 0x100028 + 0x200 * q
/-- The communicator command registers (R334). -/
def regCcmd : Nat := 0x200000
def regCmemb : Nat := 0x200008
def regCtime : Nat := 0x200010
def regCown : Nat := 0x200018
def regCres : Nat := 0x200020
def regChdl : Nat := 0x200028
/-- The registers of stack s (R12, R268, R383). -/
def regMsum (s : Nat) : Nat := 0x400000 + 0x10000 * s
def regMderr (s i : Nat) : Nat := 0x400010 + 0x10000 * s + 8 * i
def regFwbase (s w : Nat) : Nat := 0x400100 + 0x10000 * s + 0x10 * w
def regFwctl (s w : Nat) : Nat := 0x400108 + 0x10000 * s + 0x10 * w
def regMemerr (s : Nat) : Nat := 0x400200 + 0x10000 * s
def regMemaddr (s : Nat) : Nat := 0x400208 + 0x10000 * s
/-- The registers of Bench n (R211, R225, R383). -/
def regSdrop (n : Nat) : Nat := 0x500000 + 0x20 * n
def regPagein (n : Nat) : Nat := 0x500008 + 0x20 * n
def regCrej (n : Nat) : Nat := 0x500010 + 0x20 * n
def regBrerr (n : Nat) : Nat := 0x500018 + 0x20 * n

/-! ## Reset values and plain writes -/

/-- Whether an offset lies in the partition blocks, and where in its block. -/
def partOffset (off : Nat) : Option Nat := if 0x8000 ≤ off ∧ off < 0x8000 + 0x100 * 40 then some (off % 0x100) else none

/-- What a register reads after reset: the Reset columns; 0 where the manual states none (DESIGN CHOICE, log 6). -/
def regReset (off : Nat) : W64 :=
  if off = regOwnstat ∨ off = regCres then 1#64 <<< 63
  else match partOffset off with
    | some 0x08 => 1000#64 <<< 32
    | some 0x88 => (1000#64 <<< 44) ||| ((1#64 <<< 20) <<< 16) ||| 100#64
    | _ => 0#64

/-- A mask of the bits from `lo` to `hi`. -/
def bits (hi lo : Nat) : W64 := BitVec.ofNat 64 (2 ^ (hi + 1) - 2 ^ lo)

/-- The bits that a plain write changes: the RW fields of registers with no behaviour of their own; 0 for every other
offset, whose write is ignored (R3, R322). -/
def regWritable (off : Nat) : W64 :=
  if off % 8 ≠ 0 then 0
  else if off = regAstbase then bits 39 18
  else if off = regOwnbase ∨ off = regCtxbase then bits 39 12
  else if off = regTokpool then bits 10 0
  else if off = regFabid then bits 15 0
  else if off = regCkptdst then bits 47 30
  else if off = regCkptpl then bits 47 15
  else if off = regSmpctl then bits 63 63 ||| bits 31 0
  else if off = regSmpbase then bits 63 59 ||| bits 39 5
  else if off = regSmptail then bits 31 0
  else if 0x600 ≤ off ∧ off < 0x800 then
    let o := off % 0x80
    if o = 0 then bits 63 63 ||| bits 12 0
    else if 0x10 ≤ o ∧ o < 0x50 then bits 63 0
    else if o = 0x50 then bits 31 0
    else if o = 0x58 then bits 3 0
    else if o = 0x60 then bits 63 6
    else 0
  else if 0x1000 ≤ off ∧ off < 0x1800 then bits 63 63 ||| bits 53 48
  else if 0xC000 ≤ off ∧ off < 0xC000 + 0x100 * 40 then bits 63 0
  else if 0x100000 ≤ off ∧ off < 0x200000 then
    match off % 0x200 with
    | 0x00 => bits 63 63 ||| bits 44 32 ||| bits 7 4
    | 0x08 => bits 63 6
    | 0x28 => bits 15 0
    | _ => 0
  else if off = regCmemb then bits 39 0
  else if off = regCtime then bits 63 0
  else if off = regCown then bits 12 0
  else match partOffset off with
    | some 0x08 => bits 47 32 ||| bits 15 0
    | some 0x80 => bits 63 63 ||| bits 50 40
    | some 0x88 => bits 63 44 ||| bits 40 0
    | some 0x90 | some 0x98 | some 0xA0 | some 0xA8 | some 0xB0 => bits 63 0
    | some 0xC8 => bits 39 12
    | _ => 0

/-! ## Reading and writing -/

/-- Whether a register counts the cycles of a scheduler with no resident cut: ELIG(0) and STALL(0) of a scheduler (R386). Every
cycle adds 1 to them where nothing else is counted, so the list holds what they lack of `cycle`. -/
def idleCounter (off : Nat) : Bool :=
  decide (0x80000 ≤ off ∧ off < 0x100000 ∧ off % 0x800 < 5 * 0x180)
    && (off % 0x800 % 0x180 == 0 || off % 0x800 % 0x180 == 0x88)

/-- What a register of the list is counted from. -/
def State.base (s : State) (off : Nat) : W64 := if idleCounter off then BitVec.ofNat 64 s.cycle else 0

/-- A register of the control window. -/
def State.reg (s : State) (off : Nat) : W64 :=
  match s.win.find? (·.1 == off) with
  | some (_, v) => v + s.base off
  | none => regReset off + s.base off

/-- Sets an entry of the sparse list of registers: offsets rising, none at its reset value. -/
def winPut (off : Nat) (v : W64) : List (Nat × W64) → List (Nat × W64)
  | [] => if v = regReset off then [] else [(off, v)]
  | (o, w) :: rest =>
    if off < o then (if v = regReset off then (o, w) :: rest else (off, v) :: (o, w) :: rest)
    else if o = off then (if v = regReset off then rest else (off, v) :: rest)
    else (o, w) :: winPut off v rest

/-- Stores a register of the control window. -/
def State.setReg (s : State) (off : Nat) (v : W64) : State := { s with win := winPut off (v - s.base off) s.win }

/-- One field of a register. -/
def State.field (s : State) (off lo len : Nat) : Nat := fld (s.reg off) lo len

/-- Stores one field of a register. -/
def State.setField (s : State) (off lo len v : Nat) : State := s.setReg off (putFld (s.reg off) lo len v)

/-- Adds to a count field that saturates at its maximum. -/
def State.countUp (s : State) (off lo len n : Nat) : State :=
  s.setField off lo len (Nat.min (2 ^ len - 1) (s.field off lo len + n))

/-- A launch queue's QCFG as it is kept: a LOGN of 13 to 15 leaves EN reading 0 (R323). -/
def qcfgOf (off : Nat) (v : W64) : W64 :=
  if 0x100000 ≤ off ∧ off < 0x200000 ∧ off % 0x200 = 0 ∧ 13 ≤ fld v 4 4 then putFld v 63 1 0 else v

/-- A plain write: the writable bits take the value, the others stay (R322, R3). -/
def State.plainWrite (s : State) (off : Nat) (v : W64) : State :=
  s.setReg off (qcfgOf off ((s.reg off &&& ~~~(regWritable off)) ||| (v &&& regWritable off)))

/-- Puts a message of a partition on the fabric; one whose weight on every link is 0 sends nothing (R374, R376). -/
def State.send (s : State) (part : Nat) (m : FabMsg) : State :=
  if s.reg (regPlink part 0) = 0 ∧ s.reg (regPlink part 1) = 0 then s else { s with fabric := s.fabric ++ [m] }

end Sys2Proof.Machine
end

