-- ==== Sys2Proof/Machine/Memory.lean ====
section
/-! DEFINITION. Memory: canonical lists of bytes, device memory as its homes hold it, format windows, poison, host memory,
and the L1 lines of the Benches. -/

namespace Sys2Proof.Machine

/-! ## Canonical lists of bytes -/

/-- The canonical form: addresses strictly rising and no entry at the value an unlisted address reads as. -/
def Memory.wf : List Host.Cell → Bool
  | [] => true
  | [(_, b)] => b != Config.unwritten
  | (a, b) :: (a', b') :: rest => b != Config.unwritten && decide (a < a') && Memory.wf ((a', b') :: rest)

/-- The byte at an address. -/
def cellGet : List Host.Cell → Nat → Byte
  | [], _ => Config.unwritten
  | (x, c) :: rest, a => if x = a then c else if a < x then Config.unwritten else cellGet rest a

/-- Writes one byte, keeping the canonical form. -/
def cellPut (a : Nat) (b : Byte) : List Host.Cell → List Host.Cell
  | [] => if b = Config.unwritten then [] else [(a, b)]
  | (x, c) :: rest =>
    if a < x then (if b = Config.unwritten then (x, c) :: rest else (a, b) :: (x, c) :: rest)
    else if a = x then (if b = Config.unwritten then rest else (a, b) :: rest)
    else (x, c) :: cellPut a b rest

/-- `n` bytes from an address. -/
def cellsGet (m : List Host.Cell) (a n : Nat) : List Byte := (List.range n).map fun i => cellGet m (a + i)

/-- Writes bytes at an address. -/
def cellsPut (m : List Host.Cell) (a : Nat) : List Byte → List Host.Cell
  | [] => m
  | b :: bs => cellsPut (cellPut a b m) (a + 1) bs

/-- Writes bytes at offsets from a base. -/
def scatter (m : List Host.Cell) (base : Nat) (bs : List (Nat × Byte)) : List Host.Cell :=
  bs.foldl (fun m p => cellPut (base + p.1) p.2 m) m

/-! ## Physical addresses (R10) -/

/-- Whether a physical address is device memory. -/
def isDevice (p : Nat) : Bool := p < 12 * 2 ^ 36

def stackOf (p : Nat) : Nat := p / 2 ^ 36
/-- The device-wide district of an address (R9, R10). -/
def districtOf (p : Nat) : Nat := p / 2 ^ 34
/-- The bank of an address within its district. -/
def bankOf (p : Nat) : Nat := (p / 2 ^ 13) % 32
/-- The sector number of an address (R270). -/
def sectorOf (p : Nat) : Nat := p / 128
/-- The home L2 slice of an address: the lines of a stack rotate through its 16 slices (R11). What the slices hold that reads differently
from DRAM is `stale`, the dirty sectors, and `views`, the view sectors; no line is written back, evicted or dropped for want of room in a
slice (DESIGN CHOICE, log 89). -/
def homeSlice (p : Nat) : Nat := 16 * stackOf p + (p / 2 ^ 9) % 16
/-- The die of a stack and of a Bench (R5, R6). -/
def dieOfStack (st : Nat) : Nat := st / 6
def dieOfBench (b : Nat) : Nat := b / 128
/-- The cluster of a Bench (R7). -/
def clusterOf (b : Nat) : Nat := 4 * ((b / 16) / 4) + (b % 16) / 4

/-! ## Format windows (R12, R13, R67) -/

/-- A format window as its registers stand: view base, storage base, scale base, length in bytes of the storage, format. -/
structure Window where
  view : Nat
  stor : Nat
  scale : Nat
  len : Nat
  fmt : Nat
  deriving DecidableEq, Repr

def windowOf (s : State) (st w : Nat) : Window :=
  let base := s.reg (regFwbase st w)
  let ctl := s.reg (regFwctl st w)
  ⟨fld base 41 19 * 2 ^ 21, fld base 22 19 * 2 ^ 21, fld ctl 36 28 * 2 ^ 12, fld ctl 20 16 * 2 ^ 21, fld ctl 0 4⟩

/-- Elements of the view for each byte of the storage (R12). -/
def Window.expand (w : Window) : Nat := if w.fmt ≤ 2 then 2 else 1

/-- Whether a window is enabled (R13). -/
def Window.on (w : Window) : Bool := decide (1 ≤ w.fmt ∧ w.fmt ≤ 4) && w.len != 0

/-- The conditions under which a window may be enabled (R13): the ranges and the scale region lie in the stack. -/
def Window.valid (w : Window) (st : Nat) : Bool :=
  w.on && (stackOf w.stor == st) && (stackOf (w.stor + w.len - 1) == st) && (stackOf w.view == st)
    && (stackOf (w.view + w.len * w.expand - 1) == st) && (stackOf w.scale == st)
    && (stackOf (w.scale + (w.len * w.expand) / 32 - 1) == st)

/-- The window that decodes an address: the lowest-numbered enabled one whose view holds it (R13). -/
def viewAt (s : State) (p : Nat) : Option Window :=
  if isDevice p && s.win.any (fun r => decide (regFwbase 0 0 ≤ r.1)) then
    ((List.range 16).map (windowOf s (stackOf p))).find? fun w => w.on && decide (w.view ≤ p ∧ p < w.view + w.len * w.expand)
  else none

/-- The byte that a view address decodes to from the storage (R67). -/
def decodeView (s : State) (w : Window) (p : Nat) : Byte :=
  let e := p - w.view
  let half := (cellGet s.mem (w.stor + e / 2)).toNat
  let nib := if e % 2 = 0 then half % 16 else half / 16
  let scale := e8m0 (cellGet s.mem (w.scale + e / 32)).toNat
  let whole := BitVec.ofNat 64 (cellGet s.mem (w.stor + e)).toNat
  let scaled := fun et => BitVec.ofNat 8 (roundTo et (rne true) (numMul scale (value et whole)).1).1
  match w.fmt with
  | 1 => BitVec.ofNat 8 (roundTo 14 (rne true) (value 15 (BitVec.ofNat 64 nib))).1
  | 2 => BitVec.ofNat 8 (roundTo 14 (rne true) (ofScaled (signedOf 4 nib) 0)).1
  | 3 => scaled 12
  | _ => scaled 13

/-- Caches the view sector of an address in L2 (R12). -/
def State.fillView (s : State) (p : Nat) : State :=
  match viewAt s p with
  | none => s
  | some w =>
    if s.views.any (·.1 == sectorOf p) then s
    else
      let base := sectorOf p * 128
      { s with views := s.views ++ [(sectorOf p, (List.range 128).map fun i => decodeView s w (base + i))] }

/-! ## Device memory as its homes hold it (R190) -/

/-- The byte that a read performing at the home of a device address returns: as its sector was decoded when it was cached, whatever the
windows have become since, else decoded now where a window's view holds it (R13). What drops the cached sectors of a window that has
changed is a storage write, the start of a flushed attempt (R276) or a restore (R385): the manual names no operation of firmware's for it
(DESIGN CHOICE, log 90). -/
def homeByte (s : State) (p : Nat) : Byte :=
  match s.views.find? (·.1 == sectorOf p) with
  | some (_, bs) => bs.getD (p % 128) Config.unwritten
  | none => match viewAt s p with
    | some w => decodeView s w p
    | none => cellGet s.mem p

/-- `n` bytes read at their homes. -/
def homeRead (s : State) (p n : Nat) : List Byte := (List.range n).map fun i => homeByte s (p + i)

/-- A little-endian word read at its home. -/
def homeWord (s : State) (p n : Nat) : Nat := natLE (homeRead s p n)

/-- The byte that a Mill reads in DRAM, under any sector that is dirty on chip (R260, R271). -/
def dramByte (s : State) (p : Nat) : Byte :=
  match s.stale.find? (·.1 == sectorOf p) with
  | some (_, bs) => bs.getD (p % 128) Config.unwritten
  | none => cellGet s.mem p

/-- Where DRAM holds what a read of an address finds: the storage of a view address (R12). -/
def storageOf (s : State) (p : Nat) : Nat :=
  match viewAt s p with
  | some w => w.stor + (p - w.view) / w.expand
  | none => p

/-- Whether a sector returns an errored result (R382): a poisoned one, or one with a lasting flaw (R381). A view sector is
errored with the storage it decodes. -/
def errored (s : State) (p : Nat) : Bool :=
  let q := storageOf s p
  decide (sectorOf q ∈ s.poison) || s.flaws.any fun f => f.sector == sectorOf q && f.lasting

/-- Poisons a sector: MEMERR.UE counts it and MEMADDR names it (R381, R383). -/
def State.poisonSector (s : State) (sec : Nat) : State :=
  let st := stackOf (sec * 128)
  let s := if sec ∈ s.poison then s else { s with poison := insertBy id sec s.poison }
  (s.countUp (regMemerr st) 48 16 1).setReg (regMemaddr st) ((1#64 <<< 63) ||| BitVec.ofNat 64 (sec * 128))

/-- What a read of a flawed sector leaves: a transient flaw was clean on the retry and is counted; a lasting one poisons the
sector (R381). -/
def State.readFlaw (s : State) (p : Nat) : State :=
  if s.flaws.isEmpty then s
  else
    let q := storageOf s p
    match s.flaws.find? (·.sector == sectorOf q) with
    | none => s
    | some f =>
      let s := { s with flaws := s.flaws.filter (· != f) }
      if f.lasting then s.poisonSector (sectorOf q) else s.countUp (regMemerr (stackOf q)) 32 16 1

/-! ## Signatures (R270) -/

/-- The XOR of the eight bytes of a number. -/
def xorBytes (n : Nat) : Nat := (bytesLE 8 n).foldl (fun a b => a ^^^ b.toNat) 0

/-- The two bits a sector sets in a signature of width `w`. -/
def sigBits (w s : Nat) : Nat × Nat := (xorBytes s % (w / 2), w / 2 + xorBytes (s / 16) % (w / 2))

/-- A signature with a sector's bits set. -/
def sigAdd (w : Nat) (sig : BitVec 512) (s : Nat) : BitVec 512 :=
  sig ||| (1#512 <<< (sigBits w s).1) ||| (1#512 <<< (sigBits w s).2)

/-- Whether a sector hits a signature: both of its bits are set. -/
def sigHit (w : Nat) (sig : BitVec 512) (s : Nat) : Bool :=
  sig.toNat.testBit (sigBits w s).1 && sig.toNat.testBit (sigBits w s).2

/-- The width in bits of a section's signatures: fn4 0, 1 or 2 (R269). -/
def sigWidth (w : Nat) : Nat := if w = 0 then 8 else if w = 1 then 64 else 512

/-- Enters a sector into CS of every open section of its stack, for a write at the stack's home slices (R271). -/
def State.noteWrite (s : State) (sec : Nat) : State :=
  { s with cuts := s.cuts.map fun c =>
      match c.place with
      | .mill m =>
        if m / 32 = stackOf (sec * 128) ∧ c.sec.state ≠ .out then
          { c with sec := { c.sec with cs := sigAdd (sigWidth c.sec.width) c.sec.cs sec } }
        else c
      | _ => c }

/-! ## Writes performing at a home -/

/-- The sectors of a list of addresses, each once. -/
def sectorsOf (ps : List Nat) : List Nat := distinct (ps.map sectorOf)

/-- Keeps the DRAM contents of a sector that becomes dirty on chip (R271). -/
def State.dirty (s : State) (sec : Nat) : State :=
  if s.stale.any (·.1 == sec) then s
  else { s with stale := insertBy (·.1) (sec, cellsGet s.mem (sec * 128) 128) s.stale }

/-- Writes a sector back: DRAM holds what the home held (R271). -/
def State.writeBack (s : State) (sec : Nat) : State := { s with stale := s.stale.filter (·.1 != sec) }

/-- Drops the view sectors that decode from an address of a storage range (R13). -/
def State.dropViews (s : State) (p : Nat) : State :=
  if s.views.isEmpty then s else
  let hits := ((List.range 16).map (windowOf s (stackOf p))).filter fun w => w.on && decide (w.stor ≤ p ∧ p < w.stor + w.len)
  { s with views := s.views.filter fun v =>
      !hits.any fun w =>
        let lo := w.view + (p - w.stor) * w.expand
        decide (sectorOf lo ≤ v.1 ∧ v.1 ≤ sectorOf (lo + w.expand - 1)) }

/-- A sector that its home still holds as a window decoded it, though no view holds it now, becomes an ordinary line with those bytes
when it is written (R13). -/
def State.adopt (s : State) (sec : Nat) : State :=
  match s.views.find? (·.1 == sec) with
  | some (_, bs) => { s with mem := cellsPut s.mem (sec * 128) bs, views := s.views.filter (·.1 != sec) }
  | none => s

/-- Writes that reach view addresses are dropped and counted, one for each sector (R13). -/
def State.dropWrites (s : State) (ps : List Nat) : State :=
  (sectorsOf ps).foldl (fun s sec => s.countUp (regMsum (stackOf (sec * 128))) 48 16 1) s

/-- A write of bytes at offsets from `base` performing at the homes of device memory: at a view address it is dropped and
counted (R13); elsewhere it takes its place in coherence order (R190), dirties its sectors, and clears the poison of a
sector that it writes whole (R382). -/
def State.devWrite (s : State) (base : Nat) (bs : List (Nat × Byte)) : State :=
  let seen := bs.filter fun b => (viewAt s (base + b.1)).isSome
  let bs := bs.filter fun b => (viewAt s (base + b.1)).isNone
  let s := s.dropWrites (seen.map (base + ·.1))
  let addrs := bs.map (base + ·.1)
  let s := (sectorsOf addrs).foldl (fun (s : State) sec => ((s.dirty sec).adopt sec).noteWrite sec) s
  let s : State := { s with mem := scatter s.mem base bs }
  let s := addrs.foldl (fun s p => s.dropViews p) s
  { s with poison := s.poison.filter fun sec => !(decide ((distinct (addrs.filter (sectorOf · == sec))).length = 128)) }

/-- A write of consecutive bytes at their homes. -/
def State.devPut (s : State) (p : Nat) (bs : List Byte) : State :=
  s.devWrite p ((List.range bs.length).zip bs)

/-! ## Host memory (R359, R362) -/

def hostRead (s : State) (p n : Nat) : List Byte := cellsGet s.host p n

/-! ## L1 (R129, R190, R192) -/

/-- The line of a Bench that holds an address. -/
def l1Find (s : State) (b p : Nat) : Option L1Line :=
  s.l1.find? fun l => l.bench == b && l.base == p / Config.lineBytes

/-- Fills the line of an address from its home slice (R129). -/
def State.l1Fill (s : State) (b p : Nat) : State :=
  if (l1Find s b p).isSome then s
  else
    let base := p / Config.lineBytes
    { s with l1 := s.l1 ++ [⟨b, base, homeRead s (base * Config.lineBytes) Config.lineBytes⟩] }

/-- The byte a load through L1 reads: from the line where the Bench holds it, else from the home (R190). -/
def l1Byte (s : State) (b p : Nat) : Byte :=
  match l1Find s b p with
  | some l => l.bytes.getD (p % Config.lineBytes) Config.unwritten
  | none => homeByte s p

/-- Updates a line that is present with bytes a store of the Bench writes (R134). -/
def State.l1Update (s : State) (b base : Nat) (bs : List (Nat × Byte)) : State :=
  { s with l1 := s.l1.map fun l =>
      if l.bench = b then
        { l with bytes := bs.foldl (fun ys p =>
            if (base + p.1) / Config.lineBytes = l.base then ys.set ((base + p.1) % Config.lineBytes) p.2 else ys) l.bytes }
      else l }

/-- Drops lines from the L1s, by Bench and line number, and the tiles with a byte in one from the weight buffers of the Bench's Looms
(R192, R255). -/
def State.dropLines (s : State) (hit : Nat → Nat → Bool) : State :=
  { s with
    l1 := s.l1.filter fun l => !hit l.bench l.base
    wbuf := s.wbuf.filter fun t => !t.pieces.any fun p => hit (t.loom / 4) (p.1 / Config.lineBytes) }

/-- Flash-invalidates a Bench's L1, and its Looms' weight buffers with it (R192, R255). -/
def State.l1Flash (s : State) (b : Nat) : State :=
  { s with l1 := s.l1.filter (·.bench != b), wbuf := s.wbuf.filter fun t => t.loom / 4 != b }

/-- A cut that has read on another Bench comes to one: the older lines that it might find there are evicted, so that its loads return
nothing older than before (R130, R191; DEDUCED, log 106). -/
def State.freshFor (s : State) (old new : Nat) : State := if old = new then s else s.l1Flash new

/-- Drops one line of a Bench, as an eviction does. -/
def State.l1Evict (s : State) (b p : Nat) : State := s.dropLines fun x base => x == b && base == p / Config.lineBytes

/-- The tiles of a Bench's weight buffers that hold a byte of a line are dropped with a store of the Bench to it, so that its fetches find
the store, as its loads do (R130, R253; DESIGN CHOICE, log 10). -/
def State.dropTiles (s : State) (b p : Nat) : State :=
  { s with wbuf := s.wbuf.filter fun t => !(t.loom / 4 == b && t.pieces.any fun q => q.1 / Config.lineBytes == p / Config.lineBytes) }

/-! ## Locations -/

/-- The space a location lies in, and its offset there. -/
def locSpace : Loc → Nat × Nat × Nat × Nat
  | .dev _ => (0, 0, 0, 0)
  | .host _ => (1, 0, 0, 0)
  | .remote f r o _ => (2, f, r, o)

def locOff : Loc → Nat
  | .dev p => p
  | .host p => p
  | .remote _ _ _ off => off

/-- A location `n` bytes lower or at another offset of its space. -/
def locAt : Loc → Nat → Loc
  | .dev _, n => .dev n
  | .host _, n => .host n
  | .remote f r o _, n => .remote f r o n

/-- Whether `n` bytes at one location share a byte with `m` bytes at another. -/
def locOverlap (a : Loc) (n : Nat) (b : Loc) (m : Nat) : Bool :=
  locSpace a == locSpace b && decide (locOff a < locOff b + m ∧ locOff b < locOff a + n)

/-- What a read of `n` bytes at a location leaves: every sector of it that has a flaw is found (R381, R383). -/
def State.readAll (s : State) (l : Loc) (n : Nat) : State :=
  match l with
  | .dev p =>
    if s.flaws.isEmpty ∨ n = 0 then s
    else (List.range ((p + n - 1) / 128 + 1 - p / 128)).foldl (fun s i => s.readFlaw (Nat.max p ((p / 128 + i) * 128))) s
  | _ => s

/-- Bytes at a location as a read that bypasses L1 finds them, before the store queue; a remote location reads by message. -/
def locRead (s : State) (l : Loc) (n : Nat) : List Byte :=
  match l with
  | .dev p => homeRead s p n
  | .host p => hostRead s p n
  | .remote _ _ _ _ => List.replicate n Config.unwritten

end Sys2Proof.Machine
end

