-- ==== Sys2Proof/Machine/Translate.lean ====
section
/-! DEFINITION. Translation (R356 to R363): the walk, the caches of translations, and the checks of R124. -/

namespace Sys2Proof.Machine

/-- The bits of TCAUSE (R340). -/
def causeILL : Nat := 1
def causeBND : Nat := 2
def causeRGT : Nat := 4
def causeABS : Nat := 8
def causeLSF : Nat := 16
def causeALN : Nat := 32
def causeARI : Nat := 64
def causeMOD : Nat := 128
def causeTRP : Nat := 256
def causeBKP : Nat := 512
def causeRTT : Nat := 2048
def causeSPF : Nat := 4096
def causeTMO : Nat := 8192
def causeECC : Nat := 16384
def causeLOV : Nat := 32768
def causeCHC : Nat := 65536

/-- The object number and the offset of an object pointer (R120). -/
def objOf (ptr : W64) : Nat := fld ptr 44 20
def offOf (ptr : W64) : Nat := fld ptr 0 44

/-- An object pointer `n` bytes further, modulo 2^64. -/
def ptrAdd (ptr : W64) (n : Nat) : W64 := ptr + BitVec.ofNat 64 n

/-- The page size of an object (R357). -/
def pageSize (large : Bool) : Nat := if large then 2 ^ 21 else 2 ^ 16

/-- A byte of the ownership table's copy; 40 to 254 read as 0xFF, which names no partition (R372). -/
def ownerAt (s : State) (i : Nat) : Option Nat :=
  let b := (s.own.getD i 0xFF#8).toNat
  if b < 40 then some b else none

/-- The owner of a quadrant, of a district, of a Mill, and the home Bench of a district (R372). -/
def quadOwner (s : State) (q : Nat) : Option Nat := ownerAt s q
def districtOwner (s : State) (d : Nat) : Option Nat := ownerAt s (1024 + d)
def homeBench (s : State) (d : Nat) : Nat := (s.own.getD (1072 + d) 0xFF#8).toNat
def millOwner (s : State) (m : Nat) : Option Nat := ownerAt s (1120 + m)
def hostOwner (s : State) (g : Nat) : Option Nat := ownerAt s (1504 + g)

/-- What a translation finds: whether the object exists (check 1 of R124), its entry, where the byte lies (`none` where the
lane is absent), the reason WALKERR records (0 for none), and the translation a TLB then holds. -/
structure Xlat where
  found : Bool
  ent : Option ObjEnt
  loc : Option Loc
  reason : Nat
  fill : Option TlbEnt
  deriving DecidableEq, Repr

/-- No such object, with the reason recorded. -/
def noObject (reason : Nat) : Xlat := ⟨false, none, none, reason, none⟩

/-- Where a frame puts an offset of an object (R359). -/
def frameLoc (kind frame off : Nat) (large : Bool) : Loc :=
  let p := frame + off % pageSize large
  if kind = 1 then .host (p - 12 * 2 ^ 36) else .dev p

/-- The partition of an address space, by its descriptor (R356). -/
def asidPart (s : State) (asid : Nat) : Option Nat :=
  let w := BitVec.ofNat 64 (homeWord s (fld (s.reg regAstbase) 18 22 * 2 ^ 18 + 32 * asid) 8)
  if bit w 63 then some (fld w 48 6) else none

/-- The page entry's part of a walk (R358, R359, R361). -/
def walkPage (s : State) (asid obj off part : Nat) (e : ObjEnt) (unit : TlbUnit) : Xlat :=
  let page := off / pageSize e.large
  let at_ := e.plist + 8 * page
  let w := BitVec.ofNat 64 (homeWord s at_ 8)
  let frame := fld w 16 24 * 2 ^ 16
  let st := frame / 2 ^ 36
  let absent := fun r => (⟨true, some e, none, r, none⟩ : Xlat)
  let owner := if e.kind = 1 then hostOwner s ((frame - 12 * 2 ^ 36) / 2 ^ 30) else districtOwner s (frame / 2 ^ 34)
  if errored s at_ then absent 4
  else if !bit w 63 then absent 0
  else if fld w 40 22 ≠ 0 ∨ fld w 0 16 ≠ 0 ∨ (e.large ∧ frame % 2 ^ 21 ≠ 0) then absent 2
  else if (e.kind = 0 ∧ 12 ≤ st) ∨ (e.kind = 1 ∧ st ≠ 12 ∧ st ≠ 13) then absent 2
  else if owner ≠ some part then absent 3
  else ⟨true, some e, some (frameLoc e.kind frame off e.large), 0, some ⟨unit, asid, obj, page, e, frame, bit w 62⟩⟩

/-- The object entry of a pointer's object, or why there is none (R356, R357, R361): the entry with the partition. -/
def walkObject (s : State) (asid obj : Nat) : Except (Nat × Bool) (ObjEnt × Nat) :=
  let d := fld (s.reg regAstbase) 18 22 * 2 ^ 18 + 32 * asid
  let dw := fun i => BitVec.ofNat 64 (homeWord s (d + 8 * i) 8)
  let ctl := dw 0
  let base := (dw 1).toNat
  let o := base + 32 * obj
  let ow := fun i => BitVec.ofNat 64 (homeWord s (o + 8 * i) 8)
  let attr := ow 1
  let plist := (ow 2).toNat
  let remote := ow 3
  let kind := fld attr 60 3
  if obj = 0 then .error (0, false)
  else if errored s d then .error (4, true)
  else if !bit ctl 63 then .error (0, false)
  else if fld ctl 54 9 ≠ 0 ∨ fld ctl 20 28 ≠ 0 ∨ base % 32 ≠ 0 ∨ !isDevice base ∨ dw 2 ≠ 0 ∨ dw 3 ≠ 0 then .error (1, false)
  else if fld ctl 0 20 ≤ obj then .error (0, false)
  else if errored s o then .error (4, true)
  else if !bit attr 63 then .error (0, false)
  else if 3 ≤ kind ∨ fld (ow 0) 44 20 ≠ 0 ∨ fld attr 52 7 ≠ 0 ∨ fld attr 0 48 ≠ 0 ∨ plist % 8 ≠ 0 ∨ !isDevice plist
      ∨ (kind = 2 ∧ (fld remote 45 3 ≠ 0 ∨ fld remote 20 12 ≠ 0)) ∨ (kind ≠ 2 ∧ remote ≠ 0) then .error (1, false)
  else .ok (⟨fld (ow 0) 0 44, kind, bit attr 59, bit attr 51, bit attr 50, bit attr 49, bit attr 48, plist,
    fld remote 48 16, fld remote 32 13, fld remote 0 20⟩, fld ctl 48 6)

/-- A walk of the tables for a pointer (R360, R361). -/
def walk (s : State) (unit : TlbUnit) (asid : Nat) (ptr : W64) : Xlat :=
  match walkObject s asid (objOf ptr) with
  | .error (r, absent) => if absent then ⟨true, none, none, r, none⟩ else noObject r
  | .ok (e, part) =>
    if e.len ≤ offOf ptr then ⟨true, some e, none, 0, none⟩
    else if e.kind = 2 then ⟨true, some e, some (.remote e.fid e.rasid e.robj (offOf ptr)), 0, none⟩
    else walkPage s asid (objOf ptr) (offOf ptr) part e unit

/-- The caches a unit asks in turn (R360). -/
def tlbChain : TlbUnit → List TlbUnit
  | .bench b => [.bench b, .die (dieOfBench b)]
  | u => [u]

/-- The entry of a cache that translates a pointer. -/
def tlbHit (s : State) (u : TlbUnit) (asid : Nat) (ptr : W64) : Option TlbEnt :=
  s.tlb.find? fun t => t.unit == u && t.asid == asid && t.obj == objOf ptr && t.page == offOf ptr / pageSize t.ent.large

/-- The translation of a pointer for a unit: from the first cache that holds it, else by a walk (R360). -/
def xlat (s : State) (u : TlbUnit) (asid : Nat) (ptr : W64) : Xlat :=
  match (tlbChain u).findSome? fun v => tlbHit s v asid ptr with
  | some t =>
    if t.ent.len ≤ offOf ptr then ⟨true, some t.ent, none, 0, none⟩
    else ⟨true, some t.ent, some (frameLoc t.ent.kind t.frame (offOf ptr) t.ent.large), 0, some { t with unit := u }⟩
  | none => walk s u asid ptr

/-- The most entries a cache holds. -/
def tlbCap : TlbUnit → Nat
  | .bench _ => Config.l1Tlb
  | .die _ => Config.l2Tlb
  | .mill _ => Config.millTlb

/-- Enters a translation in one cache, the oldest entry leaving a full one (R360). -/
def tlbAdd (tlb : List TlbEnt) (t : TlbEnt) : List TlbEnt :=
  if t ∈ tlb then tlb
  else
    let mine := tlb.filter (·.unit == t.unit)
    (if mine.length < tlbCap t.unit then tlb else match mine with | [] => tlb | o :: _ => tlb.filter (· != o)) ++ [t]

/-- A walk that no cache spared finds the flaws of the entries that it reads (R370, R383). -/
def State.walkRead (s : State) (u : TlbUnit) (asid : Nat) (ptr : W64) : State :=
  if s.flaws.isEmpty ∨ (tlbChain u).any (fun v => (tlbHit s v asid ptr).isSome) then s
  else
    let d := fld (s.reg regAstbase) 18 22 * 2 ^ 18 + 32 * asid
    let o := (BitVec.ofNat 64 (homeWord s (d + 8) 8)).toNat + 32 * objOf ptr
    let t := s.readAll (.dev d) 32
    match walkObject s asid (objOf ptr) with
    | .error (r, absent) => if r = 4 ∧ absent ∧ !errored s d then t.readAll (.dev o) 32 else t
    | .ok (e, _) =>
      let t := t.readAll (.dev o) 32
      if e.kind = 2 ∨ e.len ≤ offOf ptr then t else t.readAll (.dev (e.plist + 8 * (offOf ptr / pageSize e.large))) 8

/-- Records a walk error in WALKERR (R370). -/
def State.walkError (s : State) (reason asid obj : Nat) : State :=
  let w := s.reg regWalkerr
  let n := Nat.min 0xFFFF (fld w 0 16 + 1)
  s.setReg regWalkerr (putFld (putFld (putFld (putFld w 60 4 reason) 47 13 asid) 27 20 obj) 0 16 n)

/-- What a translation leaves: the caches of the unit's chain hold it, and WALKERR records an error (R360, R370). -/
def State.xlatted (s : State) (u : TlbUnit) (asid : Nat) (ptr : W64) : State :=
  let x := xlat s u asid ptr
  let s := s.walkRead u asid ptr
  let s := match x.fill with
    | some t => { s with tlb := (tlbChain u).foldl (fun tlb v => tlbAdd tlb { t with unit := v }) s.tlb }
    | none => s
  if x.reason = 0 then s else s.walkError x.reason asid (objOf ptr)

/-- What a read of `n` bytes at a pointer, within one page, leaves of the flaws it finds (R381, R383). -/
def State.readPtr (s : State) (u : TlbUnit) (asid : Nat) (ptr : W64) (n : Nat) : State :=
  match (xlat s u asid ptr).loc with
  | some l => s.readAll l n
  | none => s

/-- The rights an access needs (R124). -/
inductive Need where
  | read | write | both | exec | none
  deriving DecidableEq, Repr

/-- Whether an entry grants the rights. -/
def Need.met (n : Need) (e : ObjEnt) : Bool :=
  match n with
  | .read => e.r
  | .write => e.w
  | .both => e.r && e.w
  | .exec => e.x
  | .none => true

/-- The cause that an access of `size` bytes at a pointer raises, 0 for none: checks 1 to 4 in order, the first that fails
(R124). `align` is the multiple the address must be. -/
def accessCause (s : State) (u : TlbUnit) (asid : Nat) (ptr : W64) (size align : Nat) (need : Need) : Nat :=
  let x := xlat s u asid ptr
  if !x.found then causeBND
  else match x.ent with
    | none => if offOf ptr % align ≠ 0 then causeALN else 0
    | some e =>
      if e.len < offOf ptr + size then causeBND
      else if !need.met e then causeRGT
      else if offOf ptr % align ≠ 0 then causeALN
      else 0

/-- Where each element of an access lies, `none` where any byte of it is absent (R126). -/
def accessLocs (s : State) (u : TlbUnit) (asid : Nat) (ptr : W64) (size elems : Nat) : Option (List Loc) :=
  (List.range elems).mapM fun j => (xlat s u asid (ptrAdd ptr (j * size))).loc

/-! ## Ranges cut where their pages may change -/

/-- The parts of `n` bytes from `a` that lie in one page of `size` bytes each. -/
def pagesOf (size a n : Nat) : List (Nat × Nat) :=
  (List.range (n / size + 2)).filterMap fun j =>
    let page := (a / size + j) * size
    let lo := Nat.max a page
    let hi := Nat.min (a + n) (page + size)
    if lo < hi then some (lo, hi - lo) else none

/-- A range cut where its pages may change: pointers with lengths. -/
def segments (ptr : W64) (n : Nat) : List (W64 × Nat) := (pagesOf (2 ^ 16) ptr.toNat n).map fun p => (BitVec.ofNat 64 p.1, p.2)

end Sys2Proof.Machine
end

