-- ==== Sys2Proof/Machine/Cuts.lean ====
section
/-! DEFINITION. Cuts: their items and lanes, the MODE fields, predicates and their forms (R20, R395), register values by item
(R18), the guard (R80), and the ends of words: the loop stack (R105 to R108) and retirement. -/

namespace Sys2Proof.Machine

/-! ## Finding things by number -/

/-- The cut with a number. -/
def State.cutOf (s : State) (uid : Nat) : Option Cut := s.cuts.find? (·.uid == uid)

/-- The cut whose instruction is executing. -/
def State.executing (s : State) : Option Cut := s.cutOf s.cur

/-- Stores a cut over the one of its number. -/
def State.putCut (s : State) (c : Cut) : State :=
  { s with cuts := s.cuts.map fun d => if d.uid = c.uid then c else d }

/-- Removes a cut. -/
def State.dropCut (s : State) (uid : Nat) : State := { s with cuts := s.cuts.filter (·.uid != uid) }

/-- What stands for a launch that is not live: every field empty. -/
def Launch.absent : Launch :=
  { lid := 0, state := .ended, asid := 0, vf := 0, part := 0, queue := 0, index := 0, user := 0, irq := false, doneP := 0
    kcode := 0, extx := 1, exty := 1, extz := 1, mode := 0, seed := 0, hv := false, hoff := 0, nslot := 0, space := 0
    backing := 0, parmSlot := none, launchId := 0, boltId := 0, depth := 0, qm := false, quantum := 1024, serial := false
    cls := 0, acct := 0, roles := [], chutes := [], stages := [], maps := [], ranges := [], slotGens := [], millSeq := 0
    cmds := [], charged := 0, listPtr := none, recIdx := 0, endState := 0, endReason := 0, since := 0, rgen := 0
    lifetimes := [] }

/-- The launch with a number. -/
def State.launchOf (s : State) (lid : Nat) : Launch := (s.launches.find? (·.lid == lid)).getD Launch.absent

/-- Stores a launch over the one of its number. -/
def State.putLaunch (s : State) (l : Launch) : State :=
  { s with launches := s.launches.map fun d => if d.lid = l.lid then l else d }

/-- The crew with a key. -/
def State.crewOf (s : State) (key : Nat) : Option Crew := s.crews.find? (·.key == key)

def State.putCrew (s : State) (c : Crew) : State :=
  { s with crews := s.crews.map fun d => if d.key = c.key then c else d }

/-! ## Places -/

/-- The Bench that holds a cut. -/
def Place.bench : Place → Nat
  | .foreman b => b
  | .quad b _ => b
  | .queue b => b
  | .returned b => b
  | .saved b => b
  | .mill _ => 0

/-- Whether a cut is resident: it can issue. -/
def Place.resident : Place → Bool
  | .foreman _ => true
  | .quad _ _ => true
  | .mill _ => true
  | _ => false

/-- Whether a cut runs on a Mill. -/
def Cut.onMill (c : Cut) : Bool :=
  match c.place with
  | .mill _ => true
  | _ => false

/-- The number of the Mill a cut runs on. -/
def Cut.millNum (c : Cut) : Nat :=
  match c.place with
  | .mill m => m
  | _ => 0

/-- The unit whose TLB a cut's accesses use (R360). -/
def Cut.unit (c : Cut) : TlbUnit :=
  match c.place with
  | .mill m => .mill m
  | p => .bench p.bench

/-! ## Items and lanes -/

/-- Whether a cut is a pattern cut. -/
def Cut.isPattern (c : Cut) : Bool := c.kind == .pattern

/-- The number of items of a box. -/
def Box.size (b : Box) : Nat := b.nx * b.ny * b.nz

/-- Item i of a box in linear order, x fastest (R15). -/
def Box.item (b : Box) (i : Nat) : Item :=
  ⟨b.lo.x + i % b.nx, b.lo.y + (i / b.nx) % b.ny, b.lo.z + i / (b.nx * b.ny)⟩

/-- The items of a box in linear order. -/
def Box.items (b : Box) : List Item := (List.range b.size).map b.item

/-- The linear item index (R15). -/
def ilOf (l : Launch) (it : Item) : Nat := it.x + l.extx * (it.y + l.exty * it.z)

/-- The positions of a cut that hold an active item: the places of a pattern cut's box, the active lanes of any other cut. -/
def Cut.positions (c : Cut) : List Nat := if c.isPattern then List.range c.box.size else lanesOf c.ctx.active

/-- The item at a position. -/
def Cut.item (c : Cut) (i : Nat) : Item := if c.isPattern then c.box.item i else c.items.getD i ⟨0, 0, 0⟩

/-- How many positions a cut's values have: its box, or 32 lanes. -/
def Cut.span (c : Cut) : Nat := if c.isPattern then c.box.size else Config.lanes

/-- The smallest box holding some items; a box of one at the origin for none. -/
def boundingBox (its : List Item) : Box :=
  let lo := fun (f : Item → Nat) => leastOf 0 (its.map f)
  let hi := fun (f : Item → Nat) => (its.map f).foldl Nat.max 0
  ⟨⟨lo (·.x), lo (·.y), lo (·.z)⟩, hi (·.x) + 1 - lo (·.x), hi (·.y) + 1 - lo (·.y), hi (·.z) + 1 - lo (·.z)⟩

/-- The box of a cut: its own, or the smallest that holds its active items (R169, R395). -/
def Cut.theBox (c : Cut) : Box := if c.isPattern then c.box else boundingBox (c.positions.map c.item)

/-- The item index that `il` reads at a position (R18, R262). -/
def Cut.ilAt (s : State) (c : Cut) (i : Nat) : Nat := if c.mill then i else ilOf (s.launchOf c.lid) (c.item i)

/-- The least item index of a cut. -/
def Cut.ilLow (s : State) (c : Cut) : Nat := leastOf 0 (c.positions.map (Cut.ilAt s c))

/-- CUTID (R22). -/
def Cut.cutid (c : Cut) : W64 :=
  let k := match c.kind with | .pattern => 0 | .lane => 1 | .fragment => 2 | .stray => 3
  BitVec.ofNat 64 (k * 2 ^ 62 + (if c.kind = .fragment then c.frag * 2 ^ 59 else 0) + (if c.mill then 2 ^ 58 else 0)
    + c.first % 2 ^ 40)

/-- The identifier of the parent lane cut of a fragment or stray, the cut's own otherwise (R169, R340). A stray's FIRST is its
own item; its parent's is that of lane 0. -/
def Cut.parid (s : State) (c : Cut) : W64 :=
  match c.kind with
  | .fragment | .stray =>
    BitVec.ofNat 64 (2 ^ 62 + (if c.mill then 2 ^ 58 + c.first % 2 ^ 40 else ilOf (s.launchOf c.lid) (c.item 0) % 2 ^ 40))
  | _ => c.cutid

/-- The siblings of a fragment or stray (R25). -/
def siblings (s : State) (c : Cut) : List Cut :=
  s.cuts.filter fun d => d.uid != c.uid && d.parent == c.parent && d.lid == c.lid && !d.isPattern && !c.isPattern

/-- The lanes of a cut in the layout of TLANES: ALL for a pattern cut (R340). -/
def Cut.allLanes (c : Cut) : W64 := if c.isPattern then 1#64 <<< 63 else c.ctx.active.setWidth 64

/-- Lanes in the layout of TLANES. -/
def lanesWord (is : List Nat) : W64 := (maskOf 32 (· ∈ is)).setWidth 64

/-- The lanes that performed before the trap that the instruction at the pc replays (R125). -/
def Cut.performed (c : Cut) (i : Nat) : Bool := bit c.replay 63 || c.replay.toNat.testBit i

/-! ## MODE (R79) -/

/-- A field of MODE. -/
def modeField (m : W32) (lo len : Nat) : Nat := (m.toNat >>> lo) % 2 ^ len

def modeET (m : W32) : Nat := modeField m 4 4
def modeRM (m : W32) : Nat := modeField m 8 3
def modeSAT (m : W32) : Bool := modeField m 11 1 == 1
def modeFTZ (m : W32) : Bool := modeField m 12 1 == 1
def modeSC (m : W32) : Nat := modeField m 13 3
def modeLF (m : W32) : Nat := modeField m 16 2
def modeFP (m : W32) : Nat := modeField m 18 3
def modeAOP (m : W32) : Nat := modeField m 21 4
def modeSS (m : W32) : Nat := modeField m 25 3
def modeGP (m : W32) : Nat := modeField m 0 3
def modeGS (m : W32) : Bool := modeField m 3 1 == 1

/-- Whether MODE may hold a value: no reserved bit, no reserved value of AOP, LF, SC or RM (R80). -/
def modeLegal (m : W32) : Bool :=
  modeField m 28 4 == 0 && decide (modeAOP m ≤ 10) && decide (modeLF m ≤ 1) && decide (modeSC m ≤ 4) && decide (modeRM m ≤ 5)

/-! ## Predicates (R20, R395) -/

/-- Whether a coordinate lies within an optional bound on each side. -/
def within (lo hi : Option Nat) (n : Nat) : Bool := (lo.all (· ≤ n)) && (hi.all (n ≤ ·))

def Bounds.holds (b : Bounds) (it : Item) : Bool :=
  within b.xlo b.xhi it.x && within b.ylo b.yhi it.y && within b.zlo b.zhi it.z

/-- The value of a predicate for an item at a position. -/
def PredVal.at (p : PredVal) (it : Item) (i : Nat) : Bool :=
  match p with
  | .uni b => b
  | .box b => b.holds it
  | .lanes m => inMask m i

/-- Whether a predicate has one bit per lane. -/
def PredVal.isLanes : PredVal → Bool
  | .lanes _ => true
  | _ => false

/-- Predicate `n` of a cut; `p0` reads true (R75). -/
def Cut.pred (c : Cut) (n : Nat) : PredVal := if n = 0 then .uni true else c.ctx.preds.getD n (.uni false)

/-- Sets predicate `n`; `p0` discards (R75). -/
def Cut.setPred (c : Cut) (n : Nat) (p : PredVal) : Cut :=
  if n = 0 then c else { c with ctx := { c.ctx with preds := c.ctx.preds.set n p } }

/-- Predicate `n` of a cut at a position. -/
def Cut.predAt (c : Cut) (n i : Nat) : Bool := (c.pred n).at (c.item i) i

/-- The bounds of a true box within a cut's box: a side is bounded where it restricts a dimension of extent above 1 (R395). -/
def boundsOf (b t : Box) : Bounds :=
  let side := fun (lo n tlo tn : Nat) =>
    if n ≤ 1 ∨ (tlo = lo ∧ tn = n) then ((none : Option Nat), (none : Option Nat)) else (some tlo, some (tlo + tn - 1))
  let x := side b.lo.x b.nx t.lo.x t.nx
  let y := side b.lo.y b.ny t.lo.y t.ny
  let z := side b.lo.z b.nz t.lo.z t.nz
  ⟨x.1, x.2, y.1, y.2, z.1, z.2⟩

/-- The uniform or pattern predicate with a true set in a box, `none` where the set is not a box (R20, R395). -/
def boxPred (b : Box) (f : Item → Bool) : Option PredVal :=
  let ts := b.items.filter f
  let t := boundingBox ts
  if ts.length = 0 then some (.uni false)
  else if ts.length = b.size then some (.uni true)
  else if t.size = ts.length then some (.box (boundsOf b t))
  else none

/-- The lane predicate with a value at each position. -/
def lanePred (c : Cut) (f : Nat → Bool) : PredVal := .lanes (maskOf 32 fun i => inMask c.ctx.active i && f i)

/-- A predicate result made from predicates: uniform or pattern when every input is and the true set is a box, a lane
predicate otherwise; `none` where a pattern cut must materialize for it (R20, R171). -/
def predResult (c : Cut) (ins : List PredVal) (f : Item → Nat → Bool) : Option PredVal :=
  if ins.any PredVal.isLanes then (if c.isPattern then none else some (lanePred c fun i => f (c.item i) i))
  else match boxPred c.theBox fun it => f it 0 with
    | some p => some p
    | none => if c.isPattern then none else some (lanePred c fun i => f (c.item i) i)

/-! ## The guard (R80) -/

/-- Whether the guard is true at a position. -/
def Cut.guard (c : Cut) (i : Nat) : Bool := c.predAt (modeGP c.ctx.mode) i != modeGS c.ctx.mode

/-- The guard's value where its predicate is uniform; `none` where it is not (R80). -/
def Cut.guardUni (c : Cut) : Option Bool :=
  match c.pred (modeGP c.ctx.mode) with
  | .uni b => some (b != modeGS c.ctx.mode)
  | _ => none

/-- The positions that a governed instruction performs in. -/
def Cut.governed (c : Cut) : List Nat := c.positions.filter c.guard

/-! ## Register values (R18, R74) -/

/-- A uniform value. -/
def uVal (b : W64) : RegVal := .pat b 0 0 0

def RegVal.isU : RegVal → Bool
  | .pat _ sx sy sz => sx == 0 && sy == 0 && sz == 0
  | .lanes _ => false

def RegVal.isL : RegVal → Bool
  | .lanes _ => true
  | _ => false

/-- The value of a register for an item at a position (R18). -/
def RegVal.at (v : RegVal) (it : Item) (i : Nat) : W64 :=
  match v with
  | .pat b sx sy sz =>
    b + sx.signExtend 64 * BitVec.ofNat 64 it.x + sy.signExtend 64 * BitVec.ofNat 64 it.y
      + sz.signExtend 64 * BitVec.ofNat 64 it.z
  | .lanes vs => vs.getD i 0

/-- A register's value at a position of a cut. -/
def Cut.valAt (c : Cut) (v : RegVal) (i : Nat) : W64 := v.at (c.item i) i

/-- An L-form value from a function of the position. -/
def Cut.lVal (c : Cut) (f : Nat → W64) : RegVal := .lanes ((List.range c.span).map f)

/-- Whether a stride fits a signed 32-bit field. -/
def fits32 (n : Int) : Bool := decide (-(2 ^ 31 : Nat) ≤ n ∧ n < (2 ^ 31 : Nat))

/-- An affine value, in P or U form where its strides fit (R18, R19). -/
def affine (b : Int) (sx sy sz : Int) : Option RegVal :=
  if fits32 sx && fits32 sy && fits32 sz then
    some (.pat (ofInt b) (BitVec.ofInt 32 sx) (BitVec.ofInt 32 sy) (BitVec.ofInt 32 sz))
  else none

/-- The value of a register at a position the same in every active position, if it is. -/
def Cut.uniformOf (c : Cut) (v : RegVal) : Option W64 :=
  match v with
  | .pat b 0 0 0 => some b
  | v => match c.positions with
    | [] => some 0
    | i :: is => if is.all (fun j => c.valAt v j == c.valAt v i) then some (c.valAt v i) else none

/-! ## The ends of words (R105 to R108) -/

/-- End processing after the word at `pc`: the levels left, innermost first, and where a level loops back to (R107). -/
def endLoops (pc : W64) : List Level → List Level × Option W64
  | [] => ([], none)
  | l :: rest =>
    if l.stop = pc then (if l.cnt = 1 then endLoops pc rest else ({ l with cnt := l.cnt - 1 } :: rest, some l.start))
    else (l :: rest, none)

/-- Whether an address lies in a level's body (R108). -/
def Level.body (l : Level) (a : W64) : Bool := decide (l.start.toNat ≤ a.toNat ∧ a.toNat ≤ l.stop.toNat)

/-- The levels left after a transfer from `src` to `dst`: each level it leaves unwinds, with every level inside it (R108). -/
def unwind (src dst : W64) : List Level → List Level
  | [] => []
  | l :: rest => if (l :: rest).any (fun m => m.body src && !m.body dst) then unwind src dst rest else l :: rest

/-- A cut that has retired the word at its pc and continues at `next` with the loop stack `loops`: the windows of its
outstanding instructions count down (R81), and the replay is over (R125); a handler's own words keep what it will replay. -/
def Cut.goTo (c : Cut) (next : W64) (loops : List Level) : Cut :=
  { c with
    ctx := { c.ctx with pc := next, loops := loops }
    retired := c.retired + 1
    outst := c.outst.map fun o => { o with la := o.la - 1 }
    wait := .none
    replay := 0
    part := if c.trap.inh then c.part else []
    issuing := []
    haltPc := false }

/-- A cut that has retired the word at its pc without a transfer (R107). -/
def Cut.advance (c : Cut) : Cut :=
  match endLoops c.ctx.pc c.ctx.loops with
  | (loops, some start) => c.goTo start loops
  | (loops, none) => c.goTo (c.ctx.pc + 4) loops

/-- A cut that has retired a taken transfer to `dst` (R108). -/
def Cut.jump (c : Cut) (dst : W64) : Cut := c.goTo dst (unwind c.ctx.pc dst c.ctx.loops)

/-- Waits for the quantum's end once the cut has retired its quota (R38); Mill cuts do not count (R285). -/
def Cut.quota (l : Launch) (c : Cut) : Cut := if l.qm && !c.onMill && decide (l.quantum ≤ c.retired) then { c with wait := .quantum } else c

/-- Stores a cut after retirement, holding it for the end of its quantum where its quota is spent. -/
def State.retired (s : State) (c : Cut) : State := s.putCut (c.quota (s.launchOf c.lid))

/-- The executing cut retires its word (R107). -/
def State.advance (s : State) (c : Cut) : State := s.retired c.advance

/-- Holds a cut ineligible until its wait ends; it then executes the same word again (R32). -/
def State.hold (s : State) (c : Cut) (w : Wait) : State := s.putCut { c with wait := w }

/-- The cut has made an effect that outlives it (R37). -/
def Cut.effect (c : Cut) : Cut := { c with effects := true }

end Sys2Proof.Machine
end

