-- ==== Sys2Proof/Machine/Legal.lean ====
section
/-! DEFINITION. What a word names and which words are legal: the operands each instruction reads and writes (R74), the
static constraints of R75, R84 and R86, the element types each accepts (R80), and the instructions a Mill lacks (R264). -/

namespace Sys2Proof.Machine

/-! ## Operand specifiers (R74) -/

/-- A specifier that may be read: any but 0x4F. -/
def readable (o : Opnd) : Bool := o != 0x4F#7

/-- A specifier that may be a destination: `v`, `o`, `l0`, `z` and `q`. -/
def writable (o : Opnd) : Bool := decide (o.toNat ≤ 0x48) || o == 0x4A#7 || decide (0x50 ≤ o.toNat ∧ o.toNat ≤ 0x5F)

/-- A specifier that names a `q` register. -/
def isQ (o : Opnd) : Bool := decide (0x50 ≤ o.toNat ∧ o.toNat ≤ 0x5F)

/-- The number of a `q` register. -/
def qNum (o : Opnd) : Nat := o.toNat - 0x50

/-- A destination that makes a register result: not `z` (R76). -/
def isResult (o : Opnd) : Bool := o != 0x4A#7

/-- The inline constant `#n`, n not negative, of a selector or count field (R74). -/
def constOf (o : Opnd) : Nat := o.toNat - 0x70

/-- A field that must hold one of `#lo` to `#hi` (R75). -/
def constIn (o : Opnd) (lo hi : Nat) : Bool := decide (0x70 + lo ≤ o.toNat ∧ o.toNat ≤ 0x70 + hi)

/-- Whether `k` consecutive registers from a specifier lie in one file (R123). -/
def spanIn (o : Opnd) (k : Nat) : Bool :=
  decide (o.toNat + k ≤ 0x40) || decide (0x40 ≤ o.toNat ∧ o.toNat + k ≤ 0x48)

/-- The `k` consecutive specifiers from one. -/
def spanOf (o : Opnd) (k : Nat) : List Opnd := (List.range k).map fun j => BitVec.ofNat 7 (o.toNat + j)

/-- What the fields of a word name: the operands read in the order a, b, c, d (R220), the destinations written, the
predicates read and written, whether the guard governs it (R80), and whether it names lanes, so that a pattern cut
materializes (R171). -/
structure Uses where
  srcs : List Opnd
  dsts : List Opnd
  predR : List Nat
  predW : List Nat
  governed : Bool
  lanes : Bool
  deriving DecidableEq, Repr

/-- The uses of a governed register operation. -/
def usesR (srcs dsts : List Opnd) : Uses := ⟨srcs, dsts, [], [], true, false⟩

/-- The uses of a governed operation that names lanes. -/
def usesL (srcs dsts : List Opnd) : Uses := ⟨srcs, dsts, [], [], true, true⟩

/-- The uses of an instruction that the guard does not govern. -/
def usesN (srcs dsts : List Opnd) : Uses := ⟨srcs, dsts, [], [], false, false⟩

/-- The predicates of a mask of KILL: bit j−1 names pj (R168). -/
def maskPreds (m : Opnd) : List Nat := (List.range 7).filterMap fun j => if m.toNat.testBit j then some (j + 1) else none

/-- The registers that KILL names (R168). -/
def killRegs (a b : Opnd) : List Opnd := if a = 0x4A#7 then [] else spanOf a (b.toNat + 1 - a.toNat)

/-- The operands of each instruction. `fp` is MODE.FP where the instruction reads or writes it, and `cas` says that MODE.AOP
makes `ATOM` read its destination (R122, R139). -/
def uses (i : Instr) (fp : Nat) (flagging cas : Bool) : Uses :=
  let flag := if flagging then [fp] else []
  match i with
  | .nop | .yield | .seam | .tfence | .haltd | .bkpt | .lbrk | .modei _ | .loopi _ _ => usesN [] []
  | .exit | .jmp _ | .trap _ => usesR [] []
  | .ret => usesR [0x47#7] []
  | .mode a => usesR [a] []
  | .br _ p _ => { usesR [] [] with predR := [p.toNat] }
  | .call _ => usesR [] [0x47#7]
  | .jmpr a => usesR [a] []
  | .callr a => usesR [a] [0x47#7]
  | .loop c _ => usesN [c] []
  | .pand d _ a _ b | .por d _ a _ b | .pxor d _ a _ b | .pandn d _ a _ b =>
    { usesR [] [] with predR := [a.toNat, b.toNat], predW := [d.toNat] }
  | .pnot d _ a | .pmov d _ a | .pany d _ a | .pall d _ a => { usesR [] [] with predR := [a.toNat], predW := [d.toNat] }
  | .pcnt d _ a => { usesR [] [d] with predR := [a.toNat] }
  | .pmask d _ a => { usesL [] [d] with predR := [a.toNat] }
  | .pfrom d a => { usesL [a] [] with predW := [d.toNat] }
  | .cmp _ d a b | .pmake _ d a b => { usesR [a, b] [] with predW := [d.toNat] }
  | .cmpi _ d a _ => { usesR [a] [] with predW := [d.toNat] }
  | .form d a | .pget d a _ => usesR [a] [d]
  | .matl d a => usesL [a] [d]
  | .kill m a b => { usesN [] (killRegs a b) with predW := maskPreds m }
  | .cutid d | .parid d | .cutbox d _ | .movi d _ => usesR [] [d]
  | .lidx d => usesL [] [d]
  | .add d a b | .sub d a b | .and d a b | .or d a b | .xor d a b | .andn d a b | .shl d a b | .shr d a b | .sar d a b
  | .rol d a b | .min d a b | .max d a b | .minu d a b | .maxu d a b | .absd d a b | .mul d a b | .mulhi d a b
  | .mulhiu d a b | .mulw d a b | .mulwu d a b | .bfe d a b | .bfeu d a b | .addw d a b | .addwu d a b | .subw d a b
  | .accw d a b | .accwu d a b | .satadd d a b | .satsub d a b | .fadd d a b | .fsub d a b | .fmul d a b | .fmin d a b
  | .fmax d a b | .fminn d a b | .fmaxn d a b | .fcpsgn d a b | .fscale d a b | .twosum d a b | .thmake d a b
  | .div _ d a b | .divu _ d a b | .fdiv _ d a b => usesR [a, b] [d]
  | .sel d a b => { usesR [a, b] [d] with predR := [fp] }
  | .bfi d a b => usesR [a, b, d] [d]
  | .neg d a | .clz d a | .ctz d a | .popc d a | .brev d a | .bswap d a | .narrow d a | .sext d a | .zext d a | .mov d a
  | .addi d a _ | .andi d a _ | .ori d a _ | .xori d a _ | .shli d a _ | .shri d a _ | .sari d a _ | .muli d a _
  | .fabs d a | .fneg d a | .fclass d a | .frnd d a | .ffrac d a | .fexpo d a | .fcvt _ d a | .f2i d a | .f2u d a
  | .i2f d a | .u2f d a | .frcp _ d a | .frsq _ d a | .fsqrt _ d a | .fexp2 _ d a | .flog2 _ d a | .fsin _ d a
  | .fcos _ d a | .thoff d a | .thshape d a | .pgreq _ d a | .pgwait d a | .pgtest d a => usesR [a] [d]
  | .movx d _ => usesR [d] [d]
  | .fma d a b c | .fnma d a b c | .madw d a b c | .madl d a b c => usesR [a, b, c] [d]
  | .shfl d a b | .shflx d a b | .shflu d a b | .shfld d a b | .bcast d a b | .dp4 d a b | .dp4u d a b | .dp2 d a b =>
    usesL [a, b] [d]
  | .vote d a | .compact d a | .red _ d a _ | .scan _ d a _ => usesL [a] [d]
  | .ld _ d a b | .ldb _ d a b | .lda _ d a b => { usesR [a, b] [d] with predW := flag }
  | .lds _ d a b => { usesR [a, b] [d] with predW := flag }
  | .ldt _ d a b => { usesL [a, b] [d] with predW := flag }
  | .ldm _ d a b => { usesR [a] (spanOf d (constOf b)) with predW := flag }
  | .st d a b | .stl d a b | .sts d a b => usesR [a, b, d] []
  | .stm d a b => usesR (a :: spanOf d (constOf b)) []
  | .atom _ d a b => { usesL (if cas then [a, b, d] else [a, b]) [d] with predW := flag }
  | .ared a b | .pref a b | .sfree a b | .sunpin a b | .cadd a b | .mwb a b => usesR [a, b] []
  | .salloc d a b | .spin d a b | .cwait _ d a b | .coll _ d a b | .launch _ d a b => usesR [a, b] [d]
  | .spgq d a _ => usesR [a] [d]
  | .fence _ _ _ d => usesN [] [d]
  | .fwait a | .barw a | .role a | .msect _ a => usesN [a] []
  | .ftest d a => usesR [a] [d]
  | .bar _ => usesN [] []
  | .bara d _ => usesN [] [d]
  | .cnew d a | .cjoin d a | .flags d a | .flagc d a | .perf d a => usesN [a] [d]
  | .cleave | .qunbind _ | .qclose _ | .tret => usesN [] []
  | .csize d => usesR [] [d]
  | .crank d => usesR [] [d]
  | .qbind _ a _ | .sbind _ a | .srel _ a => usesN [a] []
  | .qcnt d _ | .scnt d _ => usesN [] [d]
  | .cpy _ a | .cpyt _ a | .cpym _ a _ | .msend _ a _ => usesR [a] []
  | .evwait d | .evpeek d | .clock d | .csrr d _ | .mcommit _ d | .mrcnt d | .mstate d => usesN [] [d]
  | .msig d _ _ | .mesc d _ => usesN [] [d]
  | .cstat d a _ => usesN [a] [d]
  | .cabort a => usesN [a] []
  | .mld _ a b => usesR [a, b] []
  | .mma _ a b => usesR [a, b] []
  | .mmap a _ => usesR (spanOf a 3) []
  | .mzero _ => usesR [] []
  | .mdrn _ a _ => usesR [a] []
  | .mstat d _ | .mtest d | .mfenced d => usesR [] [d]
  | .csrw a _ => usesN [a] []
  | .tlbinv a b | .scrinv a b => usesN [a, b] []
  | _ => usesN [] []

/-! ## Static constraints (R75, R84, R86) -/

/-- A Bench-shaped coordinate without a nonzero reserved bit or an empty mask (R84). -/
def benchCoord (m : BitVec 14) : Bool := !m.getLsbD 13 && !m.getLsbD 0 && m.extractLsb' 1 4 != 0#4

/-- A Mill-shaped coordinate of a stack that exists (R84). -/
def millCoord (m : BitVec 14) : Bool :=
  m.getLsbD 13 && m.extractLsb' 0 4 == 0#4 && decide ((m.extractLsb' 9 4).toNat < 12)

/-- The Bench and the quadrant mask of a Bench-shaped coordinate. -/
def coordBench (m : BitVec 14) : Nat := 16 * (m.extractLsb' 9 4).toNat + (m.extractLsb' 5 4).toNat
def coordMask (m : BitVec 14) : Nat := (m.extractLsb' 1 4).toNat

/-- The device-wide number of the Mill of a Mill-shaped coordinate. -/
def coordMill (m : BitVec 14) : Nat := 32 * (m.extractLsb' 9 4).toNat + (m.extractLsb' 4 5).toNat

/-- The numbers of the CSRs that exist (R346). -/
def csrExists (n : Nat) : Bool :=
  decide (n ≤ 2) || decide (0x10 ≤ n ∧ n ≤ 0x18) || decide (0x20 ≤ n ∧ n ≤ 0x2B) || decide (0x30 ≤ n ∧ n ≤ 0x34) || n == 0x40
    || decide (0x50 ≤ n ∧ n ≤ 0x52)

/-- The CSRs that some `CSRW` may write (R346). -/
def csrWritable (n : Nat) : Bool := decide (n ≤ 2) || n == 0x11 || n == 0x14 || decide (0x20 ≤ n ∧ n ≤ 0x2B)

/-- The constraints on an instruction's selectors, counts, immediates and coordinates, register specifiers apart. -/
def selectorsOk (i : Instr) : Bool :=
  match i with
  | .loop _ n | .loopi _ n => n != 0#14
  | .cmp k _ _ _ | .cmpi k _ _ _ => decide (k.toNat < 12)
  | .pget _ _ b => constIn b 0 4
  | .kill m a b =>
    (a == 0x4A#7 && b == 0x4A#7 && m != 0#7) || (decide (a.toNat ≤ b.toNat) && (decide (b.toNat < 0x40) ||
      decide (0x40 ≤ a.toNat ∧ b.toNat < 0x48)))
  | .cutbox _ b => constIn b 0 7
  | .shli _ _ n | .shri _ _ n | .sari _ _ n => decide (n.toNat < 64)
  | .fcvt t _ _ => decide (8 ≤ t.toNat)
  | .red _ _ _ b => constIn b 0 5
  | .scan _ _ _ b => constIn b 0 5 || constIn b 8 13
  | .ldm _ d _ b => constIn b 1 8 && spanIn d (constOf b)
  | .stm d _ b => constIn b 1 8 && spanIn d (constOf b)
  | .spgq _ a b => constIn b 0 3 && (b == 0x70#7 || a == 0x4A#7)
  | .fence _ _ k _ => k != 3#2
  | .bar a | .bara _ a => constIn a 0 7
  | .qbind d _ b => isQ d && constIn b 0 1
  | .qunbind d | .qclose d | .sbind d _ | .srel d _ => isQ d
  | .qcnt _ a | .scnt _ a => isQ a
  | .cpym _ _ m => benchCoord m
  | .cstat _ _ b => constIn b 0 1
  | .mld d _ _ | .mma d _ _ | .mzero d => constIn d 0 3
  | .mmap a m => benchCoord m && spanIn a 3
  | .mdrn d _ b => (d == 0x70#7 || d == 0x72#7) && constIn b 0 3
  | .mstat _ a => constIn a 0 3
  | .msect w _ => decide (w.toNat ≤ 2)
  | .msend _ _ m => millCoord m
  | .msig _ a b => constIn a 0 3 && constIn b 0 7
  | .mesc d a => constIn a 0 2 && (a == 0x70#7 || d == 0x4A#7)
  | .csrr _ n => csrExists n.toNat
  | .csrw _ n => csrWritable n.toNat
  | _ => true

/-- Whether a decoded word is legal in itself: operand specifiers (R74), selectors and coordinates (R75, R84, R86). What
depends on the cut (the allotment, `q` bindings, MODE) is checked where it executes. -/
def staticOk (i : Instr) : Bool :=
  let u := uses i 0 false false
  u.srcs.all readable && u.dsts.all writable && selectorsOk i

/-! ## Element types (R80) -/

/-- The element types AOP accepts in `ATOM`, and in `ARED` (R138). -/
def aopOk (aop et : Nat) (ret : Bool) : Bool :=
  if aop ≤ 7 then decide (4 ≤ et ∧ et ≤ 7)
  else if aop ≤ 9 then ret && (decide (4 ≤ et ∧ et ≤ 7) || et == 10 || et == 11)
  else et == 10 || et == 11

/-- Whether an instruction accepts MODE's ET, AOP and SC (R80, R110, R123, R138, R148, R155 to R162, R181). -/
def typesOk (i : Instr) (et aop sc : Nat) : Bool :=
  let int := decide (et ≤ 7)
  let wide := decide (et ≤ 5)
  let float := decide (8 ≤ et ∧ et ≤ 11)
  let special := decide (8 ≤ et ∧ et ≤ 10)
  match i with
  | .add _ _ _ | .sub _ _ _ | .and _ _ _ | .or _ _ _ | .xor _ _ _ | .andn _ _ _ | .shl _ _ _ | .shr _ _ _ | .sar _ _ _
  | .rol _ _ _ | .min _ _ _ | .max _ _ _ | .minu _ _ _ | .maxu _ _ _ | .absd _ _ _ | .mul _ _ _ | .mulhi _ _ _
  | .mulhiu _ _ _ | .bfe _ _ _ | .bfeu _ _ _ | .bfi _ _ _ | .satadd _ _ _ | .satsub _ _ _
  | .addi _ _ _ | .andi _ _ _ | .ori _ _ _ | .xori _ _ _ | .shli _ _ _ | .shri _ _ _ | .sari _ _ _ | .muli _ _ _ => int
  | .neg _ _ | .clz _ _ | .ctz _ _ | .popc _ _ | .brev _ _ | .bswap _ _ | .sext _ _ | .zext _ _ => int
  | .div _ _ _ _ | .divu _ _ _ _ | .madl _ _ _ _ => int
  | .mulw _ _ _ | .mulwu _ _ _ | .addw _ _ _ | .addwu _ _ _ | .subw _ _ _ | .accw _ _ _ | .accwu _ _ _ => wide
  | .narrow _ _ => wide
  | .madw _ _ _ _ => wide
  | .fadd _ _ _ | .fsub _ _ _ | .fmul _ _ _ | .fmin _ _ _ | .fmax _ _ _ | .fminn _ _ _ | .fmaxn _ _ _ | .fcpsgn _ _ _
  | .fscale _ _ _ | .twosum _ _ _ => float
  | .fabs _ _ | .fneg _ _ | .fclass _ _ | .frnd _ _ | .ffrac _ _ | .fexpo _ _ | .f2i _ _ | .f2u _ _ | .i2f _ _
  | .u2f _ _ => float
  | .fsqrt _ _ _ => float
  | .fdiv _ _ _ _ => float
  | .fma _ _ _ _ | .fnma _ _ _ _ => float
  | .frcp _ _ _ | .frsq _ _ _ | .fexp2 _ _ _ | .flog2 _ _ _ | .fsin _ _ _ | .fcos _ _ _ => special
  | .fcvt _ _ _ => decide (8 ≤ et)
  | .cmp k _ _ _ => if et ≤ 7 then decide (k.toNat ≤ 9) else decide (k.toNat ≤ 5) || decide (10 ≤ k.toNat)
  | .cmpi k _ _ _ => if et ≤ 7 then decide (k.toNat ≤ 9) else decide (k.toNat ≤ 5) || decide (10 ≤ k.toNat)
  | .vote _ _ => decide (et ≤ 11)
  | .red _ _ _ b => if constIn b 0 2 then decide (et ≤ 11) else int
  | .scan _ _ _ b => if constIn b 0 2 || constIn b 8 10 then decide (et ≤ 11) else int
  | .dp4 _ _ _ | .dp2 _ _ _ => wide || special
  | .dp4u _ _ _ => wide
  | .ld _ _ _ _ | .ldb _ _ _ _ | .lda _ _ _ _ | .ldt _ _ _ _ | .lds _ _ _ _ | .ldm _ _ _ _ => decide (et ≤ 14)
  | .st _ _ _ | .stl _ _ _ | .sts _ _ _ | .stm _ _ _ => decide (et ≤ 14)
  | .atom _ _ _ _ => aopOk aop et true
  | .ared _ _ => aopOk aop et false
  | .fence _ f _ _ => f == 0#1 || sc == 4
  | .mzero _ => et == 10 || et == 4
  | .mld _ _ _ => et == 4 || et == 8 || et == 9 || et == 10
  | _ => true

/-! ## What a Mill has (R264) -/

/-- Whether a Mill executes an instruction; of the others it makes a return trap. `q` operands are checked apart. -/
def millHas (i : Instr) : Bool :=
  match i with
  | .div _ _ _ _ | .divu _ _ _ _ | .fdiv _ _ _ _ => false
  | .frcp _ _ _ | .frsq _ _ _ | .fsqrt _ _ _ | .fexp2 _ _ _ | .flog2 _ _ _ | .fsin _ _ _ | .fcos _ _ _ => false
  | .salloc _ _ _ | .sfree _ _ | .spin _ _ _ | .sunpin _ _ | .spgq _ _ _ => false
  | .bar _ | .bara _ _ | .barw _ | .cnew _ _ | .cjoin _ _ | .cleave | .csize _ | .crank _ | .role _ => false
  | .qbind _ _ _ | .qunbind _ | .qcnt _ _ | .qclose _ | .sbind _ _ | .srel _ _ | .scnt _ _ | .evwait _ | .evpeek _ => false
  | .coll _ _ _ _ | .cstat _ _ _ | .cabort _ | .launch _ _ _ _ => false
  | .mld _ _ _ | .mwb _ _ | .mma _ _ _ | .mmap _ _ | .mzero _ | .mdrn _ _ _ | .mstat _ _ | .mtest _ | .mfenced _ => false
  | .thmake _ _ _ | .thoff _ _ | .thshape _ _ => false
  | .tret | .tlbinv _ _ | .scrinv _ _ => false
  | _ => true

/-! ## The instructions of the charged reasons and of lookahead -/

/-- The la4 field of an instruction (R81); 0 where it has none. -/
def lookahead (i : Instr) : Nat :=
  match i with
  | .div l _ _ _ | .divu l _ _ _ | .fdiv l _ _ _ | .red l _ _ _ | .scan l _ _ _ | .ld l _ _ _ | .ldb l _ _ _ | .lda l _ _ _
  | .ldt l _ _ _ | .lds l _ _ _ | .atom l _ _ _ | .ldm l _ _ _ | .cwait l _ _ _ | .coll l _ _ _ | .launch l _ _ _ => l.toNat
  | .frcp l _ _ | .frsq l _ _ | .fsqrt l _ _ | .fexp2 l _ _ | .flog2 l _ _ | .fsin l _ _ | .fcos l _ _ | .pgreq l _ _
  | .mcommit l _ => l.toNat
  | _ => 0

end Sys2Proof.Machine
end

