-- ==== Sys2Proof/Machine/Covers.lean ====
section
/-! DEFINITION. What a fence covers: which of a cut's accesses, jobs and commands it still waits for (R177, R181, R192), with who
holds a Loom claim (R234). -/

namespace Sys2Proof.Machine

/-! ## Loom claims (R234) -/

/-- How a Loom claim names its holder: a pattern item by its il, a lane cut by its family. -/
def Cut.claimKey (s : State) (c : Cut) (i : Nat) : Nat × Nat := (c.lid, if c.isPattern then c.ilAt s i else 2 ^ 41 + c.parent)

/-- Whether a cut holds a claim: one of its items does, or its lane cut. -/
def Cut.holds (s : State) (c : Cut) (k : Nat × Nat) : Bool :=
  c.lid == k.1 && (if c.isPattern then c.positions.any fun i => c.ilAt s i == k.2 else k.2 == 2 ^ 41 + c.parent)

/-- Whether a claim stands: its cut or item has not exited (R234). -/
def claimLive (s : State) (k : Nat × Nat) : Bool := s.cuts.any fun c => c.holds s k

/-! ## Fences (R181) -/

/-- The numbers of a cut and of the cuts it descends from. -/
def Cut.lineage (c : Cut) : List Nat := c.uid :: c.anc

/-- Whether an access of a cut and a sequence number is covered by a fence. -/
def Fence.covers (f : Fence) (uid seq : Nat) : Bool := decide (uid ∈ f.cover) && decide (seq < f.upto)

/-- Whether a queued effect is one that an acquire fence covers too: an atomic. -/
def WriteOp.isAtomic : WriteOp → Bool
  | .bytes _ => false
  | .atomic _ _ _ => true

/-- Whether an outstanding result is a memory read: a load, or an atomic's values. -/
def Pending.isRead : Pending → Bool
  | .load _ _ _ _ _ => true
  | .atomic _ _ => true
  | _ => false

/-- Whether an outstanding result is an acquire load (R129). -/
def Pending.isAcquire : Pending → Bool
  | .load _ a _ _ _ => a
  | _ => false

/-- Whether a fence at device scope or wider waits for a write: its cut's own, and for a release or full fence the earlier ones of its
launch too, which its cut may have seen through a narrower scope (R180; DEDUCED, log 101). -/
def Fence.awaits (f : Fence) (w : Store) : Bool :=
  w.job.isNone && (if f.kind = 1 then f.covers w.uid w.seq && w.op.isAtomic
    else f.covers w.uid w.seq || (w.lid == f.lid && decide (w.seq < f.upto)))

/-- Writes that have not performed at the fence's scope: those in store queues for scopes device and system (R177), remote ones, and
covered ones that await the quantum commit (R196). -/
def fenceWrites (s : State) (f : Fence) : Bool :=
  (decide (3 ≤ f.scope) && (s.storeQ.any f.awaits || s.remotes.any fun r => r.store.any f.awaits))
    || (f.scope != 0 && s.qeff.any fun q => f.covers q.uid q.seq &&
      match q.eff with
      | .store w => f.kind != 1 || w.op.isAtomic
      | .push _ _ _ | .scratch _ _ | .sfree _ _ _ => f.kind != 1
      | _ => false)

/-- The Loom operations that have not retired, those of saved claims among them. -/
def loomOps (s : State) : List LoomOp :=
  s.looms.flatMap (·.ops) ++ (s.savedClaims.filter fun x => claimLive s x.claim).flatMap (·.loom.ops)

/-- Whether a drain that some cuts issued before a sequence number has still to write a byte of `n` at a location (R249, R253). -/
def drainsMeet (s : State) (uids : List Nat) (seq : Nat) (l : Loc) (n : Nat) : Bool :=
  (loomOps s).any fun o => o.op == 4 && decide (o.uid ∈ uids) && decide (o.seq < seq) && o.dest.any fun r =>
    (segments r.1 r.2).any fun p => ((walk s (.bench 0) o.asid p.1).loc).any fun x => locOverlap x p.2 l n

/-- Whether a fence covers an outstanding instruction: a memory read, or for a release or full fence a push that its value will make. -/
def Fence.coversResult (f : Fence) (o : Outst) : Bool :=
  decide (o.seq < f.upto) && (o.what.isRead || (f.kind != 1 && isQ o.dst))

/-- Covered reads not yet bound: outstanding loads and atomics, and operand fetches of Loom operations; with pushes of outstanding
values, and drains, which write (R181, R188, R253). -/
def fenceReads (s : State) (f : Fence) : Bool :=
  f.scope != 0 &&
    (s.cuts.any (fun c => c.lineage.any (fun u => decide (u ∈ f.cover)) && c.outst.any f.coversResult)
      || (loomOps s).any fun o =>
        f.covers o.uid o.seq && (o.op != 4 || f.kind != 1))

/-- Covered engine jobs and Mill commands that have not completed (R193, R195). -/
def fenceEngines (s : State) (f : Fence) : Bool :=
  (f.jobs && (s.jobs.any (fun j => f.covers j.uid j.seq)
      || s.comms.any (fun k => k.ops.any fun o => f.covers o.uid o.aseq)
      || s.qeff.any fun q => f.covers q.uid q.seq &&
        match q.eff with | .job _ _ _ _ => true | .coll _ _ _ _ => true | _ => false))
    || (f.mills && (s.launches.any (fun l => l.cmds.any fun m => f.covers m.uid m.acc)
      || s.qeff.any fun q => f.covers q.uid q.seq && match q.eff with | .msend _ _ => true | _ => false))

/-- Whether a fence has completed (R181). -/
def fenceDone (s : State) (f : Fence) : Bool := f.done || !(fenceWrites s f || fenceReads s f || fenceEngines s f)

/-- The fences of a cut that are still pending. -/
def Cut.openFences (s : State) (c : Cut) : List Fence := (c.ctx.fences.filterMap id).filter fun f => !fenceDone s f

/-- The Bench whose L1 a cut's accesses use. -/
def Cut.bench (c : Cut) : Nat := c.place.bench

/-- Records which fences of a cut have completed; an acquire or full fence at bench scope or wider flash-invalidates the L1
of the cut's Bench, before any later load of the cut reads it (R181, R192). -/
def State.settleFences (s : State) (c : Cut) : State :=
  let now := fun (f : Fence) => !f.done && fenceDone s f
  let flash := c.ctx.fences.any fun o => o.any fun f => now f && f.kind != 0 && decide (2 ≤ f.scope)
  let k : Cut := { c with ctx := { c.ctx with
    fences := c.ctx.fences.map fun o => o.map fun (f : Fence) => if now f then { f with done := true } else f } }
  let s := s.putCut k
  if flash && !c.onMill then s.l1Flash c.bench else s

/-- The completed fences of the cuts of a Bench take effect on its L1, before a load reads it (R181, R192). -/
def State.settleBench (s : State) (b : Nat) : State :=
  (s.cuts.filter fun c => !c.onMill && c.bench == b).foldl State.settleFences s

end Sys2Proof.Machine
end

