-- ==== Sys2Proof/Machine/Ops.lean ====
section
/-! DEFINITION. The shared operations over cuts: leaving a crew, the context fault record (R344), late faults (R341), taking
a trap and returning from one (R336 to R348), and how cuts split, materialize, rejoin and end (R22 to R26, R172). -/

namespace Sys2Proof.Machine

/-! ## The placement (R17, R39, R374) -/

/-- The Benches where a partition owns a quadrant, in the order its placement map numbers them, Bench 0 where there are
none (DEDUCED, log 31). -/
def placement (s : State) (part : Nat) : List Nat :=
  let owned := fun b => (List.range 4).any fun n => quadOwner s (4 * b + n) == some part
  let base := fld (s.reg (regPmap part)) 6 34 * 64
  let mapped := if base = 0 then List.range Config.benches
    else (List.range 256).map fun l => homeWord s (base + 4 * l + 3) 1
  match distinct (mapped.filter owned) with
  | [] => [0]
  | bs => bs

/-- The Bench and quadrant that R39 names for a lane cut in quantum mode. -/
def quantumPlace (s : State) (l : Launch) (first : Nat) : Nat × Nat :=
  let bs := placement s l.part
  let k := first / 32
  (bs.getD (k % bs.length) 0, (k / bs.length) % 4)

/-! ## Crews (R29, R214 to R216) -/

/-- How an item is named among the members of a crew: by its `il`, apart from the lanes of Mill cuts. -/
def itemKey (s : State) (c : Cut) (i : Nat) : Nat × Nat := (if c.mill then c.first + 1 else 0, c.ilAt s i)

/-- The live member items of a crew (R215). -/
def crewItems (s : State) (key : Nat) : List (Nat × Nat) :=
  (s.cuts.filter (·.crew == some key)).flatMap fun c => c.positions.map (itemKey s c)

/-- A barrier whose phase completes when every live member item has arrived in it and the arrivals' reads are bound (`ready`; R216,
R194). -/
def Barrier.settle (b : Barrier) (ready : Bool) (items : List (Nat × Nat)) : Barrier :=
  if ready && items.all (· ∈ b.here) && !b.here.isEmpty then ⟨(b.phase + 1) % 2 ^ 24, b.next.filter (· ∈ items), [], []⟩ else b

/-- A crew's barriers after arrivals and departures: a phase may complete, and the next one with it. -/
def Crew.settled (s : State) (k : Crew) (items : List (Nat × Nat)) : Crew :=
  { k with barriers := k.barriers.map fun b =>
      let ready := b.conds.all (fenceDone s)
      (b.settle ready items).settle ready items }

/-- A space slot among those of both kinds: a launch's own, and its returned Mill cuts' (R198). -/
def genKey (slot : Nat) (ret : Bool) : Nat := if ret then 2 ^ 24 + slot else slot

/-- The generation a space slot of a launch holds next (R198). -/
def slotGen (l : Launch) (slot : Nat) : Nat := ((l.slotGens.find? (·.1 == slot)).map (·.2)).getD 0

/-- Ends a crew: its space retires, and so do its chutes, streams, event queue and barriers (R214, R197). -/
def State.endCrew (s : State) (k : Crew) : State :=
  let l := s.launchOf k.lid
  let s : State := { s with crews := s.crews.filter (·.key != k.key) }
  let n := genKey k.slot k.ret
  s.putLaunch { l with slotGens := (l.slotGens.filter (·.1 != n)) ++ [(n, (k.gen + 1) % 2 ^ 16)] }

/-- What a departure or an arrival leaves of a crew: it ends at once without members, and its barriers' phases may complete; in
quantum mode those complete only at the quantum's end (R214, R216). -/
def State.settleCrew (s : State) (key : Nat) : State :=
  match s.crewOf key with
  | none => s
  | some k =>
    match crewItems s key with
    | [] => s.endCrew k
    | items =>
      if (s.launchOf k.lid).qm then s
      else s.putCrew (k.settled s items)

/-- The phases that awaited reads of their arrivals, and may complete now that results have come (R216, R194). -/
def State.settleConds (s : State) : State :=
  (s.crews.filter fun k => k.barriers.any fun b => !b.conds.isEmpty).foldl (fun s k => s.settleCrew k.key) s

/-- A cut, or items of it, have left a crew, which settles. In quantum mode the end of a crew keeps its place in the commit order,
after which a push to its chutes is late (R38, R214, R220). -/
def State.leftCrew (s : State) (c : Cut) (key : Nat) : State :=
  let l := s.launchOf c.lid
  let t : State := { s with
    nextSeq := s.nextSeq + 1
    qeff := s.qeff ++ [⟨c.lid, c.uid, c.cutid, s.nextSeq, c.ilLow s, c.ctx.pc, c.place.bench, l.asid, .crewEnd key⟩] }
  (if l.qm && (s.crewOf key).isSome && (crewItems s key).isEmpty then t else s).settleCrew key

/-- The crew of a cut settles. -/
def State.settleCrewOf (s : State) (c : Cut) : State :=
  match c.crew with
  | none => s
  | some key => s.leftCrew c key

/-! ## Late faults and the context fault record -/

/-- The context of an address space as the device holds its descriptor (R378). -/
def State.contextOf (s : State) (asid : Nat) : Option Context := s.contexts.find? (·.asid == asid)

/-- Where a context's descriptor lies (R378). -/
def ctxAddr (s : State) (asid : Nat) : Nat := fld (s.reg regCtxbase) 12 28 * 2 ^ 12 + 64 * asid

/-- The eight words of a fault record entry (R344). -/
structure FaultEntry where
  kind : Nat
  count : Nat
  causes : W64
  launchId : W64
  cutid : W64
  pc : W64
  addr : W64
  lanes : W64
  deriving DecidableEq, Repr

/-- Writes an entry to a context's fault ring, or counts it dropped: the ring full, VALID 0, or the ring not wholly in device
memory (R344). -/
def State.faultRecord (s : State) (asid : Nat) (e : FaultEntry) : State :=
  let d := ctxAddr s asid
  let head := BitVec.ofNat 64 (homeWord s (d + 16) 8)
  let tail := homeWord s (d + 32) 4
  let drop := fun (s : State) => s.devPut (d + 16) (bytesLE 8 (putFld head 32 32 (fld head 32 32 + 1)).toNat)
  match s.contextOf asid with
  | none => drop s
  | some c =>
    let size := 2 ^ fld c.fring 59 5
    let base := fld c.fring 6 34 * 64
    if !bit c.ctl 63 ∨ (fld head 0 32 + 2 ^ 32 - tail) % 2 ^ 32 = size ∨ !isDevice (base + 64 * size - 1) then drop s
    else
      let hdr : Nat := e.kind * 2 ^ 56 + (e.count % 2 ^ 16) * 2 ^ 32 + e.causes.toNat % 2 ^ 32
      let words := [hdr, e.launchId.toNat, e.cutid.toNat, e.pc.toNat, e.addr.toNat, e.lanes.toNat, 0, 0]
      let s := s.devPut (base + 64 * (fld head 0 32 % size)) (words.flatMap (bytesLE 8))
      s.devPut (d + 16) (bytesLE 8 (putFld head 0 32 (fld head 0 32 + 1)).toNat)

/-- The fault record entry of a late fault that no cut takes (R342). -/
def State.lateRecord (s : State) (l : Launch) (cutid : W64) (f : LateFault) : State :=
  s.faultRecord l.asid ⟨1, 1, f.causes, l.launchId, cutid, f.pc, f.addr, f.lanes⟩

/-- Whether a cut is, or descends from, the cut with a number. -/
def Cut.isOf (c : Cut) (uid : Nat) : Bool := c.uid == uid || decide (uid ∈ c.anc)

/-- Holds a late fault for the cut that holds the faulting item, or records it (R341, R342). -/
def State.holdLate (s : State) (lid : Nat) (cutid : W64) (f : LateFault) : State :=
  match s.cuts.find? fun c => c.lid == lid && c.isOf f.uid && c.positions.any fun i => c.ilAt s i == f.il with
  | some c => s.putCut { c with late := c.late ++ [f] }
  | none => s.lateRecord (s.launchOf lid) cutid f

/-- Acknowledges the command of a Mill cut that no part of remains, and frees its Mill (R195, R263). -/
def State.ackMill (s : State) (c : Cut) : State :=
  if !c.mill || s.cuts.any (fun d => d.mill && d.lid == c.lid && d.first == c.first) then s
  else
    let l := s.launchOf c.lid
    let s : State := s.putLaunch { l with cmds := l.cmds.filter (·.seq != c.first) }
    { s with mills := s.mills.map fun (m : Mill) =>
        match m.run with
        | some (u, _) => if u = c.parent then { m with run := none } else m
        | none => m }

/-- The lifetime of a lane cut that has ended on a cluster (R351). -/
def State.lived (s : State) (c : Cut) : State :=
  match c.kind, c.place with
  | .lane, .quad b _ =>
    let l := s.launchOf c.lid
    s.putLaunch { l with lifetimes := l.lifetimes ++ [(clusterOf b, s.cycle - c.born)] }
  | _, _ => s

/-- Removes a cut that has ended: its completed fences invalidate L1 (R192), late faults it still holds go to the fault record, its crew settles, and the command of a
Mill cut is acknowledged (R342, R95, R263). Its Loom claims end with it (`claimLive`, R234). -/
def State.endCut (s : State) (c : Cut) : State :=
  let s : State := (s.settleFences c).lived c
  let s : State := c.late.foldl (fun s f => s.lateRecord (s.launchOf c.lid) c.cutid f) (s.dropCut c.uid)
  (s.settleCrewOf c).ackMill c

/-! ## Loom claims (R234) -/

/-- Whether a cut holds a claim, on a Loom or saved. -/
def Cut.claims (s : State) (c : Cut) : Bool :=
  s.looms.any (fun m => m.claim.any (c.holds s)) || s.savedClaims.any fun x => c.holds s x.claim

/-- A Loom is a slave while a product of another runs fused with it (R246). -/
def State.settleSlaves (s : State) : State :=
  { s with looms := s.looms.map fun (m : Loom) =>
      { m with slave := m.slave && s.looms.any fun n => n.ops.any fun o => o.slaved && o.follower == some m.num } }

/-- Drops the Loom operations that a test names, and the claims that are left without a holder; their followers are released. -/
def State.dropLoomWork (s : State) (which : LoomOp → Bool) : State :=
  ({ s with
    looms := s.looms.map fun (m : Loom) => { m with ops := m.ops.filter fun o => !which o, claim := m.claim.filter (claimLive s) }
    savedClaims := s.savedClaims.filter fun x => claimLive s x.claim } : State).settleSlaves

/-- Drops the claims that a test names, with their operations (R256). -/
def State.dropClaims (s : State) (which : Nat × Nat → Bool) : State :=
  ({ s with
    looms := s.looms.map fun (m : Loom) => if m.claim.any which then { m with claim := none, ops := [] } else m
    savedClaims := s.savedClaims.filter fun x => !which x.claim } : State).settleSlaves

/-! ## Traps (R336 to R340) -/

/-- Whether a cut executes the command that its Mill runs: such a cut runs to its end when its launch ends (R339, R263; DEDUCED, log 108). -/
def Cut.runsCommand (s : State) (c : Cut) : Bool := c.mill && s.mills.any fun m => m.run.any (·.1 == c.parent)

/-- Ends a launch whose trap is not taken: every cut stops but those of Mill commands under way, claims, crews and spaces drop, the
fault record receives one entry, of KIND 2 or 3, and the launch will complete with STATE 3 (R339). -/
def State.endLaunch (s : State) (c : Cut) (kind : Nat) (e : TrapPend) : State :=
  let l := s.launchOf c.lid
  let first := l.endState == 0
  let s := if first then s.faultRecord l.asid ⟨kind, 1, e.causes, l.launchId, c.cutid, e.pc, e.addr, e.lanes⟩ else s
  let s : State := (s.cuts.filter fun d => d.lid == c.lid && !d.runsCommand s).foldl State.endCut s
  let s := s.dropLoomWork (·.lid == c.lid)
  let s := (s.crews.filter (·.lid == c.lid)).foldl State.endCrew s
  if first then s.putLaunch { s.launchOf c.lid with endState := 3, endReason := kind } else s

/-- A loop stack as the CSRs name it (R105): four levels, the outermost first, the levels that are not live zero. -/
def savedLoops (ls : List Level) : List Level := ls.reverse ++ List.replicate (4 - ls.length) ⟨0, 0, 0⟩

/-- The state of a cut that enters its handler (R338, R340). -/
def Cut.enter (s : State) (c : Cut) (l : Launch) (e : TrapPend) : Cut :=
  let slot := fun (x : LSlot) => match x with | .val v => v | .rsv _ _ => uVal 0
  { c with
    trap := { c.trap with
      tcause := c.trap.tcause ||| e.causes, tpc := e.pc, taddr := e.addr, tlanes := e.lanes, tdone := e.done
      tparent := c.parid s
      tsibs := ((siblings s c).foldl (fun m d => m ||| d.ctx.active) 0#32).setWidth 64
      tlspc := e.lspc, inh := true, sl0 := slot c.ctx.l0, sl1 := slot c.ctx.l1, sloops := savedLoops c.ctx.loops }
    ctx := { c.ctx with loops := [], pc := l.kcode + c.trap.off.setWidth 64 }
    pend := none
    wait := .none
    replay := 0 }

/-- TAKING AN EXCEPTION: the cut enters its handler, or the launch ends where it has none or is in it already (R338, R339). -/
def State.enterTrap (s : State) (c : Cut) (e : TrapPend) : State :=
  if !c.trap.hv then s.endLaunch c 2 e
  else if c.trap.inh then s.endLaunch c 3 e
  else s.putCut (c.enter s (s.launchOf c.lid) e)

/-- Raises causes at a cut: the trap waits for outstanding results, and is entered at once where there are none (R338). -/
def State.raisePend (s : State) (c : Cut) (e : TrapPend) : State :=
  if c.outst.isEmpty then s.enterTrap c e else s.putCut { c with pend := some e, wait := .trap }

/-- What an instruction that stops exactly raises: TPC names it, and TDONE keeps the lanes that performed before a replay
(R125). -/
def Cut.cause (c : Cut) (causes : Nat) (addr lanes : W64) : TrapPend :=
  ⟨BitVec.ofNat 64 causes, c.ctx.pc, addr, lanes, c.replay, 0⟩

/-! ## Materialization and splits (R23 to R25, R172) -/

/-- The late faults whose item a set of item indices holds (R341). -/
def lateOf (fs : List LateFault) (ils : List Nat) : List LateFault := fs.filter fun f => decide (f.il ∈ ils)

/-- The lane cut that holds a group of a pattern cut's items (R24, R172). In quantum mode it goes to the Bench of R39, but a member of a
crew stays on the crew's Bench, as R29 has it (R39 and R29 differ there: DESIGN CHOICE, log 93). -/
def Cut.laneChild (s : State) (c : Cut) (uid : Nat) (its : List Item) : Cut :=
  let l := s.launchOf c.lid
  let ils := its.map (ilOf l)
  let first := ils.getD 0 0
  { c with
    uid := uid, kind := .lane, frag := 0, first := first, parent := uid, items := its
    ctx := { c.ctx with active := maskOf 32 (· < its.length) }
    place := .queue (if l.qm && c.crew.isNone then (quantumPlace s l first).1 else c.place.bench)
    wait := .none, anc := c.uid :: c.anc, late := lateOf c.late ils, age := s.cycle, born := s.cycle }

/-- A list cut into pieces of `n`, at most `fuel` of them. -/
def pieces {α : Type} (n : Nat) : Nat → List α → List (List α)
  | 0, _ => []
  | fuel + 1, xs => if xs.isEmpty then [] else xs.take n :: pieces n fuel (xs.drop n)

/-- Materializes a pattern cut into lane cuts of 32 items each, after its outstanding results; no item has performed the
instruction (R24, R172). -/
def State.materialize (s : State) (c : Cut) : State :=
  if !c.outst.isEmpty then s.hold c .results
  else
    let groups := pieces 32 (c.box.size / 32 + 1) c.box.items
    let kids := (List.range groups.length).map fun j => c.laneChild s (s.nextUid + j) (groups.getD j [])
    { s with cuts := s.cuts.filter (·.uid != c.uid) ++ kids, nextUid := s.nextUid + groups.length }

/-- One side of a pattern cut's split: the identifier is its lowest item's, and the values are the same (R23). -/
def Cut.boxChild (s : State) (c : Cut) (uid : Nat) (b : Box) : Cut :=
  let l := s.launchOf c.lid
  let ils := b.items.map (ilOf l)
  { c with
    uid := uid, first := ilOf l b.lo, parent := uid, box := b, anc := c.uid :: c.anc
    late := lateOf c.late ils }

/-- Whether a pattern cut may split in two: 64 live pattern cuts in its launch and 16 on its Foreman are the limits (R23). -/
def mayParts (s : State) (c : Cut) : Bool :=
  let ps := s.cuts.filter (·.isPattern)
  decide ((ps.filter (·.lid == c.lid)).length < Config.boltLimit)
    && decide ((ps.filter fun d => d.place == c.place).length < Config.foremanLimit)

/-- Splits a pattern cut into two boxes, each going on as told (R23). -/
def State.splitBoxes (s : State) (c : Cut) (b1 b2 : Box) (go1 go2 : Cut → Cut) : State :=
  let k1 := go1 (c.boxChild s s.nextUid b1)
  let k2 := go2 (c.boxChild s (s.nextUid + 1) b2)
  let s : State := { s with cuts := s.cuts.filter (·.uid != c.uid) ++ [k1, k2], nextUid := s.nextUid + 2 }
  (s.retired k1).retired k2

/-- The part of a lane cut's state that one group of its lanes keeps (R25, R83). -/
def Cut.lanesChild (s : State) (c : Cut) (m : W32) : Cut :=
  let ils := (lanesOf m).map (c.ilAt s)
  { c with
    ctx := { c.ctx with active := m }
    outst := c.outst.map fun o => { o with gov := o.gov &&& m, flagged := o.flagged &&& m }
    late := lateOf c.late ils}

/-- The fragment indices in use by a lane cut's parts. -/
def fragsUsed (s : State) (c : Cut) : List Nat :=
  ((s.cuts.filter fun d => d.lid == c.lid && d.parent == c.parent && d.kind != .stray && !d.isPattern).map (·.frag))

/-- A group of lanes leaves a lane cut as a new fragment, or as strays where all eight indices are in use (R25). -/
def State.leave (s : State) (c : Cut) (m : W32) (go : Cut → Cut) : State :=
  match lowestFree 0 Config.fragLimit (c.frag :: fragsUsed s c) with
  | some f =>
    let k := go { c.lanesChild s m with uid := s.nextUid, kind := .fragment, frag := f, anc := c.uid :: c.anc }
    { s with cuts := s.cuts ++ [k.quota (s.launchOf c.lid)], nextUid := s.nextUid + 1 }
  | none =>
    (lanesOf m).foldl (fun s i =>
      let k := go { c.lanesChild s (maskOf 32 (· == i)) with
        uid := s.nextUid, kind := .stray, frag := 0, anc := c.uid :: c.anc
        first := if c.mill then c.first else c.ilAt s i }
      { s with cuts := s.cuts ++ [k.quota (s.launchOf c.lid)], nextUid := s.nextUid + 1 }) s

/-- Splits a lane cut: one group keeps its fragment index, and the others leave in order, each going on as told (R25, R91, R92). On a
Bench the group that keeps the index is a cut of its own from now on: what it does is no effect of those that left (R38). -/
def State.splitLanes (s : State) (c : Cut) (keep : W32) (goKeep : Cut → Cut) (groups : List (W32 × (Cut → Cut))) : State :=
  if groups.isEmpty then s.retired (goKeep c)
  else
    let k : Cut := { c.lanesChild s keep with kind := if c.kind = .lane then .fragment else c.kind }
    let k : Cut := if c.onMill then k else { k with uid := s.nextUid, anc := c.uid :: c.anc }
    let s : State := { s with
      cuts := s.cuts.map fun (d : Cut) => if d.uid = c.uid then k else d
      nextUid := if c.onMill then s.nextUid else s.nextUid + 1 }
    let s : State := groups.foldl (fun s g => s.leave c g.1 g.2) s
    s.retired (goKeep k)

/-! ## Rejoining (R26, R186) -/

/-- The part of a group that holds a lane. -/
def partOf (parts : List Cut) (i : Nat) : Option Cut := parts.find? fun p => inMask p.ctx.active i

/-- A register of parts that join: the common value where they agree, else each lane's own (R28). -/
def joinReg (parts : List Cut) (get : Cut → RegVal) : RegVal :=
  match parts with
  | [] => uVal 0
  | p :: ps => if ps.all (fun q => get q == get p) then get p
    else .lanes ((List.range 32).map fun i => match partOf parts i with | some q => q.valAt (get q) i | none => 0)

/-- A predicate of parts that join. -/
def joinPred (parts : List Cut) (n : Nat) : PredVal :=
  match parts with
  | [] => .uni false
  | p :: ps => if ps.all (fun q => q.pred n == p.pred n) then p.pred n
    else .lanes (maskOf 32 fun i => match partOf parts i with | some q => q.predAt n i | none => false)

/-- The fence of a slot of parts that join: the pending one of greatest SEQ (R186). -/
def joinFence (parts : List Cut) (slot : Nat) : Option Fence :=
  (parts.filterMap fun p => (p.ctx.fences.getD slot none).bind fun f => if f.done then none else some f).foldl
    (fun best f => match best with | some b => if b.seq < f.seq then some f else some b | none => some f) none

/-- The fences of parts that join: eight slots, then those that no token names and that stay in force (R186). -/
def joinFences (parts : List Cut) : List (Option Fence) :=
  let slots := (List.range 8).map (joinFence parts)
  let all := parts.flatMap fun p => p.ctx.fences.filterMap id
  slots ++ ((distinct all).filter fun f => !f.done && !decide (some f ∈ slots)).map some

/-- What cuts that join hold together, apart from registers: flags, fences, late faults, lineage and effects (R150, R186,
R341). `l0` and `l1` read zero (R28). -/
def joinInto (p : Cut) (parts : List Cut) : Cut :=
  { p with
    ctx := { p.ctx with
      l0 := .val (uVal 0), l1 := .val (uVal 0)
      fences := joinFences parts
      fseq := (parts.map (·.ctx.fseq)).foldl Nat.max 0
      asf := parts.foldl (fun a q => a ||| q.ctx.asf) 0
      tenable := parts.foldl (fun a q => a ||| q.ctx.tenable) 0 }
    late := parts.flatMap (·.late)
    anc := distinct (p.anc ++ parts.flatMap fun q => q.uid :: q.anc)
    rgen := (parts.map (·.rgen)).foldl Nat.max 0
    effects := parts.any (·.effects) }

/-- The fragment index that a part of a lane cut goes on under once it has rejoined others: its own, or for a stray the lowest free
index, and none where all eight are in use (R21, R22; strays have no index to pass on: DESIGN CHOICE, log 92). -/
def fragFor (s : State) (p : Cut) : Option Nat := if p.kind = .stray then lowestFree 0 Config.fragLimit (fragsUsed s p) else some p.frag

/-- Rejoins fragments and strays that stand at one `SEAM` into one cut: the lane cut again where no other part lives, else
the fragment of lowest index (R26); `none` for strays that find no free index. -/
def rejoined (s : State) (parts : List Cut) : Option Cut :=
  match sortBy (fun p => if p.kind = .stray then 8 + p.uid else p.frag) parts with
  | [] => none
  | p :: _ =>
    let whole := (siblings s p).all fun q => parts.any (·.uid == q.uid)
    let m := parts.foldl (fun m q => m ||| q.ctx.active) 0#32
    let j := joinInto p parts
    (if whole then some 0 else fragFor s p).map fun frag => { j with
      kind := if whole then .lane else .fragment
      frag := frag
      first := if p.mill then p.first else ilOf (s.launchOf p.lid) (p.item 0)
      ctx := { j.ctx with
        v := (List.range 64).map fun r => joinReg parts (·.ctx.v.getD r (uVal 0))
        o := (List.range 8).map fun r => joinReg parts (·.ctx.o.getD r (uVal 0))
        preds := (List.range 8).map (joinPred parts)
        active := m } }

/-- Replaces cuts by the one they became. -/
def State.replaceCuts (s : State) (old : List Cut) (new : Cut) : State :=
  { s with cuts := s.cuts.filter (fun c => !old.any (·.uid == c.uid)) ++ [new] }

/-! ## Ending items (R95) -/

/-- Items of a lane cut, fragment or stray end: the rest goes on at the next word, or the cut ends (R95). -/
def State.exitLanes (s : State) (c : Cut) (m : W32) : State :=
  let left := c.ctx.active &&& ~~~m
  let ils := (lanesOf m).map (c.ilAt s)
  let gone := c.late.filter fun f => decide (f.il ∈ ils)
  let s : State := gone.foldl (fun s f => s.lateRecord (s.launchOf c.lid) c.cutid f) s
  let c := { c with late := c.late.filter fun f => !decide (f.il ∈ ils) }
  if left = 0 then s.endCut c
  else
    let k : Cut := { c with ctx := { c.ctx with active := left } }
    (s.retired k.advance).settleCrewOf k

/-- A pattern cut's true box exits: the rest goes on as a pattern cut over the box that remains (R95). -/
def State.exitBox (s : State) (c : Cut) (rest : Box) : State :=
  let k := (c.boxChild s s.nextUid rest).advance
  let gone := c.late.filter fun f => !k.late.any (· == f)
  let s : State := gone.foldl (fun s f => s.lateRecord (s.launchOf c.lid) c.cutid f) s
  let s : State := { s with cuts := s.cuts.filter (·.uid != c.uid) ++ [k], nextUid := s.nextUid + 1 }
  (s.retired k).settleCrewOf k

end Sys2Proof.Machine
end

