-- ==== Sys2Proof/Machine/Returns.lean ====
section
/-! DEFINITION. How a Mill cut stops: the discard of an open section (R275), the return trap (R266), the illegal word of a
Mill (R268), and after them the one way in which every instruction stops, on a Bench or on a Mill. -/

namespace Sys2Proof.Machine

/-! ## The parts of a Mill cut -/

/-- The parts of a lane cut: itself, or its fragments and strays (R25). -/
def familyOf (s : State) (c : Cut) : List Cut :=
  s.cuts.filter fun d => d.parent == c.parent && d.lid == c.lid && !d.isPattern && !c.isPattern

/-- The section state and local store of a Mill cut are shared by its parts: stores them in each (R259, R272). -/
def State.putSec (s : State) (c : Cut) (x : Section) (mem : List Host.Cell) : State :=
  { s with cuts := s.cuts.map fun (d : Cut) =>
      if d.parent = c.parent ∧ d.lid = c.lid ∧ !d.isPattern then { d with sec := x, localMem := mem } else d }

/-- The local store with the words of an undo log put back (R273, R275). -/
def undone (mem : List Host.Cell) (undo : List (Nat × List Byte)) : List Host.Cell :=
  undo.foldl (fun m u => cellsPut m (8 * u.1) u.2) mem

/-- A section whose attempt is discarded (R275): what the attempt held is gone, its signatures remain for `MSIG` and for a
flushed attempt, and its `MSECT` may run again. -/
def Section.dropAttempt (x : Section) (cause : Nat) : Section :=
  { x with buffer := [], undo := [], held := [], restore := none, committing := false, unfrozen := 0, exited := 0
           cause := cause, prevSig := x.rs ||| x.ws }

/-- A part of a Mill cut put back to the state `x` it had at its `MSECT`. -/
def Cut.restored (c : Cut) (x : Ctx) : Cut :=
  { c with ctx := x, outst := [], pend := none, wait := .none, replay := 0, part := [], exiting := false }

/-- Takes cuts out of the lists of an Assay unit. -/
def Assay.forget (fam : List Cut) (a : Assay) : Assay :=
  { a with
    commits := a.commits.filter fun u => !fam.any (·.uid == u)
    waiting := a.waiting.filter fun u => !fam.any (·.uid == u)
    running := a.running.filter fun u => !fam.any (·.uid == u) }

/-- Discards the open attempt of a Mill cut: its parts become the one cut that stood at the `MSECT`, with the state it had
there (R275). An implicit section is of one instruction, and only the part that executes it is put back (R283). With no attempt open
nothing but the section's own record changes. -/
def State.discard (s : State) (c : Cut) (upd : Section → Section) : State :=
  let fam := familyOf s c
  let s : State := { s with assays := s.assays.map (Assay.forget fam) }
  match c.sec.restore with
  | none => s.putSec c (upd c.sec) c.localMem
  | some x =>
    let mem := undone c.localMem c.sec.undo
    if c.sec.implicit.isSome then
      let s : State := { s with cuts := s.cuts.map fun (d : Cut) => if c.sec.implicit = some d.uid then d.restored x else d }
      s.putSec c (upd c.sec) mem
    else
      let k : Cut := { c.restored x with
        uid := c.parent, kind := .lane, frag := 0
        sec := upd c.sec, localMem := mem
        late := fam.flatMap (·.late)
        anc := distinct (fam.flatMap fun d => d.uid :: d.anc) }
      { s with cuts := s.cuts.filter (fun d => !fam.any (·.uid == d.uid)) ++ [k] }

/-- The section of a cut that a return trap moves (R266): the attempt is discarded without counting a replay, and an implicit
section is over. -/
def Section.returned (cause : Nat) (x : Section) : Section :=
  let y := x.dropAttempt cause
  { y with state := if x.implicit.isSome then .out else x.state, implicit := none, returnTraps := x.returnTraps + 1, onBench := true }

/-- THE RETURN TRAP (R266): an attempt is discarded without counting a replay, a section's record says how it ended, and the cut with its parts goes to the queue of returned cuts of its
district's home Bench. TCAUSE.RTT records it, and the Mill is free. -/
def State.returnTrap (s : State) (c : Cut) (cause : Nat) : State :=
  let b := homeBench s (c.millNum / 8)
  let s := s.discard c (Section.returned cause)
  let s : State := { s with
    cuts := s.cuts.map fun (d : Cut) =>
      if d.parent = c.parent ∧ d.lid = c.lid ∧ d.onMill then
        { d with
          place := .returned b
          wait := .none
          trap := { d.trap with tcause := d.trap.tcause ||| BitVec.ofNat 64 causeRTT } }
      else d }
  { s with mills := s.mills.map fun (m : Mill) => if m.num = c.millNum then { m with run := none } else m }

/-- An illegal word on a Mill: MSUM.MTRAP names the Mill, the fault record receives an entry of KIND 5, an open attempt is
discarded, and the cut ends, its command acknowledged (R88, R268). -/
def State.millIll (s : State) (c : Cut) (e : TrapPend) : State :=
  let l := s.launchOf c.lid
  let st := c.millNum / 32
  let w := s.reg (regMsum st)
  let s := s.setReg (regMsum st) (w ||| BitVec.ofNat 64 (2 ^ (c.millNum % 32)))
  let s := s.faultRecord l.asid ⟨5, 1, e.causes, l.launchId, c.cutid, e.pc, e.addr, e.lanes⟩
  let s := s.discard c (fun x => x.dropAttempt 4)
  (s.cuts.filter fun d => d.parent == c.parent && d.lid == c.lid && d.mill).foldl State.endCut s

/-! ## The one way to stop -/

/-- An instruction stops exactly with causes: on a Bench the cut traps (R338); on a Mill every cause but ILL becomes a return
trap before any lane performs (R264), and ILL ends the cut (R88). -/
def State.stop (s : State) (c : Cut) (e : TrapPend) : State :=
  if c.onMill then (if bit e.causes 0 then s.millIll c e else s.returnTrap c 4) else s.raisePend c e

/-- Raises ILL exactly: nothing is performed (R87). -/
def State.ill (s : State) (c : Cut) : State := s.stop c (c.cause causeILL 0 c.allLanes)

/-- Raises a cause that concerns every lane of the cut. -/
def State.raiseAll (s : State) (c : Cut) (cause : Nat) (addr : W64) : State := s.stop c (c.cause cause addr c.allLanes)

/-- An instruction that a pattern cut executes only lane by lane materializes it (R24), or raises ILL where an item of the cut
holds a Loom claim (R235). -/
def State.lanesOnly (s : State) (c : Cut) : State := if c.claims s then s.ill c else s.materialize c

/-- Raises a cause at some lanes. A pattern cut whose cause names fewer than all of its items materializes first (R337). -/
def State.raiseAt (s : State) (c : Cut) (causes : Nat) (addr : W64) (lanes : List Nat) : State :=
  if c.isPattern then
    if lanes.length = c.positions.length then s.raiseAll c causes addr else s.lanesOnly c
  else s.stop c (c.cause causes addr (lanesWord lanes))

end Sys2Proof.Machine
end

