-- ==== Sys2Proof/Machine/Debug.lean ====
section
/-! DEFINITION. Halting a context (R391 to R393): which slot holds a context, which cuts stand still, watchpoints, and the
trigger that breakpoints, watchpoints, `HALTD` and firmware raise. -/

namespace Sys2Proof.Machine

/-- The slot in which a debugger holds a context: the lowest that names it (R391). -/
def debugSlot (s : State) (asid : Nat) : Option Nat :=
  (List.range 4).find? fun d => bit (s.reg (regDbgctl d)) 63 && s.field (regDbgctl d) 0 13 == asid

/-- The context of a cut. -/
def Cut.asid (s : State) (c : Cut) : Nat := (s.launchOf c.lid).asid

/-- The number of the unit that issues a cut, as `DEBUG_STOP` names it: a Bench, or 256 more than a Mill. -/
def Cut.unitNo (c : Cut) : Nat := if c.onMill then Config.benches + c.millNum else c.place.bench

/-- Whether the whole of a context stands still: its dump is complete, or did not fit (R394). -/
def haltedWhole (s : State) (slot : Nat) : Bool :=
  s.field (regDbgstat slot) 62 2 == 2 || s.field (regDbgstat slot) 0 32 == 0xFFFFFFFF

/-- Whether a context has stopped at a unit (R393). -/
def haltedAt (s : State) (asid unit : Nat) : Bool :=
  s.halts.any fun h => h.asid == asid && (decide (unit ∈ h.stopped) || haltedWhole s h.slot)

/-- Whether a cut has stopped with its context. -/
def Cut.halted (s : State) (c : Cut) : Bool := haltedAt s (c.asid s) c.unitNo

/-- The Bench that a unit's trigger names. -/
def benchOfUnit (unit : Nat) : Nat := if unit < Config.benches then unit else 0

/-- A context stops at a unit: its cuts there issue no more, and a Mill cut discards its open attempt (R393). -/
def State.stopUnit (s : State) (slot unit : Nat) : State :=
  let s : State := { s with halts := s.halts.map fun (h : HaltState) =>
    if h.slot = slot ∧ unit ∉ h.stopped then { h with stopped := h.stopped ++ [unit] } else h }
  match s.halts.find? (·.slot == slot) with
  | none => s
  | some h =>
    match s.cuts.find? fun c => c.onMill && c.unitNo == unit && c.asid s == h.asid with
    | some c => s.discard c (fun x => x.dropAttempt 6)
    | none => s

/-- The status word of a slot that begins to halt (R391). -/
def haltStat (cause index unit : Nat) : W64 :=
  BitVec.ofNat 64 (1 * 2 ^ 62 + cause * 2 ^ 58 + index * 2 ^ 56 + benchOfUnit unit * 2 ^ 48)

/-- Whether a trigger at a unit counts now: the context is running, or an earlier trigger of this cycle lies on a higher Bench
(R392). -/
def mayTrigger (s : State) (slot unit : Nat) : Bool :=
  match s.halts.find? (·.slot == slot) with
  | none => s.field (regDbgstat slot) 62 2 == 0
  | some h => s.field (regDbgstat slot) 62 2 == 1 && h.since == s.cycle && decide (benchOfUnit unit < s.field (regDbgstat slot) 48 8)

/-- A trigger at a unit: the context begins to halt, and the slot's status records why (R392). -/
def State.trigger (s : State) (slot cause index unit : Nat) : State :=
  if !mayTrigger s slot unit then s
  else
    let s := s.setReg (regDbgstat slot) (haltStat cause index unit)
    let s : State := if s.halts.any (·.slot == slot) then s
      else { s with halts := s.halts ++ [⟨slot, s.field (regDbgctl slot) 0 13, s.cycle, []⟩] }
    s.stopUnit slot unit

/-- Whether a trigger of the cut's context would be taken now, and by which slot. -/
def Cut.armed (s : State) (c : Cut) : Option Nat :=
  match debugSlot s (c.asid s) with
  | some d => if mayTrigger s d c.unitNo && !c.haltPc then some d else none
  | none => none

/-- A trigger raised by a cut: it stops before the instruction, which does not trigger again once the context resumes. -/
def State.triggerAt (s : State) (c : Cut) (slot cause index : Nat) : State :=
  (s.putCut { c with haltPc := true }).trigger slot cause index c.unitNo

/-- The armed breakpoint at a cut's next instruction (R392). -/
def Cut.breakpoint (s : State) (c : Cut) : Option (Nat × Nat) :=
  match c.armed s with
  | some d => ((List.range 4).find? fun k => bit (s.reg (regBpen d)) k && s.reg (regBpa d k) == c.ctx.pc).map fun k => (d, k)
  | none => none

/-- The watchpoint that an access of a cut matches: an enabled range of the direction that shares a byte with one of the
accesses, each an object pointer with its length (R392). -/
def Cut.watchpoint (s : State) (c : Cut) (load store : Bool) (accs : List (W64 × Nat)) : Option (Nat × Nat) :=
  match c.armed s with
  | some d =>
    ((List.range 4).find? fun k =>
      let ctl := fld (s.reg (regWpctl d)) (8 * k) 8
      let a := (s.reg (regWpa d k)).toNat
      ctl.testBit 7 && ((load && ctl.testBit 6) || (store && ctl.testBit 5))
        && accs.any fun p => decide (p.1.toNat < a + 2 ^ (ctl % 32) ∧ a < p.1.toNat + p.2)).map fun k => (d, k)
  | none => none

end Sys2Proof.Machine
end

