-- ==== Sys2Proof/Machine/Order.lean ====
section
/-! DEFINITION. Memory order: what a fence, an `STL` or an `LDA` holds back (R187, R188). -/

namespace Sys2Proof.Machine

/-- A cut's launch runs in quantum mode: fences order nothing there beyond the commit (R196). -/
def Cut.quantum (s : State) (c : Cut) : Bool := (s.launchOf c.lid).qm

/-- Whether an `LDA` of the cut has not returned: no later access performs before it (R129, R187). -/
def Cut.acquiring (c : Cut) : Bool := c.outst.any (·.what.isAcquire)

/-- Loom operations of the cut that still fetch their operands: no later store, `STS`, atomic, drain or job issue of the cut
overtakes them (R253). -/
def Cut.fetching (s : State) (c : Cut) : Bool :=
  (loomOps s).any fun o => decide (o.uid ∈ c.lineage) && decide (o.op ≤ 2)

/-- Whether a store, atomic or `STS` of the cut may issue: not behind a fence whose reads, jobs or commands are pending, an
`LDA`, or an operand fetch. Covered writes hold it in the store queue instead (R187, R188, R253). -/
def storeMayIssue (s : State) (c : Cut) : Bool :=
  c.onMill || (!c.fetching s
    && (c.quantum s || !(c.acquiring || (c.openFences s).any fun f => fenceReads s f || fenceEngines s f)))

/-- Whether an `STL` of the cut may issue: with its earlier reads bound as well (R134). -/
def releaseMayIssue (s : State) (c : Cut) : Bool :=
  storeMayIssue s c && (c.quantum s || c.onMill || !c.outst.any (·.what.isRead))

/-- Whether a push, job issue or Mill command of the cut may be made: not behind a pending fence of any kind, an `LDA`, or an
operand fetch (R187, R188, R253). -/
def effectMayIssue (s : State) (c : Cut) : Bool :=
  c.onMill || (!c.fetching s && (c.quantum s || !(c.acquiring || !(c.openFences s).isEmpty)))

/-- Whether a pop or a scratch read of the cut may be made: not behind a pending acquire or full fence, or an `LDA`. -/
def readMayIssue (s : State) (c : Cut) : Bool :=
  c.quantum s || c.onMill || !(c.acquiring || (c.openFences s).any (·.kind != 0))

/-- The fence over all that a cut has done, which a release at a scope follows (R134, R194). -/
def Cut.releasing (s : State) (c : Cut) (scope : Nat) : Fence := ⟨0, 0, false, false, scope, c.lid, c.lineage, s.nextSeq, false⟩

/-- The fences that a store issuing now must follow at its home: the pending ones, and for an `STL` all its earlier accesses
at its scope (R134, R188). -/
def Cut.storeOrder (s : State) (c : Cut) (release : Bool) (scope : Nat) : List Fence :=
  if c.quantum s then []
  else c.openFences s ++ (if release then [c.releasing s scope] else [])

/-- Whether an outstanding read may be bound: not behind a pending acquire or full fence or an `LDA` issued before it; an
`LDA` also follows its cut's earlier `STL`s (R187, R188). -/
def readMayBind (s : State) (c : Cut) (o : Outst) : Bool :=
  c.quantum s || c.onMill ||
    !(((c.openFences s).any fun f => f.kind != 0 && decide (f.upto ≤ o.seq))
      || (c.outst.any fun p => p.what.isAcquire && decide (p.seq < o.seq))
      || (o.what.isAcquire && (s.storeQ ++ s.remotes.filterMap (·.store)).any fun w =>
          w.release && w.job.isNone && decide (w.uid ∈ c.lineage) && decide (w.seq < o.seq)))

end Sys2Proof.Machine
end

