-- ==== Sys2Proof/Machine/Operands.lean ====
section
/-! DEFINITION. Every operand form: reading a specifier (R74), `q` registers (R219 to R222), writing results under the guard
and shifting the last-result file (R76 to R80), dependence on outstanding results (R77, R81), and what every instruction
checks before its own meaning. -/

namespace Sys2Proof.Machine

/-! ## Chutes and streams behind `q` registers -/

/-- What a `q` register is bound to (R219, R222). -/
def Cut.bindOf (c : Cut) (o : Opnd) : Option Binding := c.binds.getD (qNum o) none

/-- The pushes of a cut and its ancestors that await the quantum commit on a chute (R38). -/
def queuedPushes (s : State) (c : Cut) (crew chute : Nat) : List QEntry :=
  s.qeff.filter fun q => decide (q.uid ∈ c.lineage) &&
    match q.eff with | .push k n _ => k == crew && n == chute | _ => false

/-- The chute of a crew by its number. -/
def Crew.chute (k : Crew) (n : Nat) : Chute := k.chutes.getD n ⟨0, [], true⟩

/-- The stream of a crew by its number. -/
def Crew.stream (k : Crew) (n : Nat) : Stream := k.streams.getD n ⟨0, [], 0, []⟩

/-- The entries that a cut sees in a chute: the committed ones, then its own of the quantum (R38). -/
def seenEntries (s : State) (c : Cut) (k : Crew) (n : Nat) : List (List W64) :=
  (k.chute n).entries ++ (queuedPushes s c k.key n).filterMap fun q => match q.eff with | .push _ _ e => some e | _ => none

/-- The values that pops of a `q` register give, in turn (R220, R222). -/
def popValues (s : State) (c : Cut) (b : Option Binding) : List RegVal :=
  match b with
  | some (.pop key n) => match s.crewOf key with
    | some k => (seenEntries s c k n).map .lanes
    | none => []
  | some (.stream key n) => match s.crewOf key with
    | some k => (k.stream n).ready.map fun p => .lanes (List.replicate 32 p.1)
    | none => []
  | _ => []

/-- How many of the operands before one pop the same queue (R220). -/
def popsBefore (c : Cut) (o : Opnd) (before : List Opnd) : Nat :=
  (before.filter fun p => isQ p && c.bindOf p == c.bindOf o).length

/-! ## Reading operands (R74) -/

/-- `il`: P with strides 1, EXTX and EXTX·EXTY, in L form where a stride does not fit (R18); on a Mill the lane (R262). -/
def Cut.ilVal (s : State) (c : Cut) : RegVal :=
  if c.mill then .pat 0 1 0 0
  else match affine 0 1 (s.launchOf c.lid).extx ((s.launchOf c.lid).extx * (s.launchOf c.lid).exty : Nat) with
    | some v => v
    | none => c.lVal fun i => BitVec.ofNat 64 (c.ilAt s i)

/-- A slot of the last-result file as a read finds it. A reserved one is never read: the read stalls (R77). -/
def LSlot.read : LSlot → RegVal
  | .val v => v
  | .rsv _ _ => uVal 0

/-- The value of a specifier; `before` holds the operands already read, for a `q` named again (R74, R220). -/
def Cut.read (s : State) (c : Cut) (o : Opnd) (before : List Opnd) : RegVal :=
  let n := o.toNat
  if n < 0x40 then c.ctx.v.getD n (uVal 0)
  else if n < 0x48 then c.ctx.o.getD (n - 0x40) (uVal 0)
  else if n = 0x48 then c.ctx.l0.read
  else if n = 0x49 then c.ctx.l1.read
  else if n = 0x4A then uVal 0
  else if n = 0x4B then .pat 0 1 0 0
  else if n = 0x4C then (if c.mill then uVal 0 else .pat 0 0 1 0)
  else if n = 0x4D then (if c.mill then uVal 0 else .pat 0 0 0 1)
  else if n = 0x4E then c.ilVal s
  else if n < 0x60 then (popValues s c (c.bindOf o)).getD (popsBefore c o before) (uVal 0)
  else uVal (BitVec.ofInt 64 ((n : Int) - 0x70))

/-- The pops an instruction makes, in operand order (R220). A pop is an acquire at the scope of the job that pushed it
(R193); a cut that has popped has made an effect (R37). -/
def State.popQ (s : State) (c : Cut) (o : Opnd) : State :=
  match c.bindOf o with
  | some (.pop key n) => match s.crewOf key with
    | some k =>
      match (k.chute n).entries with
      | _ :: es => s.putCrew { k with chutes := k.chutes.set n { k.chute n with entries := es } }
      | [] => match queuedPushes s c key n with
        | q :: _ => { s with qeff := s.qeff.erase q }
        | [] => s
    | none => s
  | some (.stream key n) => match s.crewOf key with
    | some k =>
      match (k.stream n).ready with
      | (_, scope) :: rest =>
        let s := s.putCrew { k with streams := k.streams.set n { k.stream n with ready := rest, popped := (k.stream n).popped + 1 } }
        if 2 ≤ scope then s.l1Flash c.bench else s
      | [] => s
    | none => s
  | _ => s

/-! ## Writing results (R76 to R80) -/

/-- A new newest last result (R76). -/
def Cut.shift (c : Cut) (x : LSlot) : Cut := { c with ctx := { c.ctx with l1 := c.ctx.l0, l0 := x } }

/-- Writes a main or operand register; other specifiers keep nothing. -/
def Cut.setReg (c : Cut) (o : Opnd) (v : RegVal) : Cut :=
  let n := o.toNat
  if n < 0x40 then { c with ctx := { c.ctx with v := c.ctx.v.set n v } }
  else if n < 0x48 then { c with ctx := { c.ctx with o := c.ctx.o.set (n - 0x40) v } }
  else c

/-- The register a specifier names, as a write under a guard finds it. -/
def Cut.oldReg (c : Cut) (o : Opnd) : RegVal :=
  let n := o.toNat
  if n < 0x40 then c.ctx.v.getD n (uVal 0) else if n < 0x48 then c.ctx.o.getD (n - 0x40) (uVal 0) else uVal 0

/-- What governs a write: every item, no item, or the items a test admits (R80). -/
inductive Gov where
  | all | none | some (is : List Nat)
  deriving DecidableEq, Repr

/-- What governs a governed instruction, by the form in which the guard's predicate is held (R80). -/
def Cut.gov (c : Cut) : Gov :=
  match c.guardUni with
  | some true => .all
  | some false => .none
  | none => .some c.governed

/-- A value merged with what it replaces: one of them whole, or lane by lane in L form (R80). -/
def Cut.merge (c : Cut) (g : Gov) (new old : RegVal) : RegVal :=
  match g with
  | .all => new
  | .none => old
  | .some is => .lanes ((List.range 32).map fun i => if i ∈ is then c.valAt new i else c.valAt old i)

/-- Whether a pattern cut cannot hold a result: it is in L form, or merged (R80, R171). Where no item performs there is no
result to hold. -/
def Cut.needsLanes (c : Cut) (g : Gov) (v : RegVal) : Bool :=
  c.isPattern && (match g with | .all => v.isL | .none => false | .some _ => true)

/-- A governed register result: `d` merged, and the last-result file shifted with zero in the excluded lanes (R76, R78). -/
def Cut.result (c : Cut) (g : Gov) (d : Opnd) (v : RegVal) : Cut :=
  if isResult d then (c.setReg d (c.merge g v (c.oldReg d))).shift (.val (c.merge g v (uVal 0))) else c

/-- The lanes of an entry pushed by a governed write: the written value where the lane performs, 0 elsewhere (R220). -/
def Cut.entry (c : Cut) (g : Gov) (v : RegVal) : List W64 :=
  (List.range 32).map fun i =>
    if inMask c.ctx.active i && (match g with | .all => true | .none => false | .some is => decide (i ∈ is)) then c.valAt v i else 0

/-- Enters a push in its chute, or holds it for the quantum commit (R38, R220). A chute that has closed or retired while the
value was outstanding drops it as a late fault (DEDUCED, log 41). -/
def State.pushQ (s : State) (c : Cut) (d : Opnd) (e : List W64) (pc : W64) : State :=
  match c.bindOf d with
  | some (.push key n) =>
    if c.quantum s then
      { s with
        nextSeq := s.nextSeq + 1
        qeff := s.qeff ++ [⟨c.lid, c.uid, c.cutid, s.nextSeq, c.ilLow s, pc, c.bench, (s.launchOf c.lid).asid, .push key n e⟩] }
    else match s.crewOf key with
      | some k =>
        if (k.chute n).closed then
          s.holdLate c.lid c.cutid ⟨c.uid, s.nextSeq, c.ilLow s, BitVec.ofNat 64 (causeCHC + causeLSF), 0, c.allLanes, pc, 0⟩
        else s.putCrew { k with chutes := k.chutes.set n { k.chute n with entries := (k.chute n).entries ++ [e] } }
      | none => s.holdLate c.lid c.cutid ⟨c.uid, s.nextSeq, c.ilLow s, BitVec.ofNat 64 (causeCHC + causeLSF), 0, c.allLanes, pc, 0⟩
  | _ => s

/-- Whether a write under a guard performs in some active lane. -/
def Gov.anyLane (g : Gov) : Bool :=
  match g with
  | .all => true
  | .none => false
  | .some is => !is.isEmpty

/-! ## Dependence on outstanding results (R77, R81, R82) -/

/-- The destination registers of an outstanding instruction. -/
def Outst.dsts (o : Outst) : List Opnd :=
  match o.what with
  | .load _ _ _ n _ => spanOf o.dst n
  | _ => [o.dst]

/-- Whether a specifier names a destination that a read or write may depend on: not `z`, and not `l0`, whose slot is reserved (R77, R81). -/
def tracked (r : Opnd) : Bool := isResult r && r != 0x48#7

/-- Whether an instruction depends on an outstanding one: it reads or writes a destination of it, or a predicate it may write.
A window permits an unchecked issue, and the violation detector then holds a dependent one all the same (R81, R82). -/
def Outst.blocks (o : Outst) (u : Uses) (gp : Nat) : Bool :=
  (u.srcs.any fun r => tracked r && decide (r ∈ o.dsts)) || (u.dsts.any fun r => tracked r && decide (r ∈ o.dsts))
    || (o.flagPred.any fun p => p != 0 && (decide (p ∈ u.predR) || decide (p ∈ u.predW) || (u.governed && p == gp)))

/-- Whether a slot of the last-result file is reserved. -/
def LSlot.reserved : LSlot → Bool
  | .val _ => false
  | .rsv _ _ => true

/-- The uses of an instruction under the cut's MODE. -/
def Cut.usesOf (c : Cut) (i : Instr) : Uses :=
  uses i (modeFP c.ctx.mode) (modeLF c.ctx.mode == 1) (modeAOP c.ctx.mode == 9)

/-- Whether an instruction stalls: it reads a reserved slot, or depends on an outstanding result (R77, R81). -/
def Cut.stalls (c : Cut) (u : Uses) : Bool :=
  (decide (0x48#7 ∈ u.srcs) && c.ctx.l0.reserved) || (decide (0x49#7 ∈ u.srcs) && c.ctx.l1.reserved)
    || c.outst.any fun o => o.blocks u (modeGP c.ctx.mode)

/-- Whether the delivery of ECC is enabled for a context (R126, R336): its descriptor's ECCEN. -/
def eccOn (s : State) (asid : Nat) : Bool := (s.contextOf asid).any fun x => bit x.ctl 63 && bit x.ctl 61

/-- Whether the instruction at the pc has issued reads whose data it holds its cut for: one that may yet raise ECC or TMO, which are
raised at the reading instruction (R127, R296; DEDUCED, log 44). No other instruction waits for it here: it has not completed. -/
def Cut.reading (c : Cut) : Bool := c.outst.any (·.piece)

/-! ## What every instruction checks first -/

/-- Whether a specifier lies within the allotment of the cut's role (R218). -/
def Cut.allotted (c : Cut) (o : Opnd) : Bool := decide (0x40 ≤ o.toNat) || decide (o.toNat < c.allot)

/-- Whether the `q` registers among the operands have the bindings they need: sources pop, destinations push (R74, R87). -/
def Cut.bindingsOk (c : Cut) (u : Uses) : Bool :=
  (u.srcs.filter isQ).all (fun o => match c.bindOf o with | some (.pop _ _) => true | some (.stream _ _) => true | _ => false)
    && (u.dsts.filter isQ).all fun o => match c.bindOf o with | some (.push _ _) => true | _ => false

/-- Whether a word is legal for the cut: R87 with the allotment and MODE. -/
def Cut.legal (c : Cut) (i : Instr) (u : Uses) : Bool :=
  staticOk i && typesOk i (modeET c.ctx.mode) (modeAOP c.ctx.mode) (modeSC c.ctx.mode)
    && u.srcs.all c.allotted && u.dsts.all c.allotted

/-- What a chute or stream end has for an instruction: ready, to be waited for, or closed. -/
inductive QReady where
  | ready
  | wait (w : Wait)
  | closed
  deriving DecidableEq, Repr

/-- A pop of a bound operand (R220, R222). -/
def popReady (s : State) (c : Cut) (o : Opnd) (before : List Opnd) : QReady :=
  let n := popsBefore c o before
  match c.bindOf o with
  | some (.pop key m) => match s.crewOf key with
    | none => .closed
    | some k => if n < (seenEntries s c k m).length then .ready
      else if (k.chute m).closed then .closed else .wait (.chutePop key m)
  | some (.stream key m) => match s.crewOf key with
    | none => .closed
    | some k => if n < (k.stream m).ready.length then .ready else .wait (.streamPop key m)
  | _ => .closed

/-- A push to a bound destination (R220). -/
def pushReady (s : State) (c : Cut) (o : Opnd) : QReady :=
  match c.bindOf o with
  | some (.push key m) => match s.crewOf key with
    | none => .closed
    | some k => if (k.chute m).closed then .closed
      else if (seenEntries s c k m).length < (k.chute m).depth then .ready else .wait (.chutePush key m)
  | _ => .closed

/-- The first end of a list that is not ready. -/
def firstUnready : List QReady → QReady
  | [] => .ready
  | .ready :: rest => firstUnready rest
  | q :: _ => q

/-- The pops of the operands in order, each after those before it. -/
def popsReady (s : State) (c : Cut) (before : List Opnd) : List Opnd → List QReady
  | [] => []
  | o :: rest => (if isQ o then popReady s c o before else .ready) :: popsReady s c (before ++ [o]) rest

/-- Every chute and stream end an instruction needs: its pops, and its push where some lane performs (R220). -/
def Cut.queuesReady (s : State) (c : Cut) (u : Uses) : QReady :=
  let pushes := if u.governed && !(c.gov).anyLane then [] else (u.dsts.filter isQ).map (pushReady s c)
  firstUnready (popsReady s c [] u.srcs ++ pushes)

/-- Whether an instruction names a `q` register as an operand. -/
def Uses.queues (u : Uses) : Bool := u.srcs.any isQ || u.dsts.any isQ

/-! ## Words that are illegal where they stand (R87) -/

/-- Whether a cut is a fragment or a stray, which most non-governed instructions refuse (R212). -/
def Cut.isPart (c : Cut) : Bool := c.kind == .fragment || c.kind == .stray

/-- Whether a cut stands at the LEND of a live level, where calls and loops are illegal (R107). -/
def Cut.atEnd (c : Cut) : Bool := c.ctx.loops.any (·.stop == c.ctx.pc)

/-- Whether a loop of `body` words may not open at the pc: at a live LEND, or where it would end beyond the innermost level whose body
holds it (R106, R107). -/
def Cut.loopBarred (c : Cut) (body : Nat) : Bool :=
  c.atEnd || match c.ctx.loops.find? (·.body c.ctx.pc) with
    | some l => decide (l.stop.toNat < (c.ctx.pc + BitVec.ofNat 64 (4 * body)).toNat)
    | none => false

/-- Whether a cut's context is firmware's own (R349, R378). -/
def privileged (s : State) (c : Cut) : Bool := (s.contextOf (s.launchOf c.lid).asid).any fun x => bit x.ctl 63 && bit x.ctl 62

/-- Whether the guard is true in some active items and false in others. -/
def Cut.mixedGuard (c : Cut) : Bool := !c.governed.isEmpty && c.governed.length != c.positions.length

/-- The CSRs that `CSRW` may name, those of the handler only in it (R346). -/
def Cut.csrNamed (c : Cut) (n : Nat) : Bool :=
  decide (n ≤ 2) || (c.trap.inh && (n == 0x11 || n == 0x14 || decide (0x20 ≤ n ∧ n < 0x2C)))

/-- Whether an instruction that names a `q` register raises ILL whatever its operands hold: ILL is checked before the ends of its `q`
registers (R87), so it raises ILL with an empty, full or closed one too. A `q` register reads in L form, which is not U (R171). -/
def Cut.barred (s : State) (c : Cut) (i : Instr) : Bool :=
  let stream := fun (o : Opnd) => match c.bindOf o with | some (.stream _ _) => true | _ => false
  match i with
  | .loop _ n => c.loopBarred n.toNat
  | .callr _ => c.atEnd
  | .bcast _ _ b => isQ b || !(c.read s b []).isU
  | .fwait a | .ftest _ a => isQ a
  | .cnew _ _ | .cjoin _ _ => c.isPart || c.crew.isSome
  | .role _ | .qbind _ _ _ | .evwait _ | .evpeek _ | .cstat _ _ _ | .cabort _ => c.isPart
  | .sbind _ _ => c.isPart || c.crew.isNone
  | .srel d _ => c.isPart || !stream d
  | .scnt _ a => c.isPart || !stream a
  | .qcnt _ a => c.isPart || stream a || (c.bindOf a).isNone
  | .coll _ _ _ _ | .launch _ _ _ _ | .salloc _ _ _ | .spin _ _ _ | .sfree _ _ | .sunpin _ _ => c.mixedGuard
  | .mld _ _ _ | .mma _ _ _ | .mmap _ _ | .mdrn _ _ _ | .mstat _ _ => c.isPart || (!c.isPattern && c.mixedGuard)
  | .msect _ a => c.isPart || isQ a
  | .mcommit _ _ => c.isPart || c.sec.state == .out
  | .mesc _ a => constOf a != 0 && c.isPart
  | .csrw _ n => !c.csrNamed n.toNat
  | .tlbinv _ _ | .scrinv _ _ => !privileged s c
  | _ => false

/-- What the checks that every instruction shares make of it: `none` where it goes on to its own meaning. In order: legality
(R87), an instruction or operand that a Mill lacks (R264), the implicit section of another part (R283), outstanding results (R77, R81), what is illegal
where it stands (R87), lanes named in a pattern cut (R171), order before a pop or push (R188), and the ends of the `q` registers it names (R220). -/
def gate (s : State) (c : Cut) (i : Instr) : Option State :=
  let u := c.usesOf i
  if !c.legal i u then some (s.ill c)
  else if c.onMill && (!millHas i || u.queues) then some (s.returnTrap c 4)
  else if c.onMill && c.sec.implicit.any (fun u => u != c.uid || c.sec.restore.isSome) then some (s.hold c .commit)
  else if !c.bindingsOk u then some (s.ill c)
  else if c.stalls u || c.reading then some (s.hold c .results)
  else if u.queues && c.barred s i then some (s.ill c)
  else if c.isPattern && (u.lanes || u.queues) then some (s.lanesOnly c)
  else if !u.queues then none
  else if (u.srcs.any isQ && !readMayIssue s c) || (u.dsts.any isQ && !effectMayIssue s c) then some (s.hold c .order)
  else match c.queuesReady s u with
    | .ready => none
    | .wait w => some (s.hold c w)
    | .closed => some (s.raiseAll c causeCHC 0)

/-- Executes an instruction of the cut that is executing: the shared checks, then its own meaning. -/
def operate (i : Instr) (s : State) (body : Cut → State) : Host.Outcome State Fault Refusal :=
  match s.executing with
  | none => .fault .noCut
  | some c =>
    match gate s c i with
    | some t => .next t
    | none => .next (body c)

/-! ## Completing an instruction -/

/-- The pops of an instruction that completes (R220): a trapped or waiting one leaves every entry in place. -/
def State.popAll (s : State) (c : Cut) (srcs : List Opnd) : State := (srcs.filter isQ).foldl (fun s o => s.popQ c o) s

/-- The cut with its bookkeeping after pops: it has made an effect (R37). -/
def Cut.popped (c : Cut) (srcs : List Opnd) : Cut := if srcs.any isQ then c.effect else c

/-- An instruction completes with the cut `k` its meaning made of `c`: it pops its sources and retires (R107). -/
def State.complete (s : State) (c : Cut) (srcs : List Opnd) (k : Cut) : State := (s.popAll c srcs).advance (k.popped srcs)

/-- A governed register result completes: the guard merges it, a `q` destination receives it, and the cut goes on; a pattern
cut that cannot hold it materializes instead (R76 to R80, R171). -/
def State.write (s : State) (c : Cut) (srcs : List Opnd) (g : Gov) (d : Opnd) (v : RegVal) : State :=
  if c.needsLanes g v then s.lanesOnly c
  else
    let s := s.popAll c srcs
    let s := if isQ d && g.anyLane then s.pushQ c d (c.entry g v) c.ctx.pc else s
    let k := (c.popped srcs).result g d v
    s.advance (if isQ d && g.anyLane then k.effect else k)

/-- A predicate result completes (R20, R103): merged under the guard, a pattern predicate only where the merged true set is a
box; `none` is a lane predicate, for which a pattern cut materializes. -/
def State.writePred (s : State) (c : Cut) (srcs : List Opnd) (d : Nat) (p : Option PredVal) : State :=
  match p with
  | some q =>
    let k := c.popped srcs
    (s.popAll c srcs).advance (k.setPred d q)
  | none => s.lanesOnly c

end Sys2Proof.Machine
end

