-- ==== Sys2Proof/Machine/Fetch.lean ====
section
/-! DEFINITION. Instruction fetch (R72, R93): the word at a cut's pc, where it lies, and what stops a cut before it executes. -/

namespace Sys2Proof.Machine

/-- What the fetch of the next word gives: a word, or the cause it raises (R93). -/
inductive FetchGot where
  | word (w : W32)
  | stops (cause : Nat)
  deriving DecidableEq, Repr

/-- The word at an object pointer for a unit: BND outside executable code, in sequence as after a transfer (DEDUCED, log
95), ABS where its page is not resident (R93). Code executes from device or host memory; an object of another device holds none. -/
def fetchAt (s : State) (u : TlbUnit) (asid : Nat) (pc : W64) : FetchGot :=
  if accessCause s u asid pc 4 4 .exec ≠ 0 then .stops causeBND
  else match (xlat s u asid pc).loc with
    | none => .stops causeABS
    | some (.remote _ _ _ _) => .stops causeBND
    | some l => .word (BitVec.ofNat 32 (natLE (locRead s l 4)))

/-- The fetch of a cut's next word. -/
def Cut.fetch (s : State) (c : Cut) : FetchGot := fetchAt s c.unit (c.asid s) c.ctx.pc

/-- The instruction at a cut's pc, if a legal word stands there. -/
def Cut.instrAt (s : State) (c : Cut) : Option Instr :=
  match c.fetch s with
  | .word w => decodeWord w
  | .stops _ => none

/-- A fetch that stops raises its cause before the word executes: TPC and TADDR name the word, TLANES every active lane, and
TDONE is empty (R93). -/
def State.fetchStops (s : State) (c : Cut) (cause : Nat) : State := s.raiseAll { c with replay := 0 } cause c.ctx.pc

/-- ILLEGAL_INSTRUCTION (R87): a fetched word that names no instruction, or one that is not legal, raises ILL exactly. -/
def execIllegalInstruction (word : W32) (s : State) : Host.Outcome State Fault Refusal :=
  match s.executing with
  | none => .fault .noCut
  | some c => .next (if (decodeWord word).any staticOk then s else s.ill c)

end Sys2Proof.Machine
end

