-- ==== Sys2Proof/Machine/Flags.lean ====
section
/-! DEFINITION. Every flag computation: the sticky flags of ASF (R64, R149, R150) and the flag predicate of loads (R126). The
flags of one rounding are computed with it (Numbers, R59 to R62). -/

namespace Sys2Proof.Machine

/-- Raises flags in a cut's ASF (R150). -/
def Cut.raiseFlags (c : Cut) (fl : Nat) : Cut :=
  if fl = 0 then c else { c with ctx := { c.ctx with asf := c.ctx.asf ||| BitVec.ofNat 64 fl } }

/-- The flags that the governed lanes raise: those of each governed lane together, or of the one value of a uniform result
where some lane is governed (R64, R150). A list of one element is a uniform result's. -/
def Cut.flagsOf (c : Cut) (g : Gov) (fls : List Nat) : Nat :=
  match fls with
  | [] => 0
  | [f] => if g.anyLane then f else 0
  | _ =>
    let is := match g with
      | .all => c.positions
      | .none => []
      | .some is => is
    is.foldl (fun m i => m ||| fls.getD i 0) 0

/-- Sets bits of the flag predicate of a load, which never clears one (R126): uniformly for a load made once. -/
def Cut.setFlagged (c : Cut) (p : Option Nat) (uniform : Bool) (m : W32) : Cut :=
  match p with
  | none => c
  | some n =>
    if m = 0 then c
    else if uniform then c.setPred n (.uni true)
    else c.setPred n (lanePred c fun i => c.predAt n i || inMask m i)

/-- Whether an instruction still outstanding can set a flag of ASF: `TFENCE` and CSR accesses to ASF wait for it (R96, R150). -/
def Outst.mayFlag (o : Outst) : Bool :=
  match o.what with
  | .value _ _ => true
  | _ => false

/-- The traps that ASF raises at a `TFENCE` (R96). -/
def Cut.flagTrap (c : Cut) : Bool := c.ctx.asf &&& c.ctx.tenable != 0

end Sys2Proof.Machine
end

