-- ==== Sys2Proof/Machine/Results.lean ====
section
/-! DEFINITION. How results are computed over the items of a cut: once for uniform inputs, by the affine rule, or lane by lane
(R19, R111, R148), and how a long-latency result is reserved and delivered (R77, R81). -/

namespace Sys2Proof.Machine

/-! ## Results by item (R19) -/

/-- The one value of a uniform register. -/
def RegVal.base : RegVal → W64
  | .pat b _ _ _ => b
  | .lanes _ => 0

/-- An L-form value over the active lanes of a cut. -/
def Cut.overLanes (c : Cut) (f : Nat → W64) : RegVal :=
  .lanes ((List.range 32).map fun i => if inMask c.ctx.active i then f i else 0)

/-- A result of one input: U when it is U, L otherwise. -/
def Cut.map1 (c : Cut) (f : W64 → W64) (x : RegVal) : RegVal :=
  if x.isU then uVal (f x.base) else c.overLanes fun i => f (c.valAt x i)

/-- A result of two inputs. -/
def Cut.map2 (c : Cut) (f : W64 → W64 → W64) (x y : RegVal) : RegVal :=
  if x.isU && y.isU then uVal (f x.base y.base) else c.overLanes fun i => f (c.valAt x i) (c.valAt y i)

/-- A result of three inputs. -/
def Cut.map3 (c : Cut) (f : W64 → W64 → W64 → W64) (x y z : RegVal) : RegVal :=
  if x.isU && y.isU && z.isU then uVal (f x.base y.base z.base)
  else c.overLanes fun i => f (c.valAt x i) (c.valAt y i) (c.valAt z i)

/-! ## The affine rule (R111) -/

/-- What an input contributes under ET: the value of a U input's low bits; the base and strides of a P input, where below 64
bits its value at every corner of the box lies in ET's range; nothing for L. -/
structure Contrib where
  base : W64
  sx : W64
  sy : W64
  sz : W64
  deriving DecidableEq, Repr

/-- The corners of a box. -/
def Box.corners (b : Box) : List Item :=
  let xs := [b.lo.x, b.lo.x + b.nx - 1]
  let ys := [b.lo.y, b.lo.y + b.ny - 1]
  let zs := [b.lo.z, b.lo.z + b.nz - 1]
  xs.flatMap fun x => ys.flatMap fun y => zs.map fun z => ⟨x, y, z⟩

/-- A register value as the integer type of 64 bits with ET's signedness. -/
def wideInt (et : Nat) (v : W64) : Int := if isSigned et then v.toInt else (v.toNat : Int)

/-- Whether an integer lies in ET's range. -/
def inRange (et : Nat) (n : Int) : Bool := decide (intMin et ≤ n ∧ n ≤ intMax et)

/-- The exact integer that an affine value has at an item of a box, counted from its value at the box's lowest corner (R111). -/
def RegVal.exactAt (et : Nat) (b : Box) (v : RegVal) (it : Item) : Int :=
  match v with
  | .lanes _ => 0
  | .pat _ sx sy sz => wideInt et (v.at b.lo 0) + sx.toInt * ((it.x : Int) - b.lo.x) + sy.toInt * ((it.y : Int) - b.lo.y)
      + sz.toInt * ((it.z : Int) - b.lo.z)

/-- The contribution of an input (R111). -/
def Cut.contrib (c : Cut) (et : Nat) (v : RegVal) : Option Contrib :=
  match v with
  | .lanes _ => none
  | .pat b sx sy sz =>
    if v.isU then some ⟨ofInt (intValue et b), 0, 0, 0⟩
    else if width et = 64 || c.theBox.corners.all (fun it => inRange et (v.exactAt et c.theBox it)) then
      some ⟨b, sx.signExtend 64, sy.signExtend 64, sz.signExtend 64⟩
    else none

/-- An input's exact value at a corner of a cut's box, as ET reads it. -/
def Cut.cornerValue (c : Cut) (et : Nat) (v : RegVal) (it : Item) : Int :=
  if v.isU then intValue et v.base else v.exactAt et c.theBox it

/-- A P result from its base and strides modulo 2^64: none where a stride does not fit, or where below 64 bits the exact
result leaves ET's range at a corner (R111). -/
def Cut.affineP (c : Cut) (et : Nat) (b sx sy sz : W64) (exact : Item → Int) : Option RegVal :=
  if fits32 sx.toInt && fits32 sy.toInt && fits32 sz.toInt
      && (width et == 64 || c.theBox.corners.all fun it => inRange et (exact it)) then
    some (.pat b (sx.setWidth 32) (sy.setWidth 32) (sz.setWidth 32))
  else none

/-- The affine sum or difference of two inputs (R111). -/
def Cut.affineAdd (c : Cut) (et : Nat) (sub : Bool) (x y : RegVal) : Option RegVal :=
  match c.contrib et x, c.contrib et y with
  | some p, some q =>
    let op := fun (m n : W64) => if sub then m - n else m + n
    c.affineP et (op p.base q.base) (op p.sx q.sx) (op p.sy q.sy) (op p.sz q.sz) fun it =>
      if sub then c.cornerValue et x it - c.cornerValue et y it else c.cornerValue et x it + c.cornerValue et y it
  | _, _ => none

/-- The affine product of an input by an integer (R111). -/
def Cut.affineMul (c : Cut) (et : Nat) (x : RegVal) (m : Int) : Option RegVal :=
  match c.contrib et x with
  | some p =>
    let k := ofInt m
    c.affineP et (p.base * k) (p.sx * k) (p.sy * k) (p.sz * k) fun it => c.cornerValue et x it * m
  | none => none

/-! ## Rounding by item (R63) -/

/-- The byte offset of the instruction at the pc from its kernel's first word. -/
def Cut.offset (s : State) (c : Cut) : Nat := (c.ctx.pc - (s.launchOf c.lid).kcode).toNat

/-- What MODE and the item give a rounding: `il` is 0 where every input is U (R63). -/
def Cut.rnd (s : State) (c : Cut) (il j : Nat) : Rnd :=
  let m := c.ctx.mode
  ⟨modeRM m, modeSAT m, modeFTZ m, if modeRM m = 5 then dither (s.launchOf c.lid).seed (c.offset s) il j else 0⟩

/-- A rounded result of a cut: its value, and the flags by lane. -/
structure Rounded where
  v : RegVal
  fl : List Nat
  deriving DecidableEq, Repr

/-- A rounding result over the inputs' items: `f` gives encoding and flags at a position with the rounding it uses. -/
def Cut.rounded (s : State) (c : Cut) (u : Bool) (f : Rnd → Nat → W64 × Nat) : Rounded :=
  if u then
    let r := f (c.rnd s 0 0) 0
    ⟨uVal r.1, [r.2]⟩
  else
    let rs := (List.range 32).map fun i => if inMask c.ctx.active i then f (c.rnd s (c.ilAt s i) 0) i else (0, 0)
    ⟨.lanes (rs.map (·.1)), rs.map (·.2)⟩

/-- The input at a position, or the one value of a uniform input. -/
def Cut.inAt (c : Cut) (u : Bool) (v : RegVal) (i : Nat) : W64 := if u then v.base else c.valAt v i

/-- A rounding result of one, two and three inputs (R148). -/
def Cut.round1 (s : State) (c : Cut) (f : Rnd → W64 → W64 × Nat) (x : RegVal) : Rounded :=
  c.rounded s x.isU fun r i => f r (c.inAt x.isU x i)

def Cut.round2 (s : State) (c : Cut) (f : Rnd → W64 → W64 → W64 × Nat) (x y : RegVal) : Rounded :=
  let u := x.isU && y.isU
  c.rounded s u fun r i => f r (c.inAt u x i) (c.inAt u y i)

def Cut.round3 (s : State) (c : Cut) (f : Rnd → W64 → W64 → W64 → W64 × Nat) (x y z : RegVal) : Rounded :=
  let u := x.isU && y.isU && z.isU
  c.rounded s u fun r i => f r (c.inAt u x i) (c.inAt u y i) (c.inAt u z i)

/-- A governed floating result completes, raising the flags of its governed lanes (R148, R150). -/
def State.writeRounded (s : State) (c : Cut) (srcs : List Opnd) (d : Opnd) (r : Rounded) : State :=
  if c.needsLanes c.gov r.v then s.lanesOnly c
  else s.write (c.raiseFlags (c.flagsOf c.gov r.fl)) srcs c.gov d r.v

/-! ## Long-latency results (R77) -/

/-- An outstanding instruction that awaits something, its governance not yet set. -/
def Outst.of (dst : Opnd) (et la : Nat) (what : Pending) : Outst :=
  { id := 0, seq := 0, pc := 0, dst := dst, et := et, scope := 0, gov := 0, whole := false, uniform := false
    flagPred := none, flagged := 0, flags := [], la := la, second := false, piece := false, what := what }

/-- The lanes that a governance names, as a mask. -/
def Gov.mask (c : Cut) (g : Gov) : W32 :=
  match g with
  | .all => c.ctx.active
  | .none => 0
  | .some is => maskOf 32 (· ∈ is)

/-- An instruction becomes outstanding: it takes a number, unless it has one, and a place in program order, pops its sources, reserves its slot of
the last-result file, and the cut goes on (R77). `DIV` and `DIVU` reserve two. Its window opens after it (R81). -/
def State.await (s : State) (c : Cut) (srcs : List Opnd) (g : Gov) (o : Outst) : State :=
  let o : Outst := { o with
    id := if o.id = 0 then s.nextId else o.id
    seq := s.nextSeq, pc := c.ctx.pc, gov := g.mask c, whole := g == .all, la := o.la + 1
    scope := modeSC c.ctx.mode }
  let s : State := { s.popAll c srcs with nextId := s.nextId + 1, nextSeq := s.nextSeq + 1 }
  let k := c.popped srcs
  let k := if !isResult o.dst then k
    else if o.second then (k.shift (.rsv o.id true)).shift (.rsv o.id false)
    else k.shift (.rsv o.id false)
  s.advance { k with outst := k.outst ++ [o] }

/-- A computed long-latency result (R118, R157): the guard false in every lane leaves nothing outstanding, and a pattern cut
that cannot hold the result materializes. -/
def State.writeLong (s : State) (c : Cut) (srcs : List Opnd) (d : Opnd) (la : Nat) (v : RegVal) (second : Option RegVal)
    (fls : List Nat) : State :=
  if c.needsLanes c.gov v then s.lanesOnly c
  else if c.gov = .none then
    s.complete c srcs (if isResult d then (if second.isSome then (c.shift (.val (uVal 0))).shift (.val (uVal 0))
      else c.shift (.val (uVal 0))) else c)
  else s.await c srcs c.gov { Outst.of d (modeET c.ctx.mode) la (.value v second) with
    second := second.isSome, flags := fls, uniform := v.isU }

/-- What governs the delivery of an outstanding result in the cut that holds it now. -/
def Outst.govIn (o : Outst) (c : Cut) : Gov := if o.whole then .all else .some ((lanesOf o.gov).filter (inMask c.ctx.active))

/-- A slot of the last-result file after a delivery (R77). -/
def LSlot.fill (x : LSlot) (id : Nat) (v w : RegVal) : LSlot :=
  match x with
  | .rsv n second => if n = id then .val (if second then w else v) else x
  | x => x

/-- Delivers the values of an outstanding instruction: register j of its destinations receives value j, its slots receive the
last value and the second result, its flags and flagged lanes are set, and it is outstanding no longer (R77, R126, R133, R150).
A cut waiting for results waits no more. -/
def Cut.deliver (c : Cut) (o : Outst) (vals : List RegVal) (second : Option RegVal) (flagged : W32) : Cut :=
  let g := o.govIn c
  let last := vals.getLastD (uVal 0)
  let k := (List.range vals.length).foldl (fun (k : Cut) j =>
    let r := BitVec.ofNat 7 (o.dst.toNat + j)
    k.setReg r (c.merge g (vals.getD j (uVal 0)) (c.oldReg r))) c
  let k : Cut := { k with
    ctx := { k.ctx with
      l0 := k.ctx.l0.fill o.id (c.merge g last (uVal 0)) (c.merge g (second.getD (uVal 0)) (uVal 0))
      l1 := k.ctx.l1.fill o.id (c.merge g last (uVal 0)) (c.merge g (second.getD (uVal 0)) (uVal 0)) }
    outst := c.outst.filter (·.id != o.id)
    wait := if c.wait = .results then .none else c.wait }
  (k.raiseFlags (c.flagsOf g o.flags)).setFlagged o.flagPred (o.uniform && o.whole)
    (if o.uniform && o.whole then flagged else flagged &&& c.ctx.active)

end Sys2Proof.Machine
end

