-- ==== Sys2Proof/Machine/Sections.lean ====
section
/-! DEFINITION. The state of a Mill section (R270 to R277, R283): how an attempt begins, what its reads and writes enter, its
buffer and undo log, and the offer of a commit. -/

namespace Sys2Proof.Machine

/-- A section before any `MSECT` (R262, R272). -/
def Section.fresh : Section :=
  { state := .out, pc := 0, width := 0, limit := 0, replays := 0, total := 0, attempt := 0, cause := 0, ranFlushed := false
    nextFlushed := false, flushedCount := 0, returnTraps := 0, onBench := false, implicit := none, openSeq := 0, rs := 0
    ws := 0, cs := 0, prevSig := 0, lastCs := 0, lastHit := 0, buffer := [], undo := [], held := [], restore := none
    unfrozen := 0, committing := false, commitDst := 0x4A#7, exited := 0 }

/-- The stack of the Mill a cut runs on. -/
def Cut.stack (c : Cut) : Nat := c.millNum / 32

/-- The cache-side signature at `MSECT`: every sector of the stack that is dirty on chip, folded to the section's width
(R271; DEDUCED, log 30). -/
def dirtySig (s : State) (st w : Nat) : BitVec 512 :=
  (s.stale.filter fun d => stackOf (d.1 * 128) == st).foldl (fun sig d => sigAdd (sigWidth w) sig d.1) 0

/-! ## Attempts (R272, R276) -/

/-- Begins an attempt of a section that is open (R272): the signatures are empty, CS begins, and the attempt is flushed where
the replays reached the limit, or `MESC #1` asked for it. `x` is the state that a discard restores. -/
def Section.begin (s : State) (st : Nat) (x : Ctx) (y : Section) : Section :=
  let fl := y.nextFlushed || y.replays == y.limit
  { y with
    state := if fl then .flushed else .ordinary
    rs := 0, ws := 0, cs := dirtySig s st y.width
    attempt := Nat.min 255 (y.attempt + 1), nextFlushed := false, committing := false, unfrozen := 0
    ranFlushed := y.ranFlushed || fl, flushedCount := y.flushedCount + (if fl then 1 else 0)
    buffer := [], undo := [], held := [], restore := some x, exited := 0 }

/-- Opens a section at an address with a width and a limit (R272); `owner` is the part of the cut whose one instruction it is, for
an implicit one (R283). -/
def Section.opened (pc : W64) (w l : Nat) (owner : Option Nat) (y : Section) : Section :=
  { y with
    pc := pc, width := w, limit := l, replays := 0, attempt := 0, ranFlushed := false, nextFlushed := false
    implicit := owner, prevSig := 0 }

/-- The Assay unit of a stack. -/
def State.assayOf (s : State) (st : Nat) : Assay := (s.assays.find? (·.stack == st)).getD ⟨st, [], [], none⟩

/-- Stores the Assay unit of a stack. -/
def State.putAssay (s : State) (a : Assay) : State :=
  { s with assays := if s.assays.any (·.stack == a.stack) then s.assays.map fun (b : Assay) => if b.stack = a.stack then a else b
                     else s.assays ++ [a] }

/-- Whether a flushed attempt may begin now: it has been admitted (R276). -/
def mayFlush (s : State) (c : Cut) : Bool := (s.assayOf c.stack).running == some c.uid

/-- A cut asks for admission of its flushed attempt, and waits (R276). -/
def State.askFlush (s : State) (c : Cut) : State :=
  let a := s.assayOf c.stack
  let s := if c.uid ∈ a.waiting then s else s.putAssay { a with waiting := a.waiting ++ [c.uid] }
  s.hold c .flushed

/-- Offers an attempt to the Assay unit: the cut waits for its commit (R274). -/
def State.offer (s : State) (c : Cut) : State :=
  let a := s.assayOf c.stack
  let s := s.putAssay { a with commits := a.commits ++ [c.uid] }
  let s := s.putCut { c with wait := .commit }
  s.putSec c { c.sec with committing := true } c.localMem

/-! ## Reads and writes of an attempt (R273) -/

/-- The byte that the buffer of an attempt holds. -/
def bufGet : List Host.Cell → Nat → Option Byte
  | [], _ => none
  | (x, b) :: rest, a => if x = a then some b else bufGet rest a

/-- Enters a byte in the buffer, addresses rising. -/
def bufPut (a : Nat) (b : Byte) : List Host.Cell → List Host.Cell
  | [] => [(a, b)]
  | (x, c) :: rest => if a < x then (a, b) :: (x, c) :: rest else if a = x then (a, b) :: rest else (x, c) :: bufPut a b rest

/-- A rising list with each number once. -/
def runsOf : List Nat → List Nat
  | [] => []
  | [x] => [x]
  | x :: y :: rest => if x = y then runsOf (y :: rest) else x :: runsOf (y :: rest)

/-- The sectors a buffer holds. -/
def bufSectors (buf : List Host.Cell) : List Nat := runsOf (buf.map fun c => sectorOf c.1)

/-- The bytes a Mill reads: buffered ones, DRAM otherwise (R273). -/
def millBytes (s : State) (y : Section) (p n : Nat) : List Byte :=
  (List.range n).map fun i => (bufGet y.buffer (p + i)).getD (dramByte s (p + i))

/-- A flushed attempt has a dirty sector written back before each access (R276). -/
def State.flushTouch (s : State) (y : Section) (sec : Nat) : State := if y.state = .flushed then s.writeBack sec else s

/-- A sector enters RS with a read from DRAM, and WS with a write (R270). -/
def Section.reads (y : Section) (sec : Nat) : Section := { y with rs := sigAdd (sigWidth y.width) y.rs sec }
def Section.writes (y : Section) (p : Nat) (bs : List Byte) : Section :=
  { y with
    ws := sigAdd (sigWidth y.width) y.ws (sectorOf p)
    buffer := ((List.range bs.length).zip bs).foldl (fun b q => bufPut (p + q.1) q.2 b) y.buffer }

/-- Whether the buffer has overflowed: a 513th sector (R273). -/
def Section.overflows (y : Section) : Bool := decide (Config.sectorLimit < (bufSectors y.buffer).length)

/-- An uncorrectable error reaches a Mill: the bank's bit is set and counted (R265, R268). -/
def State.millError (s : State) (p : Nat) : State :=
  let st := stackOf p
  let d := districtOf p % 4
  let r := regMderr st d
  let s := s.setReg r (s.reg r ||| BitVec.ofNat 64 (2 ^ bankOf p))
  let s := s.countUp r 32 32 1
  s.setReg (regMsum st) (s.reg (regMsum st) ||| BitVec.ofNat 64 (2 ^ (32 + d)))

/-- Whether a Mill's read of a sector is errored: a poisoned sector, or one with a lasting flaw (R381, R382). -/
def millErrored (s : State) (p : Nat) : Bool :=
  decide (sectorOf p ∈ s.poison) || s.flaws.any fun f => f.sector == sectorOf p && f.lasting

/-- Whether a Mill may access a location: device memory of its own stack, no view, no page that excludes Mills (R260). -/
def millMay (s : State) (c : Cut) (ptr : W64) : Bool :=
  let x := xlat s c.unit (c.lid |> s.launchOf).asid ptr
  match x.loc with
  | some (.dev p) => stackOf p == c.stack && (viewAt s p).isNone && !(x.fill.any (·.millx))
  | some _ => false
  | none => true

/-! ## The local store (R265, R273) -/

/-- The 8-byte words that a write of `n` bytes at an offset touches. -/
def wordsOf (off n : Nat) : List Nat := (List.range (n + 7)).foldl (fun ws i => if (off + i) / 8 ∈ ws ∨ n ≤ i then ws else ws ++ [(off + i) / 8]) []

/-- Writes bytes to the local store; in an attempt the undo log first keeps each word it changes. -/
def localWrite (y : Section) (mem : List Host.Cell) (off : Nat) (bs : List Byte) : Section × List Host.Cell :=
  let fresh := (wordsOf off bs.length).filter fun w => !y.undo.any (·.1 == w)
  let y : Section := if y.restore.isSome then { y with undo := y.undo ++ fresh.map fun w => (w, cellsGet mem (8 * w) 8) } else y
  (y, cellsPut mem off bs)

end Sys2Proof.Machine
end

