-- ==== Sys2Proof/Machine/Control.lean ====
section
/-! DEFINITION. Control and mode (R89 to R100, R105 to R108) and `SEAM` (R26 to R28, R173 to R175): op7 0x00 to 0x0A, with the
events of yields, rejoining and seams. -/

namespace Sys2Proof.Machine

/-! ## Transfers (R90 to R93) -/

/-- The target of a J-format transfer (R90). -/
def Cut.target (c : Cut) (o : BitVec 21) : W64 := c.ctx.pc + (o.signExtend 64 <<< 2)

/-- The register that receives a link. -/
def linkReg : Opnd := 0x47#7

/-- What is wrong with a target: ALN off a word boundary, for register targets; BND outside the executable part of the
launch's code object (R93). -/
def targetCause (s : State) (c : Cut) (reg : Bool) (t : W64) : Nat :=
  if reg && t.toNat % 4 != 0 then causeALN
  else if objOf t ≠ objOf (s.launchOf c.lid).kcode ∨ accessCause s c.unit (c.asid s) t 4 1 .exec ≠ 0 then causeBND
  else 0

/-- A cut that takes a transfer: calls keep the loop stack, the others unwind it (R108). -/
def Cut.take (link : Bool) (t : W64) (c : Cut) : Cut := if link then c.goTo t c.ctx.loops else c.jump t

/-- A cut with the link of a call in the items that take it (R90, R171). -/
def Cut.linked (link : Bool) (g : Gov) (c : Cut) : Cut :=
  if link then c.result g linkReg (uVal (c.ctx.pc + 4)) else c

/-- What governs a link: whole when every item takes the call; nothing where the guard is uniformly false. -/
def Cut.linkGov (c : Cut) (taken : List Nat) : Gov :=
  if taken.length = c.positions.length then .all
  else if taken.isEmpty && (c.isPattern || c.guardUni == some false) then .none
  else .some taken

/-- A transfer of the items that satisfy a condition to one target (R90, R91). -/
def State.branch (s : State) (c : Cut) (srcs : List Opnd) (t : W64) (reg link : Bool) (cond : Nat → Bool) : State :=
  let taken := c.positions.filter cond
  let cause := targetCause s c reg t
  let k := (c.popped srcs).linked link (c.linkGov taken)
  if taken.isEmpty then s.complete c srcs (c.linked link (c.linkGov taken))
  else if cause ≠ 0 then s.raiseAt c cause t taken
  else if taken.length = c.positions.length then (s.popAll c srcs).retired (k.take link t)
  else if c.isPattern then
    let ts := taken.map c.item
    let fs := (c.positions.filter fun i => !cond i).map c.item
    if (boundingBox ts).size = ts.length ∧ (boundingBox fs).size = fs.length ∧ mayParts s c then
      s.splitBoxes c (boundingBox ts) (boundingBox fs)
        (fun d => (d.linked link .all).take link t) (fun d => (d.linked link .none).advance)
    else s.lanesOnly c
  else
    let m := maskOf 32 (· ∈ taken)
    (s.popAll c srcs).splitLanes k (c.ctx.active &&& ~~~m) Cut.advance [(m, Cut.take link t)]

/-- The causes of a list of targets, and the lanes that fail, lowest first (R93): TADDR then names the first one's target, whatever its
cause (DEDUCED, log 95). -/
def badTargets (s : State) (c : Cut) (v : RegVal) (taken : List Nat) : Nat × List Nat :=
  let bad := taken.filter fun i => targetCause s c true (c.valAt v i) != 0
  (bad.foldl (fun m i => m ||| targetCause s c true (c.valAt v i)) 0, bad)

/-- A transfer of a lane cut's governed lanes to their own targets, grouped by equal target (R92). -/
def State.branchLanes (s : State) (c : Cut) (srcs : List Opnd) (v : RegVal) (link : Bool) : State :=
  let taken := c.governed
  let bad := badTargets s c v taken
  let k := (c.popped srcs).linked link (c.linkGov taken)
  let groups := (distinct (taken.map (c.valAt v))).map fun t => (maskOf 32 fun i => decide (i ∈ taken) && c.valAt v i == t, t)
  let fall := maskOf 32 fun i => inMask c.ctx.active i && !decide (i ∈ taken)
  let gone := fun (gs : List (W32 × W64)) => gs.map fun (g : W32 × W64) => (g.1, Cut.take link g.2)
  if bad.1 ≠ 0 then s.raiseAt c bad.1 (c.valAt v (bad.2.getD 0 0)) bad.2
  else if fall ≠ 0 then (s.popAll c srcs).splitLanes k fall Cut.advance (gone groups)
  else match groups with
    | [] => s.complete c srcs (c.linked link (c.linkGov taken))
    | g :: gs => (s.popAll c srcs).splitLanes k g.1 (Cut.take link g.2) (gone gs)

/-- A transfer to the targets of a register: in a pattern cut a U target moves the whole cut, and another materializes it
(R92). -/
def State.branchReg (s : State) (c : Cut) (a : Opnd) (link : Bool) : State :=
  let v := c.read s a []
  if !c.isPattern then s.branchLanes c [a] v link
  else if c.guardUni = some false ∨ v.isU then s.branch c [a] v.base true link c.guard
  else s.lanesOnly c

def execBr (x : BitVec 1) (p : BitVec 3) (o : BitVec 21) (s : State) := operate (.br x p o) s fun c =>
  s.branch c [] (c.target o) false false fun i => c.guard i && (c.predAt p.toNat i != (x == 1#1))

def execJmp (o : BitVec 21) (s : State) := operate (.jmp o) s fun c => s.branch c [] (c.target o) false false c.guard

def execCall (o : BitVec 21) (s : State) := operate (.call o) s fun c =>
  if c.atEnd then s.ill c else s.branch c [] (c.target o) false true c.guard

def execJmpr (a : Opnd) (s : State) := operate (.jmpr a) s fun c => s.branchReg c a false

def execCallr (a : Opnd) (s : State) := operate (.callr a) s fun c => if c.atEnd then s.ill c else s.branchReg c a true

def execRet (s : State) := operate .ret s fun c => s.branchReg c linkReg false

/-! ## Ending, yielding and stopping (R94 to R97) -/

def execNop (s : State) := operate .nop s fun c => s.advance c

/-- `YIELD` retires; the cut is then ineligible until another cut of its scheduler has issued, or for 16 cycles. A Mill runs
one cut, and there it acts as `NOP` (R265). -/
def execYield (s : State) := operate .yield s fun c =>
  let k := c.advance
  if c.onMill then s.retired k else s.retired { k with wait := .yield (s.cycle + Config.yieldWait) }

/-- YIELD_EXPIRY: 16 cycles with no other issue have passed. -/
def execYieldExpiry (uid : Nat) (s : State) : Host.Outcome State Fault Refusal :=
  .next (match s.cutOf uid with
    | some c => match c.wait with
      | .yield till => if till ≤ s.cycle then s.hold c .none else s
      | _ => s
    | none => s)

/-- Whether every engine effect and store of a cut has performed, as a commit on a Bench waits for (R282). -/
def benchCommitted (s : State) (c : Cut) : Bool :=
  fenceDone s ⟨0, 2, true, true, 4, c.lid, c.lineage, s.nextSeq, false⟩

/-- `EXIT` of every remaining item of a Mill cut whose section is open commits the section first (R275): on its Mill through
the Assay unit, on a Bench as `MCOMMIT` waits there (R282). -/
def State.exitSection (s : State) (c : Cut) : State :=
  if c.onMill then s.offer { c with exiting := true }
  else if benchCommitted s c then s.endCut c
  else s.hold c .order

/-- `EXIT` (R95): after outstanding results, the governed items end. A pattern cut keeps going over the rest where that is a
box, and materializes where it is not. -/
def execExit (s : State) := operate .exit s fun c =>
  let gone := c.governed
  let rest := c.positions.filter fun i => !decide (i ∈ gone)
  if !c.outst.isEmpty then s.hold c .results
  else if gone.isEmpty then s.advance c
  else if c.isPattern then
    let its := rest.map c.item
    if rest.isEmpty then s.endCut c
    else if (boundingBox its).size = its.length then s.exitBox c (boundingBox its)
    else s.lanesOnly c
  else if rest.isEmpty ∧ c.sec.state ≠ .out ∧ (familyOf s c).length = 1 then s.exitSection c
  else s.exitLanes c (maskOf 32 (· ∈ gone))

/-- `TFENCE` (R96): waits for the cut's flag-setting instructions, then raises ARI for an enabled flag; `TRET` resumes at the
next word. -/
def execTfence (s : State) := operate .tfence s fun c =>
  if c.outst.any Outst.mayFlag then s.hold c .results
  else if c.flagTrap then s.stop c { c.cause causeARI 0 c.allLanes with done := c.allLanes }
  else s.advance c

/-- `HALTD` (R97, R392): halts the context when a debugger holds it, otherwise acts as `NOP`; it does so too when the context
resumes from the halt that it raised. -/
def execHaltd (s : State) := operate .haltd s fun c =>
  match c.armed s with
  | some d => s.triggerAt c d 3 0
  | none => s.advance c

def execBkpt (s : State) := operate .bkpt s fun c => s.stop c { c.cause causeBKP 0 c.allLanes with done := c.allLanes }

/-- `TRAP #n` (R97). -/
def execTrap (i : BitVec 18) (s : State) := operate (.trap i) s fun c =>
  let lanes := c.governed
  if lanes.isEmpty then s.advance c
  else if !c.isPattern then
    s.stop c { c.cause causeTRP (i.setWidth 64) (lanesWord lanes) with done := c.allLanes }
  else if lanes.length = c.positions.length then
    s.stop c { c.cause causeTRP (i.setWidth 64) c.allLanes with done := c.allLanes }
  else s.lanesOnly c

/-! ## The mode (R98, R99) -/

/-- The low 32 bits of a register whose value is the same in every active item. -/
def Cut.common32 (c : Cut) (v : RegVal) : Option W32 := (c.uniformOf v).map (·.setWidth 32)

/-- The low 32 bits of a register where these are the same in every active item, as a loop count is (R106). -/
def Cut.commonLow (c : Cut) (v : RegVal) : Option W32 :=
  match c.positions with
  | [] => some 0
  | i :: is =>
    let x := (c.valAt v i).setWidth 32
    if v.isU || is.all (fun j => (c.valAt v j).setWidth 32 == x) then some x else none

/-- A cut with a new MODE. -/
def Cut.setMode (c : Cut) (m : W32) : Cut := { c with ctx := { c.ctx with mode := m } }

def execMode (a : Opnd) (s : State) := operate (.mode a) s fun c =>
  let g := c.governed
  if g.isEmpty then s.complete c [a] c
  else if g.length ≠ c.positions.length then s.raiseAll c causeMOD 0
  else match c.common32 (c.read s a []) with
    | some m => if modeLegal m then s.complete c [a] (c.setMode m) else s.raiseAll c causeMOD 0
    | none => s.raiseAll c causeMOD 0

def execModei (i : BitVec 18) (s : State) := operate (.modei i) s fun c =>
  let m : W32 := c.ctx.mode.extractLsb' 18 14 ++ i
  if modeLegal m then s.advance (c.setMode m) else s.raiseAll c causeMOD 0

/-! ## Loops (R105 to R108) -/

/-- Opens a loop of `body` words with a count (R106). -/
def State.openLoop (s : State) (c : Cut) (srcs : List Opnd) (body : Nat) (n : Int) : State :=
  let start := c.ctx.pc + 4
  let stop := c.ctx.pc + BitVec.ofNat 64 (4 * body)
  if c.loopBarred body then s.ill c
  else if n ≤ 0 then (s.popAll c srcs).retired ((c.popped srcs).goTo (stop + 4) c.ctx.loops)
  else if 4 ≤ c.ctx.loops.length then s.raiseAll c causeLOV 0
  else (s.popAll c srcs).retired ((c.popped srcs).goTo start (⟨start, stop, ofInt n⟩ :: c.ctx.loops))

def execLoop (e : Opnd) (n : BitVec 14) (s : State) := operate (.loop e n) s fun c =>
  match c.commonLow (c.read s e []) with
  | some x => s.openLoop c [e] n.toNat x.toInt
  | none => s.ill c

def execLoopi (i : BitVec 11) (n : BitVec 14) (s : State) := operate (.loopi i n) s fun c => s.openLoop c [] n.toNat i.toInt

/-- `LBRK` (R108). -/
def execLbrk (s : State) := operate .lbrk s fun c =>
  match c.ctx.loops with
  | [] => s.ill c
  | l :: rest => match endLoops l.stop rest with
    | (loops, some start) => s.retired (c.goTo start loops)
    | (loops, none) => s.retired (c.goTo (l.stop + 4) loops)

/-! ## Seams (R26 to R28, R173 to R175) -/

/-- A cut that goes on after a `SEAM`: `l0` and `l1` read zero, and end processing applies (R28, R173). -/
def Cut.resume (c : Cut) : Cut :=
  ({ c with wait := .none, ctx := { c.ctx with l0 := .val (uVal 0), l1 := .val (uVal 0) } } : Cut).advance

/-- Whether a lane cut or pattern cut is seamable (R27). -/
def Cut.seamable (s : State) (c : Cut) : Bool :=
  !(c.ctx.v.any RegVal.isL) && !(c.ctx.o.any RegVal.isL) && !(c.ctx.preds.drop 1).any PredVal.isLanes && !c.mill
    && (c.isPattern || c.kind == .lane) && (c.isPattern || !c.claims s)

/-- Whether a resident cut waits at a `SEAM` for partners, and since when. -/
def Cut.seaming (c : Cut) (pc : W64) : Option Nat :=
  match c.wait with
  | .seam p since true => if p = pc && c.place.resident then some since else none
  | _ => none

/-- Whether a resident cut waits at a `SEAM` for its siblings. -/
def Cut.rejoining (c : Cut) : Bool :=
  match c.wait with
  | .seam _ _ false => c.place.resident
  | _ => false

/-- Whether the seam of a launch at an address must wait: a cut there stands still with its context (R393). -/
def seamHalted (s : State) (lid : Nat) (pc : W64) : Bool :=
  s.cuts.any fun c => c.lid == lid && (c.seaming pc).isSome && c.halted s

/-- A lane cut or pattern cut at a `SEAM`, its siblings joined: it waits for partners, or goes on (R173). The wait is that of
the first arrival. -/
def State.seamTest (s : State) (c : Cut) : State :=
  if c.seamable s then
    let since := ((s.cuts.filter (·.lid == c.lid)).filterMap (·.seaming c.ctx.pc)).foldl Nat.min s.cycle
    s.hold c (.seam c.ctx.pc since true)
  else s.retired c.resume

/-- `SEAM` (R173): outstanding results first; a fragment or stray then waits for its siblings, any other cut for partners. -/
def execSeam (s : State) := operate .seam s fun c =>
  if !c.outst.isEmpty then s.hold c .results
  else if c.kind = .fragment ∨ c.kind = .stray then s.hold c (.seam c.ctx.pc s.cycle false)
  else s.seamTest c

/-- Whether a cut has entered trap entry or its handler (R26). -/
def Cut.trapped (c : Cut) : Bool := c.pend.isSome || c.trap.inh

/-- Whether every part of a lane cut stands at a `SEAM` or in a trap, and some part at a `SEAM` (R26). -/
def mayRejoin (fam : List Cut) : Bool := fam.all (fun d => d.rejoining || d.trapped) && fam.any Cut.rejoining

/-- The parts that stand at one `SEAM` with one MODE and one loop stack (R26, R100). -/
def seamGroup (fam : List Cut) (d : Cut) : List Cut :=
  fam.filter fun e => e.rejoining && e.ctx.pc == d.ctx.pc && e.ctx.mode == d.ctx.mode && e.ctx.loops == d.ctx.loops

/-- REJOIN: every group of a lane cut's parts that stands at a `SEAM` rejoins at once; a whole lane cut goes on to the wait for
partners, a partial one goes on at once (R26, R173). -/
def execRejoin (uid : Nat) (s : State) : Host.Outcome State Fault Refusal :=
  .next (match s.cutOf uid with
    | none => s
    | some c =>
      let fam := familyOf s c
      if !mayRejoin fam || fam.any (Cut.halted s) then s
      else
        let groups := distinct ((fam.filter Cut.rejoining).map (seamGroup fam))
        groups.foldl (fun s parts =>
          match rejoined s parts with
          | none => parts.foldl (fun s c => s.retired c.resume) s
          | some j =>
            let k : Cut := { j with wait := .none }
            let s := s.replaceCuts parts k
            if k.kind = .lane then s.seamTest k else s.retired k.resume) s)

/-- What cuts must share to become one pattern cut, beside their items (R27 conditions 1 to 3): the loop stack, MODE, every
register and predicate; and, since a cut has one of each and seaming changes no result (R28, R40), the crew, role, allotment, bindings
and trap state (DEDUCED, log 42). -/
def Cut.sameSeam (c d : Cut) : Bool :=
  c.ctx.pc == d.ctx.pc && c.ctx.loops == d.ctx.loops && c.ctx.mode == d.ctx.mode && c.ctx.v == d.ctx.v && c.ctx.o == d.ctx.o
    && c.ctx.preds.drop 1 == d.ctx.preds.drop 1 && c.crew == d.crew && c.binds == d.binds && c.role == d.role
    && c.allot == d.allot && c.trap.inh == d.trap.inh && c.trap.hv == d.trap.hv && c.trap.off == d.trap.off

/-- The active items of a cut. -/
def Cut.activeItems (c : Cut) : List Item := c.positions.map c.item

/-- The place of an item in a box's linear order. -/
def Box.place (b : Box) (it : Item) : Nat := ((it.z - b.lo.z) * b.ny + (it.y - b.lo.y)) * b.nx + (it.x - b.lo.x)

/-- Whether items are consecutive in a box's linear order. -/
def consecutive (b : Box) (its : List Item) : Bool :=
  let ps := its.map b.place
  ps.foldl Nat.max 0 + 1 == leastOf 0 ps + ps.length

/-- The box that a group of cuts covers, where they may become one pattern cut (R27 condition 4). -/
def groupBox (g : List Cut) : Option Box :=
  let its := g.flatMap Cut.activeItems
  let b := boundingBox its
  if b.size = its.length ∧ g.all (fun c => consecutive b c.activeItems) then some b else none

/-- Adds a cut to the first group whose union with it meets the conditions, or starts a new group (R174). -/
def joinGroup (c : Cut) : List (List Cut) → List (List Cut)
  | [] => [[c]]
  | g :: gs => if g.all (fun d => d.sameSeam c) && (groupBox (g ++ [c])).isSome then (g ++ [c]) :: gs else g :: joinGroup c gs

/-- The Foreman that takes the pattern cut of a group, within the limits of R21: its lowest cut's Bench, for cuts in no crew the
placement's others next; none where 64 pattern cuts live or every Foreman holds 16, and the group then goes on as it stood (DESIGN CHOICE, log 94). -/
def seamForeman (s : State) (g : List Cut) (p : Cut) : Option Nat :=
  let ps := s.cuts.filter fun d => d.isPattern && !g.any (·.uid == d.uid)
  let bs := p.place.bench :: (if p.crew.isSome then [] else placement s (s.launchOf p.lid).part)
  if (ps.filter (·.lid == p.lid)).length < Config.boltLimit then
    bs.find? fun b => decide ((ps.filter (·.place == .foreman b)).length < Config.foremanLimit)
  else none

/-- The pattern cut that a group becomes (R174). -/
def seamed (s : State) (g : List Cut) (b : Box) : Option Cut :=
  match g with
  | [] => none
  | p :: _ =>
    let j := joinInto p g
    (seamForeman s g p).map fun f => { j with
      kind := .pattern, frag := 0, first := ilOf (s.launchOf p.lid) b.lo, parent := p.uid, box := b, items := []
      place := .foreman f, ctx := { j.ctx with active := 0 } }

/-- One group goes on after the wait (R174). -/
def State.seamGroupOn (s : State) (g : List Cut) : State :=
  let lone := match g with | [c] => c.isPattern | _ => false
  match if lone then none else (groupBox g).bind (seamed s g) with
  | some k =>
    let t := g.foldl (fun (s : State) (d : Cut) => s.freshFor d.place.bench k.place.bench) s
    (t.replaceCuts g k).retired k.resume
  | none => g.foldl (fun s c => s.retired c.resume) s

/-- The end of the wait at one `SEAM` of a launch: the waiting cuts group in ascending identifier order (R174). -/
def State.seamEnd (s : State) (lid : Nat) (pc : W64) : State :=
  let ws := sortBy (·.cutid.toNat) (s.cuts.filter fun c => c.lid == lid && (c.seaming pc).isSome)
  (ws.foldl (fun gs c => joinGroup c gs) []).foldl State.seamGroupOn s

/-- The first arrival at a `SEAM` of a launch where cuts wait for partners. -/
def seamSince (s : State) (lid : Nat) (pc : W64) : Option Nat :=
  match (s.cuts.filter (·.lid == lid)).filterMap (·.seaming pc) with
  | [] => none
  | n :: ns => some (ns.foldl Nat.min n)

/-- SEAM_WAIT_LIMIT: 64 cycles after the first arrival, outside quantum mode (R174). -/
def execSeamWaitLimit (lid : Nat) (pc : W64) (s : State) : Host.Outcome State Fault Refusal :=
  .next (match seamSince s lid pc with
    | some n => if !(s.launchOf lid).qm ∧ n + Config.seamWait ≤ s.cycle ∧ !seamHalted s lid pc then s.seamEnd lid pc else s
    | none => s)

/-- SEAM_WAIT_END: every live cut of the launch waits at this `SEAM` (R174). -/
def execSeamWaitEnd (lid : Nat) (pc : W64) (s : State) : Host.Outcome State Fault Refusal :=
  .next (if (seamSince s lid pc).isSome ∧ !(s.launchOf lid).qm
      ∧ (s.cuts.filter (·.lid == lid)).all (fun c => (c.seaming pc).isSome) ∧ !seamHalted s lid pc then s.seamEnd lid pc
    else s)

end Sys2Proof.Machine
end

