-- ==== Sys2Proof/Machine/Special.lean ====
section
/-! DEFINITION. The mathematical functions that R157 rounds correctly: each gives its value at a precision far beyond what
any rounding of R59 can tell apart, with an inexact value standing strictly between two points of that precision. -/

namespace Sys2Proof.Machine

/-- A positive value known to lie strictly between m·2^e and (m+1)·2^e. -/
def between (neg : Bool) (m : Nat) (e : Int) : Exact := .fin neg (2 * m + 1) (e - 1)

/-- floor(a/b · 2^k) as a value, exact where the division is (R157). -/
def quotient (neg : Bool) (a b : Nat) (e : Int) : Exact :=
  let k := 160 + bitLen b
  let q := (a <<< k) / b
  if (a <<< k) % b = 0 then .fin neg q (e - k) else between neg q (e - k)

/-- The integer square root, bit by bit from 2^`fuel`. -/
def isqrt (n : Nat) : Nat → Nat → Nat
  | 0, r => r
  | k + 1, r => isqrt n k (if (r + 2 ^ k) * (r + 2 ^ k) ≤ n then r + 2 ^ k else r)

/-- √(m·2^e), m not 0. -/
def sqrtNum (m : Nat) (e : Int) : Exact :=
  let (m, e) := if e % 2 = 0 then (m, e) else (2 * m, e - 1)
  let n := m <<< 200
  let r := isqrt n (bitLen n / 2 + 1) 0
  if r * r = n then .fin false r (e / 2 - 100) else between false r (e / 2 - 100)

/-- 1/√(m·2^e), m not 0: the square root of 2^400/m. -/
def rsqrtNum (m : Nat) (e : Int) : Exact :=
  let (m, e) := if e % 2 = 0 then (m, e) else (2 * m, e - 1)
  let n := 2 ^ 400 / m
  let r := isqrt n (bitLen n / 2 + 1) 0
  if r * r * m = 2 ^ 400 then .fin false r (-(e / 2) - 200) else between false r (-(e / 2) - 200)

/-- Bits of the fixed-point fractions below. -/
def fracBits : Nat := 640

/-- π·2^800, rounded down. -/
def piBits : Nat :=
  0x3243f6a8885a308d313198a2e03707344a4093822299f31d0082efa98ec4e6c89452821e638d01377be5466cf34e90c6cc0ac29b7c97c50dd3f84d5b5b54709179216d5d98979fb1bd1310ba698dfb5ac2ffd72dbd01adfb7b8e1afed6a267e96ba7c9045

/-- (ln 2)·2^700, rounded down. -/
def ln2Bits : Nat :=
  0xb17217f7d1cf79abc9e3b39803f2f6af40f343267298b62d8a0d175b8baafa2be7b876206debac98559552fb4afa1b10ed2eae35c138214427573b291169b8253e96ca16224ae8c51acbda11317c387eb9ea9bc3b136603

/-- ln 2 in the fixed point. -/
def ln2Fix : Nat := ln2Bits >>> (700 - fracBits)

/-- A fixed-point magnitude with its 40 low bits dropped: strictly between two points of the coarser precision. -/
def coarse (neg : Bool) (n : Nat) (e : Int) : Exact := between neg (n >>> 40) (e - fracBits + 40)

/-- Σ tⁿ/n! from term `i`, each term made from the last, in the fixed point. -/
def expSeries (t : Nat) : Nat → Nat → Nat → Nat
  | 0, _, acc => acc
  | k + 1, term, acc =>
    let i := 160 - k
    let next := ((term * t) >>> fracBits) / i
    expSeries t k next (acc + next)

/-- 2^(±m·2^e): exact at an integer; beyond the range of every type at 2^12 and more (R157). -/
def exp2Num (neg : Bool) (m : Nat) (e : Int) : Exact :=
  if m = 0 then .fin false 1 0
  else if 13 ≤ (bitLen m : Int) + e then between false 1 (if neg then -5000 else 5000)
  else
    let x : Int := if 0 ≤ e then ((m <<< e.toNat : Nat) : Int) <<< fracBits else (((m <<< fracBits) >>> (-e).toNat : Nat) : Int)
    let x := if neg then -x else x
    let n := x / (2 ^ fracBits : Nat)
    let f := (x % (2 ^ fracBits : Nat)).toNat
    if f = 0 then .fin false 1 n
    else coarse false (expSeries ((f * ln2Fix) >>> fracBits) 160 (2 ^ fracBits) (2 ^ fracBits)) n

/-- Σ z^(2i+1)/(2i+1), in the fixed point. -/
def atanhSeries (z2 : Nat) : Nat → Nat → Nat → Nat → Nat
  | 0, _, _, acc => acc
  | k + 1, i, p, acc => atanhSeries z2 k (i + 2) ((p * z2) >>> fracBits) (acc + p / i)

/-- log2(m·2^e), m not 0: exact at a power of two (R157). -/
def log2Num (m : Nat) (e : Int) : Exact :=
  let len := bitLen m
  let n : Int := e + len - 1
  if m = 2 ^ (len - 1) then .fin (n < 0) n.natAbs 0
  else
    let one := 2 ^ (len - 1)
    let z := ((m - one) <<< fracBits) / (m + one)
    let ln := 2 * atanhSeries ((z * z) >>> fracBits) 210 1 z 0
    let v : Int := n * (2 ^ fracBits : Nat) + ((ln <<< fracBits) / ln2Fix : Nat)
    coarse (v < 0) v.natAbs 0

/-- Σ of the sine series (i = 1) or the cosine series (i = 0) in the fixed point, terms of alternating sign. -/
def trigSeries (r2 : Nat) : Nat → Nat → Bool → Nat → Int → Int
  | 0, _, _, _, acc => acc
  | k + 1, i, neg, term, acc =>
    let next := ((term * r2) >>> fracBits) / ((i + 1) * (i + 2))
    trigSeries r2 k (i + 2) (!neg) next (if neg then acc - term else acc + term)

/-- sin(±m·2^e + q·π/2), m not 0, for |value| < 2^130: q = 0 is the sine, q = 1 the cosine (R157). -/
def trigNum (neg : Bool) (m : Nat) (e : Int) (q : Nat) : Exact :=
  let big := 800
  let x : Nat := if 0 ≤ e then m <<< (big + e.toNat) else (m <<< big) >>> (-e).toNat
  let half := piBits >>> 1
  let k := x / half
  let r := x - k * half
  let (k, r, low) := if half < 2 * r then (k + 1, half - r, true) else (k, r, false)
  -- |value| = k·π/2 + r, or − r when low
  let rf := r >>> (big - fracBits)
  let r2 := (rf * rf) >>> fracBits
  -- the quadrant and sign of the reduced angle, with the sign of the argument
  let kk : Int := (if neg then -(k : Int) else k) + q
  let rneg := low != neg
  let quad := (kk % 4).toNat
  let useCos := quad % 2 == 1
  let v := if useCos then trigSeries r2 90 0 false (2 ^ fracBits) 0 else trigSeries r2 90 1 false rf 0
  let sgn := (decide (2 ≤ quad)) != (!useCos && rneg)
  coarse sgn v.natAbs 0

end Sys2Proof.Machine
end

