-- ==== Sys2Proof/Machine/Float.lean ====
section
/-! DEFINITION. Floating point, conversions and special functions (R147 to R158): op7 0x20 to 0x2A and the Q forms `FMA` and
`FNMA`. -/

namespace Sys2Proof.Machine

/-! ## The operations on encodings -/

/-- Rounds an exact result with the flags of making it and of its inputs (R148, R64). -/
def finish (r : Rnd) (et : Nat) (x : Exact × Nat) (sig : Nat) : W64 × Nat :=
  let o := roundTo et r x.1
  (extend et o.1, sig ||| x.2 ||| o.2)

/-- A result that needs no rounding. -/
def exactly (et : Nat) (x : Exact) (fl : Nat) : W64 × Nat := (extend et (roundTo et (rne false) x).1, fl)

def opFadd (et : Nat) (r : Rnd) (a b : W64) : W64 × Nat :=
  let x := readNum r.ftz et a
  let y := readNum r.ftz et b
  finish r et (numAdd r.rm x y) (sigFlag [x, y])
def opFsub (et : Nat) (r : Rnd) (a b : W64) : W64 × Nat :=
  let x := readNum r.ftz et a
  let y := readNum r.ftz et b
  finish r et (numAdd r.rm x (numNeg y)) (sigFlag [x, y])
def opFmul (et : Nat) (r : Rnd) (a b : W64) : W64 × Nat :=
  let x := readNum r.ftz et a
  let y := readNum r.ftz et b
  finish r et (numMul x y) (sigFlag [x, y])

/-- The lesser of two numbers, −0 below +0 (R151). -/
def lesser (x y : Exact) : Exact :=
  if numLt x y then x else if numLt y x then y else if isNeg x then x else y
/-- The greater of two numbers. -/
def greater (x y : Exact) : Exact :=
  if numLt x y then y else if numLt y x then x else if isNeg x then y else x

/-- Minimum or maximum: a NaN makes the canonical NaN, or with `one` gives way to a number (R151). -/
def minMax (max one : Bool) (x y : Exact) : Exact :=
  match isNaN x, isNaN y with
  | true, true => .nan false
  | true, false => if one then y else .nan false
  | false, true => if one then x else .nan false
  | false, false => if max then greater x y else lesser x y
def opMinMax (max one : Bool) (et : Nat) (r : Rnd) (a b : W64) : W64 × Nat :=
  let x := readNum r.ftz et a
  let y := readNum r.ftz et b
  exactly et (minMax max one x y) (sigFlag [x, y])

/-- The encoding with its sign bit cleared, inverted, or taken from another (R151). -/
def opFabs (et : Nat) (a : W64) : W64 := extend et (lowBits et a % 2 ^ (width et - 1))
def opFneg (et : Nat) (a : W64) : W64 := extend et (lowBits et a ^^^ 2 ^ (width et - 1))
def opFcpsgn (et : Nat) (a b : W64) : W64 :=
  extend et (lowBits et a % 2 ^ (width et - 1) + (if b.toNat.testBit (width et - 1) then 2 ^ (width et - 1) else 0))

/-- The class bit of an encoding (R152). -/
def classBit (ftz : Bool) (et : Nat) (a : W64) : Nat :=
  match value et a with
  | .nan true => 8
  | .nan false => 9
  | .inf true => 0
  | .inf false => 7
  | .fin neg m _ =>
    if m = 0 ∨ (ftz ∧ isSubnormal et a) then (if neg then 3 else 4)
    else if isSubnormal et a then (if neg then 2 else 5)
    else (if neg then 1 else 6)
def opFclass (ftz : Bool) (et : Nat) (a : W64) : W64 := BitVec.ofNat 64 (2 ^ classBit ftz et a)

def opFrnd (et : Nat) (r : Rnd) (a : W64) : W64 × Nat :=
  let x := readNum r.ftz et a
  match x with
  | .fin neg m e =>
    let q := roundInt r neg m e
    exactly et (.fin neg q.1 0) (if q.2 then flagNX else 0)
  | y => exactly et y (sigFlag [y])
def opFfrac (et : Nat) (r : Rnd) (a : W64) : W64 × Nat :=
  let x := readNum r.ftz et a
  match x with
  | .fin neg m e => exactly et (if 0 ≤ e then .fin neg 0 0 else .fin neg (m % 2 ^ (-e).toNat) e) 0
  | .inf _ => exactly et (.nan false) flagIV
  | y => exactly et y (sigFlag [y])

/-- The scale of `FSCALE`, beyond ±8192 as ±8192: every result there overflows or is tiny alike (R151). -/
def scaleOf (b : W64) : Int := if b.toInt < -8192 then -8192 else if 8192 < b.toInt then 8192 else b.toInt
def opFscale (et : Nat) (r : Rnd) (a b : W64) : W64 × Nat :=
  let x := readNum r.ftz et a
  finish r et (match x with | .fin neg m e => .fin neg m (e + scaleOf b) | y => y, 0) (sigFlag [x])
def opFexpo (et : Nat) (r : Rnd) (a : W64) : W64 × Nat :=
  match readNum r.ftz et a with
  | .fin _ m e => if m = 0 then (ofInt (-(2 ^ 63 : Nat)), flagDZ) else (ofInt (e + bitLen m - 1), 0)
  | .inf _ => (ofInt ((2 ^ 63 : Nat) - 1), 0)
  | .nan _ => (ofInt ((2 ^ 63 : Nat) - 1), flagIV)

/-- The exact error of a rounded sum, as `TWOSUM` writes it (R153): canonical NaN where the sum is not finite, +0 where it is
exact, flushed under FTZ, and a free value where ET holds no such number (DESIGN CHOICE, log 3). -/
def sumError (et : Nat) (r : Rnd) (mode : W32) (a b s : W64) : W64 :=
  match value et s with
  | .fin neg m e =>
    match (numAdd 0 (numAdd r.rm (readNum r.ftz et a) (readNum r.ftz et b)).1 (.fin (!neg) m e)).1 with
    | .fin en em ee =>
      if em = 0 then 0
      else
        let o := roundTo et ⟨0, false, r.ftz, 0⟩ (.fin en em ee)
        let flushed := r.ftz && (match value et (BitVec.ofNat 64 o.1) with | .fin _ fm _ => fm == 0 | _ => false)
        if o.2 = 0 || flushed then extend et o.1 else Config.twosumErr mode a b
    | _ => extend et (canonNaN et)
  | _ => extend et (canonNaN et)

def opFma (et : Nat) (r : Rnd) (a b c : W64) : W64 × Nat :=
  let x := readNum r.ftz et a
  let y := readNum r.ftz et b
  let z := readNum r.ftz et c
  let p := numMul x y
  let q := numAdd r.rm p.1 z
  finish r et (q.1, p.2 ||| q.2) (sigFlag [x, y, z])
def opFnma (et : Nat) (r : Rnd) (a b c : W64) : W64 × Nat :=
  let x := readNum r.ftz et a
  let y := readNum r.ftz et b
  let z := readNum r.ftz et c
  let p := numMul x y
  let q := numAdd r.rm z (numNeg p.1)
  finish r et (q.1, p.2 ||| q.2) (sigFlag [x, y, z])

/-- A conversion between types (R155, R156). -/
def convert (src dst : Nat) (r : Rnd) (a : W64) : W64 × Nat :=
  let x := readNum r.ftz src a
  finish r dst (x, 0) (sigFlag [x])

/-! ## Special functions (R157, R158) -/

def fnRcp (x : Exact) : Exact × Nat :=
  match x with
  | .inf n => (.fin n 0 0, 0)
  | .fin n m e => if m = 0 then (.inf n, flagDZ) else (quotient n 1 m (-e), 0)
  | y => (y, 0)
def fnRsq (x : Exact) : Exact × Nat :=
  match x with
  | .inf true => (.nan false, flagIV)
  | .inf false => (.fin false 0 0, 0)
  | .fin n m e => if m = 0 then (.inf n, flagDZ) else if n then (.nan false, flagIV) else (rsqrtNum m e, 0)
  | y => (y, 0)
def fnSqrt (x : Exact) : Exact × Nat :=
  match x with
  | .inf true => (.nan false, flagIV)
  | .inf false => (.inf false, 0)
  | .fin n m e => if m = 0 then (.fin n 0 0, 0) else if n then (.nan false, flagIV) else (sqrtNum m e, 0)
  | y => (y, 0)
def fnExp2 (x : Exact) : Exact × Nat :=
  match x with
  | .inf true => (.fin false 0 0, 0)
  | .inf false => (.inf false, 0)
  | .fin n m e => (exp2Num n m e, 0)
  | y => (y, 0)
def fnLog2 (x : Exact) : Exact × Nat :=
  match x with
  | .inf true => (.nan false, flagIV)
  | .inf false => (.inf false, 0)
  | .fin n m e => if m = 0 then (.inf true, flagDZ) else if n then (.nan false, flagIV) else (log2Num m e, 0)
  | y => (y, 0)
def fnSin (x : Exact) : Exact × Nat :=
  match x with
  | .inf _ => (.nan false, flagIV)
  | .fin n m e => if m = 0 then (.fin n 0 0, 0) else (trigNum n m e 0, 0)
  | y => (y, 0)
def fnCos (x : Exact) : Exact × Nat :=
  match x with
  | .inf _ => (.nan false, flagIV)
  | .fin n m e => if m = 0 then (.fin false 1 0, 0) else (trigNum n m e 1, 0)
  | y => (y, 0)
def fnDiv (x y : Exact) : Exact × Nat :=
  match x, y with
  | .nan _, _ => (.nan false, 0)
  | _, .nan _ => (.nan false, 0)
  | .inf _, .inf _ => (.nan false, flagIV)
  | .inf a, .fin b _ _ => (.inf (a != b), 0)
  | .fin a _ _, .inf b => (.fin (a != b) 0 0, 0)
  | .fin a m e, .fin b n g =>
    if n = 0 then (if m = 0 then (.nan false, flagIV) else (.inf (a != b), flagDZ))
    else if m = 0 then (.fin (a != b) 0 0, 0) else (quotient (a != b) m n (e - g), 0)

/-- A function of one input, rounded once (R157). -/
def opSpecial (f : Exact → Exact × Nat) (et : Nat) (r : Rnd) (a : W64) : W64 × Nat :=
  let x := readNum r.ftz et a
  finish r et (f x) (sigFlag [x])
def opFdiv (et : Nat) (r : Rnd) (a b : W64) : W64 × Nat :=
  let x := readNum r.ftz et a
  let y := readNum r.ftz et b
  finish r et (fnDiv x y) (sigFlag [x, y])

/-! ## The shapes of the family -/

def State.float1 (s : State) (c : Cut) (d a : Opnd) (f : Rnd → W64 → W64 × Nat) : State :=
  s.writeRounded c [a] d (c.round1 s f (c.read s a []))

def State.float2 (s : State) (c : Cut) (d a b : Opnd) (f : Rnd → W64 → W64 → W64 × Nat) : State :=
  s.writeRounded c [a, b] d (c.round2 s f (c.read s a []) (c.read s b [a]))

def State.float3 (s : State) (c : Cut) (d a b e : Opnd) (f : Rnd → W64 → W64 → W64 → W64 × Nat) : State :=
  s.writeRounded c [a, b, e] d (c.round3 s f (c.read s a []) (c.read s b [a]) (c.read s e [a, b]))

/-- A bits or class result: no flag, no rounding (R151). -/
def State.bits1 (s : State) (c : Cut) (d a : Opnd) (f : W64 → W64) : State := s.write c [a] c.gov d (c.map1 f (c.read s a []))

/-- A special function in the long-latency form (R157). -/
def State.special1 (s : State) (c : Cut) (la : Nat) (d a : Opnd) (f : Exact → Exact × Nat) : State :=
  let r := c.round1 s (opSpecial f (modeET c.ctx.mode)) (c.read s a [])
  s.writeLong c [a] d la r.v none r.fl

/-! ## op7 0x20 (R151 to R153) -/

def execFadd (d a b : Opnd) (s : State) := operate (.fadd d a b) s fun c => s.float2 c d a b (opFadd (modeET c.ctx.mode))
def execFsub (d a b : Opnd) (s : State) := operate (.fsub d a b) s fun c => s.float2 c d a b (opFsub (modeET c.ctx.mode))
def execFmul (d a b : Opnd) (s : State) := operate (.fmul d a b) s fun c => s.float2 c d a b (opFmul (modeET c.ctx.mode))
def execFmin (d a b : Opnd) (s : State) := operate (.fmin d a b) s fun c => s.float2 c d a b (opMinMax false false (modeET c.ctx.mode))
def execFmax (d a b : Opnd) (s : State) := operate (.fmax d a b) s fun c => s.float2 c d a b (opMinMax true false (modeET c.ctx.mode))
def execFminn (d a b : Opnd) (s : State) := operate (.fminn d a b) s fun c => s.float2 c d a b (opMinMax false true (modeET c.ctx.mode))
def execFmaxn (d a b : Opnd) (s : State) := operate (.fmaxn d a b) s fun c => s.float2 c d a b (opMinMax true true (modeET c.ctx.mode))
def execFabs (d a : Opnd) (s : State) := operate (.fabs d a) s fun c => s.bits1 c d a (opFabs (modeET c.ctx.mode))
def execFneg (d a : Opnd) (s : State) := operate (.fneg d a) s fun c => s.bits1 c d a (opFneg (modeET c.ctx.mode))
def execFcpsgn (d a b : Opnd) (s : State) := operate (.fcpsgn d a b) s fun c =>
  s.write c [a, b] c.gov d (c.map2 (opFcpsgn (modeET c.ctx.mode)) (c.read s a []) (c.read s b [a]))
def execFclass (d a : Opnd) (s : State) := operate (.fclass d a) s fun c =>
  s.bits1 c d a (opFclass (modeFTZ c.ctx.mode) (modeET c.ctx.mode))
def execFrnd (d a : Opnd) (s : State) := operate (.frnd d a) s fun c => s.float1 c d a (opFrnd (modeET c.ctx.mode))
def execFfrac (d a : Opnd) (s : State) := operate (.ffrac d a) s fun c => s.float1 c d a (opFfrac (modeET c.ctx.mode))
def execFscale (d a b : Opnd) (s : State) := operate (.fscale d a b) s fun c => s.float2 c d a b (opFscale (modeET c.ctx.mode))
def execFexpo (d a : Opnd) (s : State) := operate (.fexpo d a) s fun c => s.float1 c d a (opFexpo (modeET c.ctx.mode))

/-- `TWOSUM`: two shifts, the error to `l1` and the sum to `l0` and `d` (R76, R153). -/
def execTwosum (d a b : Opnd) (s : State) := operate (.twosum d a b) s fun c =>
  let et := modeET c.ctx.mode
  let x := c.read s a []
  let y := c.read s b [a]
  let u := x.isU && y.isU
  let r := c.round2 s (opFadd et) x y
  let err := c.rounded s u fun rn i =>
    let p := c.inAt u x i
    let q := c.inAt u y i
    (sumError et rn c.ctx.mode p q (opFadd et rn p q).1, 0)
  let k := if isResult d then c.shift (.val (c.merge c.gov err.v (uVal 0))) else c
  if c.needsLanes c.gov r.v then s.lanesOnly c else s.writeRounded k [a, b] d r

/-! ## Conversions (R155, R156) -/

def execFcvt (t : BitVec 4) (d a : Opnd) (s : State) := operate (.fcvt t d a) s fun c =>
  s.float1 c d a (convert t.toNat (modeET c.ctx.mode))
def execF2i (d a : Opnd) (s : State) := operate (.f2i d a) s fun c => s.float1 c d a (convert (modeET c.ctx.mode) 6)
def execF2u (d a : Opnd) (s : State) := operate (.f2u d a) s fun c => s.float1 c d a (convert (modeET c.ctx.mode) 7)
def execI2f (d a : Opnd) (s : State) := operate (.i2f d a) s fun c => s.float1 c d a (convert 6 (modeET c.ctx.mode))
def execU2f (d a : Opnd) (s : State) := operate (.u2f d a) s fun c => s.float1 c d a (convert 7 (modeET c.ctx.mode))

/-! ## op7 0x23 to 0x2A (R157) -/

def execFrcp (l : BitVec 4) (d a : Opnd) (s : State) := operate (.frcp l d a) s fun c => s.special1 c l.toNat d a fnRcp
def execFrsq (l : BitVec 4) (d a : Opnd) (s : State) := operate (.frsq l d a) s fun c => s.special1 c l.toNat d a fnRsq
def execFsqrt (l : BitVec 4) (d a : Opnd) (s : State) := operate (.fsqrt l d a) s fun c => s.special1 c l.toNat d a fnSqrt
def execFexp2 (l : BitVec 4) (d a : Opnd) (s : State) := operate (.fexp2 l d a) s fun c => s.special1 c l.toNat d a fnExp2
def execFlog2 (l : BitVec 4) (d a : Opnd) (s : State) := operate (.flog2 l d a) s fun c => s.special1 c l.toNat d a fnLog2
def execFsin (l : BitVec 4) (d a : Opnd) (s : State) := operate (.fsin l d a) s fun c => s.special1 c l.toNat d a fnSin
def execFcos (l : BitVec 4) (d a : Opnd) (s : State) := operate (.fcos l d a) s fun c => s.special1 c l.toNat d a fnCos
def execFdiv (l : BitVec 4) (d a b : Opnd) (s : State) := operate (.fdiv l d a b) s fun c =>
  let r := c.round2 s (opFdiv (modeET c.ctx.mode)) (c.read s a []) (c.read s b [a])
  s.writeLong c [a, b] d l.toNat r.v none r.fl

/-! ## Fused multiply-add (R154) -/

def execFma (d a b e : Opnd) (s : State) := operate (.fma d a b e) s fun c => s.float3 c d a b e (opFma (modeET c.ctx.mode))
def execFnma (d a b e : Opnd) (s : State) := operate (.fnma d a b e) s fun c => s.float3 c d a b e (opFnma (modeET c.ctx.mode))

end Sys2Proof.Machine
end

