-- ==== Sys2Proof/Machine/Integer.lean ====
section
/-! DEFINITION. Integer and address arithmetic (R109 to R119): op7 0x10 to 0x1F and the Q forms `MADW` and `MADL`. -/

namespace Sys2Proof.Machine

/-! ## The operations on register values, as ET reads them -/

/-- The signed and the unsigned integer type of ET's width (R110). -/
def iw (et : Nat) : Nat := intType (width et) true
def nw (et : Nat) : Nat := intType (width et) false

/-- The integer type of twice ET's width, with a signedness (R110). -/
def wide (et : Nat) (signed : Bool) : Nat := intType (2 * width et) signed

def opAdd (et : Nat) (a b : W64) : W64 := wrapTo et (intValue et a + intValue et b)
def opSub (et : Nat) (a b : W64) : W64 := wrapTo et (intValue et a - intValue et b)
def opAnd (et : Nat) (a b : W64) : W64 := extend et (a &&& b).toNat
def opOr (et : Nat) (a b : W64) : W64 := extend et (a ||| b).toNat
def opXor (et : Nat) (a b : W64) : W64 := extend et (a ^^^ b).toNat
def opAndn (et : Nat) (a b : W64) : W64 := extend et (a &&& ~~~b).toNat

/-- Shifts by k (R112): a k of w or more leaves 0, or the sign. -/
def shlBy (et : Nat) (a : W64) (k : Nat) : W64 := if width et ≤ k then 0 else wrapTo et (intValue et a * (2 ^ k : Nat))
def shrBy (et : Nat) (a : W64) (k : Nat) : W64 := if width et ≤ k then 0 else extend et (lowBits et a / 2 ^ k)
def sarBy (et : Nat) (a : W64) (k : Nat) : W64 :=
  if width et ≤ k then (if intValue (iw et) a < 0 then wrapTo et (-1) else 0) else wrapTo et (intValue (iw et) a / (2 ^ k : Nat))

/-- The shift amount of a register: its bits 7 to 0 (R112). -/
def amount (b : W64) : Nat := fld b 0 8

def opShl (et : Nat) (a b : W64) : W64 := shlBy et a (amount b)
def opShr (et : Nat) (a b : W64) : W64 := shrBy et a (amount b)
def opSar (et : Nat) (a b : W64) : W64 := sarBy et a (amount b)
def opRol (et : Nat) (a b : W64) : W64 :=
  let w := width et
  let k := amount b % w
  extend et ((lowBits et a <<< k) ||| (lowBits et a >>> (w - k)))
def opMin (et : Nat) (a b : W64) : W64 :=
  wrapTo et (if intValue (iw et) b < intValue (iw et) a then intValue (iw et) b else intValue (iw et) a)
def opMax (et : Nat) (a b : W64) : W64 :=
  wrapTo et (if intValue (iw et) a < intValue (iw et) b then intValue (iw et) b else intValue (iw et) a)
def opMinu (et : Nat) (a b : W64) : W64 := extend et (if lowBits et b < lowBits et a then lowBits et b else lowBits et a)
def opMaxu (et : Nat) (a b : W64) : W64 := extend et (if lowBits et a < lowBits et b then lowBits et b else lowBits et a)
def opAbsd (et : Nat) (a b : W64) : W64 := wrapTo (nw et) ((intValue et a - intValue et b).natAbs : Nat)
def opNeg (et : Nat) (a : W64) : W64 := wrapTo et (-intValue et a)

def opMul (et : Nat) (a b : W64) : W64 := wrapTo et (intValue et a * intValue et b)
/-- The high half of the 2w-bit two's complement of a product (R113). -/
def highHalf (et : Nat) (n : Int) : W64 := extend et ((n % (2 ^ (2 * width et) : Nat)).toNat / 2 ^ width et)
def opMulhi (et : Nat) (a b : W64) : W64 := highHalf et (intValue (iw et) a * intValue (iw et) b)
def opMulhiu (et : Nat) (a b : W64) : W64 := highHalf et ((lowBits et a * lowBits et b : Nat) : Int)
def opMulw (et : Nat) (a b : W64) : W64 := wrapTo (wide et true) (intValue (iw et) a * intValue (iw et) b)
def opMulwu (et : Nat) (a b : W64) : W64 := wrapTo (wide et false) ((lowBits et a * lowBits et b : Nat) : Int)

/-- Leading and trailing zero counts of `w` bits, the population count and the reversals (R114). -/
def opClz (et : Nat) (a : W64) : W64 := extend et (width et - bitLen (lowBits et a))
def ctzFrom (n : Nat) : Nat → Nat → Nat
  | 0, k => k
  | fuel + 1, k => if n.testBit k then k else ctzFrom n fuel (k + 1)
def opCtz (et : Nat) (a : W64) : W64 := extend et (ctzFrom (lowBits et a) (width et) 0)
def opPopc (et : Nat) (a : W64) : W64 :=
  extend et ((List.range (width et)).filter fun i => (lowBits et a).testBit i).length
def opBrev (et : Nat) (a : W64) : W64 :=
  extend et ((List.range (width et)).foldl (fun n i => 2 * n + (if (lowBits et a).testBit i then 1 else 0)) 0)
def opBswap (et : Nat) (a : W64) : W64 := extend et (natLE (bytesLE (width et / 8) (lowBits et a)).reverse)

/-- The field that a control value names: its length, at most w, and its position (R114). -/
def fieldLen (et : Nat) (b : W64) : Nat := Nat.min (fld b 8 7) (width et)
def fieldPos (b : W64) : Nat := fld b 0 6
def opBfeu (et : Nat) (a b : W64) : W64 := extend et (lowBits et a / 2 ^ fieldPos b % 2 ^ fieldLen et b)
def opBfe (et : Nat) (a b : W64) : W64 :=
  let l := fieldLen et b
  let t : Int := intValue (iw et) a / (2 ^ fieldPos b : Nat) % (2 ^ l : Nat)
  wrapTo et (if 0 < l ∧ (2 ^ (l - 1) : Nat) ≤ t then t - (2 ^ l : Nat) else t)
def opBfi (et : Nat) (a b d : W64) : W64 :=
  let l := fieldLen et b
  let p := fieldPos b
  extend et ((List.range (width et)).foldl (fun n i =>
    if (if p ≤ i ∧ i < p + l then a.toNat.testBit (i - p) else d.toNat.testBit i) then n + 2 ^ i else n) 0)

def opAddw (et : Nat) (a b : W64) : W64 := wrapTo (wide et true) (intValue (iw et) a + intValue (iw et) b)
def opAddwu (et : Nat) (a b : W64) : W64 := wrapTo (wide et false) ((lowBits et a + lowBits et b : Nat) : Int)
def opSubw (et : Nat) (a b : W64) : W64 := wrapTo (wide et true) (intValue et a - intValue et b)
def opAccw (et : Nat) (a b : W64) : W64 := wrapTo (wide et true) (intValue (wide et true) a + intValue (iw et) b)
def opAccwu (et : Nat) (a b : W64) : W64 := wrapTo (wide et false) (intValue (wide et false) a + intValue (nw et) b)
def opSatadd (et : Nat) (a b : W64) : W64 := wrapTo et (saturate et (intValue et a + intValue et b))
def opSatsub (et : Nat) (a b : W64) : W64 := wrapTo et (saturate et (intValue et a - intValue et b))
def opNarrow (sat : Bool) (et : Nat) (a : W64) : W64 :=
  let v := intValue (wide et (isSigned et)) a
  wrapTo et (if sat then saturate et v else v)
def opSext (et : Nat) (a : W64) : W64 := ofInt (intValue (iw et) a)
def opZext (et : Nat) (a : W64) : W64 := BitVec.ofNat 64 (lowBits et a)
def opMovx (i : BitVec 18) (d : W64) : W64 := (d <<< 18) + i.setWidth 64

/-- Quotient and remainder (R118): `DIV` reads iw, `DIVU` reads nw; a zero divisor and the one overflow have their values. -/
def quotRem (signed : Bool) (et : Nat) (a b : W64) : Int × Int :=
  let t := if signed then iw et else nw et
  let x := intValue t a
  let y := intValue t b
  if y = 0 then (if signed then -1 else ((2 ^ width et : Nat) : Int) - 1, x)
  else (x.tdiv y, x.tmod y)
def opQuot (signed : Bool) (et : Nat) (a b : W64) : W64 := wrapTo et (quotRem signed et a b).1
def opRem (signed : Bool) (et : Nat) (a b : W64) : W64 := wrapTo et (quotRem signed et a b).2
def opMadw (et : Nat) (a b c : W64) : W64 :=
  let w := wide et (isSigned et)
  wrapTo w (intValue et a * intValue et b + intValue w c)
def opMadl (et : Nat) (a b c : W64) : W64 := wrapTo et (intValue et a * intValue et b + intValue et c)

/-! ## The shapes of the family -/

/-- One register input. -/
def State.int1 (s : State) (c : Cut) (d a : Opnd) (f : W64 → W64) : State :=
  s.write c [a] c.gov d (c.map1 f (c.read s a []))

/-- Two register inputs. -/
def State.int2 (s : State) (c : Cut) (d a b : Opnd) (f : W64 → W64 → W64) : State :=
  s.write c [a, b] c.gov d (c.map2 f (c.read s a []) (c.read s b [a]))

/-- Two register inputs of an affine-closed instruction: U of two U inputs, else by the affine rule, else L (R111). -/
def State.affine2 (s : State) (c : Cut) (d a b : Opnd) (f : W64 → W64 → W64) (aff : RegVal → RegVal → Option RegVal) : State :=
  let x := c.read s a []
  let y := c.read s b [a]
  s.write c [a, b] c.gov d ((if x.isU && y.isU then none else aff x y).getD (c.map2 f x y))

/-- One register input of an affine-closed instruction. -/
def State.affine1 (s : State) (c : Cut) (d a : Opnd) (f : W64 → W64) (aff : RegVal → Option RegVal) : State :=
  let x := c.read s a []
  s.write c [a] c.gov d ((if x.isU then none else aff x).getD (c.map1 f x))

/-- MODE's element type for a cut. -/
def Cut.et (c : Cut) : Nat := modeET c.ctx.mode

/-- An immediate as the 64 bits its sign extends to (R116). -/
def imm64 (i : BitVec 11) : W64 := i.signExtend 64

/-- The affine rule of a shift by a uniform amount (R111): k of w or more gives U zero. -/
def Cut.affineShl (c : Cut) (x : RegVal) (k : Nat) : Option RegVal :=
  if width c.et ≤ k then some (uVal 0) else c.affineMul c.et x (2 ^ k : Nat)

/-! ## op7 0x10 (R112) -/

def execAdd (d a b : Opnd) (s : State) := operate (.add d a b) s fun c => s.affine2 c d a b (opAdd c.et) (c.affineAdd c.et false)
def execSub (d a b : Opnd) (s : State) := operate (.sub d a b) s fun c => s.affine2 c d a b (opSub c.et) (c.affineAdd c.et true)
def execAnd (d a b : Opnd) (s : State) := operate (.and d a b) s fun c => s.int2 c d a b (opAnd c.et)
def execOr (d a b : Opnd) (s : State) := operate (.or d a b) s fun c => s.int2 c d a b (opOr c.et)
def execXor (d a b : Opnd) (s : State) := operate (.xor d a b) s fun c => s.int2 c d a b (opXor c.et)
def execAndn (d a b : Opnd) (s : State) := operate (.andn d a b) s fun c => s.int2 c d a b (opAndn c.et)
def execShl (d a b : Opnd) (s : State) := operate (.shl d a b) s fun c =>
  s.affine2 c d a b (opShl c.et) fun x y => if y.isU then c.affineShl x (amount y.base) else none
def execShr (d a b : Opnd) (s : State) := operate (.shr d a b) s fun c => s.int2 c d a b (opShr c.et)
def execSar (d a b : Opnd) (s : State) := operate (.sar d a b) s fun c => s.int2 c d a b (opSar c.et)
def execRol (d a b : Opnd) (s : State) := operate (.rol d a b) s fun c => s.int2 c d a b (opRol c.et)
def execMin (d a b : Opnd) (s : State) := operate (.min d a b) s fun c => s.int2 c d a b (opMin c.et)
def execMax (d a b : Opnd) (s : State) := operate (.max d a b) s fun c => s.int2 c d a b (opMax c.et)
def execMinu (d a b : Opnd) (s : State) := operate (.minu d a b) s fun c => s.int2 c d a b (opMinu c.et)
def execMaxu (d a b : Opnd) (s : State) := operate (.maxu d a b) s fun c => s.int2 c d a b (opMaxu c.et)
def execAbsd (d a b : Opnd) (s : State) := operate (.absd d a b) s fun c => s.int2 c d a b (opAbsd c.et)
def execNeg (d a : Opnd) (s : State) := operate (.neg d a) s fun c =>
  s.affine1 c d a (opNeg c.et) fun x => c.affineMul c.et x (-1)

/-! ## op7 0x11 (R113) -/

def execMul (d a b : Opnd) (s : State) := operate (.mul d a b) s fun c =>
  s.affine2 c d a b (opMul c.et) fun x y =>
    if y.isU then c.affineMul c.et x (intValue c.et y.base)
    else if x.isU then c.affineMul c.et y (intValue c.et x.base) else none
def execMulhi (d a b : Opnd) (s : State) := operate (.mulhi d a b) s fun c => s.int2 c d a b (opMulhi c.et)
def execMulhiu (d a b : Opnd) (s : State) := operate (.mulhiu d a b) s fun c => s.int2 c d a b (opMulhiu c.et)
def execMulw (d a b : Opnd) (s : State) := operate (.mulw d a b) s fun c => s.int2 c d a b (opMulw c.et)
def execMulwu (d a b : Opnd) (s : State) := operate (.mulwu d a b) s fun c => s.int2 c d a b (opMulwu c.et)

/-! ## op7 0x12 (R114) -/

def execClz (d a : Opnd) (s : State) := operate (.clz d a) s fun c => s.int1 c d a (opClz c.et)
def execCtz (d a : Opnd) (s : State) := operate (.ctz d a) s fun c => s.int1 c d a (opCtz c.et)
def execPopc (d a : Opnd) (s : State) := operate (.popc d a) s fun c => s.int1 c d a (opPopc c.et)
def execBrev (d a : Opnd) (s : State) := operate (.brev d a) s fun c => s.int1 c d a (opBrev c.et)
def execBswap (d a : Opnd) (s : State) := operate (.bswap d a) s fun c => s.int1 c d a (opBswap c.et)
def execBfe (d a b : Opnd) (s : State) := operate (.bfe d a b) s fun c => s.int2 c d a b (opBfe c.et)
def execBfeu (d a b : Opnd) (s : State) := operate (.bfeu d a b) s fun c => s.int2 c d a b (opBfeu c.et)
def execBfi (d a b : Opnd) (s : State) := operate (.bfi d a b) s fun c =>
  s.write c [a, b, d] c.gov d (c.map3 (opBfi c.et) (c.read s a []) (c.read s b [a]) (c.read s d [a, b]))

/-! ## op7 0x13 (R115) -/

def execAddw (d a b : Opnd) (s : State) := operate (.addw d a b) s fun c => s.int2 c d a b (opAddw c.et)
def execAddwu (d a b : Opnd) (s : State) := operate (.addwu d a b) s fun c => s.int2 c d a b (opAddwu c.et)
def execSubw (d a b : Opnd) (s : State) := operate (.subw d a b) s fun c => s.int2 c d a b (opSubw c.et)
def execAccw (d a b : Opnd) (s : State) := operate (.accw d a b) s fun c => s.int2 c d a b (opAccw c.et)
def execAccwu (d a b : Opnd) (s : State) := operate (.accwu d a b) s fun c => s.int2 c d a b (opAccwu c.et)
def execSatadd (d a b : Opnd) (s : State) := operate (.satadd d a b) s fun c => s.int2 c d a b (opSatadd c.et)
def execSatsub (d a b : Opnd) (s : State) := operate (.satsub d a b) s fun c => s.int2 c d a b (opSatsub c.et)
def execNarrow (d a : Opnd) (s : State) := operate (.narrow d a) s fun c =>
  s.int1 c d a (opNarrow (modeSAT c.ctx.mode) c.et)
def execSext (d a : Opnd) (s : State) := operate (.sext d a) s fun c => s.int1 c d a (opSext c.et)
def execZext (d a : Opnd) (s : State) := operate (.zext d a) s fun c => s.int1 c d a (opZext c.et)
/-- `MOV` copies all 64 bits with the form (R115). -/
def execMov (d a : Opnd) (s : State) := operate (.mov d a) s fun c => s.write c [a] c.gov d (c.read s a [])
/-- `SEL` has the form of a or b where p[FP] is uniform, as R115 says of it, and is L otherwise; R111 and R171 give L there where a or b
is P (DESIGN CHOICE, log 96). -/
def execSel (d a b : Opnd) (s : State) := operate (.sel d a b) s fun c =>
  let x := c.read s a []
  let y := c.read s b [a]
  let n := modeFP c.ctx.mode
  s.write c [a, b] c.gov d (match c.pred n with
    | .uni true => x
    | .uni false => y
    | _ => c.overLanes fun i => if c.predAt n i then c.valAt x i else c.valAt y i)

/-! ## Immediates and constants (R116, R117) -/

/-- `ADDI` adds the immediate itself, so the affine test uses it unread (R111, R116). -/
def execAddi (d a : Opnd) (i : BitVec 11) (s : State) := operate (.addi d a i) s fun c =>
  s.affine1 c d a (fun x => wrapTo c.et (intValue c.et x + i.toInt)) fun x =>
    match c.contrib c.et x with
    | some p => c.affineP c.et (p.base + imm64 i) p.sx p.sy p.sz fun it => c.cornerValue c.et x it + i.toInt
    | none => none
def execAndi (d a : Opnd) (i : BitVec 11) (s : State) := operate (.andi d a i) s fun c => s.int1 c d a (opAnd c.et · (imm64 i))
def execOri (d a : Opnd) (i : BitVec 11) (s : State) := operate (.ori d a i) s fun c => s.int1 c d a (opOr c.et · (imm64 i))
def execXori (d a : Opnd) (i : BitVec 11) (s : State) := operate (.xori d a i) s fun c => s.int1 c d a (opXor c.et · (imm64 i))
def execShli (d a : Opnd) (i : BitVec 11) (s : State) := operate (.shli d a i) s fun c =>
  s.affine1 c d a (shlBy c.et · i.toNat) fun x => c.affineShl x i.toNat
def execShri (d a : Opnd) (i : BitVec 11) (s : State) := operate (.shri d a i) s fun c => s.int1 c d a (shrBy c.et · i.toNat)
def execSari (d a : Opnd) (i : BitVec 11) (s : State) := operate (.sari d a i) s fun c => s.int1 c d a (sarBy c.et · i.toNat)
def execMuli (d a : Opnd) (i : BitVec 11) (s : State) := operate (.muli d a i) s fun c =>
  s.affine1 c d a (fun x => wrapTo c.et (intValue c.et x * i.toInt)) fun x => c.affineMul c.et x i.toInt
def execMovx (d : Opnd) (i : BitVec 18) (s : State) := operate (.movx d i) s fun c =>
  s.write c [d] c.gov d (c.map1 (opMovx i) (c.read s d []))
def execMovi (d : Opnd) (i : BitVec 18) (s : State) := operate (.movi d i) s fun c => s.write c [] c.gov d (uVal (i.signExtend 64))

/-! ## Division (R118) -/

/-- A division: quotient to `d` and `l0`, remainder to `l1`; a zero divisor sets DZ in the lanes that perform (R76, R118). -/
def State.divide (s : State) (c : Cut) (signed : Bool) (la : Nat) (d a b : Opnd) : State :=
  let x := c.read s a []
  let y := c.read s b [a]
  let dz := fun (v : W64) => if lowBits c.et v = 0 then flagDZ else 0
  let fls := if x.isU && y.isU then [dz y.base] else (List.range 32).map fun i => dz (c.valAt y i)
  s.writeLong c [a, b] d la (c.map2 (opQuot signed c.et) x y) (some (c.map2 (opRem signed c.et) x y)) fls

def execDiv (l : BitVec 4) (d a b : Opnd) (s : State) := operate (.div l d a b) s fun c => s.divide c true l.toNat d a b
def execDivu (l : BitVec 4) (d a b : Opnd) (s : State) := operate (.divu l d a b) s fun c => s.divide c false l.toNat d a b

/-! ## Four-operand multiply-add (R119) -/

/-- Three register inputs. -/
def State.int3 (s : State) (c : Cut) (d a b e : Opnd) (f : W64 → W64 → W64 → W64) : State :=
  s.write c [a, b, e] c.gov d (c.map3 f (c.read s a []) (c.read s b [a]) (c.read s e [a, b]))

def execMadw (d a b e : Opnd) (s : State) := operate (.madw d a b e) s fun c => s.int3 c d a b e (opMadw c.et)
def execMadl (d a b e : Opnd) (s : State) := operate (.madl d a b e) s fun c => s.int3 c d a b e (opMadl c.et)

end Sys2Proof.Machine
end

