-- ==== Sys2Proof/Machine/Pages.lean ====
section
/-! DEFINITION. Page requests: the buffer of a partition (R366, R367) and the page-wait limit (R144). -/

namespace Sys2Proof.Machine

/-- A request for a page, as a PRENT register holds it (R367). -/
def prentOf (asid obj page src : Nat) : W64 :=
  BitVec.ofNat 64 (2 ^ 63 + asid * 2 ^ 50 + obj * 2 ^ 30 + src * 2 ^ 28 + page % 2 ^ 28)

/-- Whether a PRENT entry names a page. -/
def prentNames (e : W64) (asid obj page : Nat) : Bool :=
  bit e 63 && fld e 50 13 == asid && fld e 30 20 == obj && fld e 0 28 == page % 2 ^ 28

/-- Sends an interrupt of the device on a host vector. -/
def State.interrupt (s : State) (vec : Nat) : State := { s with irqs := s.irqs ++ [vec] }

/-- A request of a partition for a page that is not resident (R366): 1 where it coalesces or takes an entry, 2 where the buffer
is full and DROPPED is set. -/
def State.pageRequest (s : State) (part asid obj page src : Nat) : Nat × State :=
  let used := (List.range 8).filter fun k => bit (s.reg (regPrent part k)) 63
  if used.any fun k => prentNames (s.reg (regPrent part k)) asid obj page then (1, s)
  else match lowestFree 0 8 used with
    | some k =>
      let s := s.setReg (regPrent part k) (prentOf asid obj page src)
      let s := s.setField (regPrstat part) 0 4 (used.length + 1)
      (1, if used.isEmpty then s.interrupt (s.field (regPrctl part) 0 16) else s)
    | none => (2, (s.setField (regPrstat part) 63 1 1).countUp (regPrstat part) 16 16 1)

/-- The page-wait limit of a partition, in cycles (R367). -/
def waitLimit (s : State) (part : Nat) : Nat := Nat.max 1 (s.field (regPrctl part) 32 16) * Config.cyclesPerUs

/-- The replay-all count of a partition (R367). -/
def replayGen (s : State) (part : Nat) : Nat := s.field (regPrstat part) 32 16

/-- Whether the page of a pointer is resident; the page of a remote object counts as resident (R363). -/
def pageResident (s : State) (u : TlbUnit) (asid : Nat) (ptr : W64) : Bool := (xlat s u asid ptr).loc.isSome

/-- The page index of a pointer in its object. -/
def pageOf (s : State) (u : TlbUnit) (asid : Nat) (ptr : W64) : Nat :=
  offOf ptr / pageSize ((xlat s u asid ptr).ent.any (·.large))

/-- Requests the page of a pointer unless it is resident: status 0, 1 or 2 (R143, R366). -/
def State.request (s : State) (u : TlbUnit) (part asid : Nat) (ptr : W64) (src : Nat) : Nat × State :=
  if pageResident s u asid ptr then (0, s)
  else (s.xlatted u asid ptr).pageRequest part asid (objOf ptr) (pageOf s u asid ptr) src

end Sys2Proof.Machine
end

