-- ==== Sys2Proof/Machine/Reports.lean ====
section
/-! DEFINITION. Communicator slots and the reports that stop a collective (R287, R295, R298): what a member puts on the fabric
when an operation fails. -/

namespace Sys2Proof.Machine

/-! ## Slots and operations -/

/-- A communicator slot that nothing has installed (R335). -/
def Comm.free (cid : Nat) : Comm :=
  { cid := cid, gen := 0, live := false, size := 0, rank := 0, members := [], deadline := 0, agw := 0, asid := 0, next := 0
    broken := none, ops := [], words := [], inbox := [], settling := [] }

/-- A slot by its number. -/
def State.commOf (s : State) (cid : Nat) : Comm := (s.comms.find? (·.cid == cid)).getD (Comm.free cid)

/-- Stores a slot. -/
def State.putComm (s : State) (k : Comm) : State :=
  { s with comms := if s.comms.any (·.cid == k.cid) then s.comms.map fun (d : Comm) => if d.cid = k.cid then k else d
                    else s.comms ++ [k] }

/-- An operation of a slot by its number among the engine jobs. -/
def Comm.op (k : Comm) (id : Nat) : Option CollOp := k.ops.find? (·.id == id)

/-- Stores an operation of a slot. -/
def State.putOp (s : State) (cid : Nat) (o : CollOp) : State :=
  let k := s.commOf cid
  s.putComm { k with ops := k.ops.map fun (d : CollOp) => if d.id = o.id then o else d }

/-- The slot that holds an operation. -/
def State.commWith (s : State) (id : Nat) : Option Comm := s.comms.find? fun k => k.ops.any (·.id == id)

/-- The operation of the slot's current generation with a sequence number. -/
def Comm.opSeq (k : Comm) (seq : Nat) : Option CollOp := k.ops.find? fun o => o.seq == seq && o.gen == k.gen && !o.stale

/-! ## The fabric (R292, R298) -/

/-- What travels between members for an operation: 1 a member's card fields, 2 a chunk of data, 3 the notice that a barrier was
reached, 4 a completion notice, 5 a report, 6 the arbiter's word. -/
def State.tell (s : State) (k : Comm) (seq rank tag : Nat) (args : List Nat) (data : List Byte) : State :=
  let m := k.members.getD rank 0
  s.send ((asidPart s k.asid).getD 0) ⟨fld m 48 16, tag, fld m 40 8, seq, k.gen :: k.rank :: args, data⟩

/-- Tells every other member, in ascending rank order. -/
def State.tellAll (s : State) (k : Comm) (seq tag : Nat) (args : List Nat) (data : List Byte) : State :=
  ((List.range k.size).filter (· != k.rank)).foldl (fun s r => s.tell k seq r tag args data) s

/-- Whether one sequence number follows another; they count modulo 2^24 (R294). -/
def seqAfter (a b : Nat) : Bool := a != b && decide ((a + 2 ^ 24 - b) % 2 ^ 24 < 2 ^ 23)

/-- Whether the operation of a sequence number has been issued on this member. -/
def Comm.assigned (k : Comm) (seq : Nat) : Bool := seqAfter k.next seq

/-! ## Status words (R297) -/

/-- Why an operation ends aborted (R297). -/
def reasonTIMEOUT : Nat := 1
def reasonMISMATCH : Nat := 2
def reasonCANCEL : Nat := 3
def reasonDATAERR : Nat := 4
def reasonRESET : Nat := 5
def reasonBROKEN : Nat := 6
def reasonSTALE : Nat := 7

/-- A status word (R297). -/
def statusWord (state reason : Nat) (isolated : Bool) (rank seq : Nat) : W64 :=
  BitVec.ofNat 64 (state * 2 ^ 62 + reason * 2 ^ 56 + (if isolated then 2 ^ 55 else 0) + rank % 2 ^ 16 * 2 ^ 32 + seq % 2 ^ 24)

/-- An abort breaks a slot's generation: every later operation of it that is under way ends BROKEN (R299). -/
def State.breakGen (s : State) (cid seq rank : Nat) : State :=
  let k := s.commOf cid
  let broken := k.broken.getD (seq, rank)
  let end_ := fun (p : CollOp) =>
    if p.gen = k.gen ∧ !p.stale ∧ p.word.isNone ∧ seqAfter p.seq broken.1 then
      { p with word := some (statusWord 2 reasonBROKEN false broken.2 p.seq), stopped := true }
    else p
  s.putComm { k with broken := some broken, ops := k.ops.map end_ }

/-- Whether a status word is that of an abort that breaks its generation (R299). -/
def breaks (word : W64) : Bool := fld word 62 2 == 2 && fld word 56 6 != reasonSTALE

/-- An operation ends on this member with a word, unless it has one (R297), and an abort breaks its generation (R299). -/
def State.endOp (s : State) (cid id : Nat) (word : W64) : State :=
  let k := s.commOf cid
  match k.op id with
  | none => s
  | some o =>
    let t := if o.word.isSome then s else s.putOp cid { o with word := some word, stopped := true }
    if breaks word && o.gen == k.gen then t.breakGen cid o.seq (fld word 32 16) else t

/-! ## Reports (R295, R298) -/

/-- The least report by reason and then rank (R298). -/
def leastReport (rs : List Report) : Option Report :=
  rs.foldl (fun best r => if r.reason = 0 then best else match best with
    | some b => if r.reason < b.reason ∨ (r.reason = b.reason ∧ r.failrank < b.failrank) then some r else some b
    | none => some r) none

/-- Whether the arbiter of a slot holds a report, or "none", from every member (R298). -/
def Comm.allReported (k : Comm) (rs : List Report) : Bool := (List.range k.size).all fun r => rs.any (·.rank == r)

/-- Stores how an abort stands whose operation is not under way here. -/
def Comm.settle (k : Comm) (x : Settling) : Comm :=
  { k with settling := k.settling.filter (·.seq != x.seq) ++ [x] }

/-- An abort is settled with a word on this member (R298): its operation ends with it, one that has ended breaks its generation
with it, and for one not issued it is kept. -/
def State.settled (s : State) (cid seq : Nat) (w : W64) : State :=
  let k := s.commOf cid
  match k.opSeq seq with
  | some o => s.endOp cid o.id w
  | none =>
    let x := (k.settling.find? (·.seq == seq)).getD ⟨seq, [], s.cycle, none⟩
    if x.word.isSome then s
    else
      let s := s.putComm (k.settle { x with word := some w })
      if k.assigned seq && breaks w then s.breakGen cid seq (fld w 32 16) else s

/-- The arbiter chooses the least report and sends its word to every member (R298 step 3). -/
def State.arbitrate (s : State) (cid seq : Nat) (rs : List Report) : State :=
  match leastReport rs with
  | none => s
  | some r =>
    let w := statusWord 2 r.reason false r.failrank seq
    (s.tellAll (s.commOf cid) seq 6 [w.toNat] []).settled cid seq w

/-- A member makes a report on an operation that has not ended: it sends it to every member, stops its schedule, and, at rank 0, may
decide (R298). -/
def State.report (s : State) (cid id reason failrank : Nat) : State :=
  let k := s.commOf cid
  match k.op id with
  | none => s
  | some o =>
    let r : Report := ⟨o.rank, reason, failrank⟩
    if o.word.isSome || decide (r ∈ o.reports) then s
    else
      let o : CollOp := { o with
        own := some (o.own.getD r), reports := o.reports ++ [r], stopped := true, firstAt := if o.stopped then o.firstAt else s.cycle }
      let t := (s.putOp cid o).tellAll k o.seq 5 [reason, failrank] []
      if o.rank = 0 && k.allReported o.reports then t.arbitrate cid o.seq o.reports else t

/-- An engine's operation on SRC or DST failed: the member reports DATAERR naming itself (R295). One that was done but for writes that
a commit had still to make is not (R292, R302). -/
def State.failOp (s : State) (id : Nat) : State :=
  match s.commWith id with
  | none => s
  | some k => match k.op id with
    | none => s
    | some o =>
      let t : State := { s with storeQ := s.storeQ.filter (·.job != some id) }
      let t := if o.stage = 0 ∧ o.word.any (fun w => fld w 62 2 == 1) then t.putOp k.cid { o with word := none } else t
      t.report k.cid id reasonDATAERR o.rank

end Sys2Proof.Machine
end

