-- ==== Sys2Proof/Machine/Stores.lean ====
section
/-! DEFINITION. Writes from their issue to their homes: how stores and atomics enter the store queue or await the quantum commit
(R134, R140, R38), how one performs at its home (R190), and how one fails there (R128). -/

namespace Sys2Proof.Machine

/-! ## Issue -/

/-- A write that an instruction makes: where its sector or element lies, what it does there, and the item and address of its
lowest lane. -/
structure Write where
  loc : Loc
  op : WriteOp
  il : Nat
  ptr : W64
  deriving DecidableEq, Repr

/-- The sector that holds a location, as a location of its first byte. -/
def sectorLoc (l : Loc) : Loc := locAt l (locOff l / 128 * 128)

/-- One byte that a store writes: where, its value, the item of its lane, and its pointer. -/
structure StoredByte where
  loc : Loc
  val : Byte
  il : Nat
  ptr : W64
  deriving DecidableEq, Repr

/-- Adds a byte to the write of its sector, or begins one; a later byte of the same address stands after the earlier one, so it
prevails (R135). -/
def addByte (b : StoredByte) : List Write → List Write
  | [] => [⟨sectorLoc b.loc, .bytes [(locOff b.loc % 128, b.val)], b.il, b.ptr⟩]
  | w :: ws =>
    if w.loc = sectorLoc b.loc then
      match w.op with
      | .bytes bs => { w with op := .bytes (bs ++ [(locOff b.loc % 128, b.val)]) } :: ws
      | .atomic _ _ _ => w :: addByte b ws
    else w :: addByte b ws

/-- The writes of one store: one for each 128-byte sector (R135). -/
def gather (bs : List StoredByte) : List Write := bs.foldl (fun ws b => addByte b ws) []

/-- One lane of an atomic instruction: where its element lies, its lane, and its address. -/
structure AtomAt where
  loc : Loc
  lane : AtomLane
  ptr : W64
  deriving DecidableEq, Repr

/-- Adds a lane to the request of its element, or begins one (R140). -/
def addAtom (aop et : Nat) (a : AtomAt) : List Write → List Write
  | [] => [⟨a.loc, .atomic aop et [a.lane], a.lane.il, a.ptr⟩]
  | w :: ws =>
    if w.loc = a.loc then
      match w.op with
      | .atomic p t ls => { w with op := .atomic p t (ls ++ [a.lane]) } :: ws
      | .bytes _ => w :: addAtom aop et a ws
    else w :: addAtom aop et a ws

/-- The writes of one atomic instruction: one for each element. -/
def combine (aop et : Nat) (xs : List AtomAt) : List Write := xs.foldl (fun ws a => addAtom aop et a ws) []

/-- The store queue entry of a write of a cut. -/
def Cut.storeOf (s : State) (c : Cut) (w : Write) (id scope : Nat) (release : Bool) (outst job : Option Nat) : Store :=
  { id := id, seq := s.nextSeq, uid := c.uid, anc := c.anc, cutid := c.cutid, lid := c.lid, asid := (s.launchOf c.lid).asid
    bench := c.bench, scope := scope, release := release
    order := if job.isSome then [] else c.storeOrder s release scope
    loc := w.loc, op := w.op, outst := outst, job := job, held := false, il := w.il, ptr := w.ptr, pc := c.ctx.pc }

/-- An effect of a cut that awaits the quantum commit (R38). -/
def State.queueEffect (s : State) (c : Cut) (il : Nat) (eff : QEffect) : State :=
  { s with
    nextSeq := s.nextSeq + 1
    qeff := s.qeff ++ [⟨c.lid, c.uid, c.cutid, s.nextSeq, il, c.ctx.pc, c.bench, (s.launchOf c.lid).asid, eff⟩] }

/-- The writes of one instruction issue, with one place in program order: to the store queue of the Bench, or to await the
commit in quantum mode (R134, R38). -/
def State.issueWrites (s : State) (c : Cut) (ws : List Write) (release : Bool) (outst : Option Nat) : State :=
  let sc := modeSC c.ctx.mode
  let recs := (List.range ws.length).zip ws |>.map fun p => c.storeOf s p.2 (s.nextId + p.1) sc release outst none
  let s : State := { s with nextId := s.nextId + ws.length }
  if c.quantum s then
    let s : State := { s with
      qeff := s.qeff ++ recs.map fun w =>
        ⟨c.lid, c.uid, c.cutid, s.nextSeq, w.il, c.ctx.pc, c.bench, (s.launchOf c.lid).asid, .store w⟩ }
    { s with nextSeq := s.nextSeq + 1 }
  else { s with storeQ := s.storeQ ++ recs, nextSeq := s.nextSeq + 1 }

/-! ## Atomics (R138 to R140) -/

/-- The new value of an element from its old value, an operand and an expected value (R138). -/
def atomNew (aop et : Nat) (m v e : W64) : W64 :=
  match aop with
  | 0 => opAdd et m v
  | 1 => opMin et m v
  | 2 => opMax et m v
  | 3 => opMinu et m v
  | 4 => opMaxu et m v
  | 5 => opAnd et m v
  | 6 => opOr et m v
  | 7 => opXor et m v
  | 8 => extend et v.toNat
  | 9 => if lowBits et m = lowBits et e then extend et v.toNat else extend et m.toNat
  | _ => extend et (roundTo et (rne false) (numAdd 0 (value et m) (value et v)).1).1

/-- The lanes of one request in ascending order: what each returns, and the value they leave (R140). -/
def atomLanes (aop et : Nat) : List AtomLane → W64 → List (Nat × W64) × W64
  | [], m => ([], m)
  | a :: rest, m =>
    let r := atomLanes aop et rest (atomNew aop et m a.opnd a.expect)
    ((a.lane, m) :: r.1, r.2)

/-- The bytes of an element of ET. -/
def elemBytes (et : Nat) : Nat := width et / 8

/-- Applies a write to bytes that begin at a location: `bytes` overlays them, an atomic computes on them. -/
def WriteOp.onBytes (op : WriteOp) (at_ : Loc) (base : Loc) (bs : List Byte) : List Byte :=
  if locSpace at_ ≠ locSpace base then bs
  else match op with
    | .bytes xs => xs.foldl (fun ys x =>
        let a := locOff at_ + x.1
        if locOff base ≤ a then ys.set (a - locOff base) x.2 else ys) bs
    | .atomic aop et ls =>
      let n := elemBytes et
      if locOff base ≤ locOff at_ ∧ locOff at_ + n ≤ locOff base + bs.length then
        let o := locOff at_ - locOff base
        let m := extend et (natLE ((bs.drop o).take n))
        let new := bytesLE n (lowBits et (atomLanes aop et ls m).2)
        bs.take o ++ new ++ bs.drop (o + n)
      else bs

/-- How many bytes from its location a write may touch. -/
def WriteOp.reach (op : WriteOp) : Nat :=
  match op with
  | .bytes _ => 128
  | .atomic _ et _ => elemBytes et

/-- Whether a write touches a byte of `n` bytes at a location. -/
def Store.touches (w : Store) (l : Loc) (n : Nat) : Bool :=
  match w.op with
  | .bytes bs => bs.any fun x => locOverlap (locAt w.loc (locOff w.loc + x.1)) 1 l n
  | .atomic _ et _ => locOverlap w.loc (elemBytes et) l n

/-- Whether two writes touch a byte in common. -/
def Store.meets (w x : Store) : Bool :=
  match x.op with
  | .bytes bs => bs.any fun b => w.touches (locAt x.loc (locOff x.loc + b.1)) 1
  | .atomic _ et _ => w.touches x.loc (elemBytes et)

/-! ## Late faults (R128, R341) -/

/-- The lane of an item in the layout of TLANES: that of the live cut which holds it. -/
def itemLanes (s : State) (lid il : Nat) : W64 :=
  match s.cuts.find? fun c => c.lid == lid && c.positions.any fun i => c.ilAt s i == il with
  | some c => if c.isPattern then 1#64 <<< 63 else lanesWord (c.positions.filter fun i => c.ilAt s i == il)
  | none => 0

/-- A write fails at its home: it is dropped, and a late fault of its maker is held (R128, R341). -/
def State.lateStore (s : State) (w : Store) (causes : Nat) : State :=
  s.holdLate w.lid w.cutid ⟨w.uid, w.seq, w.il, BitVec.ofNat 64 causes, w.ptr, itemLanes s w.lid w.il, w.pc,
    if w.op.isAtomic then 1 else 0⟩

/-- Fills in what an atomic or a remote access returned, in every cut that awaits it. -/
def State.fillReads (s : State) (id : Nat) (f : LaneRead → LaneRead) : State :=
  { s with cuts := s.cuts.map fun (c : Cut) => { c with outst := c.outst.map fun (o : Outst) =>
      if o.id = id then
        { o with what := match o.what with
          | .load l1 a size n reads => .load l1 a size n (reads.map f)
          | .atomic size reads => .atomic size (reads.map f)
          | p => p }
      else o } }

/-- What the lanes of an atomic receive (R139). -/
def State.fillAtomic (s : State) (w : Store) (et : Nat) (olds : List (Nat × W64)) : State :=
  match w.outst with
  | none => s
  | some id => s.fillReads id fun r =>
    match olds.find? (·.1 == r.lane) with
    | some (_, m) => if r.loc = w.loc then { r with got := some (bytesLE (elemBytes et) m.toNat) } else r
    | none => r

/-- An atomic that failed at its home returns zero to its lanes. -/
def State.fillFailed (s : State) (w : Store) : State :=
  match w.op with
  | .atomic _ et ls => s.fillAtomic w et (ls.map fun a => (a.lane, 0))
  | .bytes _ => s

/-! ## Performing at a home (R190) -/

/-- A message that the device puts on the fabric for a remote access (R363). -/
def remoteMsg (l : Loc) (kind id : Nat) (args : List Nat) (data : List Byte) : FabMsg :=
  match l with
  | .remote fid rasid robj off => ⟨fid, 16 + kind, 0, id, [rasid, robj, off] ++ args, data⟩
  | _ => ⟨0, 16 + kind, 0, id, args, data⟩

/-- What a write tells the remote device (R363). -/
def WriteOp.message (op : WriteOp) : List Nat × List Byte :=
  match op with
  | .bytes bs => (bs.map (·.1), bs.map (·.2))
  | .atomic aop et ls => (aop :: et :: ls.map (·.lane), ls.flatMap fun a => bytesLE 8 a.opnd.toNat ++ bytesLE 8 a.expect.toNat)

/-- The line of a Bench's L1 holds what a store of the Bench writes (R134); an engine's writes reach L2 only (R189). Where the maker
has moved to another Bench, that Bench's older line is evicted, so that the maker's loads see its store (R130; DEDUCED, log 106). -/
def State.storeL1 (s : State) (w : Store) (p : Nat) (bs : List (Nat × Byte)) : State :=
  if w.job.isSome then s
  else
    let t := (s.l1Update w.bench p bs).dropTiles w.bench p
    let away := distinct ((s.cuts.filter fun c => c.isOf w.uid && c.place.bench != w.bench).map (·.place.bench))
    away.foldl (fun t b => t.l1Evict b p) t

/-- A write performs at its home and takes its place in coherence order (R190); a remote one travels to its device (R363). -/
def State.perform (s : State) (w : Store) : State :=
  match w.loc, w.op with
  | .dev p, .bytes bs => (s.devWrite p bs).storeL1 w p bs
  | .dev p, .atomic aop et ls =>
    let m := extend et (homeWord s p (elemBytes et))
    let r := atomLanes aop et ls m
    let new := (List.range (elemBytes et)).zip (bytesLE (elemBytes et) (lowBits et r.2))
    (((s.readAll w.loc (elemBytes et)).devWrite p new).storeL1 w p new).fillAtomic w et r.1
  | .host p, .bytes bs => { s with host := scatter s.host p bs }
  | .host p, .atomic aop et ls =>
    let m := extend et (natLE (hostRead s p (elemBytes et)))
    let r := atomLanes aop et ls m
    let s : State := { s with host := cellsPut s.host p (bytesLE (elemBytes et) (lowBits et r.2)) }
    s.fillAtomic w et r.1
  | .remote _ _ _ _, op =>
    let msg := op.message
    { s.send (s.launchOf w.lid).part (remoteMsg w.loc (if op.isAtomic then 2 else 1) s.nextId msg.1 msg.2) with
      nextId := s.nextId + 1
      remotes := s.remotes ++
        [⟨s.nextId, if op.isAtomic then 2 else 1, w.uid, w.outst, 0, w.loc, w.ptr, [], s.cycle, some w⟩] }

/-- The running signature of a flushed attempt holds back every cache-side write and other drain that hits it (R276). -/
def flushHolds (s : State) (sec : Nat) : Bool :=
  s.cuts.any fun c => c.onMill && c.stack == stackOf (sec * 128)
    && (if c.sec.restore.isSome then c.sec.state == .flushed else c.sec.state != .out && (s.assayOf c.stack).running == some c.uid)
    && sigHit (sigWidth c.sec.width) (c.sec.prevSig ||| c.sec.rs ||| c.sec.ws) sec

/-- Whether loads that a cut, or one it has become, issued before a write still read bytes that it overwrites. -/
def earlierReads (s : State) (w : Store) : Bool :=
  s.cuts.any fun c => c.isOf w.uid && c.outst.any fun o => decide (o.seq < w.seq) &&
    match o.what with
    | .load _ _ size _ reads => reads.any fun r => r.got.isNone && w.touches r.loc size
    | _ => false

/-- Whether two writes keep their order where they touch a byte in common: those of one Bench, and those of one cut on any (R187). -/
def Store.follows (w x : Store) : Bool :=
  x.job.isNone && (x.bench == w.bench || x.uid == w.uid || decide (x.uid ∈ w.anc)) && x.meets w

/-- Whether a drain that the maker of a write issued before it has still to write a byte of it (R187, R253). -/
def drainAhead (s : State) (w : Store) : Bool :=
  match w.op with
  | .bytes bs => bs.any fun b => drainsMeet s (w.uid :: w.anc) w.seq (locAt w.loc (locOff w.loc + b.1)) 1
  | .atomic _ et _ => drainsMeet s (w.uid :: w.anc) w.seq w.loc (elemBytes et)

/-- Whether a write may perform now: behind every earlier overlapping write of its Bench or cut and every earlier overlapping load of
its cut, and behind the covered stores of the fences it follows; a flushed attempt holds it back (R130, R187, R188, R276). An
engine job's writes are ordered by its edges alone (R193, R227). -/
def mayPerform (s : State) (w : Store) : Bool :=
  let before := s.storeQ.takeWhile (·.id != w.id)
  !w.held && (w.job.isSome || (!before.any w.follows && !earlierReads s w && !drainAhead s w))
    && w.order.all (fenceDone s)
    && !(match w.loc with | .dev p => flushHolds s (sectorOf p) | _ => false)

/-- Whether a write meets an uncorrectable error at its home: an atomic reads its element there (R128). -/
def homeFails (s : State) (w : Store) : Bool :=
  w.op.isAtomic && (match w.loc with | .dev p => errored s p | _ => false)

/-- An engine job fails, its first failure kept: a late fault of its cut names the address (R228, R341). A collective reports
DATAERR instead (R295). -/
def State.failJob (s : State) (id status : Nat) (addr : W64) : State :=
  match s.jobs.find? (·.id == id) with
  | none => s.failOp id
  | some j =>
    if j.status ≠ 0 then s
    else
      let s : State := { s with
        jobs := s.jobs.map fun (k : Job) => if k.id = id then { k with status := status } else k
        storeQ := s.storeQ.filter (·.job != some id)
        scratchW := s.scratchW.filter (·.job != id) }
      s.holdLate j.lid j.cutid ⟨j.uid, j.seq, j.il, BitVec.ofNat 64 causeLSF, addr, itemLanes s j.lid j.il, j.pc, 2⟩

/-- A write in flight is dropped: a late fault of its maker (R128), or the failure of its job (R228). -/
def State.failStore (s : State) (w : Store) : State :=
  let t : State := { (if homeFails s w then s.readAll w.loc 1 else s) with storeQ := s.storeQ.filter (·.id != w.id) }
  match w.job with
  | some j => t.failJob j 1 w.ptr
  | none => (t.lateStore w causeLSF).fillFailed w

/-- Whether the page of a write in flight is no longer where it was translated to (R365). -/
def storeMoved (s : State) (w : Store) : Bool :=
  match (walk s (.bench w.bench) w.asid w.ptr).loc with
  | some l => !(locSpace l == locSpace w.loc && locOff l / 128 == locOff w.loc / 128)
  | none => true

/-- Whether a write is one of a Carter job's data, which waits for its page (R128, R228). -/
def Store.ofCarter (s : State) (w : Store) : Bool := s.jobs.any fun j => w.job == some j.id

/-- A write of a Carter job whose page has moved goes to where it is now; where it is not resident the job asks for it, and waits
(R228). -/
def State.rehome (s : State) (w : Store) : State :=
  match (walk s (.bench w.bench) w.asid w.ptr).loc with
  | some l => { s with storeQ := s.storeQ.map fun (x : Store) => if x.id = w.id then { x with loc := sectorLoc l } else x }
  | none => match s.jobs.find? fun j => w.job == some j.id with
    | none => s
    | some j =>
      if j.state = .stalled then s
      else
        let part := (s.launchOf j.lid).part
        let t := (s.request (.die j.die) part j.asid w.ptr 1).2
        { t with jobs := t.jobs.map fun (k : Job) =>
            if k.id = j.id then { k with state := .stalled, since := s.cycle, rgen := replayGen s part } else k }

/-- HOME_WRITE: a store or atomic performs at its home. -/
def execHomeWrite (id : Nat) (s : State) : Host.Outcome State Fault Refusal :=
  .next (match s.storeQ.find? (·.id == id) with
    | none => s
    | some w =>
      if !mayPerform s w then s
      else if homeFails s w then s.failStore w
      else if w.ofCarter s && storeMoved s w then s.rehome w
      else ({ s with storeQ := s.storeQ.filter (·.id != id) } : State).perform w)

/-- LATE_STORE_FAULT: firmware has unmapped the page of a write in flight, or an atomic meets an uncorrectable error at its
home; the write is dropped (R128, R365). A Carter job's write waits instead (R228). -/
def execLateStoreFault (id : Nat) (s : State) : Host.Outcome State Fault Refusal :=
  .next (match s.storeQ.find? (·.id == id) with
    | none => s
    | some w =>
      if w.ofCarter s && storeMoved s w then s.rehome w
      else if storeMoved s w || homeFails s w then s.failStore w else s)

end Sys2Proof.Machine
end

