-- ==== Sys2Proof/Machine/Access.lean ====
section
/-! DEFINITION. Loads, stores, atomics, prefetch and page requests (R122 to R145): op7 0x30 to 0x35, 0x38 to 0x3C, 0x3E, 0x3F,
on a Bench and on a Mill (R260, R265, R283). -/

namespace Sys2Proof.Machine

/-! ## The checks that every access makes (R124 to R126) -/

/-- One item's access: its position and its address (R123). -/
structure ItemAcc where
  pos : Nat
  ptr : W64
  deriving DecidableEq, Repr

/-- What one memory instruction asks of each item: the bytes of an element, how many elements, and the rights. -/
structure Ask where
  size : Nat
  elems : Nat
  need : Need
  deriving DecidableEq, Repr

/-- The accesses of the governed items that have not performed already (R125). -/
def Cut.accesses (c : Cut) (addr : Nat → W64) : List ItemAcc :=
  (c.governed.filter fun i => !c.performed i).map fun i => ⟨i, addr i⟩

/-- The cause of one access (R124). -/
def ItemAcc.cause (s : State) (c : Cut) (q : Ask) (a : ItemAcc) : Nat :=
  accessCause s c.unit (c.asid s) a.ptr (q.size * q.elems) q.size q.need

/-- Records the translations of accesses: the TLBs fill, and walk errors are recorded (R360, R370). -/
def State.translated (s : State) (c : Cut) (q : Ask) (as : List ItemAcc) : State :=
  as.foldl (fun s a => (List.range q.elems).foldl (fun s j => s.xlatted c.unit (c.asid s) (ptrAdd a.ptr (j * q.size))) s) s

/-- Where each element of an access lies; `none` where the item is absent (R126). -/
def ItemAcc.locs (s : State) (c : Cut) (q : Ask) (a : ItemAcc) : Option (List Loc) :=
  accessLocs s c.unit (c.asid s) a.ptr q.size q.elems

/-- Whether every element of an access may be made by a Mill (R260). -/
def ItemAcc.millMay (s : State) (c : Cut) (q : Ask) (a : ItemAcc) : Bool :=
  (List.range q.elems).all fun j => Machine.millMay s c (ptrAdd a.ptr (j * q.size))

/-- What the checks make of a memory instruction before any item performs: `none` where it goes on. In order: R124, with a
pattern cut materializing for any fault (R136); on a Mill, the memory it may not access (R260); the watchpoints (R392). `lanes`
names the lanes of a fault, given those that fail. -/
def checkAccess (s : State) (c : Cut) (q : Ask) (load store : Bool) (as : List ItemAcc) (lanes : List Nat → List Nat) : Option State :=
  let bad := as.filter fun a => a.cause s c q != 0
  match bad with
  | a :: _ =>
    if c.isPattern then some (s.lanesOnly c)
    else
      let causes := bad.foldl (fun m b => m ||| b.cause s c q) 0
      some ((s.translated c q as).stop c (c.cause causes a.ptr (lanesWord (lanes (bad.map (·.pos))))))
  | [] =>
    if c.onMill && !as.all fun a => a.millMay s c q then some (s.returnTrap c 4)
    else match c.watchpoint s load store (as.map fun a => (a.ptr, q.size * q.elems)) with
      | some (d, k) => some (s.triggerAt c d 2 k)
      | none => none

/-- What stops a cut with absent items: ABS at those lanes, with the lanes that performed in TDONE (R127). -/
def Cut.absent (c : Cut) (a : ItemAcc) (absent performed : List Nat) : TrapPend :=
  { c.cause causeABS a.ptr (lanesWord absent) with done := c.replay ||| lanesWord performed }

/-! ## Mill sections around one access (R272, R283) -/

/-- Performs an access of a Mill cut in the open section, or as the implicit section of one instruction, whose commit it then
offers (R283). -/
def State.inSection (s : State) (c : Cut) (perform : State → Cut → State) : State :=
  let offer := fun (s : State) => match s.cutOf c.uid with
    | some d => if d.onMill && d.sec.restore.isSome && d.sec.state != .out && d.wait == .none then s.offer d else s
    | none => s
  let start := fun (y : Section) =>
    let s := s.putSec c y c.localMem
    offer (perform s { c with sec := y })
  if c.sec.state = .out then start ((c.sec.opened c.ctx.pc 0 3 (some c.uid)).begin s c.stack c.ctx)
  else if c.sec.implicit.isSome ∧ c.sec.restore.isNone then
    if (c.sec.nextFlushed || c.sec.replays == c.sec.limit) && !mayFlush s c then s.askFlush c
    else start (c.sec.begin s c.stack c.ctx)
  else perform s c

/-- Stores the section of a Mill cut, and ends an attempt that has overflowed with a return trap (R273). -/
def State.sectionAfter (s : State) (c : Cut) (y : Section) (go : State → Cut → State) : State :=
  let s := s.putSec c y c.localMem
  let k : Cut := { c with sec := y }
  if y.overflows then s.returnTrap k 2 else go s k

/-! ## The writes that a cut sees before they perform -/

/-- The writes that a cut's load sees before they perform: the stores in its Bench's store queue, and its own earlier ones in any; in
quantum mode its own effects of the quantum (R177, R130, R38). A queued atomic has no value before it performs (`writesAhead`). -/
def seenWrites (s : State) (c : Cut) (seq : Nat) : List (Loc × WriteOp) :=
  (s.storeQ.filter fun w => w.job.isNone && !c.onMill && !w.op.isAtomic
      && (if w.uid ∈ c.lineage then decide (w.seq < seq) else w.bench == c.bench)).map (fun w => (w.loc, w.op))
    ++ s.qeff.filterMap fun q =>
      match q.eff with
      | .store w => if decide (q.uid ∈ c.lineage) && decide (q.seq < seq) then some (w.loc, w.op) else none
      | _ => none

/-- Whether a read of `n` bytes waits for earlier writes of its cut or its Bench to perform: atomics, whose values their homes make
(R177, R190), any write of another device's object, which only that device can apply, and drains that its cut's Looms have still to make
(R130, R253). -/
def writesAhead (s : State) (c : Cut) (seq : Nat) (l : Loc) (n : Nat) : Bool :=
  let far := match l with | .remote _ _ _ _ => true | _ => false
  let mine := fun (w : Store) => w.job.isNone && !c.onMill && (decide (w.uid ∈ c.lineage) || w.bench == c.bench)
    && decide (w.seq < seq) && (far || w.op.isAtomic) && w.touches l n
  s.storeQ.any mine || (s.remotes.any fun r => r.store.any mine) || drainsMeet s c.lineage seq l n

/-- Whether a cut finds an uncorrectable error at an address: none where a write of the whole sector that it sees will clear the poison
(R126, R382). -/
def erroredFor (s : State) (c : Cut) (seq p : Nat) : Bool :=
  errored s p && !((seenWrites s c seq).any fun w => match w.1, w.2 with
    | .dev q, .bytes bs => sectorOf q == sectorOf p && decide ((distinct (bs.map (·.1))).length = 128)
    | _, _ => false)

/-! ## Loads (R129 to R133, R136) -/

/-- What a load is: its elements, destination, path, and whether its inputs are all U. -/
structure LoadOp where
  srcs : List Opnd
  dst : Opnd
  la : Nat
  ask : Ask
  l1 : Bool
  acquire : Bool
  uniform : Bool
  deriving DecidableEq, Repr

/-- Register j of a lane that performed before a trap: what its execution returned, or what the register holds now (R127). -/
def Cut.kept (c : Cut) (dst : Opnd) (j i : Nat) : W64 :=
  match c.part.find? fun p => p.1 == j && p.2.1 == i with
  | some p => p.2.2
  | none => c.valAt (c.oldReg (BitVec.ofNat 7 (dst.toNat + j))) i

/-- The reads of lanes that performed before: their values stand, as 8 bytes. -/
def Cut.keptReads (c : Cut) (dst : Opnd) (elems : Nat) : List LaneRead :=
  (c.governed.filter c.performed).flatMap fun i => (List.range elems).map fun j =>
    ⟨i, j, .dev 0, 0, some (bytesLE 8 (c.kept dst j i).toNat), false⟩

/-- The flag predicate of a load under MODE: `none` where LF is 0 (R126). -/
def Cut.flagPred (c : Cut) : Option Nat := if modeLF c.ctx.mode = 1 then some (modeFP c.ctx.mode) else none

/-- Whether some read waits for another device's reply: then a timeout is raised at the reading instruction, which holds its
cut until every reply has come or is overdue (R296; DEDUCED, log 44). -/
def awaitsReply (reads : List LaneRead) : Bool :=
  reads.any fun r => r.got.isNone && match r.loc with | .remote _ _ _ _ => true | _ => false

/-- The elements of present items, as reads to be bound. -/
def readsOf (s : State) (c : Cut) (q : Ask) (as : List ItemAcc) : List LaneRead :=
  as.flatMap fun a => match a.locs s c q with
    | some ls => (List.range q.elems).map fun j => ⟨a.pos, j, ls.getD j (.dev 0), a.ptr, none, false⟩
    | none => []

/-- What a Mill's read of `n` bytes returns: the section buffer's bytes over DRAM's, or zero where it reads a sector in DRAM that is
errored; and whether it is (R265, R273). -/
def millValue (s : State) (y : Section) (p n : Nat) : List Byte × Bool :=
  let whole := (List.range n).all fun i => (bufGet y.buffer (p + i)).isSome
  if millErrored s p && !whole then (List.replicate n 0, true) else (millBytes s y p n, false)

/-- A Mill's reads, made at once: each sector read from DRAM enters RS, and an errored one returns zero and is recorded
(R265, R270, R273). -/
def State.millReads (s : State) (y : Section) (size : Nat) (reads : List LaneRead) : State × Section × List LaneRead :=
  reads.foldl (fun (acc : State × Section × List LaneRead) r =>
    let p := locOff r.loc
    let s := acc.1.flushTouch acc.2.1 (sectorOf p)
    let got := millValue s acc.2.1 p size
    let whole := (List.range size).all fun i => (bufGet acc.2.1.buffer (p + i)).isSome
    let y := if whole then acc.2.1 else acc.2.1.reads (sectorOf p)
    let s := if got.2 then s.millError p else s
    (s.readFlaw p, y, acc.2.2 ++ [{ r with got := some got.1, errored := got.2 }])) (s, y, [])

/-- The outstanding instruction of a load. -/
def LoadOp.outst (o : LoadOp) (c : Cut) (reads : List LaneRead) (flagged : W32) : Outst :=
  { Outst.of o.dst (modeET c.ctx.mode) o.la (.load o.l1 o.acquire o.ask.size o.ask.elems reads) with
    uniform := o.uniform, flagPred := c.flagPred, flagged := flagged }

/-- An instruction whose read must be seen before the cut goes on becomes outstanding without retiring: lanes that perform
ahead of a trap, or a read where ECC is delivered (R127; DEDUCED, log 44). `pend` is the trap that follows its values; it leaves the
entries of `q` sources for the replay. -/
def State.awaitHere (s : State) (c : Cut) (srcs : List Opnd) (g : Gov) (o : Outst) (pend : Option TrapPend) : State :=
  let s := if pend.isSome then s else s.popAll c srcs
  let c := if pend.isSome then c else c.popped srcs
  let o : Outst := { o with
    id := if o.id = 0 then s.nextId else o.id
    seq := s.nextSeq, pc := c.ctx.pc, gov := g.mask c, whole := g == .all, la := 0
    scope := modeSC c.ctx.mode, piece := true }
  let s : State := { s with nextId := s.nextId + 1, nextSeq := s.nextSeq + 1 }
  s.putCut { c with outst := c.outst ++ [o], pend := pend, wait := if pend.isSome then .trap else .results }

/-- A Mill's load whose every present item is known: it reads at once, and items that are absent flag their lanes or end its attempt
(R260, R265). -/
def State.millLoadGo (s : State) (c : Cut) (o : LoadOp) (flagged : W32) (present absent : List ItemAcc) : State :=
  if !absent.isEmpty && modeLF c.ctx.mode != 1 then s.returnTrap c 4
  else
    let r := s.millReads c.sec o.ask.size (readsOf s c o.ask present)
    let k : Cut := { c with sec := r.2.1 }
    (r.1.putSec k r.2.1 k.localMem).await k o.srcs k.gov (o.outst k (c.keptReads o.dst o.ask.elems ++ r.2.2) flagged)

/-- Whether some read of a pattern cut's load would raise ECC: the cut materializes first (R136). -/
def readsErr (s : State) (c : Cut) (reads : List LaneRead) : Bool :=
  reads.any fun r => match r.loc with | .dev p => r.got.isNone && erroredFor s c s.nextSeq p | _ => false

/-- A load whose every present item is known: it becomes outstanding, and what follows is the delivery of its values. -/
def State.loadGo (s : State) (c : Cut) (o : LoadOp) (present absent : List ItemAcc) : State :=
  let flagging := modeLF c.ctx.mode == 1
  let lanesFor := fun (xs : List ItemAcc) => if o.uniform then c.governed else xs.map (·.pos)
  let flagged := if absent.isEmpty then 0 else if c.isPattern then 1#32 else maskOf 32 (· ∈ lanesFor absent)
  let reads := c.keptReads o.dst o.ask.elems ++ readsOf s c o.ask present
  let delivers := !flagging && eccOn s (c.asid s)
  let go := fun (t : State) => if delivers || awaitsReply reads then t.awaitHere c o.srcs c.gov (o.outst c reads flagged) none
    else t.await c o.srcs c.gov (o.outst c reads flagged)
  if c.onMill then s.millLoadGo c o flagged present absent
  else if c.isPattern && delivers && readsErr s c reads then s.lanesOnly c
  else match absent with
  | [] => go s
  | a :: _ =>
    if flagging then go s
    else if c.isPattern then s.lanesOnly c
    else
      let e := c.absent a (lanesFor absent) (present.map (·.pos))
      if present.isEmpty then s.stop c e
      else s.awaitHere c o.srcs (.some (present.map (·.pos))) (o.outst c (readsOf s c o.ask present) 0) (some e)

/-- Loads of a cut (R129, R133, R136): a uniformly false guard performs none; one made once has a U result; any other
materializes a pattern cut. -/
def State.load (s : State) (c : Cut) (o : LoadOp) (addr : Nat → W64) : State :=
  let o : LoadOp := { o with uniform := o.uniform && c.replay == 0 }
  let all := c.accesses addr
  let as := if o.uniform then all.take 1 else all
  if c.gov = .none then s.write c o.srcs .none o.dst (uVal 0)
  else if c.needsLanes c.gov (if o.uniform then uVal 0 else .lanes []) then s.lanesOnly c
  else match checkAccess s c o.ask true false as (fun bad => if o.uniform then c.governed else bad) with
    | some t => t
    | none =>
      let go := fun (s : State) (c : Cut) =>
        let t := s.translated c o.ask as
        t.loadGo c o (as.filter fun a => (a.locs s c o.ask).isSome) (as.filter fun a => (a.locs s c o.ask).isNone)
      if c.onMill then s.inSection c go else go s c

/-- The address a plus b of an access (R123). -/
def Cut.sumAddr (c : Cut) (x y : RegVal) (i : Nat) : W64 := c.valAt x i + c.valAt y i

/-- `LD`, `LDB` and `LDA`: the path and the ordering are what differs (R129). -/
def State.load1 (s : State) (c : Cut) (l : BitVec 4) (d a b : Opnd) (l1 acquire : Bool) : State :=
  let x := c.read s a []
  let y := c.read s b [a]
  s.load c ⟨[a, b], d, l.toNat, ⟨elemBytes (modeET c.ctx.mode), 1, .read⟩, l1, acquire, x.isU && y.isU⟩ (c.sumAddr x y)

def execLd (l : BitVec 4) (d a b : Opnd) (s : State) := operate (.ld l d a b) s fun c => s.load1 c l d a b true false

def execLdb (l : BitVec 4) (d a b : Opnd) (s : State) := operate (.ldb l d a b) s fun c => s.load1 c l d a b false false

def execLda (l : BitVec 4) (d a b : Opnd) (s : State) := operate (.lda l d a b) s fun c =>
  s.load1 c l d a b (decide (modeSC c.ctx.mode ≤ 1)) true

/-- `LDT`: lane i reads at a plus i times the stride (R132). -/
def execLdt (l : BitVec 4) (d a b : Opnd) (s : State) := operate (.ldt l d a b) s fun c =>
  let x := c.read s a []
  let y := c.read s b [a]
  s.load c ⟨[a, b], d, l.toNat, ⟨elemBytes (modeET c.ctx.mode), 1, .read⟩, true, false, false⟩ fun i =>
    c.valAt x i + BitVec.ofNat 64 i * c.valAt y i

/-- `LDM`: k consecutive elements into k registers (R133). -/
def execLdm (l : BitVec 4) (d a b : Opnd) (s : State) := operate (.ldm l d a b) s fun c =>
  let x := c.read s a []
  s.load c ⟨[a], d, l.toNat, ⟨elemBytes (modeET c.ctx.mode), constOf b, .read⟩, true, false, x.isU⟩ (c.valAt x)

/-! ## Stores (R134, R135) -/

/-- The bytes that a store's present items write, in ascending order (R134). -/
def storedBytes (s : State) (c : Cut) (q : Ask) (vals : List RegVal) (as : List ItemAcc) : List StoredByte :=
  as.flatMap fun a => match a.locs s c q with
    | none => []
    | some ls => (List.range q.elems).flatMap fun j =>
      let l := ls.getD j (.dev 0)
      let bs := bytesLE q.size (c.valAt (vals.getD j (uVal 0)) a.pos).toNat
      (List.range q.size).map fun k => ⟨locAt l (locOff l + k), bs.getD k 0, c.ilAt s a.pos, ptrAdd a.ptr (j * q.size)⟩

/-- A Mill's writes enter the section buffer (R265, R273). -/
def Section.stores (y : Section) (bs : List StoredByte) : Section :=
  bs.foldl (fun y b => y.writes (locOff b.loc) [b.val]) y

/-- A flushed attempt has each sector it writes written back first (R276). -/
def State.flushWrites (s : State) (y : Section) (bs : List StoredByte) : State :=
  bs.foldl (fun s b => s.flushTouch y (sectorOf (locOff b.loc))) s

/-- A store's present items perform; absent ones raise ABS (R127, R134). -/
def State.storeGo (s : State) (c : Cut) (srcs : List Opnd) (q : Ask) (vals : List RegVal) (release : Bool)
    (present absent : List ItemAcc) : State :=
  let bs := storedBytes s c q vals present
  match absent with
  | a :: _ =>
    if c.isPattern then s.lanesOnly c
    else if c.onMill then s.returnTrap c 4
    else
      let k := if present.isEmpty then c else c.effect
      let s := if present.isEmpty then s else s.issueWrites c (gather bs) release none
      s.stop k (c.absent a (absent.map (·.pos)) (present.map (·.pos)))
  | [] =>
    if c.onMill then
      (s.flushWrites c.sec bs).sectionAfter c (c.sec.stores bs) fun s k => s.complete k srcs k
    else if bs.isEmpty then s.complete c srcs c
    else (s.issueWrites c (gather bs) release none).complete c srcs c.effect

/-- Stores of a cut (R134). A store that memory order holds back waits (R187, R188). -/
def State.store (s : State) (c : Cut) (srcs : List Opnd) (elems : Nat) (vals : List RegVal) (release : Bool)
    (addr : Nat → W64) : State :=
  let q : Ask := ⟨elemBytes (modeET c.ctx.mode), elems, .write⟩
  let as := c.accesses addr
  if !(if release then releaseMayIssue s c else storeMayIssue s c) then s.hold c .order
  else match checkAccess s c q false true as id with
    | some t => t
    | none =>
      let go := fun (s : State) (c : Cut) =>
        let t := s.translated c q as
        t.storeGo c srcs q vals release (as.filter fun a => (a.locs s c q).isSome) (as.filter fun a => (a.locs s c q).isNone)
      if c.onMill && !as.isEmpty then s.inSection c go else go s c

/-- `ST` and `STL`. -/
def State.store1 (s : State) (c : Cut) (d a b : Opnd) (release : Bool) : State :=
  s.store c [a, b, d] 1 [c.read s d [a, b]] release (c.sumAddr (c.read s a []) (c.read s b [a]))

def execSt (d a b : Opnd) (s : State) := operate (.st d a b) s fun c => s.store1 c d a b false

def execStl (d a b : Opnd) (s : State) := operate (.stl d a b) s fun c => s.store1 c d a b true

/-- `STM`: k consecutive registers to k consecutive elements. -/
def execStm (d a b : Opnd) (s : State) := operate (.stm d a b) s fun c =>
  let k := constOf b
  s.store c (a :: spanOf d k) k ((spanOf d k).map fun r => c.read s r []) false (c.valAt (c.read s a []))

/-! ## Atomics (R137 to R141) -/

/-- What an atomic instruction is: `ret` for `ATOM`, `release` for `CADD`, whose ET is n64 (R230). -/
structure AtomOp where
  srcs : List Opnd
  dst : Opnd
  la : Nat
  ret : Bool
  release : Bool
  et : Nat
  aop : Nat
  opnd : RegVal
  expect : RegVal
  deriving DecidableEq, Repr

/-- Whether an item's element has an uncorrectable error, so that its atomic does not perform (R126). -/
def atomErrored (s : State) (c : Cut) (l : Loc) : Bool :=
  match l with
  | .dev p => erroredFor s c s.nextSeq p
  | _ => false

/-- The lanes of an atomic as the home performs them (R140). -/
def AtomOp.lanesOf (o : AtomOp) (s : State) (c : Cut) (q : Ask) (as : List ItemAcc) : List AtomAt :=
  as.filterMap fun a => match a.locs s c q with
    | some (l :: _) => if atomErrored s c l then none
      else some ⟨l, ⟨a.pos, c.ilAt s a.pos, c.valAt o.opnd a.pos, c.valAt o.expect a.pos⟩, a.ptr⟩
    | _ => none

/-- The reads of an `ATOM`'s present lanes: an errored one returns zero and performs nothing (R126). -/
def atomReads (s : State) (c : Cut) (q : Ask) (as : List ItemAcc) : List LaneRead :=
  (readsOf s c q as).map fun r => if atomErrored s c r.loc then { r with got := some (List.replicate q.size 0), errored := true } else r

/-- A Mill's atomics: each lane in turn reads and writes the section buffer (R265). -/
def State.millAtomics (s : State) (c : Cut) (o : AtomOp) (size : Nat) (as : List ItemAcc) (reads : List LaneRead) :
    State × Section × List LaneRead :=
  as.foldl (fun (acc : State × Section × List LaneRead) a =>
    match reads.find? (·.lane == a.pos) with
    | none => acc
    | some r =>
      let et := o.et
      let got := acc.1.millReads acc.2.1 size [r]
      let old := ((got.2.2.getD 0 r).got).getD []
      let bad := (got.2.2.getD 0 r).errored
      let new := atomNew o.aop et (extend et (natLE old)) (c.valAt o.opnd a.pos) (c.valAt o.expect a.pos)
      let y := got.2.1.reads (sectorOf (locOff r.loc))
      let y := if bad then y else y.writes (locOff r.loc) (bytesLE size (lowBits et new))
      (got.1, y, acc.2.2 ++ [{ r with got := some old, errored := bad }])) (s, c.sec, [])

/-- The outstanding instruction of an `ATOM`. -/
def AtomOp.outst (o : AtomOp) (c : Cut) (size id : Nat) (reads : List LaneRead) : Outst :=
  { Outst.of o.dst o.et o.la (.atomic size reads) with id := id, flagPred := c.flagPred }

/-- An `ATOM` ends its cut's quantum (R38). -/
def State.endQuantum (s : State) (uid : Nat) : State :=
  match s.cutOf uid with
  | some c => if c.quantum s && c.wait == .none then s.hold c .quantum else s
  | none => s

/-- What the errored lanes of an `ARED` raise once it has performed, where ECC is delivered (R126, R127). -/
def State.aredDone (s : State) (c : Cut) (srcs : List Opnd) (bad : List ItemAcc) : State :=
  let s := s.countUp (regBrerr c.bench) 48 16 bad.length
  match bad with
  | a :: _ =>
    if eccOn s (c.asid s) then
      (s.popAll c srcs).stop (c.popped srcs)
        { c.cause causeECC a.ptr (lanesWord (bad.map (·.pos))) with done := c.allLanes }
    else s.complete c srcs c
  | [] => s.complete c srcs c

/-- An atomic's present lanes perform; absent ones raise ABS (R127, R139). -/
def State.atomGo (s : State) (c : Cut) (o : AtomOp) (q : Ask) (present absent : List ItemAcc) : State :=
  let reads := atomReads s c q present
  let ws := combine o.aop o.et (o.lanesOf s c q present)
  let bad := present.filter fun a => match a.locs s c q with | some (l :: _) => atomErrored s c l | _ => false
  let id := s.nextId
  let numbered : State := { s with nextId := s.nextId + 1 }
  let issue := fun (t : State) (out : Option Nat) => if ws.isEmpty then t else t.issueWrites c ws o.release out
  if c.isPattern && !bad.isEmpty && eccOn s (c.asid s) then s.lanesOnly c
  else match absent with
  | a :: _ =>
    if c.isPattern then s.lanesOnly c
    else if c.onMill then s.returnTrap c 4
    else
      let done := (present.filter fun a => !bad.contains a).map (·.pos)
      let e := c.absent a (absent.map (·.pos)) done
      let c := if ws.isEmpty then c else c.effect
      if present.isEmpty then s.stop c e
      else if o.ret then
        (issue numbered (some id)).awaitHere c o.srcs (.some done) (o.outst c q.size id reads) (some e)
      else
        let e := if bad.isEmpty || !eccOn s (c.asid s) then e
          else { e with causes := e.causes ||| BitVec.ofNat 64 causeECC, lanes := e.lanes ||| lanesWord (bad.map (·.pos)) }
        (issue (s.countUp (regBrerr c.bench) 48 16 bad.length) none).stop c e
  | [] =>
    if c.onMill then
      let r := s.millAtomics c o q.size present (readsOf s c q present)
      r.1.sectionAfter c r.2.1 fun s k =>
        if o.ret then s.await k o.srcs k.gov (o.outst k q.size 0 (c.keptReads o.dst 1 ++ r.2.2)) else s.complete k o.srcs k
    else if !o.ret then (issue s none).aredDone (if ws.isEmpty then c else c.effect) o.srcs bad
    else
      let out := o.outst c q.size id (c.keptReads o.dst 1 ++ reads)
      let k := if ws.isEmpty then c else c.effect
      let t := issue numbered (some id)
      if (c.flagPred.isNone && eccOn s (c.asid s)) || awaitsReply reads then t.awaitHere k o.srcs k.gov out none
      else (t.await k o.srcs k.gov out).endQuantum c.uid

/-- Atomics of a cut (R139). -/
def State.atomics (s : State) (c : Cut) (o : AtomOp) (addr : Nat → W64) : State :=
  let q : Ask := ⟨elemBytes o.et, 1, .both⟩
  let as := c.accesses addr
  if o.ret && c.gov = .none then s.write c o.srcs .none o.dst (uVal 0)
  else if !(if o.release then releaseMayIssue s c else storeMayIssue s c) then s.hold c .order
  else match checkAccess s c q true true as id with
    | some t => t
    | none =>
      let go := fun (s : State) (c : Cut) =>
        let t := s.translated c q as
        t.atomGo c o q (as.filter fun a => (a.locs s c q).isSome) (as.filter fun a => (a.locs s c q).isNone)
      if c.onMill && !as.isEmpty then s.inSection c go else go s c

/-- `ATOM`: `cas` reads its destination as the expected value (R139). -/
def execAtom (l : BitVec 4) (d a b : Opnd) (s : State) := operate (.atom l d a b) s fun c =>
  let aop := modeAOP c.ctx.mode
  let srcs := if aop = 9 then [a, b, d] else [a, b]
  s.atomics c ⟨srcs, d, l.toNat, true, false, modeET c.ctx.mode, aop, c.read s b [a], if aop = 9 then c.read s d [a, b] else uVal 0⟩ (c.valAt (c.read s a []))

def execAred (a b : Opnd) (s : State) := operate (.ared a b) s fun c =>
  s.atomics c ⟨[a, b], 0x4A#7, 0, false, false, modeET c.ctx.mode, modeAOP c.ctx.mode, c.read s b [a], uVal 0⟩ (c.valAt (c.read s a []))

/-! ## Prefetch and page requests (R142 to R145) -/

/-- `PREF` (R142): the line of each item that would not fault is brought into L2, and into L1 at scope bench or below; on a
Mill it acts as `NOP` (R265). The access that is checked is the whole line (R123). -/
def execPref (a b : Opnd) (s : State) := operate (.pref a b) s fun c =>
  let x := c.read s a []
  let y := c.read s b [a]
  if c.onMill then s.complete c [a, b] c
  else
    let fetch := fun (s : State) (p : W64) =>
      let line := BitVec.ofNat 64 (p.toNat / Config.lineBytes * Config.lineBytes)
      if accessCause s c.unit (c.asid s) line Config.lineBytes 1 .read ≠ 0 then s
      else match (xlat s c.unit (c.asid s) p).loc with
        | some (.dev q) => let s := s.fillView q; if modeSC c.ctx.mode ≤ 2 then s.l1Fill c.bench q else s
        | _ => s
    (((c.accesses (c.sumAddr x y)).map (·.ptr)).foldl fetch (s.settleBench c.bench)).complete c [a, b] c

/-- The checks that a page request makes: 1 and 2 of R124, by lane (R143). Of the page that holds its address, an item asks for the bytes
that its object has, so that it fails check 2 where the object ends before its address (DEDUCED, log 32). -/
def checkPages (s : State) (c : Cut) (as : List ItemAcc) : Option State :=
  let bad := as.filter fun a => accessCause s c.unit (c.asid s) a.ptr 1 1 .none != 0
  match bad with
  | [] => none
  | a :: _ =>
    if c.isPattern then some (s.lanesOnly c) else some (s.stop c (c.cause causeBND a.ptr (lanesWord (bad.map (·.pos)))))

/-- The page that a pointer names: its object and the page number in it. -/
def pageNamed (s : State) (c : Cut) (ptr : W64) : Nat × Nat :=
  (objOf ptr, pageOf s c.unit (c.asid s) ptr)

/-- Makes the requests of items in ascending order, one for each page that they name: a status for each (R143, R366). -/
def State.requestAll (s : State) (c : Cut) (asked : List ((Nat × Nat) × Nat)) : List ItemAcc → State × List (Nat × Nat)
  | [] => (s, [])
  | a :: as =>
    match asked.find? (·.1 == pageNamed s c a.ptr) with
    | some p =>
      let t := s.requestAll c asked as
      (t.1, (a.pos, p.2) :: t.2)
    | none =>
      let r := s.request c.unit (s.launchOf c.lid).part (c.asid s) a.ptr (if c.onMill then 3 else 0)
      let t := r.2.requestAll c (asked ++ [(pageNamed s c a.ptr, r.1)]) as
      (t.1, (a.pos, r.1) :: t.2)

/-- A result by item in the form of a page request's input: U when that is U (R143, R145). -/
def Cut.pageResult (c : Cut) (v : RegVal) (f : Nat → W64) : RegVal :=
  if v.isU then uVal (f (c.governed.getD 0 0)) else c.overLanes f

/-- The accesses of a page request, those that performed before a trap apart; one where its input is U (R123, R125). -/
def Cut.pageItems (c : Cut) (v : RegVal) : List ItemAcc :=
  if v.isU then (c.accesses (c.valAt v)).take 1 else c.accesses (c.valAt v)

/-- `PGREQ` (R143): lanes that name one page make one request; the cut records the replay-all count. -/
def execPgreq (l : BitVec 4) (d a : Opnd) (s : State) := operate (.pgreq l d a) s fun c =>
  let v := c.read s a []
  if c.needsLanes c.gov (c.pageResult v fun _ => 0) then s.lanesOnly c
  else match checkPages s c (c.accesses (c.valAt v)) with
    | some t => t
    | none =>
      let r := s.requestAll c [] (c.pageItems v)
      let st := fun i => if c.performed i then c.kept d 0 i else BitVec.ofNat 64 (((r.2.find? (·.1 == i)).map (·.2)).getD 0)
      let k : Cut := { c with rgen := replayGen s (s.launchOf c.lid).part }
      r.1.writeLong k [a] d l.toNat (k.pageResult v st) none []

/-- Whether the page of every item that has yet to perform is resident. -/
def Cut.pagesIn (s : State) (c : Cut) (v : RegVal) : Bool :=
  (c.pageItems v).all fun a => pageResident s c.unit (c.asid s) a.ptr

/-- The residency of the governed items' pages (R145). -/
def State.writePages (s : State) (c : Cut) (d a : Opnd) (v : RegVal) : State :=
  s.write c [a] c.gov d (c.pageResult v fun i =>
    if c.performed i then c.kept d 0 i else if pageResident s c.unit (c.asid s) (c.valAt v i) then 1 else 0)

/-- Whether a `PGWAIT` is over: its pages are resident, a replay-all came after the cut's last `PGREQ`, or the limit passed
(R144). -/
def Cut.pageWaitOver (s : State) (c : Cut) (v : RegVal) : Bool :=
  let part := (s.launchOf c.lid).part
  c.pagesIn s v || c.rgen != replayGen s part
    || (match c.wait with | .page since => decide (since + waitLimit s part ≤ s.cycle) | _ => false)

/-- `PGWAIT` (R144). -/
def execPgwait (d a : Opnd) (s : State) := operate (.pgwait d a) s fun c =>
  let v := c.read s a []
  if c.needsLanes c.gov (c.pageResult v fun _ => 0) then s.lanesOnly c
  else match checkPages s c (c.accesses (c.valAt v)) with
    | some t => t
    | none =>
      if c.pageWaitOver s v then s.writePages c d a v
      else match c.wait with
        | .page _ => s
        | _ => s.hold c (.page s.cycle)

/-- `PGTEST` (R145). -/
def execPgtest (d a : Opnd) (s : State) := operate (.pgtest d a) s fun c =>
  let v := c.read s a []
  if c.needsLanes c.gov (c.pageResult v fun _ => 0) then s.lanesOnly c
  else match checkPages s c (c.accesses (c.valAt v)) with
    | some t => t
    | none => s.writePages c d a v

end Sys2Proof.Machine
end

