-- ==== Sys2Proof/Machine/Arrive.lean ====
section
/-! DEFINITION. The arrival of results (R77): how a load is bound (R129, R130, R190, R38), what its lanes return (R126), its
delivery, and the entry of a trap that waited for it (R338). -/

namespace Sys2Proof.Machine

/-! ## What a load reads -/

/-- One byte at a location by a path, before the store queue: L1 or the home (R129, R190). -/
def pathByte (s : State) (c : Cut) (l1 : Bool) (l : Loc) : Byte :=
  match l with
  | .dev p => if l1 then l1Byte s c.bench p else homeByte s p
  | .host p => cellGet s.host p
  | .remote _ _ _ _ => 0

/-- The bytes of a place within a sector with the writes that a cut sees applied, given the bytes beneath them. An atomic that it sees
computes on the whole element, so a write of the same sector is applied to the sector. -/
def seenOver (s : State) (c : Cut) (seq : Nat) (l : Loc) (n : Nat) (under : Nat → Byte) : List Byte :=
  let ws := (seenWrites s c seq).filter fun w => locSpace w.1 == locSpace l && locOff w.1 / 128 == locOff l / 128
  if ws.isEmpty then (List.range n).map fun i => under (locOff l + i)
  else
    let base := sectorLoc l
    let sec := (List.range 128).map fun i => under (locOff base + i)
    let sec := ws.foldl (fun bs w => w.2.onBytes w.1 base bs) sec
    (sec.drop (locOff l % 128)).take n

/-- `n` bytes at a location as a load of a cut finds them, by its path. -/
def loadBytes (s : State) (c : Cut) (seq : Nat) (l1 : Bool) (l : Loc) (n : Nat) : List Byte :=
  seenOver s c seq l n fun p => pathByte s c l1 (locAt l p)

/-- The line of an address is read through L1: an eviction may come first, and a miss fills it (R129, R192; DESIGN CHOICE, log 22). -/
def State.throughL1 (s : State) (b p : Nat) : State :=
  let s := s.fillView p
  if (l1Find s b p).isSome then
    match s.evict with
    | true :: rest => (({ s with evict := rest } : State).l1Evict b p).l1Fill b p
    | false :: rest => { s with evict := rest }
    | [] => s
  else s.l1Fill b p

/-- What a read returns once its line or sector is at hand: its bytes, or zero from a sector with an uncorrectable error (R126). A
reply of another device is seen under the cut's own effects of the quantum (R38). -/
def LaneRead.bind (s : State) (c : Cut) (seq : Nat) (l1 : Bool) (size : Nat) (r : LaneRead) : LaneRead :=
  match r.got, r.loc with
  | some bs, .remote _ _ _ _ =>
    if c.quantum s && !r.errored then
      { r with got := some ((seenWrites s c seq).foldl (fun bs w => w.2.onBytes w.1 r.loc bs) bs) }
    else r
  | some _, _ => r
  | none, .dev p =>
    let bad := erroredFor s c seq p
    { r with got := some (if bad then List.replicate size 0 else loadBytes s c seq l1 r.loc size), errored := bad }
  | none, _ => { r with got := some (loadBytes s c seq l1 r.loc size) }

/-- The device addresses that a load still reads. -/
def openAddrs (reads : List LaneRead) : List Nat :=
  reads.filterMap fun r => match r.got, r.loc with | none, .dev p => some p | _, _ => none

/-- Brings the lines or sectors of a load together, each once, so that its lanes have one view of each (R129). An acquire through L1
finds its line evicted first, so that it returns nothing older than its cut's loads around L1 did (R191; DEDUCED, log 106). -/
def State.bringIn (s : State) (c : Cut) (l1 fresh : Bool) (reads : List LaneRead) : State :=
  let ps := openAddrs reads
  let s := ps.foldl State.fillView s
  if !l1 then s
  else (distinct (ps.map (· / Config.lineBytes))).foldl (fun (s : State) n =>
    (if fresh then s.l1Evict c.bench (n * Config.lineBytes) else s).throughL1 c.bench (n * Config.lineBytes)) s

/-- Binds the reads of a load together (R129). -/
def State.bindReads (s : State) (c : Cut) (seq : Nat) (l1 fresh : Bool) (size : Nat) (reads : List LaneRead) : State × List LaneRead :=
  let t := s.bringIn c l1 fresh reads
  ((openAddrs reads).foldl State.readFlaw t, reads.map (LaneRead.bind t c seq l1 size))

/-- The register value of a read: the element extended under ET; a lane that performed before keeps its 8 bytes. -/
def LaneRead.value (r : LaneRead) (et size : Nat) : W64 :=
  let bs := r.got.getD []
  if bs.length = size then extend et (natLE bs) else BitVec.ofNat 64 (natLE bs)

/-- The values of the registers of a load (R129, R133): U for one made once, by lane otherwise; an item without a read is
zero, and so is every register of one that met an error (R126). -/
def Outst.values (o : Outst) (size elems : Nat) (reads : List LaneRead) : List RegVal :=
  let sound := reads.filter fun r => !reads.any fun q => q.lane == r.lane && q.errored
  (List.range elems).map fun j =>
    let mine := sound.filter fun r => r.elem == j
    if o.uniform then uVal (((mine.head?).map fun r => r.value o.et size).getD 0)
    else .lanes ((List.range 32).map fun i => ((mine.find? (·.lane == i)).map fun r => r.value o.et size).getD 0)

/-! ## When a result may arrive -/

/-- Whether an earlier access to the same bytes comes first: a load of the cut still out, or a write that has no value for the cut yet
(R130, R190). -/
def behindOwn (s : State) (c : Cut) (o : Outst) (size : Nat) (reads : List LaneRead) : Bool :=
  let open_ := reads.filter (·.got.isNone)
  (c.outst.any fun p => decide (p.seq < o.seq) && match p.what with
      | .load _ _ n _ rs => rs.any fun q => q.got.isNone && open_.any fun r => locOverlap q.loc n r.loc size
      | _ => false)
    || open_.any fun r => writesAhead s c o.seq r.loc size

/-- Whether a push that an arrival makes finds room: a full chute holds it back (R220). In quantum mode pushes are entered at the
commit (R38). -/
def pushRoom (s : State) (c : Cut) (o : Outst) : Bool :=
  !isQ o.dst || c.quantum s || !(o.govIn c).anyLane || match c.bindOf o.dst with
    | some (.push key n) => (s.crewOf key).all fun k =>
        (k.chute n).closed || decide ((k.chute n).entries.length < (k.chute n).depth)
    | _ => true

/-- Whether the result of an outstanding instruction may arrive now. -/
def mayArrive (s : State) (c : Cut) (o : Outst) : Bool :=
  pushRoom s c o && match o.what with
  | .value _ _ => true
  | .load _ _ size _ reads =>
    readMayBind s c o && !behindOwn s c o size reads
      && reads.all fun r => r.got.isSome || (match r.loc with | .remote _ _ _ _ => false | _ => true)
  | .atomic _ reads => reads.all (·.got.isSome)
  | .later => false

/-- The reads of another device that an outstanding load has yet to ask for. -/
def Outst.unasked (s : State) (o : Outst) (reads : List LaneRead) : List LaneRead :=
  reads.filter fun r => r.got.isNone && (match r.loc with | .remote _ _ _ _ => true | _ => false)
    && !s.remotes.any fun q => q.outst == some o.id && q.store.isNone && q.loc == r.loc && q.lane == r.lane

/-- Sends the requests of a load's remote elements (R363), once no earlier access or fence holds them back (R129, R130, R188). -/
def State.askRemote (s : State) (c : Cut) (o : Outst) : State :=
  match o.what with
  | .load _ _ size _ reads =>
    if !readMayBind s c o || behindOwn s c o size reads then s
    else (o.unasked s reads).foldl (fun (s : State) r =>
      { s.send (s.launchOf c.lid).part (remoteMsg r.loc 0 s.nextId [size] []) with
        nextId := s.nextId + 1
        remotes := s.remotes ++ [⟨s.nextId, 0, c.uid, some o.id, r.lane, r.loc, r.ptr, List.replicate size 0, s.cycle, none⟩] }) s
  | _ => s

/-! ## Delivery -/

/-- What an outstanding instruction delivers: the state after its reads, its values, its second result, its flagged lanes and
the lanes that were errored. -/
structure Arrival where
  after : State
  vals : List RegVal
  second : Option RegVal
  flagged : W32
  errs : List LaneRead

/-- Binds what an outstanding instruction awaits. -/
def State.bound (s : State) (c : Cut) (o : Outst) : Arrival :=
  let flags := fun (rs : List LaneRead) =>
    if o.uniform then (if o.flagged != 0 || rs.any (·.errored) then (if c.isPattern then 1#32 else o.gov) else 0)
    else o.flagged ||| maskOf 32 fun i => rs.any fun r => r.lane == i && r.errored
  match o.what with
  | .value v second => ⟨s, [v], second, 0, []⟩
  | .load l1 acquire size elems reads =>
    let b := s.bindReads c o.seq l1 acquire size reads
    let t := if acquire && decide (2 ≤ o.scope) && !c.onMill then b.1.l1Flash c.bench else b.1
    ⟨t, o.values size elems b.2, none, flags b.2, b.2.filter (·.errored)⟩
  | .atomic size reads => ⟨s, o.values size 1 reads, none, flags reads, reads.filter (·.errored)⟩
  | .later => ⟨s, [], none, 0, []⟩

/-- The lanes of some reads, each once, ascending. -/
def readLanes (rs : List LaneRead) : List Nat := (List.range 32).filter fun i => rs.any (·.lane == i)

/-- The reads of what an outstanding instruction awaits. -/
def Pending.reads : Pending → List LaneRead
  | .load _ _ _ _ rs => rs
  | .atomic _ rs => rs
  | _ => []

/-- A read whose reply did not come by the remote deadline holds no bytes (R296). -/
def LaneRead.overdue (r : LaneRead) : Bool := r.got == some []

/-- A remote access is overdue: TMO is raised at its instruction. Load lanes did not perform and will be replayed; an `ATOM`
lane reads zero and will not (R296). The other lanes keep what they returned. -/
def State.overdue (s : State) (c : Cut) (o : Outst) (a : Arrival) (late : List LaneRead) : State :=
  let atom := match o.what with | .atomic _ _ => true | _ => false
  let lanes := if o.uniform then c.positions.filter (fun i => inMask o.gov i || o.whole) else readLanes late
  let o2 : Outst := if atom then o else { o with gov := o.gov &&& ~~~(maskOf 32 (· ∈ lanes)), whole := false }
  let dropped : Cut := { c with outst := c.outst.filter (·.id != o.id), wait := if c.wait = .results then .none else c.wait }
  let k := if c.isPattern then dropped else c.deliver o2 a.vals a.second a.flagged
  let kept := if c.isPattern then [] else (List.range a.vals.length).flatMap fun j =>
    (lanesOf o2.gov).map fun i => (j, i, c.valAt (a.vals.getD j (uVal 0)) i)
  let names := if c.isPattern then c.allLanes else lanesWord lanes
  let low := BitVec.ofNat 64 (leastOf 0 (late.map (·.ptr.toNat)))
  let e := match c.pend with
    | some e => { e with causes := e.causes ||| BitVec.ofNat 64 causeTMO, lanes := e.lanes ||| names }
    | none => { c.cause causeTMO low names with done := c.replay ||| (if c.isPattern then 0 else lanesWord (lanesOf o2.gov)) }
  s.raisePend { k with part := k.part ++ kept } { e with done := if atom then e.done else e.done &&& ~~~names }

/-- A result is delivered (R77). Lanes ahead of a trap keep what they returned for the replay, and their errors join its causes
(R127); a read that held its cut completes its instruction, and raises ECC where a lane was errored. -/
def State.deliverTo (s : State) (c : Cut) (o : Outst) (a : Arrival) : State :=
  let g := o.govIn c
  let last := a.vals.getLastD (uVal 0)
  let s := if c.onMill then s else s.countUp (regBrerr c.bench) 48 16 (readLanes a.errs).length
  let k := c.deliver o a.vals a.second a.flagged
  let lanes := if k.isPattern then k.allLanes
    else lanesWord (if o.uniform then k.positions.filter (fun i => inMask o.gov i || o.whole) else readLanes a.errs)
  let ecc := !a.errs.isEmpty && o.flagPred.isNone && !c.onMill && eccOn s (c.asid s)
  let s := if isQ o.dst && g.anyLane then s.pushQ c o.dst (c.entry g last) o.pc else s
  let k := if isQ o.dst && g.anyLane then k.effect else k
  let late := o.what.reads.filter (·.overdue)
  if !late.isEmpty then s.overdue c o a late
  else if !o.piece then s.putCut k
  else match c.pend with
    | some e =>
      let kept := (List.range a.vals.length).flatMap fun j =>
        (lanesOf o.gov).map fun i => (j, i, c.valAt (a.vals.getD j (uVal 0)) i)
      let e := if ecc then { e with causes := e.causes ||| BitVec.ofNat 64 causeECC, lanes := e.lanes ||| lanes } else e
      s.putCut { k with part := k.part ++ kept, pend := some e }
    | none =>
      let k := if isResult o.dst then k.shift (.val (k.merge g last (uVal 0))) else k
      if ecc then
        s.stop k { k.cause causeECC ((a.errs.map (·.ptr)).getD 0 0) lanes with done := k.allLanes }
      else s.advance k

/-- The arrival of one result of a cut, where it may arrive; a load of another device's object is asked for first. -/
def State.arrive (s : State) (c : Cut) (o : Outst) : State :=
  if mayArrive s c o then
    let a := s.bound c o
    a.after.deliverTo ((a.after.cutOf c.uid).getD c) o a
  else s.askRemote c o

/-- The arrival of one result of a cut by its number: the fences that have completed on its Bench settle first, since an acquire that
has completed invalidates L1 before a later load reads it (R181, R192), and a barrier phase may complete with it (R194). A halted
cut's results wait for the dump (R394). -/
def State.arrival (s : State) (uid id : Nat) : State :=
  match s.cutOf uid with
  | none => s
  | some c =>
    if c.halted s then s
    else
      let s := if c.onMill then s.settleFences c else s.settleBench c.bench
      match s.cutOf uid with
      | none => s
      | some c => match c.outst.find? (·.id == id) with
        | none => s
        | some o => (s.arrive c o).settleConds

/-- TRAP_ENTRY (R338): the outstanding results have arrived, and the cut enters its handler. -/
def execTrapEntry (uid : Nat) (s : State) : Host.Outcome State Fault Refusal :=
  .next (match s.cutOf uid with
    | none => s
    | some c => match c.pend with
      | some e => if c.outst.isEmpty && !c.halted s then s.enterTrap c e else s
      | none => s)

end Sys2Proof.Machine
end

