-- ==== Sys2Proof/Machine/Remote.lean ====
section
/-! DEFINITION. Remote objects (R363) and the remote deadline (R296): replies to this device's accesses, and the accesses of
other devices that perform here. -/

namespace Sys2Proof.Machine

/-- Some bytes brought to a length, zeros beyond their end. -/
def fitBytes (n : Nat) (bs : List Byte) : List Byte := (List.range n).map fun i => bs.getD i 0

/-- Takes a remote access off the list of those that await a reply. -/
def State.dropRemote (s : State) (id : Nat) : State := { s with remotes := s.remotes.filter (·.id != id) }

/-- The lanes of an atomic. -/
def WriteOp.lanes : WriteOp → List Nat
  | .bytes _ => []
  | .atomic _ _ ls => ls.map (·.lane)

/-- Fills the reads of an `ATOM` that a remote request holds. -/
def State.fillRemoteAtom (s : State) (w : Store) (f : LaneRead → LaneRead) : State :=
  match w.outst with
  | none => s
  | some id => s.fillReads id fun r => if r.loc = w.loc ∧ r.lane ∈ w.op.lanes ∧ r.got.isNone then f r else r

/-- Fills the read of a load that a remote request is for. -/
def State.fillRemoteLoad (s : State) (r : Remote) (f : LaneRead → LaneRead) : State :=
  match r.outst with
  | none => s
  | some id => s.fillReads id fun x => if x.loc = r.loc ∧ x.lane = r.lane ∧ x.got.isNone then f x else x

/-- A remote write that another device refused: a late store fault (R363), or the failure of the job that made it (R228). -/
def State.refusedWrite (s : State) (w : Store) : State :=
  match w.job with
  | some j => s.failJob j 2 w.ptr
  | none => s.lateStore w causeLSF

/-- A read of an engine is refused or gets no reply: the job fails (R228), and a Loom operation finds an errored answer (R245;
DEDUCED, log 50). -/
def State.refusedRead (s : State) (r : Remote) : State :=
  if s.jobs.any (·.id == r.lane) then s.failJob r.lane 2 r.ptr else { s with remotes := s.remotes ++ [{ r with kind := 5 }] }

/-- A reply: the access performed, or was refused for its bounds, rights, residency or data (R363). -/
def State.replied (s : State) (r : Remote) (performed : Bool) (data : List Byte) : State :=
  let s := s.dropRemote r.id
  match r.store with
  | none =>
    if r.kind = 6 then
      (if (s.cutOf r.uid).isNone then s
       else { s with remotes := s.remotes ++ [{ r with kind := 7, data := fitBytes 8 (if performed then data else []) }] })
    else if r.kind = 3 then
      (if performed then { s with remotes := s.remotes ++ [{ r with kind := 4, data := fitBytes r.data.length data }] }
       else s.refusedRead r)
    else
    let bs := if performed then fitBytes r.data.length data else fitBytes r.data.length []
    s.fillRemoteLoad r fun x => { x with got := some bs, errored := !performed }
  | some w =>
    match w.op with
    | .bytes _ => if performed then s else s.refusedWrite w
    | .atomic _ et ls =>
      if w.outst.isNone then (if performed then s else s.refusedWrite w)
      else if performed then
        let n := elemBytes et
        s.fillAtomic w et ((List.range ls.length).map fun i =>
          (((ls.map (·.lane)).getD i 0), extend et (natLE (fitBytes n (data.drop (n * i))))))
      else s.fillRemoteAtom w fun x => { x with got := some (List.replicate (elemBytes et) 0), errored := true }

/-- REMOTE_REPLY (R363). -/
def execRemoteReply (id : Nat) (performed : Bool) (data : List Byte) (s : State) : Host.Outcome State Fault Refusal :=
  .next (match s.remotes.find? (·.id == id) with
    | some r => s.replied r performed data
    | none => s)

/-- The remote deadline of a partition, in cycles: PTIME.RDL in microseconds, clamped to 1 to 10^6 (R296, R374). -/
def remoteDeadline (s : State) (part : Nat) : Nat :=
  Nat.min 1000000 (Nat.max 1 (s.field (regPtime part) 44 20)) * Config.cyclesPerUs

/-- The launch that a remote access belongs to. -/
def Remote.lid (s : State) (r : Remote) : Nat :=
  match r.store with
  | some w => w.lid
  | none => ((s.cuts.find? fun c => c.isOf r.uid).map (·.lid)).getD 0

/-- REMOTE_DEADLINE (R296): no reply has come by the deadline. A load lane did not perform, an `ATOM` lane reads zero, and any
other write is a late fault. -/
def execRemoteDeadline (id : Nat) (s : State) : Host.Outcome State Fault Refusal :=
  .next (match s.remotes.find? (·.id == id) with
    | none => s
    | some r =>
      if s.cycle < r.since + remoteDeadline s (s.launchOf (r.lid s)).part then s
      else
        let t := s.dropRemote id
        match r.store with
        | none =>
          if r.kind = 6 then { t with remotes := t.remotes ++ [{ r with kind := 8 }] }
          else if 4 ≤ r.kind then s else if r.kind = 3 then t.refusedRead r
          else t.fillRemoteLoad r fun x => { x with got := some [] }
        | some w =>
          if w.outst.isSome then t.fillRemoteAtom w fun x => { x with got := some [] }
          else match w.job with
            | some j => t.failJob j 2 w.ptr
            | none => t.lateStore w (causeTMO + causeLSF))

/-! ## Accesses of other devices (R363) -/

/-- Writes bytes at places of device or host memory, each at its home; the bytes of one sector together. -/
def State.putAt (s : State) (ls : List Loc) (bs : List Byte) : State :=
  let ps := ls.zip bs
  let devs := ps.filterMap fun p => match p.1 with | .dev a => some (a, p.2) | _ => none
  let s : State := { s with host := ps.foldl (fun h p => match p.1 with | .host a => cellPut a p.2 h | _ => h) s.host }
  (sectorsOf (devs.map (·.1))).foldl (fun s sec =>
    s.devWrite (sec * 128) ((devs.filter fun p => sectorOf p.1 == sec).map fun p => (p.1 % 128, p.2))) s

/-- Reads bytes at places, each at its home. -/
def readAt (s : State) (ls : List Loc) : List Byte := ls.map fun l => (locRead s l 1).getD 0 0

/-- Whether some place meets an uncorrectable error. -/
def erroredAt (s : State) (ls : List Loc) : Bool := ls.any fun l => match l with | .dev p => errored s p | _ => false

/-- Whether some place lies in an object of yet another device. -/
def beyondAt (ls : List Loc) : Bool := ls.any fun l => match l with | .remote _ _ _ _ => true | _ => false

/-- The answer to a remote request in an address space: performed or refused, with the bytes read (R363). -/
def State.answer (s : State) (asid : Nat) (performed : Bool) (data : List Byte) : State :=
  s.send ((asidPart s asid).getD 0) ⟨0, 19, 0, if performed then 1 else 0, [], data⟩

/-- REMOTE_REQUEST (R363): an access of another device, of kind 0 a load, 1 a store and 2 an atomic, is translated here and
checked as R124 and R126 check it; it makes no page request. A request that a flushed attempt holds back waits (R276). -/
def execRemoteRequest (kind asid obj off et aop : Nat) (data : List Byte) (s : State) : Host.Outcome State Fault Refusal :=
  .next (
    let ptr := BitVec.ofNat 64 (obj % 2 ^ 20 * 2 ^ 44 + off % 2 ^ 44)
    let size := if kind = 1 then data.length else elemBytes et
    let align := if kind = 1 then 1 else elemBytes et
    let need : Need := if kind = 0 then .read else if kind = 1 then .write else .both
    let u : TlbUnit := .die 0
    let s := s.xlatted u asid ptr
    if accessCause s u asid ptr size align need ≠ 0 then s.answer asid false []
    else match accessLocs s u asid ptr 1 size with
      | none => s.answer asid false []
      | some ls =>
        let bad := erroredAt s ls
        let was := s
        let s := if kind = 1 then s else ls.foldl (fun s l => s.readAll l 1) s
        if beyondAt ls || (kind != 1 && bad) then s.answer asid false []
        else if kind = 0 then s.answer asid true (readAt s ls)
        else if ls.any fun l => match l with | .dev p => flushHolds s (sectorOf p) | _ => false then was
        else if kind = 1 then (s.putAt ls data).answer asid true []
        else
          let m := extend et (natLE (readAt s ls))
          let v := BitVec.ofNat 64 (natLE (data.take 8))
          let e := BitVec.ofNat 64 (natLE ((data.drop 8).take 8))
          (s.putAt ls (bytesLE size (lowBits et (atomNew aop et m v e)))).answer asid true (bytesLE size m.toNat))

end Sys2Proof.Machine
end

