-- ==== Sys2Proof/Machine/Scratch.lean ====
section
/-! DEFINITION. The paged scratchpad (R197 to R211): pages and frames, the pager, the instructions of op7 0x36, 0x37 and 0x3D,
and deliveries of Carter writes. -/

namespace Sys2Proof.Machine

/-! ## Spaces and pages (R197 to R201) -/

/-- The handle of a crew and its space (R198). -/
def Crew.handle (k : Crew) : W64 := BitVec.ofNat 64 (k.gen * 2 ^ 48 + (if k.ret then 2 ^ 47 else 0) + k.slot)

/-- The length of a space in bytes. -/
def Crew.length (k : Crew) : Nat := Config.scratchPage * k.pages.length

/-- A page of a new space. -/
def SPage.zero : SPage := ⟨.zero, 0, 0, false, false, [], []⟩

def Crew.page (k : Crew) (n : Nat) : SPage := k.pages.getD n SPage.zero

def Crew.setPage (k : Crew) (n : Nat) (p : SPage) : Crew := { k with pages := k.pages.set n p }

/-- The object pointer of a page's backing (R198). -/
def Crew.backing (s : State) (k : Crew) (n : Nat) : W64 :=
  let l := s.launchOf k.lid
  ptrAdd l.backing (k.slot * l.space + Config.scratchPage * n)

/-- Where the bytes of a page's backing lie, where every one is resident in an object that the device may use (R357); none for a space
kept in the save area (R266). -/
def Crew.backLocs (s : State) (k : Crew) (n : Nat) : Option (List Loc) :=
  if k.ret || !(xlat s (.bench k.bench) (s.launchOf k.lid).asid (k.backing s n)).ent.any (·.dev) then none
  else accessLocs s (.bench k.bench) (s.launchOf k.lid).asid (k.backing s n) 1 Config.scratchPage

/-- The bytes of a page as they are now; `none` where its backing is not resident or has an uncorrectable error (R204). -/
def Crew.bytesOf (s : State) (k : Crew) (n : Nat) : Option (List Byte) :=
  let p := k.page n
  match p.state with
  | .zero => some (List.replicate Config.scratchPage 0)
  | .res => some (cellsGet p.data 0 Config.scratchPage)
  | .backed =>
    if p.dirty then some (cellsGet p.data 0 Config.scratchPage)
    else match k.backLocs s n with
      | none => none
      | some ls => if erroredAt s ls then none else some (readAt s ls)

/-- What reading a page's backing leaves of the flaws it finds (R204, R381). -/
def State.backRead (s : State) (k : Crew) (n : Nat) : State :=
  if s.flaws.isEmpty then s else ((k.backLocs s n).getD []).foldl (fun s l => s.readAll l 1) s

/-- The offsets of a page's bytes with a lasting fault. -/
def SPage.lost (p : SPage) : List Nat := (p.bad.filter (·.2)).map (·.1)

/-- A page that has left its frame. -/
def SPage.out (p : SPage) : SPage := { p with state := .backed, frame := 0, dirty := false, fresh := false, bad := [], data := [] }

/-- Poisons the sectors of some places in device memory: they receive bytes that could not be read (R382; DESIGN CHOICE, log 103). -/
def State.poisonAt (s : State) (ls : List Loc) : State :=
  ls.foldl (fun s l => match l with
    | .dev p => if sectorOf p ∈ s.poison then s else { s with poison := insertBy id (sectorOf p) s.poison }
    | _ => s) s

/-- Leaves a page BACKED with its bytes (R201): in its backing, or kept by the device where there is none to write. -/
def State.backPage (s : State) (key n : Nat) (bs : List Byte) : State :=
  match s.crewOf key with
  | none => s
  | some k =>
    let p := k.page n
    match k.backLocs s n with
    | some ls => ((s.putAt ls bs).poisonAt (p.lost.filterMap fun i => ls[i]?)).putCrew (k.setPage n p.out)
    | none => s.putCrew (k.setPage n { p.out with dirty := true, bad := p.bad, data := cellsPut [] 0 bs })

/-- Takes a RES page out of its frame: a frame that its backing does not hold is written back first (R201, R204). -/
def State.evictPage (s : State) (key n : Nat) : State :=
  match s.crewOf key with
  | none => s
  | some k =>
    let p := k.page n
    if p.state ≠ .res then s
    else if p.dirty || p.fresh || k.ret then s.backPage key n (cellsGet p.data 0 Config.scratchPage)
    else s.putCrew (k.setPage n p.out)

/-! ## Frames (R199, R372) -/

/-- The frames of a Bench that a partition may use: 64 for each of its quadrants. -/
def benchFrames (s : State) (part b : Nat) : List Nat :=
  (List.range 4).flatMap fun n => if quadOwner s (4 * b + n) == some part then (List.range 64).map (64 * n + ·) else []

/-- The frames in use on a Bench. -/
def usedFrames (s : State) (b : Nat) : List Nat :=
  (s.crews.filter (·.bench == b)).flatMap fun k => (k.pages.filter (·.state == .res)).map (·.frame)

/-- The partition that a crew belongs to. -/
def Crew.part (s : State) (k : Crew) : Nat := (s.launchOf k.lid).part

/-- The pages that the pager holds for instructions whose pages it has brought in and which have not executed again (R204). -/
def heldPages (s : State) : List (Nat × Nat) :=
  s.cuts.flatMap fun c => match c.wait, c.crew.bind s.crewOf with
    | .scratchPage accs, some k =>
      let ns := distinct (accs.map (·.2 / Config.scratchPage))
      if ns.all fun n => (k.page n).state == .res then ns.map fun n => (k.key, n) else []
    | _, _ => []

/-- Whether a page is pinned, by the state or by a `SPIN` that awaits the quantum's commit. -/
def pinnedPage (s : State) (k : Crew) (n : Nat) : Bool :=
  (k.page n).pins != 0 || s.qeff.any fun q => match q.eff with
    | .pin key lo m true => key == k.key && decide (lo ≤ n ∧ n < lo + m)
    | _ => false

/-- The page that gives up its frame: the first of the partition on the Bench that is neither pinned nor to be kept (DESIGN CHOICE, log 11). -/
def victim (s : State) (part b : Nat) (keep : List (Nat × Nat)) : Option (Nat × Nat) :=
  (s.crews.filter fun k => k.bench == b && k.part s == part).findSome? fun k =>
    ((List.range k.pages.length).find? fun n =>
      (k.page n).state == .res && !pinnedPage s k n && !decide ((k.key, n) ∈ keep)).map fun n => (k.key, n)

/-- A frame for a page, after an eviction where every frame is in use; `none` where none can be had. -/
def State.takeFrame (s : State) (part b : Nat) (keep : List (Nat × Nat)) : Option (Nat × State) :=
  let free := fun (s : State) => (benchFrames s part b).find? fun f => !decide (f ∈ usedFrames s b)
  match free s with
  | some f => some (f, s)
  | none => match victim s part b keep with
    | none => none
    | some v =>
      let t := s.evictPage v.1 v.2
      (free t).map fun f => (f, t)

/-- What became of a page that was asked for: RES now, no frame for it, or a backing that cannot be read. -/
inductive PageGot where
  | res | noFrame | unreadable
  deriving DecidableEq, Repr

/-- Makes a page of a crew RES (R201, R204), counting a page-in (R211). -/
def State.pageUp (s : State) (key n : Nat) (keep : List (Nat × Nat)) : PageGot × State :=
  match s.crewOf key with
  | none => (.unreadable, s)
  | some k =>
    if (k.page n).state = .res then (.res, s)
    else match k.bytesOf s n with
      | none => (.unreadable, s)
      | some bs => match s.takeFrame (k.part s) k.bench keep with
        | none => (.noFrame, s)
        | some (f, t) =>
          let t := if (k.page n).state = .backed ∧ !(k.page n).dirty then t.backRead k n else t
          let k := (t.crewOf key).getD k
          let p := k.page n
          let q : SPage := { p with
            state := .res, frame := f, dirty := p.state == .backed && p.dirty, fresh := p.state == .zero, data := cellsPut [] 0 bs }
          let r := regPagein k.bench
          (.res, (t.putCrew (k.setPage n q)).setReg r (t.reg r + 1))

/-- Makes pages RES in turn, until one cannot be: its outcome, and the pages left. -/
def State.pagesUp (s : State) (key : Nat) (keep : List (Nat × Nat)) : List Nat → PageGot × List Nat × State
  | [] => (.res, [], s)
  | n :: ns =>
    match s.pageUp key n keep with
    | (.res, t) => t.pagesUp key keep ns
    | (g, t) => (g, n :: ns, t)

/-! ## Reading and writing a space -/

/-- Writes some bytes of a page's backing that cannot be read: the others, and the error, stay (R210, R382); a byte whose page is not
resident has no place (DESIGN CHOICE, log 103). -/
def State.backBytes (s : State) (k : Crew) (n : Nat) (bs : List (Nat × Byte)) : State :=
  let at_ := fun (i : Nat) => (xlat s (.bench k.bench) (s.launchOf k.lid).asid (ptrAdd (k.backing s n) i)).loc
  let ps := bs.filterMap fun b => (at_ b.1).map fun l => (l, b.2)
  s.putAt (ps.map (·.1)) (ps.map (·.2))

/-- Writes bytes at offsets of a space: in the frame of a RES page, otherwise in its backing (R205, R210). Beyond the space's
length there is no page to write. A byte that is written loses its fault (DESIGN CHOICE, log 103). -/
def State.spaceWrite (s : State) (key : Nat) (bytes : List (Nat × Byte)) : State :=
  let bs := bytes.filter fun b => decide (b.1 < ((s.crewOf key).map Crew.length).getD 0)
  (distinct (bs.map (·.1 / Config.scratchPage))).foldl (fun s n =>
    match s.crewOf key with
    | none => s
    | some k =>
      let mine := (bs.filter fun b => b.1 / Config.scratchPage == n).map fun b => (b.1 % Config.scratchPage, b.2)
      let p := k.page n
      let bad := p.bad.filter fun b => !mine.any (·.1 == b.1)
      if p.state = .res then s.putCrew (k.setPage n { p with dirty := true, bad := bad, data := scatter p.data 0 mine })
      else match k.bytesOf s n with
        | none => s.backBytes k n mine
        | some old => (s.putCrew (k.setPage n { p with bad := bad })).backPage key n (mine.foldl (fun ys b => ys.set b.1 b.2) old)) s

/-- Makes pages of a space ZERO, with pin count 0 (R207). -/
def State.spaceFree (s : State) (key lo n : Nat) : State :=
  match s.crewOf key with
  | none => s
  | some k => s.putCrew { k with pages := (List.range k.pages.length).map fun i => if lo ≤ i ∧ i < lo + n then SPage.zero else k.page i }

/-- The cut's own effects of the quantum on its space, in program order (R38, R205). -/
def ownScratch (s : State) (c : Cut) (key : Nat) : List QEffect :=
  (s.qeff.filter fun q => decide (q.uid ∈ c.lineage)).filterMap fun q => match q.eff with
    | .scratch k bs => if k = key then some (.scratch k bs) else none
    | .sfree k lo n => if k = key then some (.sfree k lo n) else none
    | .pin k lo n up => if k = key then some (.pin k lo n up) else none
    | .touch k ns => if k = key then some (.touch k ns) else none
    | _ => none

/-- The offsets among some of a space's that hold a fault in a frame: lasting ones, or transient ones. A byte that the cut's own quantum
has written is read from there. -/
def Crew.faults (k : Crew) (own : List QEffect) (lasting : Bool) (offs : List Nat) : List Nat :=
  offs.filter fun off =>
    (k.page (off / Config.scratchPage)).bad.any (fun b => b.1 == off % Config.scratchPage && b.2 == lasting)
      && !own.any fun e => match e with
        | .scratch _ bs => bs.any (·.1 == off)
        | .sfree _ lo n => decide (Config.scratchPage * lo ≤ off ∧ off < Config.scratchPage * (lo + n))
        | _ => false

/-- What reading offsets of a space leaves of the faults in its frames: a transient one is clean on the retry, and is counted (R381,
R383). -/
def State.frameRead (s : State) (key : Nat) (own : List QEffect) (offs : List Nat) : State :=
  match s.crewOf key with
  | none => s
  | some k => (distinct (k.faults own false offs)).foldl (fun (s : State) off =>
      match s.crewOf key with
      | none => s
      | some k =>
        let n := off / Config.scratchPage
        let p := k.page n
        (s.putCrew (k.setPage n { p with bad := p.bad.filter fun b => b != (off % Config.scratchPage, false) })).countUp
          (regBrerr k.bench) 16 16 1) s

/-- Whether the pages of own `SFREE`s of the quantum are touched anew by an access: the commit leaves them touched (R207, R208). -/
def State.touches (s : State) (c : Cut) (key : Nat) (ns : List Nat) : State :=
  let freed := ns.filter fun n => (ownScratch s c key).any fun e => match e with
    | .sfree _ lo m => decide (lo ≤ n ∧ n < lo + m)
    | _ => false
  if freed.isEmpty then s else s.queueEffect c (c.ilLow s) (.touch key freed)

/-- The commit of a touch: a page that its `SFREE` has made ZERO is BACKED, with zeros (R201). -/
def State.commitTouch (s : State) (key : Nat) (ns : List Nat) : State :=
  ns.foldl (fun s n => match s.crewOf key with
    | none => s
    | some k => if (k.page n).state = .zero then s.backPage key n (List.replicate Config.scratchPage 0) else s) s

/-- Raises or lowers the pin counts of a range of pages. -/
def Crew.pin (k : Crew) (ns : List Nat) (up : Bool) : Crew :=
  ns.foldl (fun (k : Crew) p => k.setPage p { k.page p with pins := if up then (k.page p).pins + 1 else (k.page p).pins - 1 }) k

/-- One byte of a space as a cut reads it. -/
def scratchByte (s : State) (c : Cut) (k : Crew) (off : Nat) : Byte :=
  let p := k.page (off / Config.scratchPage)
  let b := if p.state = .zero then 0 else cellGet p.data (off % Config.scratchPage)
  (ownScratch s c k.key).foldl (fun b e => match e with
    | .scratch _ bs => bs.foldl (fun b x => if x.1 = off then x.2 else b) b
    | .sfree _ lo n => if Config.scratchPage * lo ≤ off ∧ off < Config.scratchPage * (lo + n) then 0 else b
    | _ => b) b

/-! ## `LDS` and `STS` (R202 to R206) -/

/-- The crew of a cut. -/
def Cut.crewIn (s : State) (c : Cut) : Option Crew := c.crew.bind s.crewOf

/-- The length of the space that a cut's scratch accesses use: the local store on a Mill (R265), 0 in no crew (R197). -/
def Cut.spaceLength (s : State) (c : Cut) : Nat :=
  if c.onMill then Config.localStore else ((c.crewIn s).map Crew.length).getD 0

/-- The cause of one scratch access (R203). -/
def scratchCause (len size : Nat) (a : W64) : Nat :=
  if len < a.toNat + size then causeBND else if a.toNat % size ≠ 0 then causeALN else 0

/-- The checks of R203: `none` where every item passes. -/
def checkScratch (s : State) (c : Cut) (size : Nat) (as : List ItemAcc) (lanes : List Nat → List Nat) : Option State :=
  let len := c.spaceLength s
  let bad := as.filter fun a => scratchCause len size a.ptr != 0
  match bad with
  | [] => none
  | a :: _ =>
    if c.isPattern then some (s.lanesOnly c)
    else some (s.stop c (c.cause (bad.foldl (fun m b => m ||| scratchCause len size b.ptr) 0) a.ptr (lanesWord (lanes (bad.map (·.pos))))))

/-- Whether the pages of some accesses are all RES (R204). -/
def scratchIn (s : State) (c : Cut) (as : List ItemAcc) : Bool :=
  c.onMill || match c.crewIn s with
    | some k => as.all fun a => (k.page (a.ptr.toNat / Config.scratchPage)).state == .res
    | none => true

/-- A scratch page fault: the cut waits for the pager; an access made once is every governed lane's (R204). -/
def State.scratchFault (s : State) (c : Cut) (once : Bool) (as : List ItemAcc) : State :=
  let accs := if once then as.flatMap fun a => c.governed.map fun i => (i, a.ptr.toNat) else as.map fun a => (a.pos, a.ptr.toNat)
  s.hold c (.scratchPage accs)

/-- The element that an item loads. -/
def scratchLoad (s : State) (c : Cut) (et size : Nat) (a : W64) : W64 :=
  let bs := if c.onMill then cellsGet c.localMem a.toNat size
    else match c.crewIn s with
      | some k => (List.range size).map fun i => scratchByte s c k (a.toNat + i)
      | none => []
  extend et (natLE bs)

/-- The offsets that an access reads. -/
def ItemAcc.offsets (a : ItemAcc) (size : Nat) : List Nat := (List.range size).map (a.ptr.toNat + ·)

/-- The accesses of an `LDS` that meet an uncorrectable fault in a frame (R205). -/
def scratchErrs (s : State) (c : Cut) (size : Nat) (as : List ItemAcc) : List ItemAcc :=
  if c.onMill then [] else match c.crewIn s with
    | none => []
    | some k => as.filter fun a => !(k.faults (ownScratch s c k.key) true (a.offsets size)).isEmpty

/-- An `LDS` whose pages are in their frames performs. An errored lane reads zero and is counted; under LF = 1 it sets its flag, and
otherwise raises ECC where that is delivered, once the instruction has performed (R126, R127, R205). -/
def State.scratchGo (s : State) (c : Cut) (srcs : List Opnd) (d : Opnd) (la et size : Nat) (once : Bool) (as : List ItemAcc) : State :=
  let errs := scratchErrs s c size as
  let load := fun (a : ItemAcc) => if errs.any (·.pos == a.pos) then 0 else scratchLoad s c et size a.ptr
  let val := fun (i : Nat) => match as.find? (·.pos == i) with
    | some a => load a
    | none => if c.performed i then c.kept d 0 i else 0
  let v := if once then uVal ((as.head?.map load).getD 0) else c.overLanes val
  let s := match c.crewIn s with
    | none => s
    | some k =>
      let s := s.frameRead k.key (ownScratch s c k.key) (as.flatMap fun (a : ItemAcc) => a.offsets size)
      if c.quantum s then s.touches c k.key (distinct (as.map fun (a : ItemAcc) => a.ptr.toNat / Config.scratchPage)) else s
  let named := if once then c.governed else errs.map (·.pos)
  match errs with
  | [] => s.writeLong c srcs d la v none []
  | a :: _ =>
    let s := s.countUp (regBrerr c.bench) 48 16 errs.length
    if c.flagPred.isNone && eccOn s (c.asid s) then
      if c.isPattern then s.lanesOnly c
      else (s.popAll c srcs).stop ((c.popped srcs).result c.gov d v)
        { c.cause causeECC a.ptr (lanesWord named) with done := c.allLanes }
    else s.await c srcs c.gov { Outst.of d et la (.value v none) with
      uniform := once, flagPred := c.flagPred, flagged := if c.isPattern then 1#32 else maskOf 32 (· ∈ named) }

/-- `LDS` (R203 to R205): made once where its inputs are U. -/
def execLds (l : BitVec 4) (d a b : Opnd) (s : State) := operate (.lds l d a b) s fun c =>
  let x := c.read s a []
  let y := c.read s b [a]
  let et := modeET c.ctx.mode
  let size := elemBytes et
  let u := x.isU && y.isU && c.replay == 0
  let all := c.accesses (c.sumAddr x y)
  let as := if u then all.take 1 else all
  if !readMayIssue s c then s.hold c .order
  else if c.gov = .none then s.write c [a, b] .none d (uVal 0)
  else if c.needsLanes c.gov (if u then uVal 0 else .lanes []) then s.lanesOnly c
  else match checkScratch s c size as (fun bad => if u then c.governed else bad) with
    | some t => t
    | none =>
      if !scratchIn s c as then s.scratchFault c u as
      else s.scratchGo c [a, b] d l.toNat et size u as

/-- The bytes that an `STS` writes, in ascending item order (R205). -/
def scratchBytes (c : Cut) (size : Nat) (v : RegVal) (as : List ItemAcc) : List (Nat × Byte) :=
  as.flatMap fun a =>
    let bs := bytesLE size (c.valAt v a.pos).toNat
    (List.range size).map fun k => (a.ptr.toNat + k, bs.getD k 0)

/-- An `STS` on a Mill writes the local store, and its attempt overflows where the undo log would need a 513th entry (R273). -/
def State.localStore (s : State) (c : Cut) (srcs : List Opnd) (bs : List (Nat × Byte)) : State :=
  let r := bs.foldl (fun (acc : Section × List Host.Cell) b => localWrite acc.1 acc.2 b.1 [b.2]) (c.sec, c.localMem)
  if Config.undoLimit < r.1.undo.length then (s.putSec c r.1 r.2).returnTrap { c with sec := r.1, localMem := r.2 } 2
  else
    let k : Cut := { c with sec := r.1, localMem := r.2 }
    (s.putSec c r.1 r.2).complete k srcs k

/-- `STS` (R203 to R205): a store that has performed once it reaches the frame (R206), or at the quantum commit (R38). -/
def execSts (d a b : Opnd) (s : State) := operate (.sts d a b) s fun c =>
  let x := c.read s a []
  let y := c.read s b [a]
  let v := c.read s d [a, b]
  let size := elemBytes (modeET c.ctx.mode)
  let as := c.accesses (c.sumAddr x y)
  let bs := scratchBytes c size v as
  if !effectMayIssue s c then s.hold c .order
  else match checkScratch s c size as id with
    | some t => t
    | none =>
      if !scratchIn s c as then s.scratchFault c false as
      else if as.isEmpty then s.complete c [a, b, d] c
      else if c.onMill then s.localStore c [a, b, d] bs
      else match c.crewIn s with
        | none => s.complete c [a, b, d] c
        | some k =>
          let t := if c.quantum s then s.queueEffect c (c.ilLow s) (.scratch k.key bs) else s.spaceWrite k.key bs
          t.complete c [a, b, d] c.effect

/-! ## The pager -/

/-- A page fault that cannot be resolved (R204). -/
def State.scratchPoison (s : State) (c : Cut) (accs : List (Nat × Nat)) (bad : List Nat) : State :=
  let xs := accs.filter fun a => decide (a.2 / Config.scratchPage ∈ bad)
  s.raiseAt c causeSPF (BitVec.ofNat 64 (leastOf 0 (xs.map (·.2)))) (xs.map (·.1))

/-- PAGE_IN (R204): the pager brings in every page that a faulting instruction touches, and raises SPF where a backing page is
not resident or cannot be read. With no frame to be had the instruction waits on. -/
def execPageIn (uid : Nat) (s : State) : Host.Outcome State Fault Refusal :=
  .next (match s.cutOf uid with
    | none => s
    | some c => match c.wait, if c.place.resident then c.crewIn s else none with
      | .scratchPage accs, some k =>
        let ns := distinct (accs.map (·.2 / Config.scratchPage))
        let bad := ns.filter fun n => (k.bytesOf s n).isNone
        if !bad.isEmpty then (bad.foldl (fun s n => s.backRead k n) s).scratchPoison c accs bad
        else match s.pagesUp k.key (ns.map (fun n => (k.key, n)) ++ heldPages s) ns with
          | (.res, _, t) => t
          | _ => s
      | _, _ => s)

/-! ## `SALLOC`, `SFREE`, `SPIN`, `SUNPIN` and `SPGQ` (R207, R208) -/

/-- The value of a register that is U, or equal in every governed item. -/
def Cut.governedOf (c : Cut) (v : RegVal) : Option W64 :=
  if v.isU then some v.base
  else match c.governed with
    | [] => some 0
    | i :: is => if is.all (fun j => c.valAt v j == c.valAt v i) then some (c.valAt v i) else none

/-- The pages of a range (R207): the first and how many. -/
def rangePages (a b : Nat) : Nat × Nat :=
  if b = 0 then (0, 0) else (a / Config.scratchPage, (a + b - 1) / Config.scratchPage + 1 - a / Config.scratchPage)

/-- What the four range instructions check first: a mixed guard and differing operands raise ILL, a false guard performs
nothing, and a range beyond the space raises BND (R207). -/
def State.scratchRange (s : State) (c : Cut) (a b : Opnd) (none_ : State) (whole : Bool) (go : Nat → Nat → State) : State :=
  let g := c.governed
  let x := c.governedOf (c.read s a [])
  let y := c.governedOf (c.read s b [a])
  if !g.isEmpty && g.length != c.positions.length then s.ill c
  else match x, y with
    | some x, some y =>
      let r := rangePages x.toNat y.toNat
      if g.isEmpty then none_
      else if y ≠ 0 ∧ c.spaceLength s < x.toNat + y.toNat then s.raiseAll c causeBND x
      else if whole && (x.toNat % Config.scratchPage != 0 || y.toNat % Config.scratchPage != 0) then s.raiseAll c causeALN x
      else go r.1 r.2
    | _, _ => s.ill c

/-- The pages of a range, ascending. -/
def pagesFrom (lo n : Nat) : List Nat := (List.range n).map (lo + ·)

/-- `SALLOC`: the pages of the range become RES in ascending order while frames are to be had outside it. -/
def execSalloc (d a b : Opnd) (s : State) := operate (.salloc d a b) s fun c =>
  s.scratchRange c a b (s.write c [a, b] .none d (uVal 0)) false fun lo n =>
    match c.crewIn s with
    | none => s.write c [a, b] .all d (uVal 0)
    | some k =>
      let ns := pagesFrom lo n
      let t := (s.pagesUp k.key (ns.map (fun p => (k.key, p)) ++ heldPages s) ns).2.2
      let k := (t.crewOf k.key).getD k
      let up := ns.filter fun p => (k.page p).state == .res
      let t := if c.quantum s then t.touches c k.key up else t
      t.write c.effect [a, b] .all d (uVal (BitVec.ofNat 64 up.length))

/-- `SFREE`: the pages become ZERO; it counts as a store to every byte (R206). -/
def execSfree (a b : Opnd) (s : State) := operate (.sfree a b) s fun c =>
  if !effectMayIssue s c then s.hold c .order
  else s.scratchRange c a b (s.complete c [a, b] c) true fun lo n =>
    match c.crewIn s with
    | none => s.complete c [a, b] c
    | some k =>
      let t := if c.quantum s then s.queueEffect c (c.ilLow s) (.sfree k.key lo n) else s.spaceFree k.key lo n
      t.complete c [a, b] c.effect

/-- The pin count of a page as a cut sees it, its own quantum's pins among them (R38, R208). -/
def pinsSeen (s : State) (c : Cut) (k : Crew) (n : Nat) : Nat :=
  (ownScratch s c k.key).foldl (fun m e => match e with
    | .sfree _ lo x => if lo ≤ n ∧ n < lo + x then 0 else m
    | .pin _ lo x up => if lo ≤ n ∧ n < lo + x then (if up then m + 1 else m - 1) else m
    | _ => m) (k.page n).pins

/-- Whether a range may be pinned: no count exceeds 15, and 32 unpinned frames of the partition's share remain (R207). -/
def mayPin (s : State) (c : Cut) (k : Crew) (ns : List Nat) : Bool :=
  let share := (benchFrames s (k.part s) k.bench).length
  let pinned := ((s.crews.filter fun x => x.bench == k.bench && x.part s == k.part s).map fun x =>
    ((List.range x.pages.length).filter fun n => (x.page n).state == .res && pinnedPage s x n).length).foldl (· + ·) 0
  let fresh := (ns.filter fun n => !pinnedPage s k n).length
  ns.all (fun n => decide (pinsSeen s c k n < 15)) && decide (pinned + fresh + 32 ≤ share)

/-- Pins or unpins a range: in quantum mode at the commit, in the order of the cut's other effects on its space (R38, R208). -/
def State.pinRange (s : State) (c : Cut) (key lo n : Nat) (up : Bool) : State :=
  if c.quantum s then s.queueEffect c (c.ilLow s) (.pin key lo n up)
  else match s.crewOf key with
    | none => s
    | some k => s.putCrew (k.pin (pagesFrom lo n) up)

/-- The commit of a pin or an unpin; a pinned page is RES (R201). -/
def State.commitPin (s : State) (key lo n : Nat) (up : Bool) : State :=
  let ns := pagesFrom lo n
  let t := if up then (s.pagesUp key (ns.map (fun p => (key, p)) ++ heldPages s) ns).2.2 else s
  match t.crewOf key with
  | none => t
  | some k => t.putCrew (k.pin ns up)

/-- `SPIN`: all of the range is pinned, or nothing changes. -/
def execSpin (d a b : Opnd) (s : State) := operate (.spin d a b) s fun c =>
  s.scratchRange c a b (s.write c [a, b] .none d (uVal 0)) false fun lo n =>
    match c.crewIn s with
    | none => s.write c [a, b] .all d (uVal 1)
    | some k =>
      let ns := pagesFrom lo n
      if !mayPin s c k ns then s.write c [a, b] .all d (uVal 0)
      else match s.pagesUp k.key (ns.map (fun p => (k.key, p)) ++ heldPages s) ns with
        | (.res, _, t) => (t.pinRange c k.key lo n true).write c.effect [a, b] .all d (uVal 1)
        | _ => s.write c [a, b] .all d (uVal 0)

def execSunpin (a b : Opnd) (s : State) := operate (.sunpin a b) s fun c =>
  s.scratchRange c a b (s.complete c [a, b] c) false fun lo n =>
    match c.crewIn s with
    | none => s.complete c [a, b] c
    | some k =>
      (s.pinRange c k.key lo n false).complete c [a, b] c.effect

/-- Whether a page is touched as a cut sees it, by what it has done in its quantum in program order (R38, R208). -/
def touchedSeen (s : State) (c : Cut) (k : Crew) (n : Nat) : Bool :=
  (ownScratch s c k.key).foldl (fun t e => match e with
    | .sfree _ lo m => t && !decide (lo ≤ n ∧ n < lo + m)
    | .scratch _ bs => t || bs.any fun b => b.1 / Config.scratchPage == n
    | .pin _ lo m up => t || (up && decide (lo ≤ n ∧ n < lo + m))
    | .touch _ ns => t || decide (n ∈ ns)
    | _ => t) ((k.page n).state != .zero)

/-- The state word of a page as a cut sees it (R208). -/
def pageWord (s : State) (c : Cut) (k : Crew) (n : Nat) : W64 :=
  let p := k.page n
  let touched := touchedSeen s c k n
  let res := touched && p.state == .res
  BitVec.ofNat 64 ((if res then p.frame * 2 ^ 8 + (if p.dirty then 4 else 0) + 1 else 0) + pinsSeen s c k n * 2 ^ 4
    + (if touched then 8 else 0))

/-- `SPGQ` (R208). -/
def execSpgq (d a b : Opnd) (s : State) := operate (.spgq d a b) s fun c =>
  let x := c.read s a []
  let k := c.crewIn s
  let num := fun (n : Nat) => s.write c [a] c.gov d (uVal (BitVec.ofNat 64 n))
  match constOf b with
  | 0 =>
    let bad := c.governed.filter fun i => decide (c.spaceLength s ≤ (c.valAt x i).toNat)
    if c.needsLanes c.gov (if x.isU then uVal 0 else .lanes []) then s.lanesOnly c
    else match bad with
      | i :: _ => s.raiseAt c causeBND (c.valAt x i) bad
      | [] =>
        let word := fun (i : Nat) => ((k.map fun k => pageWord s c k ((c.valAt x i).toNat / Config.scratchPage)).getD 0)
        s.write c [a] c.gov d (if x.isU then uVal (word (c.governed.getD 0 0)) else c.overLanes word)
  | 1 => s.write c [a] c.gov d (uVal ((k.map Crew.handle).getD 0))
  | 2 => num (c.spaceLength s)
  | _ => num ((k.map fun k => (k.pages.filter (·.state == .res)).length).getD 0)

/-! ## Deliveries (R210) -/

/-- The live space of a launch that a handle names: RET, SLOT and GEN all agree (R198). -/
def spaceOf (s : State) (lid : Nat) (handle : W64) : Option Crew := s.crews.find? fun k => k.lid == lid && k.handle == handle

/-- A write of a Carter or a multicast reaches its space, or is discarded and counted in SDROP; it waits while the space moves
(R209 to R211). -/
def State.deliverScratch (s : State) (w : ScratchWrite) : State :=
  let t : State := { s with scratchW := s.scratchW.filter (·.id != w.id) }
  match spaceOf s w.lid w.handle with
  | some k => if k.moving then s else t.spaceWrite k.key ((List.range w.bytes.length).map fun i => (w.off + i, w.bytes.getD i 0))
  | none =>
    let r := regSdrop w.deliver
    let n := Nat.min 0xFFFFFF (fld (t.reg r) 0 24 + 1)
    t.setReg r (BitVec.ofNat 64 (fld w.handle 48 16 * 2 ^ 48 + fld w.handle 0 24 * 2 ^ 24 + n))

/-- SCRATCH_WRITE_DELIVERY: a write in flight is delivered; in quantum mode the writes of a job wait for the quantum's end
(R229). -/
def execScratchWriteDelivery (id : Nat) (s : State) : Host.Outcome State Fault Refusal :=
  .next (match s.scratchW.find? (·.id == id) with
    | none => s
    | some w => if (s.launchOf w.lid).qm then s else s.deliverScratch w)

end Sys2Proof.Machine
end

