-- ==== Sys2Proof/Machine/Fences.lean ====
section
/-! DEFINITION. `FENCE`, `FWAIT` and `FTEST` (R181 to R186) and the delivery of late faults (R341, R343). -/

namespace Sys2Proof.Machine

/-- The token of a fence in a slot (R182). -/
def fenceToken (slot : Nat) (f : Fence) : W64 := BitVec.ofNat 64 (f.seq % 2 ^ 24 * 2 ^ 8 + slot)

/-- The slot a `FENCE` takes: the lowest free one, or that of the oldest held fence once it has completed (R183). -/
def Cut.fenceSlot (s : State) (c : Cut) : Option Nat :=
  match lowestFree 0 8 ((List.range 8).filter fun i => (c.ctx.fences.getD i none).isSome) with
  | some i => some i
  | none =>
    let oldest := leastOf 0 ((List.range 8).filterMap fun i => (c.ctx.fences.getD i none).map (·.seq))
    ((List.range 8).find? fun i => (c.ctx.fences.getD i none).any fun f => f.seq == oldest && fenceDone s f)

/-- The fence that a cut opens now. A Mill's sections commit in program order, so there it has completed (R265). -/
def Cut.newFence (s : State) (c : Cut) (e m : Bool) (kind : Nat) : Fence :=
  { seq := c.ctx.fseq, kind := kind, mills := m, jobs := e, scope := modeSC c.ctx.mode, lid := c.lid, cover := c.lineage, upto := s.nextSeq
    done := c.onMill }

/-- `FENCE` (R181): opens a fence over the cut's earlier accesses and writes its token. The fence whose slot it takes has invalidated
L1 when it completed (R192). -/
def execFence (e f : BitVec 1) (k : BitVec 2) (d : Opnd) (s : State) := operate (.fence e f k d) s fun c0 =>
  let s := s.settleFences c0
  let c := (s.cutOf c0.uid).getD c0
  match c.fenceSlot s with
  | none => s.hold c .fenceSlot
  | some i =>
    let x := c.newFence s (e == 1#1) (f == 1#1) k.toNat
    let t := c.ctx.fences ++ List.replicate (8 - c.ctx.fences.length) none
    let c2 : Cut := { c with ctx := { c.ctx with fences := t.set i (some x), fseq := c.ctx.fseq + 1 } }
    let c2 := if k = 1#2 then c2 else c2.effect
    s.write c2 [] .all d (uVal (fenceToken i x))

/-- What a token names (R182, R184): ILL for a value that is not U or has reserved bits; nothing where the token is stale. -/
inductive TokenIs where
  | illegal | stale
  | current (slot : Nat) (f : Fence)
  deriving DecidableEq, Repr

def Cut.tokenOf (c : Cut) (v : RegVal) : TokenIs :=
  let t := v.base
  if !v.isU ∨ fld t 32 32 ≠ 0 ∨ fld t 3 5 ≠ 0 then .illegal
  else match c.ctx.fences.getD (fld t 0 3) none with
    | some f => if f.seq % 2 ^ 24 = fld t 8 24 then .current (fld t 0 3) f else .stale
    | none => .stale

/-- Whether a late fault is delivered at a fence: its access is one of the covered set (R181, R341). -/
def Fence.delivers (f : Fence) (x : LateFault) : Bool :=
  f.covers x.uid x.seq && (match x.what with | 0 => f.kind != 1 | 1 => true | _ => f.jobs)

/-- The order of late faults in a cut's program. -/
def earliest (fs : List LateFault) : List LateFault := sortBy (·.seq) fs

/-- A fence is observed complete: its slot is free, and the late faults that it covers are delivered together, the earliest
named, the others counted in one fault record entry (R183, R341, R343). `go` completes an instruction without any. -/
def State.observe (s : State) (c : Cut) (slot : Nat) (f : Fence) (go : State → Cut → State) : State :=
  let k : Cut := { c with ctx := { c.ctx with fences := c.ctx.fences.set slot none } }
  match earliest (c.late.filter f.delivers) with
  | [] => go s k
  | x :: more =>
    let k : Cut := { k with late := c.late.filter fun x => !f.delivers x }
    let l := s.launchOf c.lid
    let union := fun (xs : List LateFault) => xs.foldl (fun m y => m ||| y.causes) 0#64
    let s := match more with
      | [] => s
      | y :: _ => s.faultRecord l.asid ⟨1, more.length, union more, l.launchId, c.cutid, y.pc, y.addr, y.lanes⟩
    s.stop k { causes := union (x :: more), pc := k.ctx.pc, addr := x.addr, lanes := x.lanes, done := k.allLanes, lspc := x.pc }

/-- `FWAIT` (R184). -/
def execFwait (a : Opnd) (s : State) := operate (.fwait a) s fun c0 =>
  let s := s.settleFences c0
  let c := (s.cutOf c0.uid).getD c0
  match c.tokenOf (c.read s a []) with
  | .illegal => s.ill c
  | .stale => s.complete c [a] c
  | .current slot f =>
    if !f.done then s.hold c (.fence slot f.seq)
    else s.observe c slot f fun s k => s.complete k [a] k

/-- `FTEST` (R185): a result of 1 that some lane performs frees the slot. -/
def execFtest (d a : Opnd) (s : State) := operate (.ftest d a) s fun c0 =>
  let s := s.settleFences c0
  let c := (s.cutOf c0.uid).getD c0
  match c.tokenOf (c.read s a []) with
  | .illegal => s.ill c
  | .stale => s.write c [a] c.gov d (uVal 1)
  | .current slot f =>
    if !f.done then s.write c [a] c.gov d (uVal 0)
    else if !c.gov.anyLane || c.needsLanes c.gov (uVal 1) then s.write c [a] c.gov d (uVal 1)
    else if (c.late.filter f.delivers).isEmpty then
      s.observe c slot f fun s k => s.write k [a] k.gov d (uVal 1)
    else
      let t := s.popAll c [a]
      let t := if isQ d then t.pushQ c d (c.entry c.gov (uVal 1)) c.ctx.pc else t
      t.observe ((c.popped [a]).result c.gov d (uVal 1)) slot f fun s k => s.putCut k

end Sys2Proof.Machine
end

