-- ==== Sys2Proof/Machine/Crews.lean ====
section
/-! DEFINITION. Crews, barriers, roles, chutes and streams (R212 to R222): op7 0x42 to 0x46. -/

namespace Sys2Proof.Machine

/-! ## Membership (R29, R213) -/

/-- How many items a cut counts against a capacity: its box, or 32 (R29). -/
def Cut.counts (c : Cut) : Nat := if c.isPattern then c.box.size else Config.lanes

/-- How many items the members of a crew count. The parts of one lane cut count once. -/
def crewCount (s : State) (key : Nat) : Nat :=
  let ms := s.cuts.filter (·.crew == some key)
  ((ms.filter (·.isPattern)).map (·.counts)).foldl (· + ·) 0
    + Config.lanes * (distinct ((ms.filter fun c => !c.isPattern).map (·.parent))).length

/-- The lane cuts whose contexts a quadrant holds, however they have split (R34). -/
def quadHolds (s : State) (b q : Nat) : List Nat :=
  distinct ((s.cuts.filter fun c => c.place == .quad b q && !c.isPattern).map (·.parent))

/-- The quadrants of a Bench that a partition owns. -/
def ownedQuads (s : State) (part b : Nat) : List Nat := (List.range 4).filter fun q => quadOwner s (4 * b + q) == some part

/-- The owned quadrant of a Bench with a free slot: the lowest (DESIGN CHOICE, log 11). -/
def freeQuad (s : State) (part b : Nat) : Option Nat :=
  (ownedQuads s part b).find? fun q => decide ((quadHolds s b q).length < Config.slotsPerQuad)

/-- The crews of a Bench: a saved crew has left it (R209). -/
def State.crewsOn (s : State) (b : Nat) : List Crew := s.crews.filter fun k => k.bench == b && !k.moving

/-- The quadrant slots that crews reserve on a Bench, for one partition. -/
def reservedSlots (s : State) (part b : Nat) : Nat :=
  (((s.crewsOn b).filter fun k => k.part s == part).map fun k => ceilDiv k.capacity 32).foldl (· + ·) 0

/-- The slots of a Bench that lane cuts in no crew hold, apart from one lane cut's. -/
def looseSlots (s : State) (part b : Nat) (but : Nat) : Nat :=
  (distinct ((s.cuts.filter fun c => !c.isPattern && c.crew.isNone && c.parent != but && (s.launchOf c.lid).part == part
    && (ownedQuads s part b).any fun q => c.place == .quad b q).map (·.parent))).length

/-- Whether a Bench can reserve more slots for a crew (R213). -/
def mayReserve (s : State) (part b n but : Nat) : Bool :=
  decide (n + reservedSlots s part b + looseSlots s part b but ≤ Config.slotsPerQuad * (ownedQuads s part b).length)

/-- A Loom without a claim (R234): its accumulators hold +0, kind F, status clear. -/
def freshLoom (num : Nat) : Loom :=
  ⟨num, none, List.replicate 4 ⟨List.replicate 256 0, false, false, false, false, false⟩, [], false, [], none, none⟩

/-- Saves the claims of some Looms: accumulators, status and operations, whose tokens are returned (R256). A slaved follower is free, and
a product led by another goes on unfused. -/
def State.saveLooms (s : State) (which : Loom → Bool) : State :=
  let mine := s.looms.filter fun m => m.claim.isSome && which m
  let alone := fun (o : LoomOp) => ({ o with follower := none, slaved := false, tokens := 0 } : LoomOp)
  let free := fun (n : Nat) => mine.any fun m => m.ops.any fun o => o.slaved && o.follower == some n
  { s with
    savedClaims := s.savedClaims ++ mine.map fun (m : Loom) =>
      (⟨m.claim.getD (0, 0), { m with ops := m.ops.map alone }⟩ : SavedClaim)
    looms := s.looms.map fun (m : Loom) =>
      if mine.any (·.num == m.num) then { freshLoom m.num with slave := m.slave }
      else if free m.num then { m with slave := false } else m }

/-- Saves the claims of a cut that leaves its Looms, and drops the self-test that its `MTEST` asked for (R256, R258). -/
def State.saveClaims (s : State) (c : Cut) : State :=
  let s : State := { s with looms := s.looms.map fun (m : Loom) => if m.asked = some c.uid then { m with asked := none, found := none } else m }
  s.saveLooms fun m => m.claim.any (c.holds s)

/-- Moves a cut to a Bench: a pattern cut to its Foreman, another into a slot, or its cut queue where none is free. -/
def State.moveCut (s : State) (c : Cut) (b : Nat) : State × Cut :=
  let s := ((s.settleBench c.bench).freshFor c.bench b).saveClaims c
  let c := (s.cutOf c.uid).getD c
  let place := if c.isPattern then .foreman b
    else match freeQuad s (s.launchOf c.lid).part b with
      | some q => .quad b q
      | none => .queue b
  let k : Cut := { c with place := place, born := s.cycle }
  (s.putCut k, k)

/-- A new crew (R213). -/
def Crew.new (l : Launch) (key slot gen bench cap pages : Nat) (ret : Bool) : Crew :=
  { key := key, lid := l.lid, slot := slot, gen := gen, ret := ret, bench := bench, capacity := cap, moving := false
    pages := List.replicate pages SPage.zero, barriers := List.replicate 8 ⟨0, [], [], []⟩
    chutes := (List.range 64).map fun n => ⟨l.chutes.getD n 0, [], false⟩
    streams := List.replicate 16 ⟨0, [], 0, []⟩, events := [], postWait := [] }

/-- The space slot of a launch that a new crew takes: the lowest free one (DESIGN CHOICE, log 11). -/
def freeSlot (s : State) (l : Launch) (ret : Bool) (most : Nat) : Option Nat :=
  lowestFree 1 (Nat.min most 8192) ((s.crews.filter fun k => k.lid == l.lid && k.ret == ret).map (·.slot))

/-- `CNEW` (R213). -/
def execCnew (d a : Opnd) (s : State) := operate (.cnew d a) s fun c =>
  let l := s.launchOf c.lid
  match c.uniformOf (c.read s a []) with
  | none => s.ill c
  | some n =>
    if c.isPart || c.crew.isSome then s.ill c
    else
      let fits := decide (1 ≤ n.toNat ∧ n.toNat ≤ Config.crewCapacity ∧ c.counts ≤ n.toNat)
        && decide ((s.crewsOn c.bench).length < Config.crewsPerBench)
        && mayReserve s l.part c.bench (ceilDiv n.toNat 32) c.parent
      match if fits then freeSlot s l false l.nslot else none with
      | none => s.write c [a] .all d (uVal 0)
      | some slot =>
        let k := Crew.new l s.nextId slot (slotGen l slot) c.bench n.toNat (l.space / Config.scratchPage) false
        let t : State := { s with crews := s.crews ++ [k], nextId := s.nextId + 1 }
        t.write { c.effect with crew := some k.key } [a] .all d (uVal k.handle)

/-- `CJOIN` (R214): a cut that joins a crew on another Bench moves there; a pattern cut waits for a Foreman entry. -/
def execCjoin (d a : Opnd) (s : State) := operate (.cjoin d a) s fun c =>
  match c.uniformOf (c.read s a []) with
  | none => s.ill c
  | some h =>
    if c.isPart || c.crew.isSome then s.ill c
    else match spaceOf s c.lid h with
      | none => s.write c [a] .all d (uVal 2)
      | some k =>
        let full := c.isPattern && c.bench != k.bench
          && decide (Config.foremanLimit ≤ (s.cuts.filter fun e => e.isPattern && e.place == .foreman k.bench).length)
        if k.capacity < crewCount s k.key + c.counts then s.write c [a] .all d (uVal 0)
        else if k.moving || full then s.hold c .foremanFull
        else
          let m := if c.bench = k.bench then (s, c) else s.moveCut c k.bench
          m.1.write { m.2.effect with crew := some k.key } [a] .all d (uVal 1)

/-- `CLEAVE` (R214). -/
def execCleave (s : State) := operate .cleave s fun c =>
  match c.crew with
  | none => s.ill c
  | some key => if c.isPart then s.ill c else (s.advance { c.effect with crew := none }).leftCrew c key

/-- `CSIZE` and `CRANK` (R215). -/
def execCsize (d : Opnd) (s : State) := operate (.csize d) s fun c =>
  let n := match c.crew with | some key => (crewItems s key).length | none => c.positions.length
  s.write c [] c.gov d (uVal (BitVec.ofNat 64 n))

def execCrank (d : Opnd) (s : State) := operate (.crank d) s fun c =>
  let all := match c.crew with | some key => crewItems s key | none => c.positions.map (itemKey s c)
  s.write c [] c.gov d (c.overLanes fun i => BitVec.ofNat 64 (all.filter fun p => decide (p.2 < c.ilAt s i)).length)

/-! ## Moving a crew (R209) -/

/-- Every RES page of a space leaves its frame, written back where dirty (R209 step 2). -/
def State.evictAll (s : State) (k : Crew) : State := (List.range k.pages.length).foldl (fun s n => s.evictPage k.key n) s

/-- The pinned pages of a space. -/
def Crew.pinned (s : State) (k : Crew) : List Nat := (List.range k.pages.length).filter (pinnedPage s k)

/-- Makes every page of some RES that can be: one whose backing cannot be read stays BACKED; `none` where frames are wanting. -/
def State.bringAll (s : State) (key : Nat) (keep : List (Nat × Nat)) : List Nat → Option State
  | [] => some s
  | n :: ns => match s.pageUp key n keep with
    | (.noFrame, _) => none
    | (_, t) => t.bringAll key keep ns

/-- A space settles on a Bench: its pinned pages come in (R209 step 3); `none` where frames are wanting. -/
def State.settleSpace (s : State) (key b : Nat) : Option State :=
  match s.crewOf key with
  | none => none
  | some k =>
    let t := s.putCrew { k with bench := b, moving := false }
    t.bringAll key ((k.pinned t).map (fun n => (key, n)) ++ heldPages t) (k.pinned t)

/-- Whether a Bench has room for a crew: its slots, and a Foreman entry for each pattern cut of it (R21, R213). -/
def roomFor (s : State) (k : Crew) (b : Nat) : Bool :=
  decide (b < Config.benches) && decide ((s.crewsOn b).length < Config.crewsPerBench)
    && mayReserve s (k.part s) b (ceilDiv k.capacity 32) 0
    && decide ((s.cuts.filter fun c => c.isPattern && (c.place == .foreman b || (c.crew == some k.key && c.place != .foreman b))).length
      ≤ Config.foremanLimit)

/-- CREW_MOVE (R209): the scheduler moves a crew to another Bench that has room, space and members together. -/
def execCrewMove (key bench : Nat) (s : State) : Host.Outcome State Fault Refusal :=
  .next (match s.crewOf key with
    | none => s
    | some k =>
      if k.moving || k.bench == bench || !roomFor s k bench then s
      else match (s.evictAll k).settleSpace key bench with
        | none => s
        | some t => (t.cuts.filter (·.crew == some key)).foldl (fun s c => (s.moveCut c bench).1) t)

/-! ## Barriers (R216, R217) -/

/-- The barrier of a crew by its number. -/
def Crew.barrier (k : Crew) (n : Nat) : Barrier := k.barriers.getD n ⟨0, [], [], []⟩

/-- Items arrive at a barrier: one that the current phase has counted counts in the next. `rel` is what the arrival releases. -/
def Barrier.arrive (b : Barrier) (rel : List Fence) (items : List (Nat × Nat)) : Barrier :=
  items.foldl (fun (b : Barrier) i =>
    if i ∈ b.here then (if i ∈ b.next then b else { b with next := b.next ++ [i] }) else { b with here := b.here ++ [i] })
    { b with conds := b.conds ++ rel }

/-- The arrival of items at a barrier of a crew, whose phase may complete with it. -/
def State.arriveAt (s : State) (key n : Nat) (rel : List Fence) (items : List (Nat × Nat)) : State :=
  match s.crewOf key with
  | none => s
  | some k => (s.putCrew { k with barriers := k.barriers.set n ((k.barrier n).arrive rel items) }).settleCrew key

/-- Whether a phase of a barrier is pending (R217). -/
def Barrier.pending (b : Barrier) (phase : Nat) : Bool := phase == b.phase || phase == (b.phase + 1) % 2 ^ 24

/-- The items of a cut that a barrier has counted in the current phase, its own arrivals of the quantum among them (R38). -/
def countedHere (s : State) (c : Cut) (k : Crew) (n : Nat) : List (Nat × Nat) :=
  (k.barrier n).here ++ s.qeff.flatMap fun q => match q.eff with
    | .arrive key m items => if key = k.key ∧ m = n ∧ q.uid ∈ c.lineage then items else []
    | _ => []

/-- A cut arrives at a barrier: the phase it arrives in, and the state after the arrival. An arrival never waits: it is a release at crew
scope, and its phase completes once the reads before it are bound (R194, R216). -/
def State.arriving (s : State) (c : Cut) (n : Nat) : Nat × State × Cut :=
  match c.crewIn s with
  | none =>
    let p := c.solo.getD n 0
    (p, s, { c.effect with solo := (List.range 8).map fun i => if i = n then (p + 1) % 2 ^ 24 else c.solo.getD i 0 })
  | some k =>
    let items := c.positions.map (itemKey s c)
    let counted := countedHere s c k n
    let p := if items.any (· ∈ counted) then ((k.barrier n).phase + 1) % 2 ^ 24 else (k.barrier n).phase
    let t := if c.quantum s then s.queueEffect c (c.ilLow s) (.arrive k.key n items) else s.arriveAt k.key n ([c.releasing s 1].filter fun f => !fenceDone s f) items
    (p, t, c.effect)

/-- Whether the phase that a cut waits for at a barrier has completed: of its crew, or of its own where it is in none (R216, R217). -/
def phaseDone (s : State) (c : Cut) (n p : Nat) : Bool :=
  match c.crewIn s with
  | none => !(Barrier.pending ⟨c.solo.getD n 0, [], [], []⟩ p)
  | some k => !(k.barrier n).pending p

/-- `BAR` (R216). -/
def execBar (a : Opnd) (s : State) := operate (.bar a) s fun c =>
  let n := constOf a
  match c.arrived with
  | some (m, p) =>
    if phaseDone s c m p then s.advance { c with arrived := none }
    else s.hold c (.barrier (c.crew.getD 0) m p)
  | none =>
    let r := s.arriving c n
    if phaseDone r.2.1 r.2.2 n r.1 then r.2.1.advance r.2.2
    else r.2.1.hold { r.2.2 with arrived := some (n, r.1) } (.barrier (c.crew.getD 0) n r.1)

/-- `BARA` (R216, R217). -/
def execBara (d a : Opnd) (s : State) := operate (.bara d a) s fun c =>
  let n := constOf a
  let r := s.arriving c n
  r.2.1.write r.2.2 [] .all d (uVal (BitVec.ofNat 64 (r.1 * 2 ^ 8 + n)))

/-- `BARW` (R216, R217). -/
def execBarw (a : Opnd) (s : State) := operate (.barw a) s fun c =>
  match c.uniformOf (c.read s a []) with
  | none => s.ill c
  | some t =>
    if fld t 32 32 ≠ 0 ∨ fld t 3 5 ≠ 0 then s.ill c
    else if phaseDone s c (fld t 0 3) (fld t 8 24) then s.complete c [a] c
    else s.hold c (.barrier (c.crew.getD 0) (fld t 0 3) (fld t 8 24))

/-! ## Roles (R218) -/

/-- `ROLE` (R218). It waits for outstanding results, which may name registers it discards. -/
def execRole (a : Opnd) (s : State) := operate (.role a) s fun c =>
  let l := s.launchOf c.lid
  match c.uniformOf (c.read s a []) with
  | none => s.ill c
  | some n =>
    match if n.toNat < 16 then l.roles[n.toNat]? else none with
    | none => s.ill c
    | some r =>
      if c.isPart then s.ill c
      else if !c.outst.isEmpty then s.hold c .results
      else
        let k := c.popped [a]
        let k : Cut := { k with
          role := n.toNat, cls := r.cls, allot := r.allot
          ctx := { k.ctx with
            v := (List.range 64).map fun i => if i < r.allot then k.ctx.v.getD i (uVal 0) else uVal 0
            l0 := .val (uVal 0), l1 := .val (uVal 0) } }
        (s.popAll c [a]).retired (k.goTo (l.kcode + BitVec.ofNat 64 r.entry) [])

/-! ## Chutes (R219, R220) -/

/-- Sets or removes a binding. -/
def Cut.bind (c : Cut) (q : Opnd) (b : Option Binding) : Cut :=
  { c with binds := (List.range 16).map fun i => if i = qNum q then b else c.binds.getD i none }

/-- `QBIND` (R219). -/
def execQbind (d a b : Opnd) (s : State) := operate (.qbind d a b) s fun c =>
  let l := s.launchOf c.lid
  match c.uniformOf (c.read s a []) with
  | none => s.ill c
  | some t =>
    let n := fld t 24 6
    if c.isPart || fld t 30 18 != 0 || l.chutes.getD n 0 == 0 then s.ill c
    else match s.crews.find? fun k => k.lid == c.lid && !k.ret && k.slot == fld t 0 24 && k.gen == fld t 48 16 with
      | none => s.raiseAll c causeCHC 0
      | some k =>
        if constOf b = 0 then (if c.crew = some k.key then s.complete c [a] (c.bind d (some (.pop k.key n))) else s.ill c)
        else s.complete c [a] (c.bind d (some (.push k.key n)))

/-- `QUNBIND` (R219). -/
def execQunbind (d : Opnd) (s : State) := operate (.qunbind d) s fun c =>
  if c.isPart || (c.bindOf d).isNone then s.ill c else s.advance (c.bind d none)

/-- `QCNT` (R220). -/
def execQcnt (d a : Opnd) (s : State) := operate (.qcnt d a) s fun c =>
  let count := fun (key n : Nat) => match s.crewOf key with
    | some k => s.write c [] .all d (uVal (BitVec.ofNat 64 (seenEntries s c k n).length))
    | none => s.write c [] .all d (uVal 0)
  if c.isPart then s.ill c
  else match c.bindOf a with
    | some (.pop key n) => count key n
    | some (.push key n) => count key n
    | _ => s.ill c

/-- Closes a chute: from its pop end the entries go too (R220). -/
def Crew.close (k : Crew) (n : Nat) (popEnd : Bool) : Crew :=
  let h := k.chute n
  { k with chutes := k.chutes.set n { h with closed := true, entries := if popEnd then [] else h.entries } }

/-- `QCLOSE` (R220), at the quantum's end in quantum mode. -/
def execQclose (d : Opnd) (s : State) := operate (.qclose d) s fun c =>
  let close := fun (key n : Nat) (popEnd : Bool) => match s.crewOf key with
    | none => s.raiseAll c causeCHC 0
    | some k =>
      if c.quantum s then (s.queueEffect c (c.ilLow s) (.close key n popEnd)).advance c.effect
      else (s.putCrew (k.close n popEnd)).advance c.effect
  if c.isPart then s.ill c
  else match c.bindOf d with
    | some (.pop key n) => close key n true
    | some (.push key n) => close key n false
    | _ => s.ill c

/-! ## Streams (R222) -/

/-- `SBIND` (R222). -/
def execSbind (d a : Opnd) (s : State) := operate (.sbind d a) s fun c =>
  match c.uniformOf (c.read s a []), c.crew with
  | some n, some key => if c.isPart || decide (16 ≤ n.toNat) then s.ill c
    else s.complete c [a] (c.bind d (some (.stream key n.toNat)))
  | _, _ => s.ill c

/-- The stream a `q` register names, with its crew. -/
def Cut.streamOf (s : State) (c : Cut) (q : Opnd) : Option (Crew × Nat) :=
  match c.bindOf q with
  | some (.stream key n) => (s.crewOf key).map fun k => (k, n)
  | _ => none

/-- `SREL` (R222): returning more credits than there are popped entries raises ILL. -/
def execSrel (d a : Opnd) (s : State) := operate (.srel d a) s fun c =>
  match c.uniformOf (c.read s a []), c.streamOf s d with
  | some n, some (k, m) =>
    let t := k.stream m
    if c.isPart || n == 0 || decide (16 < n.toNat) || decide (t.popped < n.toNat) then s.ill c
    else
      let t : Stream := { t with popped := t.popped - n.toNat, taken := t.taken - n.toNat }
      (s.putCrew { k with streams := k.streams.set m t }).complete c [a] c.effect
  | _, _ => s.ill c

/-- `SCNT` (R222). -/
def execScnt (d a : Opnd) (s : State) := operate (.scnt d a) s fun c =>
  match c.bindOf a with
  | some (.stream _ _) =>
    let n := ((c.streamOf s a).map fun p => (p.1.stream p.2).ready.length).getD 0
    if c.isPart then s.ill c else s.write c [] .all d (uVal (BitVec.ofNat 64 n))
  | _ => s.ill c

end Sys2Proof.Machine
end

