-- ==== Sys2Proof/Machine/Carter.lean ====
section
/-! DEFINITION. Job cards and Carter jobs (R223 to R229), counters and event queues (R230, R231): op7 0x47 to 0x4C. -/

namespace Sys2Proof.Machine

/-! ## Job cards (R223, R224) -/

/-- A copy as its card gives it: `op` 0 `CPY`, 1 `CPYT`, 2 `CPYM`; `unit` is the bytes of a column, and `copies` how many copies
are made (R223, R224, R226). -/
structure Copy where
  scope : Nat
  evt : Bool
  strm : Bool
  sscr : Bool
  dscr : Bool
  stream : Nat
  esz : Nat
  qpitch : Nat
  tag : Nat
  src : W64
  dst : W64
  handle : W64
  rows : Nat
  cols : Nat
  unit : Nat
  spitch : Nat
  dpitch : Nat
  vrows : Nat
  vcols : Nat
  copies : Nat
  cnt : W64
  add : W64
  deriving DecidableEq, Repr

/-- The copy that a card describes. -/
def copyOf (op copies : Nat) (w : List W64) : Copy :=
  let ctl := w.getD 0 0
  let geom := w.getD 4 0
  let geom2 := w.getD 5 0
  let line := op == 0
  { scope := fld ctl 61 3, evt := bit ctl 60, strm := bit ctl 59, sscr := bit ctl 58, dscr := bit ctl 57
    stream := fld ctl 52 4, esz := 2 ^ fld ctl 50 2, qpitch := fld ctl 32 12, tag := fld ctl 0 32
    src := w.getD 1 0, dst := w.getD 2 0, handle := w.getD 3 0
    rows := if line then 1 else fld geom 48 16
    cols := if line then fld geom 0 40 else fld geom 32 16
    unit := if line then 1 else 2 ^ fld ctl 50 2
    spitch := if line then 0 else fld geom 0 32
    dpitch := if line then 0 else fld geom2 0 32
    vrows := if line then 1 else fld geom2 48 16
    vcols := if line then fld geom 0 40 else fld geom2 32 16
    copies := copies, cnt := w.getD 6 0, add := w.getD 7 0 }

/-- The bytes of one row of the source that a copy reads, and of the destination. -/
def Copy.readRow (x : Copy) : Nat := Nat.min x.cols x.vcols * x.unit
def Copy.writeRow (x : Copy) : Nat := x.cols * x.unit

/-- How many rows a copy reads. -/
def Copy.readRows (x : Copy) : Nat := if x.vcols = 0 then 0 else Nat.min x.rows x.vrows

/-- The lengths of the read interval, of one copy, and of the write interval (R224). -/
def Copy.readLen (x : Copy) : Nat := if x.readRows = 0 then 0 else (x.readRows - 1) * x.spitch + x.readRow
def Copy.oneLen (x : Copy) : Nat := (x.rows - 1) * x.dpitch + x.writeRow
def Copy.writeLen (x : Copy) : Nat := x.oneLen + (x.copies - 1) * x.qpitch * 128

/-- The REASON for which a card's contents are rejected, 0 for none (R225 stage 2). -/
def cardReason (op copies : Nat) (inCrew : Bool) (w : List W64) : Nat :=
  let x := copyOf op copies w
  let ctl := w.getD 0 0
  let geom := w.getD 4 0
  if bit ctl 56 ∨ fld ctl 44 6 ≠ 0 ∨ (op = 0 ∧ (fld geom 40 24 ≠ 0 ∨ w.getD 5 0 ≠ 0)) then 1
  else if x.scope = 0 ∨ 5 ≤ x.scope then 2
  else if (if op = 0 then x.cols = 0 ∨ 2 ^ 32 < x.cols else x.rows = 0 ∨ 4096 < x.rows ∨ x.cols = 0 ∨ 4096 < x.cols)
      ∨ 2 ^ 20 < x.writeLen then 3
  else if op ≠ 0 ∧ (x.spitch < x.writeRow ∨ x.dpitch < x.writeRow) then 4
  else if !x.dscr ∧ (x.strm ∨ x.handle ≠ 0) then 5
  else if !inCrew ∧ (x.evt ∨ x.strm ∨ x.sscr) then 6
  else if (op = 2 ∧ (!x.dscr ∨ x.qpitch * 128 < x.oneLen)) ∨ (op ≠ 2 ∧ x.qpitch ≠ 0) then 7
  else 0

/-! ## Spans and edges (R227) -/

/-- The span of a range of an object, by its pointer. -/
def objSpan (ptr : W64) (n : Nat) : Option Span := if n = 0 then none else some ⟨false, objOf ptr, offOf ptr, offOf ptr + n⟩

/-- The span of a range of a scratch space. -/
def spaceSpan (handle off : W64) (n : Nat) : Option Span :=
  if n = 0 then none else some ⟨true, handle.toNat, off.toNat, off.toNat + n⟩

/-- What a copy reads and writes; `own` is the space of the issuing cut. -/
def Copy.reads (x : Copy) (own : W64) : Option Span := if x.sscr then spaceSpan own x.src x.readLen else objSpan x.src x.readLen
def Copy.writes (x : Copy) : Option Span := if x.dscr then spaceSpan x.handle x.dst x.writeLen else objSpan x.dst x.writeLen

/-- Whether two spans share a byte of one object number, or of one space. -/
def spansMeet (a b : Option Span) : Bool :=
  match a, b with
  | some p, some q => p.scratch == q.scratch && p.key == q.key && decide (p.lo < q.hi ∧ q.lo < p.hi)
  | _, _ => false

/-- Whether a later job waits for an earlier one: read after write, write after read, or write after write (R227). -/
def edge (rd wr erd ewr : Option Span) : Bool := spansMeet rd ewr || spansMeet wr erd || spansMeet wr ewr

/-- The copy of a job. -/
def Job.copy (j : Job) : Copy := copyOf j.op j.copies j.card

/-- Whether engine jobs of a launch that were issued before one with an identifier hold it back: Carter jobs and collectives
together (R227, R294). -/
def edgesHold (s : State) (lid id : Nat) (rd wr : Option Span) : Bool :=
  (s.jobs.any fun j => j.lid == lid && decide (j.id < id) && edge rd wr (j.copy.reads j.handle) j.copy.writes)
    || s.comms.any fun k => k.ops.any fun o => o.lid == lid && !o.stale && decide (o.id < id) && edge rd wr o.src o.dst

/-- The engine jobs of a launch that are outstanding on a die, by identifier (R226, R294). -/
def outstanding (s : State) (lid die : Nat) : List Nat :=
  (s.jobs.filter fun j => j.lid == lid && j.die == die).map (·.id)
    ++ (s.comms.flatMap (·.ops)).filterMap fun o => if o.lid = lid ∧ o.die = die then some o.id else none

/-- Engine jobs of a launch on a die whose issue awaits the quantum commit (R38). -/
def queuedJobs (s : State) (lid die : Nat) : Nat :=
  (s.qeff.filter fun q => q.lid == lid && dieOfBench q.bench == die && match q.eff with
    | .job _ _ _ _ => true
    | .coll _ _ _ _ => true
    | _ => false).length

/-! ## Reading a card (R225 stage 1) -/

/-- What a card pointer gives: a cause, an uncorrectable error, or the card's eight words. -/
inductive CardGot where
  | bad (cause : Nat)
  | errored
  | words (ws : List W64)
  deriving DecidableEq, Repr

/-- The eight words of a card's bytes. -/
def wordsOfCard (bs : List Byte) : List W64 := (List.range 8).map fun i => BitVec.ofNat 64 (natLE ((bs.drop (8 * i)).take 8))

/-- Reads a card (R225 stage 1, R226): a load of the issuing cut at its home; on a Mill from DRAM under the section buffer. A card
in an object of another device is no card (R223), and raises ILL. -/
def readCard (s : State) (c : Cut) (ptr : W64) : CardGot :=
  let cause := accessCause s c.unit (c.asid s) ptr 64 64 .read
  if cause ≠ 0 then .bad cause
  else match (xlat s c.unit (c.asid s) ptr).loc with
    | none => .bad causeABS
    | some (.remote _ _ _ _) => .bad causeILL
    | some (.host p) => .words (wordsOfCard (loadBytes s c s.nextSeq false (.host p) 64))
    | some (.dev p) =>
      if c.onMill then
        let v := millValue s c.sec p 64
        if v.2 then .errored else .words (wordsOfCard v.1)
      else if erroredFor s c s.nextSeq p then .errored
      else .words (wordsOfCard (loadBytes s c s.nextSeq false (.dev p) 64))

/-- What reading a card for `n` lanes leaves: the translation, and an error counted for each (R126, R225, R268). -/
def State.cardRead (s : State) (c : Cut) (n : Nat) (ptr : W64) : State :=
  let s := s.xlatted c.unit (c.asid s) ptr
  match readCard s c ptr, (xlat s c.unit (c.asid s) ptr).loc with
  | .errored, some (.dev p) => if c.onMill then (s.millError p).readFlaw p else (s.countUp (regBrerr c.bench) 48 16 n).readFlaw p
  | .words _, some l => s.readAll l 64
  | _, _ => s

/-- The rejection register of the cut's Bench (R225). -/
def State.rejected (s : State) (c : Cut) (reason : Nat) (ptr : W64) : State :=
  if c.onMill then s else s.setReg (regCrej c.bench) (BitVec.ofNat 64 (reason * 2 ^ 56 + fld ptr 0 44))

/-! ## Issuing jobs (R225, R226) -/

/-- The distinct card pointers of the governed items, each with the first item that names it; a pattern cut's items one by one
unless the pointer is U (R226). -/
def Cut.cardItems (c : Cut) (v : RegVal) : List (Nat × W64) :=
  let is := c.governed.filter fun i => !c.performed i
  if v.isU then (is.take 1).map fun i => (i, v.base)
  else if c.isPattern then is.map fun i => (i, c.valAt v i)
  else is.foldl (fun ps i => if ps.any (·.2 == c.valAt v i) then ps else ps ++ [(i, c.valAt v i)]) []

/-- How many lanes name a card: those of a lane cut with its pointer, and one where the pointer is U or a pattern item's (R126, R226). -/
def Cut.cardLanes (c : Cut) (v : RegVal) (ptr : W64) : Nat :=
  if v.isU || c.isPattern then 1 else (c.governed.filter fun i => !c.performed i && c.valAt v i == ptr).length

/-- Whether the cards of an instruction may be read: no atomic of the cut or its Bench on one is still queued (R130, R226). -/
def Cut.cardsClear (s : State) (c : Cut) (v : RegVal) : Bool :=
  (c.cardItems v).all fun p => ((xlat s c.unit (c.asid s) p.2).loc).all fun l => !writesAhead s c s.nextSeq l 64

/-- What the checks of one card give: a cause with the address it names and the REASON of a rejection, or the card. -/
structure CardCheck where
  cause : Nat
  addr : W64
  reason : Nat
  card : List W64
  deriving DecidableEq, Repr

/-- Stage 3 of R225: the intervals, the counter, and alignment. -/
def copyCheck (s : State) (c : Cut) (x : Copy) : Nat × W64 :=
  let chk := fun (p : W64) (n al : Nat) (need : Need) => accessCause s c.unit (c.asid s) p n al need
  let rd := if x.readLen = 0 then 0
    else if x.sscr then (if c.spaceLength s < x.src.toNat + x.readLen then causeBND else 0)
    else chk x.src x.readLen 1 .read
  let wr := if x.dscr then 0 else chk x.dst x.writeLen 1 .write
  let ct := if x.cnt = 0 then 0 else chk x.cnt 8 8 .both
  if rd ≠ 0 then (rd, x.src)
  else if wr ≠ 0 then (wr, x.dst)
  else if ct ≠ 0 then (ct, x.cnt)
  else if x.src.toNat % x.esz ≠ 0 then (causeALN, x.src)
  else if x.dst.toNat % x.esz ≠ 0 then (causeALN, x.dst)
  else (0, 0)

/-- Whether every quadrant that a Bench-shaped coordinate names lies in the cut's partition (R84). -/
def coordMine (s : State) (c : Cut) (m : BitVec 14) : Bool :=
  (List.range 4).all fun q => !(coordMask m).testBit q || quadOwner s (4 * coordBench m + q) == some (s.launchOf c.lid).part

/-- The checks of one job card in their three stages (R225). The coordinate of a `CPYM` is checked with the accesses, after the card's
contents (R84, R87; DEDUCED, log 100). -/
def jobCheck (s : State) (c : Cut) (op copies : Nat) (coord : BitVec 14) (ptr : W64) : CardCheck :=
  match readCard s c ptr with
  | .bad cause => ⟨cause, ptr, 0, []⟩
  | .errored => ⟨causeILL, ptr, 10, []⟩
  | .words w =>
    let r := cardReason op copies c.crew.isSome w
    if r ≠ 0 then ⟨causeILL, ptr, r, []⟩
    else if op = 2 ∧ !coordMine s c coord then ⟨causeRGT, 0, 0, []⟩
    else
      let x := copyCheck s c (copyOf op copies w)
      ⟨x.1, x.2, 0, w⟩

/-- The Bench and the die of the engines a cut uses: its own Bench's, or those of its district's home Bench on a Mill (R265). -/
def Cut.engineBench (s : State) (c : Cut) : Nat := if c.onMill then homeBench s (c.millNum / 8) else c.bench

/-- Who issues an engine job. -/
structure Maker where
  lid : Nat
  uid : Nat
  cutid : W64
  asid : Nat
  bench : Nat
  seq : Nat
  il : Nat
  pc : W64
  crew : Option Nat
  deriving DecidableEq, Repr

/-- A cut as the maker of an effect now. -/
def Cut.maker (s : State) (c : Cut) (i : Nat) : Maker :=
  ⟨c.lid, c.uid, c.cutid, c.asid s, c.engineBench s, s.nextSeq, c.ilAt s i, c.ctx.pc, c.crew⟩

/-- The maker of an effect that awaited the quantum commit. -/
def QEntry.maker (q : QEntry) (crew : Option Nat) : Maker := ⟨q.lid, q.uid, q.cutid, q.asid, q.bench, q.seq, q.il, q.pc, crew⟩

/-- A job reaches the Carter scheduler: it takes its place in the order of its launch's jobs and of its stream's (R222, R226,
R227). -/
def State.addJob (s : State) (m : Maker) (op : Nat) (card : List W64) (coord : BitVec 14) : State :=
  let copies := if op = 2 then (lanesOf (BitVec.ofNat 32 (coordMask coord))).length else 1
  let x := copyOf op copies card
  let to_ := if x.dscr then spaceOf s m.lid x.handle else none
  let own := ((m.crew.bind s.crewOf).map Crew.handle).getD 0
  let deliver := if op = 2 then coordBench coord else (to_.map (·.bench)).getD m.bench
  let j : Job :=
    { id := s.nextId, seq := m.seq, uid := m.uid, cutid := m.cutid, lid := m.lid, asid := m.asid, op := op, card := card
      copies := copies, deliver := deliver, die := dieOfBench m.bench, bench := m.bench, crew := m.crew, handle := own
      credit := false, state := .issued, status := 0, since := s.cycle, rgen := 0, il := m.il, pc := m.pc }
  let s : State := { s with jobs := s.jobs ++ [j], nextId := s.nextId + 1 }
  match if x.strm then to_ else none with
  | some k => s.putCrew { k with streams := k.streams.set x.stream { k.stream x.stream with jobs := (k.stream x.stream).jobs ++ [j.id] } }
  | none => s

/-- Holds an engine effect for the commit of the open section of a Mill cut (R265, R274). -/
def State.holdIssue (s : State) (c : Cut) (h : HeldIssue) : State :=
  let x := ((s.cutOf c.uid).getD c).sec
  s.putSec c { x with held := x.held ++ [h] } c.localMem

/-- Whether a Mill cut has a section open. -/
def Cut.inOpenSection (c : Cut) : Bool := c.onMill && c.sec.restore.isSome && c.sec.state != .out

/-- A card that a Mill reads in an open section enters its read set (R270). -/
def State.cardInSection (s : State) (c : Cut) (ptr : W64) : State :=
  match (xlat s c.unit (c.asid s) ptr).loc with
  | some (.dev p) =>
    let x := ((s.cutOf c.uid).getD c).sec
    (s.flushTouch x (sectorOf p)).putSec c (x.reads (sectorOf p)) c.localMem
  | _ => s

/-- Issues the effect of each card that passed: at once, at the section's commit on a Mill, or at the quantum's end (R226, R265,
R38). -/
def State.issueCards (s : State) (c : Cut) (op : Nat) (coord : BitVec 14) (go : State → Maker → List W64 → State)
    (eff : List W64 → QEffect) (items : List (Nat × List W64)) : State :=
  if items.isEmpty then s
  else
    let t := items.foldl (fun (t : State) p =>
      if c.inOpenSection then t.holdIssue c ⟨op, p.2, coord, c.ilAt s p.1, c.ctx.pc⟩
      else if c.quantum s then
        { t with qeff := t.qeff ++ [⟨c.lid, c.uid, c.cutid, s.nextSeq, c.ilAt s p.1, c.ctx.pc, c.engineBench s, c.asid s, eff p.2⟩] }
      else go t (c.maker s p.1) p.2) s
    { t with nextSeq := t.nextSeq + 1 }

/-- Issues the cards that an instruction has checked as far as there is room, and waits for room for the rest (R226, R263). What a Mill
section issues waits for its commit, and needs no room before. -/
def State.issueSome (s : State) (c : Cut) (srcs : List Opnd) (room : Nat) (full : Wait) (items : List (Nat × List W64))
    (issue : State → List (Nat × List W64) → State) : State :=
  let n := if c.inOpenSection then items.length else Nat.min room items.length
  let t := issue s (items.take n)
  let k := (t.cutOf c.uid).getD c
  let k := if n = 0 then k else k.effect
  match items.drop n with
  | [] => t.complete k srcs k
  | rest => t.hold { k with issuing := rest } full

/-- An instruction whose cards fail stops exactly, naming the failing lanes; a pattern cut of which only some items fail
materializes first (R225, R337). -/
def State.cardsFail (s : State) (c : Cut) (v : RegVal) (checks : List ((Nat × W64) × CardCheck)) : State :=
  let bad := checks.filter fun p => p.2.cause != 0
  let lanes := c.governed.filter fun i => !c.performed i && bad.any fun p => p.1.2 == c.valAt v i
  if c.isPattern && lanes.length != c.positions.length then s.lanesOnly c
  else
    let s := checks.foldl (fun s p => s.cardRead c (c.cardLanes v p.1.2) p.1.2) s
    let s := match bad.find? (·.2.reason != 0) with
      | some p => s.rejected c p.2.reason p.1.2
      | none => s
    let causes := bad.foldl (fun m p => m ||| p.2.cause) 0
    s.stop c (c.cause causes ((bad.head?.map (·.2.addr)).getD 0) (if c.isPattern then c.allLanes else lanesWord lanes))

/-- What has been checked is issued: the cards are read, on a Mill in its section, as an implicit one where none is open (R270, R283). -/
def State.cardsIssue (s : State) (c : Cut) (v : RegVal) (checks : List ((Nat × W64) × CardCheck))
    (go : State → Cut → List (Nat × List W64) → State) : State :=
  let items := checks.map fun p => (p.1.1, p.2.card)
  let t := checks.foldl (fun s p => s.cardRead c (c.cardLanes v p.1.2) p.1.2) s
  if c.onMill then t.inSection c fun t k => go (checks.foldl (fun t p => t.cardInSection k p.1.2) t) k items
  else go t c items

/-- How many jobs a cut's launch may still issue on the die of its engines (R226). -/
def Cut.jobRoom (s : State) (c : Cut) : Nat :=
  let die := dieOfBench (c.engineBench s)
  Config.jobsPerDie - ((outstanding s c.lid die).length + queuedJobs s c.lid die)

/-- `CPY`, `CPYT` and `CPYM` (R225, R226): every card is checked before the first job issues. -/
def State.issueJobs (s : State) (c : Cut) (op : Nat) (a : Opnd) (coord : BitVec 14) : State :=
  let v := c.read s a []
  let items := c.cardItems v
  let copies := if op = 2 then (lanesOf (BitVec.ofNat 32 (coordMask coord))).length else 1
  let issue := fun (t : State) (k : Cut) (xs : List (Nat × List W64)) => t.issueSome k [a] (k.jobRoom t) .jobs xs fun t xs =>
    t.issueCards k op coord (fun t m card => t.addJob m op card coord) (fun card => .job op card coord k.crew) xs
  if !c.issuing.isEmpty then issue s c c.issuing
  else if items.isEmpty then s.complete c [a] c
  else if !(effectMayIssue s c && c.cardsClear s v) then s.hold c .order
  else if !c.onMill && c.jobRoom s == 0 then s.hold c .jobs
  else if c.onMill && !items.all fun p => millMay s c p.2 then s.returnTrap c 4
  else
    let checks := items.map fun p => (p, jobCheck s c op copies coord p.2)
    if checks.any (·.2.cause != 0) then s.cardsFail c v checks else s.cardsIssue c v checks issue

def execCpy (l : BitVec 4) (a : Opnd) (s : State) := operate (.cpy l a) s fun c => s.issueJobs c 0 a 0

def execCpyt (l : BitVec 4) (a : Opnd) (s : State) := operate (.cpyt l a) s fun c => s.issueJobs c 1 a 0

def execCpym (l : BitVec 4) (a : Opnd) (m : BitVec 14) (s : State) := operate (.cpym l a m) s fun c => s.issueJobs c 2 a m

/-! ## Running a job (R227, R228) -/

/-- The rows of the source that a job reads: pointers with lengths. -/
def Copy.sourceRows (x : Copy) : List (W64 × Nat) := (List.range x.readRows).map fun r => (ptrAdd x.src (r * x.spitch), x.readRow)

/-- The destination of each row of each copy: copy by copy. -/
def Copy.destRows (x : Copy) : List (Nat × W64) :=
  (List.range x.copies).flatMap fun k => (List.range x.rows).map fun r => (r, ptrAdd x.dst (k * x.qpitch * 128 + r * x.dpitch))

/-- The unit whose translations a job uses. -/
def Job.unit (j : Job) : TlbUnit := .die j.die

/-- The segments of object memory that a job touches (R228). -/
def Job.touched (j : Job) : List (W64 × Nat) :=
  let x := j.copy
  (if x.sscr then [] else x.sourceRows.flatMap fun p => segments p.1 p.2)
    ++ (if x.dscr then [] else x.destRows.flatMap fun p => segments p.2 x.writeRow)

/-- The pages of a scratch source that lie in their backing (R201). -/
def Job.backs (s : State) (j : Job) : List (Crew × Nat) :=
  match if j.copy.sscr then spaceOf s j.lid j.handle else none with
  | none => []
  | some k =>
    (distinct (j.copy.sourceRows.flatMap fun p => (pagesOf Config.scratchPage p.1.toNat p.2).map (·.1 / Config.scratchPage))).filterMap
      fun n => if (k.page n).state = .backed ∧ !(k.page n).dirty ∧ !k.ret then some (k, n) else none

/-- The pages that a job still waits for, by a pointer into each: those of its intervals, the backing of a scratch source among them,
or of the writes that it has made (R228). -/
def Job.missing (s : State) (j : Job) : List W64 :=
  if j.state = .stalled then
    (s.storeQ.filter fun w => w.job == some j.id && (walk s (.bench w.bench) w.asid w.ptr).loc.isNone).map (·.ptr)
  else (j.touched.map (·.1)).filter (fun p => (xlat s j.unit j.asid p).loc.isNone)
    ++ (j.backs s).filterMap fun p => if (p.1.backLocs s p.2).isNone then some (p.1.backing s p.2) else none

/-- Requests the pages that a job waits for, as `PGREQ` does (R228). -/
def State.requestJob (s : State) (j : Job) (ps : List W64) : State :=
  ps.foldl (fun s p => (s.request j.unit (s.launchOf j.lid).part j.asid p 1).2) s

/-- What a read of a job's source gives: the bytes, an error at an address, or reads of another device to be awaited. -/
inductive SourceGot where
  | bytes (bs : List Byte)
  | error (addr : W64)
  | remote
  deriving DecidableEq, Repr

/-- Joins what two reads give. -/
def SourceGot.join (a b : SourceGot) : SourceGot :=
  match a, b with
  | .error p, _ => .error p
  | _, .error p => .error p
  | .remote, _ => .remote
  | _, .remote => .remote
  | .bytes x, .bytes y => .bytes (x ++ y)

/-- One segment of a job's source. -/
def readSegment (s : State) (j : Job) (p : W64 × Nat) : SourceGot :=
  match (xlat s j.unit j.asid p.1).loc with
  | none => .error p.1
  | some (.remote fid rasid robj off) =>
    match s.remotes.find? fun r => r.kind == 4 && r.lane == j.id && r.loc == .remote fid rasid robj off with
    | some r => .bytes r.data
    | none => .remote
  | some l =>
    if (List.range (p.2 / 128 + 2)).any fun i => match l with
        | .dev q => errored s (q + Nat.min (128 * i) (p.2 - 1))
        | _ => false
    then .error p.1
    else .bytes (locRead s l p.2)

/-- One row of a job's source: of the issuing cut's space, or of an object (R228). -/
def readRow (s : State) (j : Job) (p : W64 × Nat) : SourceGot :=
  if j.copy.sscr then
    match spaceOf s j.lid j.handle with
    | none => .bytes (List.replicate p.2 0)
    | some k => (pagesOf Config.scratchPage p.1.toNat p.2).foldl (fun (a : SourceGot) q =>
        a.join (match k.bytesOf s (q.1 / Config.scratchPage) with
          | some bs =>
            if (k.faults [] true ((List.range q.2).map (q.1 + ·))).isEmpty then .bytes ((bs.drop (q.1 % Config.scratchPage)).take q.2)
            else .error (BitVec.ofNat 64 q.1)
          | none => .error (BitVec.ofNat 64 q.1))) (.bytes [])
  else (segments p.1 p.2).foldl (fun a q => a.join (readSegment s j q)) (.bytes [])

/-- What reading a job's source leaves of the flaws it finds (R381). -/
def State.sourceRead (s : State) (j : Job) : State :=
  if j.copy.sscr then match spaceOf s j.lid j.handle with
    | none => s
    | some k => s.frameRead k.key [] (j.copy.sourceRows.flatMap fun p => (List.range p.2).map (p.1.toNat + ·))
  else if s.flaws.isEmpty then s
  else (j.copy.sourceRows.flatMap fun p => segments p.1 p.2).foldl (fun s q => s.readPtr j.unit j.asid q.1 q.2) s

/-- Asks another device for the rows of a source that lies there (R363). -/
def State.askRows (s : State) (j : Job) : State :=
  if s.remotes.any fun r => r.lane == j.id && (r.kind == 3 || r.kind == 4) then s
  else (j.copy.sourceRows.flatMap fun p => segments p.1 p.2).foldl (fun (s : State) q =>
    match (xlat s j.unit j.asid q.1).loc with
    | some (.remote f a o off) =>
      { s.send (s.launchOf j.lid).part (remoteMsg (.remote f a o off) 0 s.nextId [q.2] []) with
        nextId := s.nextId + 1
        remotes := s.remotes ++ [⟨s.nextId, 3, j.uid, none, j.id, .remote f a o off, q.1, List.replicate q.2 0, s.cycle, none⟩] }
    | _ => s) s

/-- Stores a job. -/
def State.putJob (s : State) (j : Job) : State := { s with jobs := s.jobs.map fun (k : Job) => if k.id = j.id then j else k }

/-- The rows that a job writes: what it read, and zeros in the clipped part (R228). -/
def Copy.rowsOf (x : Copy) (rows : List (List Byte)) : List (List Byte) :=
  (List.range x.rows).map fun r => fitBytes x.writeRow (rows.getD r [])

/-- The store queue entry of a job's write; in quantum mode it waits for the quantum's end (R229). -/
def Job.storeOf (s : State) (j : Job) (id : Nat) (w : Write) : Store :=
  { id := id, seq := j.seq, uid := j.uid, anc := [], cutid := j.cutid, lid := j.lid, asid := j.asid, bench := j.bench
    scope := j.copy.scope, release := false, order := [], loc := w.loc, op := w.op, outst := none, job := some j.id
    held := (s.launchOf j.lid).qm, il := j.il, ptr := w.ptr, pc := j.pc }

/-- Sends a job's rows to its destination (R210, R228). -/
def State.sendRows (s : State) (j : Job) (rows : List (List Byte)) : State :=
  let x := j.copy
  let out := x.rowsOf rows
  if x.dscr then
    x.destRows.foldl (fun (s : State) p =>
      { s with
        nextId := s.nextId + 1
        scratchW := s.scratchW ++ [⟨s.nextId, j.id, j.lid, x.handle, p.2.toNat, out.getD p.1 [], j.deliver⟩] }) s
  else
    let bytes := x.destRows.flatMap fun p =>
      let row := out.getD p.1 []
      (segments p.2 x.writeRow).flatMap fun q => match (xlat s j.unit j.asid q.1).loc with
        | none => []
        | some l => (List.range q.2).map fun i =>
          (⟨locAt l (locOff l + i), row.getD (q.1.toNat - p.2.toNat + i) 0, j.il, ptrAdd q.1 i⟩ : StoredByte)
    let ws := gather bytes
    { s with
      nextId := s.nextId + ws.length
      storeQ := s.storeQ ++ ((List.range ws.length).zip ws).map fun p => j.storeOf s (s.nextId + p.1) p.2 }

/-- Takes a credit of the stream that a job will push to (R222); `none` where there is none. -/
def State.takeCredit (s : State) (j : Job) : Option State :=
  let x := j.copy
  match if x.strm && !j.credit then spaceOf s j.lid x.handle else none with
  | none => some s
  | some k =>
    let t := k.stream x.stream
    if t.taken < Config.credits then
      some ((s.putCrew { k with streams := k.streams.set x.stream { t with taken := t.taken + 1 } }).putJob { j with credit := true })
    else none

/-- A job that waits for the pages of its writes asks again after a replay-all, and goes on once they are resident (R228, R368). -/
def State.unstall (s : State) (j : Job) : State :=
  let ps := j.missing s
  let gen := replayGen s (s.launchOf j.lid).part
  if ps.isEmpty then s.putJob { j with state := .writing }
  else if j.rgen ≠ gen then (s.requestJob j ps).putJob { j with rgen := gen }
  else s

/-- A job starts once its edges clear and it has its credit; it waits for its pages, and then reads its source, row by row, and
writes every element of its write interval (R222, R227, R228). -/
def State.startJob (s : State) (j : Job) : State :=
  if j.state = .stalled ∧ j.status = 0 then s.unstall j
  else
  let first := (sortBy id (outstanding s j.lid j.die)).take Config.jobsPerDie
  if (j.state != .issued && j.state != .waiting) || j.status != 0 || !decide (j.id ∈ first)
      || edgesHold s j.lid j.id (j.copy.reads j.handle) j.copy.writes then s
  else match s.takeCredit j with
    | none => s
    | some s =>
      let j := (s.jobs.find? (·.id == j.id)).getD j
      let ps := j.missing s
      let part := (s.launchOf j.lid).part
      if !ps.isEmpty then
        if j.state = .issued then (s.requestJob j ps).putJob { j with state := .waiting, since := s.cycle, rgen := replayGen s part }
        else if j.rgen ≠ replayGen s part then (s.requestJob j ps).putJob { j with rgen := replayGen s part }
        else s
      else
        let s := j.touched.foldl (fun s p => s.xlatted j.unit j.asid p.1) s
        let rows := j.copy.sourceRows.map fun p => readRow s j p
        let s := s.sourceRead j
        match rows.find? fun r => match r with | .error _ => true | _ => false with
        | some (.error p) => s.failJob j.id 2 p
        | _ =>
          if rows.any (· == .remote) then (s.askRows j).putJob { j with state := .waiting }
          else
            let t := s.sendRows j (rows.map fun r => match r with | .bytes b => b | _ => [])
            let t : State := { t with remotes := t.remotes.filter fun r => !(r.kind == 4 && r.lane == j.id) }
            t.putJob { j with state := .writing }

/-- JOB_FAILURE (R228): a page of the job is still absent when the page-wait limit passes. -/
def execJobFailure (id : Nat) (s : State) : Host.Outcome State Fault Refusal :=
  .next (match s.jobs.find? (·.id == id) with
    | none => s
    | some j =>
      match j.missing s with
      | [] => s
      | p :: _ =>
        if (j.state == .waiting || j.state == .stalled) && decide (j.since + waitLimit s (s.launchOf j.lid).part ≤ s.cycle) then s.failJob id 1 p else s)

/-! ## Completions (R229) -/

/-- Whether writes of an engine job are still under way. -/
def jobWrites (s : State) (id : Nat) : Bool :=
  s.storeQ.any (·.job == some id) || s.scratchW.any (·.job == id) || s.remotes.any fun r => r.store.any (·.job == some id)

/-- An engine's write or counter add at a home: held back by a flushed attempt, dropped as a late fault where the page is absent
or an atomic's element has an uncorrectable error, or performed (R128, R229, R276). -/
inductive EngineWrite where
  | held
  | made (s : State)

/-- Makes a write of an engine at an object pointer for its maker. -/
def State.engineWrite (s : State) (m : Maker) (unit : TlbUnit) (ptr : W64) (scope : Nat) (op : WriteOp) : EngineWrite :=
  let late := fun (s : State) => s.holdLate m.lid m.cutid
    ⟨m.uid, m.seq, m.il, BitVec.ofNat 64 causeLSF, ptr, itemLanes s m.lid m.il, m.pc, 2⟩
  match (xlat s unit m.asid ptr).loc with
  | none => .made (late s)
  | some l =>
    let w : Store :=
      { id := s.nextId, seq := m.seq, uid := m.uid, anc := [], cutid := m.cutid, lid := m.lid, asid := m.asid, bench := m.bench
        scope := scope, release := true, order := [], loc := l, op := op, outst := none, job := none, held := false
        il := m.il, ptr := ptr, pc := m.pc }
    let s : State := { s.xlatted unit m.asid ptr with nextId := s.nextId + 1 }
    if match l with | .dev p => flushHolds s (sectorOf p) | _ => false then .held
    else if homeFails s w then .made (late s)
    else match l with
      | .dev _ | .host _ => .made (s.perform { w with job := some w.id })
      | .remote _ _ _ _ => .made (s.perform w)

/-- The add of ADD to a counter, modulo 2^64 (R229). -/
def addOp (il : Nat) (n : W64) : WriteOp := .atomic 0 7 [⟨0, il, n, 0⟩]

/-- The maker of a job. -/
def Job.maker (j : Job) : Maker := ⟨j.lid, j.uid, j.cutid, j.asid, j.bench, j.seq, j.il, j.pc, j.crew⟩

/-- The job leaves once its counter add, if any, is made. -/
def State.addAndEnd (s : State) (j : Job) : State :=
  let x := j.copy
  let gone := fun (s : State) => ({ s with jobs := s.jobs.filter (·.id != j.id) } : State)
  if x.cnt = 0 then gone s
  else match s.engineWrite j.maker j.unit x.cnt x.scope (addOp j.il x.add) with
    | .held => s.putJob { j with state := .adding }
    | .made t => gone t

/-- Posts an event record to a crew's queue: the state after, or `none` where it waits behind others or the queue is full. -/
def State.postEvent (s : State) (crew : Option Nat) (rec : W64) (scope : Nat) : Option State :=
  match crew.bind s.crewOf with
  | none => some s
  | some k =>
    if k.postWait.isEmpty && decide (k.events.length < Config.eventQueue) then
      some (s.putCrew { k with events := k.events ++ [(rec, scope)] })
    else none

/-- A post waits for room in a crew's queue (R231). -/
def State.waitPost (s : State) (crew : Option Nat) (id : Nat) : State :=
  match crew.bind s.crewOf with
  | none => s
  | some k => s.putCrew { k with postWait := k.postWait ++ [id] }

/-- The event record of a job (R231). -/
def Job.record (j : Job) : W64 := BitVec.ofNat 64 (2 ^ 63 + j.status * 2 ^ 56 + j.copy.tag)

/-- A job pushes to its stream, in the order in which the jobs that push to it were issued: `none` where it waits (R222). -/
def State.streamPush (s : State) (j : Job) : Option State :=
  let x := j.copy
  match if x.strm then spaceOf s j.lid x.handle else none with
  | none => some s
  | some k =>
    let t := k.stream x.stream
    if !decide (j.id ∈ t.jobs) then some s
    else if t.jobs.head? = some j.id then
      some (s.putCrew { k with streams := k.streams.set x.stream { t with ready := t.ready ++ [(x.dst, x.scope)], jobs := t.jobs.drop 1 } })
    else none

/-- A job completes: stream push, event record, counter add, each once the one before is made (R229). -/
def State.completeJob (s : State) (j : Job) : State :=
  if j.state = .adding then s.addAndEnd j
  else if j.state = .posting || (j.state != .writing && j.status == 0) || jobWrites s j.id then s
  else match s.streamPush j with
    | none => s
    | some t =>
      if !j.copy.evt then t.addAndEnd j
      else match t.postEvent j.crew j.record j.copy.scope with
        | some u => u.addAndEnd j
        | none => (t.putJob { j with state := .posting }).waitPost j.crew j.id

/-! ## Counters (R230) -/

/-- Where the counters of a `CWAIT` lie, `none` where one is absent. -/
def counterLocs (s : State) (c : Cut) (as : List ItemAcc) : Option (List (ItemAcc × Loc)) :=
  as.mapM fun a => ((xlat s c.unit (c.asid s) a.ptr).loc).map fun l => (a, l)

/-- A counter as a `CWAIT` reads it for the item at a position, at its home; an errored one reads zero (R126, R230). One in another
device's object is what that device has answered, `none` before its reply (R363). -/
def counterAt (s : State) (c : Cut) (pos : Nat) (l : Loc) : Option W64 :=
  let word := fun (bs : List Byte) => some (BitVec.ofNat 64 (natLE bs))
  match l with
  | .dev p => if c.onMill then word (millValue s c.sec p 8).1
    else if erroredFor s c s.nextSeq p then some 0 else word (loadBytes s c s.nextSeq false l 8)
  | .host _ => word (loadBytes s c s.nextSeq false l 8)
  | .remote _ _ _ _ =>
    (s.remotes.find? fun r => r.kind == 7 && r.uid == c.uid && r.lane == pos && r.loc == l).bind fun r => word r.data

/-- The accesses of a `CWAIT`: one where its operands are U. -/
def Cut.counterItems (s : State) (c : Cut) (a b : Opnd) : List ItemAcc :=
  let x := c.read s a []
  let y := c.read s b [a]
  let all := c.accesses (c.valAt x)
  if x.isU && y.isU then all.take 1 else all

/-- Whether the counters of some items have reached their values, with no earlier write of the cut or its Bench to them on its way
(R130, R230). -/
def countersMet (s : State) (c : Cut) (y : RegVal) (ls : List (ItemAcc × Loc)) : Bool :=
  ls.all fun p => !writesAhead s c s.nextSeq p.2 8
    && (counterAt s c p.1.pos p.2).any fun v => decide ((c.valAt y p.1.pos).toNat ≤ v.toNat)

/-- Whether a `CWAIT` may execute again: its counters are met, one is absent now, or a reply has come (R230, R363). -/
def Cut.counterMet (s : State) (c : Cut) (a b : Opnd) : Bool :=
  (s.remotes.any fun r => decide (7 ≤ r.kind) && r.uid == c.uid)
    || match counterLocs s c (c.counterItems s a b) with
      | none => true
      | some ls => countersMet s c (c.read s b [a]) ls

/-- The replies to a cut's counter reads are used up. -/
def State.dropCounters (s : State) (uid : Nat) : State :=
  { s with remotes := s.remotes.filter fun r => !(decide (7 ≤ r.kind) && r.uid == uid) }

/-- Reads the counters that lie in another device's objects again, once nothing of the cut is on its way there (R130, R363). -/
def State.askCounters (s : State) (c : Cut) (ls : List (ItemAcc × Loc)) : State :=
  ls.foldl (fun (s : State) p => match p.2 with
    | .remote _ _ _ _ =>
      if writesAhead s c s.nextSeq p.2 8 || (s.remotes.any fun r => r.kind == 6 && r.uid == c.uid && r.lane == p.1.pos) then s
      else { s.send (s.launchOf c.lid).part (remoteMsg p.2 0 s.nextId [8] []) with
        nextId := s.nextId + 1
        remotes := s.remotes ++ [⟨s.nextId, 6, c.uid, none, p.1.pos, p.2, p.1.ptr, List.replicate 8 0, s.cycle, none⟩] }
    | _ => s) (s.dropCounters c.uid)

/-- What a satisfied `CWAIT` writes: the values observed. The observation is an acquire at SC, and at the scope of the job card whose
add it saw (R179, R193, R230); the model does not tell whose that was, and flashes L1 always, which at a narrower scope is an
eviction of its lines (R192; DEDUCED, log 102). -/
def State.counterDone (s : State) (c : Cut) (l : Nat) (d a b : Opnd) (ls : List (ItemAcc × Loc)) (u : Bool) : State :=
  let val := fun (i : Nat) => ((ls.find? fun p => p.1.pos == i).bind fun p => counterAt s c p.1.pos p.2).getD 0
  let v := if u then uVal ((ls.head?.bind fun p => counterAt s c p.1.pos p.2).getD 0) else c.overLanes val
  let t := (s.dropCounters c.uid).writeLong c [a, b] d l v none []
  if !c.quantum s && !c.onMill then t.l1Flash c.bench else t

/-- `CWAIT` (R230); on a Mill each reading is an implicit section (R265, R283). -/
def execCwait (l : BitVec 4) (d a b : Opnd) (s : State) := operate (.cwait l d a b) s fun c =>
  let x := c.read s a []
  let y := c.read s b [a]
  let u := x.isU && y.isU
  let as := c.counterItems s a b
  if !readMayIssue s c then s.hold c .order
  else if c.gov = .none then s.write c [a, b] .none d (uVal 0)
  else if c.needsLanes c.gov (if u then uVal 0 else .lanes []) then s.lanesOnly c
  else match checkAccess s c ⟨8, 1, .read⟩ true false as (fun bad => if u then c.governed else bad) with
    | some t => t
    | none => match counterLocs s c as with
      | none =>
        let bad := as.filter fun a => (xlat s c.unit (c.asid s) a.ptr).loc.isNone
        s.raiseAt c causeABS ((bad.head?.map (·.ptr)).getD 0) (if u then c.governed else bad.map (·.pos))
      | some ls =>
        let overdue := s.remotes.filter fun r => r.kind == 8 && r.uid == c.uid
        let go := fun (s : State) (c : Cut) =>
          let s := if c.onMill then
              let r := s.millReads c.sec 8 (ls.map fun p => ⟨p.1.pos, 0, p.2, p.1.ptr, none, false⟩)
              r.1.putSec c r.2.1 c.localMem
            else ls.foldl (fun s p => s.readAll p.2 8) (s.translated c ⟨8, 1, .read⟩ as)
          let c := (s.cutOf c.uid).getD c
          if countersMet s c y ls then s.counterDone c l.toNat d a b ls u
          else if c.onMill && c.sec.implicit.isSome then s else (s.askCounters c ls).hold c .counter
        match overdue with
        | r :: _ => (s.dropCounters c.uid).raiseAt c causeTMO r.ptr (if u then c.governed else overdue.map (·.lane))
        | [] => if c.onMill then s.inSection c go else go s c

/-- `CADD` (R230): `ARED` with AOP add and ET n64, and a release at SC. -/
def execCadd (a b : Opnd) (s : State) := operate (.cadd a b) s fun c =>
  s.atomics c ⟨[a, b], 0x4A#7, 0, false, true, 7, 0, c.read s b [a], uVal 0⟩ (c.valAt (c.read s a []))

/-! ## Event queues (R231) -/

/-- `EVWAIT` (R231): a cut in no crew has no queue, and waits. -/
def execEvwait (d : Opnd) (s : State) := operate (.evwait d) s fun c =>
  if c.isPart then s.ill c
  else if !readMayIssue s c then s.hold c .order
  else match c.crewIn s with
    | none => s.hold c (.event 0)
    | some k => match k.events with
      | [] => s.hold c (.event k.key)
      | (rec, scope) :: rest =>
        let t := s.putCrew { k with events := rest }
        let t := if decide (2 ≤ scope) && !c.quantum s then t.l1Flash c.bench else t
        t.write c [] .all d (uVal rec)

/-- `EVPEEK` (R231). -/
def execEvpeek (d : Opnd) (s : State) := operate (.evpeek d) s fun c =>
  if c.isPart then s.ill c
  else s.write c [] .all d (uVal (((c.crewIn s).bind fun k => k.events.head?.map (·.1)).getD 0))

end Sys2Proof.Machine
end

