-- ==== Sys2Proof/Machine/Lane.lean ====
section
/-! DEFINITION. Cross-lane work, reductions, scans and dot products (R159 to R162, R70, R71): op7 0x2B to 0x2E. They name lanes,
so a pattern cut that executes one has been materialized before its meaning begins (R148). -/

namespace Sys2Proof.Machine

/-- A source lane's value; a lane that is not active reads as zero (R159). -/
def Cut.laneVal (c : Cut) (v : RegVal) (i : Nat) : W64 := if inMask c.ctx.active i then c.valAt v i else 0

/-- A lane move: lane i receives lane `src i` of a, or its own value where there is none (R160). -/
def State.shuffle (s : State) (c : Cut) (d a b : Opnd) (src : Nat → W64 → Option Nat) : State :=
  let x := c.read s a []
  let y := c.read s b [a]
  s.write c [a, b] c.gov d (c.overLanes fun i => match src i (c.valAt y i) with
    | some j => c.laneVal x j
    | none => c.laneVal x i)

def execShfl (d a b : Opnd) (s : State) := operate (.shfl d a b) s fun c => s.shuffle c d a b fun _ k => some (fld k 0 5)
def execShflx (d a b : Opnd) (s : State) := operate (.shflx d a b) s fun c => s.shuffle c d a b fun i k => some (i ^^^ fld k 0 5)
def execShflu (d a b : Opnd) (s : State) := operate (.shflu d a b) s fun c =>
  s.shuffle c d a b fun i k => if k.toNat ≤ i then some (i - k.toNat) else none
def execShfld (d a b : Opnd) (s : State) := operate (.shfld d a b) s fun c =>
  s.shuffle c d a b fun i k => if i + k.toNat ≤ 31 then some (i + k.toNat) else none

/-- `BCAST`: b must be U (R160). -/
def execBcast (d a b : Opnd) (s : State) := operate (.bcast d a b) s fun c =>
  let y := c.read s b [a]
  if !y.isU then s.ill c
  else s.write c [a, b] c.gov d (uVal (c.laneVal (c.read s a []) (fld y.base 0 5)))

/-- `VOTE` writes its mask in every active lane, whatever the guard (R160). -/
def execVote (d a : Opnd) (s : State) := operate (.vote d a) s fun c =>
  let x := c.read s a []
  let m := maskOf 32 fun i => inMask c.ctx.active i && c.guard i && lowBits (modeET c.ctx.mode) (c.valAt x i) != 0
  s.write c [a] .all d (uVal (m.setWidth 64))

/-- `COMPACT` writes every active lane, whatever the guard (R160). -/
def execCompact (d a : Opnd) (s : State) := operate (.compact d a) s fun c =>
  let x := c.read s a []
  let vs := c.governed.map (c.valAt x)
  s.write c [a] .all d (c.overLanes fun i => vs.getD i 0)

def execLidx (d : Opnd) (s : State) := operate (.lidx d) s fun c =>
  s.write c [] c.gov d (c.overLanes fun i => BitVec.ofNat 64 i)

/-! ## Reductions and scans (R70, R71, R161) -/

/-- The identity of an operation (R70): an encoding of ET. -/
def identity (op et : Nat) : W64 :=
  if isInt et then
    match op with
    | 1 => wrapTo et (intMax et)
    | 2 => wrapTo et (intMin et)
    | 3 => wrapTo et (-1)
    | _ => 0
  else
    let most := fun (neg : Bool) => match fmtOf et with
      | some f => if f.top = .ieee then (exactly et (.inf neg) 0).1 else extend et (withSign f neg (maxFinite f))
      | none => 0
    match op with
    | 1 => most false
    | 2 => most true
    | _ => (exactly et (.fin true 0 0) 0).1

/-- One pairing (R161): integers wrap, or saturate under SAT; floats round. -/
def pair (op et : Nat) (r : Rnd) (a b : W64) : W64 × Nat :=
  if isInt et then
    (match op with
      | 0 => if r.sat then opSatadd et a b else opAdd et a b
      | 1 => if intValue et b < intValue et a then wrapTo et (intValue et b) else wrapTo et (intValue et a)
      | 2 => if intValue et a < intValue et b then wrapTo et (intValue et b) else wrapTo et (intValue et a)
      | 3 => opAnd et a b
      | 4 => opOr et a b
      | _ => opXor et a b, 0)
  else match op with
    | 0 => opFadd et r a b
    | 1 => opMinMax false false et r a b
    | _ => opMinMax true false et r a b

/-- The item index that a pairing at lane i dithers with: FIRST + i of the parent lane cut, or the lane on a Mill (R63). -/
def Cut.laneIl (s : State) (c : Cut) (i : Nat) : Nat := if c.mill then i else ilOf (s.launchOf c.lid) (c.item 0) + i

/-- One stage of a tree or scan: lanes `lo` to `hi - 1` take the pairing that `f` gives; the flags of every pairing. -/
def stage (t : List W64) (fl : Nat) (lo hi : Nat) (f : Nat → W64 × Nat) : List W64 × Nat :=
  let rs := (List.range t.length).map fun i => if lo ≤ i ∧ i < hi then f i else (t.getD i 0, 0)
  (rs.map (·.1), rs.foldl (fun m r => m ||| r.2) fl)

/-- The fixed tree of R70 from a stage number and a span on: the result and the flags. -/
def tree (s : State) (c : Cut) (op et : Nat) : List Nat → Nat → List W64 → Nat → W64 × Nat
  | [], _, t, fl => (t.getD 0 0, fl)
  | h :: hs, st, t, fl =>
    let r := stage t fl 0 h fun i => pair op et (c.rnd s (c.laneIl s i) (32 * st + i)) (t.getD i 0) (t.getD (i + h) 0)
    tree s c op et hs (st + 1) r.1 r.2

/-- The Kogge–Stone order of R71. -/
def koggeStone (s : State) (c : Cut) (op et : Nat) : List Nat → Nat → List W64 → Nat → List W64 × Nat
  | [], _, t, fl => (t, fl)
  | h :: hs, st, t, fl =>
    let r := stage t fl h 32 fun i => pair op et (c.rnd s (c.laneIl s i) (32 * st + i)) (t.getD (i - h) 0) (t.getD i 0)
    koggeStone s c op et hs (st + 1) r.1 r.2

/-- The 32 inputs of a reduction or scan: a lane that is not active, or whose guard is false, gives the identity (R161). -/
def Cut.laneInputs (c : Cut) (op et : Nat) (v : RegVal) : List W64 :=
  (List.range 32).map fun i => if inMask c.ctx.active i && c.guard i then c.valAt v i else identity op et

/-- `RED` (R161): U where the guard is uniformly true, L merged otherwise. -/
def execRed (l : BitVec 4) (d a b : Opnd) (s : State) := operate (.red l d a b) s fun c =>
  let et := modeET c.ctx.mode
  let op := constOf b
  let r := tree s c op et [16, 8, 4, 2, 1] 0 (c.laneInputs op et (c.read s a [])) 0
  let v := extend et r.1.toNat
  s.writeLong c [a] d l.toNat (uVal v) none [r.2]

/-- A result that no pairing has rounded, as the vector unit reads and writes it: a NaN is canonical, and under FTZ a subnormal is zero
(R56, R62). -/
def asResult (ftz : Bool) (et : Nat) (v : W64) : W64 :=
  extend et (if isInt et then v.toNat else (roundTo et (rne false) (readNum ftz et v)).1)

/-- `SCAN` (R161): inclusive, or exclusive for b of 8 and more. -/
def execScan (l : BitVec 4) (d a b : Opnd) (s : State) := operate (.scan l d a b) s fun c =>
  let et := modeET c.ctx.mode
  let op := constOf b % 8
  let r := koggeStone s c op et [1, 2, 4, 8, 16] 0 (c.laneInputs op et (c.read s a [])) 0
  let res := fun i => if constOf b < 8 then r.1.getD i 0 else if i = 0 then identity op et else r.1.getD (i - 1) 0
  s.writeLong c [a] d l.toNat (c.overLanes fun i => asResult (modeFTZ c.ctx.mode) et (res i)) none [r.2]

/-! ## Dot products (R162) -/

/-- The exact integer sum of a lane's group over the governed lanes. -/
def Cut.dotInt (c : Cut) (size t : Nat) (x y : RegVal) (i : Nat) : Int :=
  (c.governed.filter fun j => j / size == i / size).foldl
    (fun n j => n + intValue t (c.valAt x j) * intValue t (c.valAt y j)) 0

/-- The exact floating sum of a lane's group, rounded once. -/
def Cut.dotFloat (c : Cut) (size et : Nat) (r : Rnd) (x y : RegVal) (i : Nat) : W64 × Nat :=
  let js := c.governed.filter fun j => j / size == i / size
  let ins := js.map fun j => (readNum r.ftz et (c.valAt x j), readNum r.ftz et (c.valAt y j))
  let ps := ins.map fun p => numMul p.1 p.2
  let sum := numSum r.rm (ps.map (·.1))
  finish r et (sum.1, ps.foldl (fun m p => m ||| p.2) sum.2) (sigFlag (ins.flatMap fun p => [p.1, p.2]))

/-- A dot product over groups of `size` lanes, in L form. -/
def State.dot (s : State) (c : Cut) (d a b : Opnd) (size t out : Nat) : State :=
  let x := c.read s a []
  let y := c.read s b [a]
  if modeET c.ctx.mode < 8 then s.write c [a, b] c.gov d (c.overLanes fun i => wrapTo out (c.dotInt size t x y i))
  else s.writeRounded c [a, b] d (c.rounded s false fun r i => c.dotFloat size (modeET c.ctx.mode) r x y i)

def execDp4 (d a b : Opnd) (s : State) := operate (.dp4 d a b) s fun c => s.dot c d a b 4 (iw (modeET c.ctx.mode)) 6
def execDp4u (d a b : Opnd) (s : State) := operate (.dp4u d a b) s fun c => s.dot c d a b 4 (nw (modeET c.ctx.mode)) 7
def execDp2 (d a b : Opnd) (s : State) := operate (.dp2 d a b) s fun c => s.dot c d a b 2 (iw (modeET c.ctx.mode)) 6

end Sys2Proof.Machine
end

