-- ==== Sys2Proof/Machine/Coll.lean ====
section
/-! DEFINITION. Collectives (R287 to R302): the card, `COLL`, `CSTAT` and `CABORT`, the schedule, deadlines and the settling of
aborts, and the events that start and complete the engine jobs of both kinds (R222, R229, R231, R294). -/

namespace Sys2Proof.Machine

/-! ## The card (R289, R290) -/

/-- A collective as its card gives it. -/
structure CollCard where
  scope : Nat
  evt : Bool
  op : Nat
  rop : Nat
  et : Nat
  root : Nat
  tag : Nat
  src : W64
  dst : W64
  count : Nat
  limit : Nat
  stat : W64
  cnt : W64
  add : W64
  deriving DecidableEq, Repr

/-- The collective that a card describes. -/
def collOf (w : List W64) : CollCard :=
  let ctl := w.getD 0 0
  { scope := fld ctl 61 3, evt := bit ctl 60, op := fld ctl 56 4, rop := fld ctl 52 4, et := fld ctl 48 4
    root := fld ctl 32 16, tag := fld ctl 0 32, src := w.getD 1 0, dst := w.getD 2 0, count := fld (w.getD 3 0) 0 40
    limit := fld (w.getD 4 0) 0 32, stat := w.getD 5 0, cnt := w.getD 6 0, add := w.getD 7 0 }

/-- The bytes of a block, of SRC and of DST, for `n` members (R290). -/
def CollCard.block (x : CollCard) : Nat := x.count * elemBytes x.et
def CollCard.srcLen (x : CollCard) (n : Nat) : Nat := if x.op = 5 then 0 else if x.op = 1 then n * x.block else x.block
def CollCard.dstLen (x : CollCard) (n : Nat) : Nat := if x.op = 5 then 0 else if x.op = 2 then n * x.block else x.block

/-- Whether an operation folds: all-reduce, reduce-scatter and reduce. -/
def CollCard.folds (x : CollCard) : Bool := x.op == 0 || x.op == 1 || x.op == 4

/-- Whether an object pointer may name device memory of this device (R294): its object is no host or remote one. -/
def mayBeDevice (s : State) (c : Cut) (p : W64) : Bool := (xlat s c.unit (c.asid s) p).ent.all fun e => e.kind == 0

/-- Whether a card's contents are invalid for `n` members (R289, R290, R294). -/
def collInvalid (s : State) (c : Cut) (w : List W64) (n : Nat) : Bool :=
  let x := collOf w
  (x.scope != 3 && x.scope != 4) || decide (6 ≤ x.op) || fld (w.getD 3 0) 40 24 != 0 || fld (w.getD 4 0) 32 32 != 0
    || (if x.op = 5 then x.count != 0 || x.src != 0 || x.dst != 0
        else x.count == 0 || decide (2 ^ 32 < x.count) || decide (15 ≤ x.et))
    || (x.folds && (decide (6 ≤ x.rop) || decide ((if x.rop ≤ 2 then 11 else 7) < x.et)))
    || ((x.op == 3 || x.op == 4) && decide (n ≤ x.root))
    || (x.op != 5 && (!mayBeDevice s c x.src || !mayBeDevice s c x.dst
        || (spansMeet (objSpan x.src (x.srcLen n)) (objSpan x.dst (x.dstLen n)) && !(x.src == x.dst && (x.op == 0 || x.op == 3)))))

/-- Stage 3 of R294: what each pointer's check raises, the first that fails. -/
def collAccess (s : State) (c : Cut) (x : CollCard) (n : Nat) : Nat × W64 :=
  let chk := fun (p : W64) (len al : Nat) (need : Need) => if len = 0 then 0 else accessCause s c.unit (c.asid s) p len al need
  let a := chk x.src (x.srcLen n) (elemBytes x.et) .read
  let b := chk x.dst (x.dstLen n) (elemBytes x.et) .write
  let d := chk x.stat (if x.stat = 0 then 0 else 8) 8 .both
  let e := chk x.cnt (if x.cnt = 0 then 0 else 8) 8 .both
  if a ≠ 0 then (a, x.src) else if b ≠ 0 then (b, x.dst) else if d ≠ 0 then (d, x.stat) else (e, x.cnt)

/-- Whether a partition owns a slot: a free slot has no owner (R294, R335). -/
def ownsSlot (s : State) (part : Nat) (k : Comm) : Bool := k.live && asidPart s k.asid == some part

/-! ## Data (R290 to R292) -/

/-- Reads a range at its homes for an engine; `none` where a page is absent or a sector errored. -/
def readRange (s : State) (unit : TlbUnit) (asid : Nat) (ptr : W64) (n : Nat) : Option (List Byte) :=
  (segments ptr n).foldl (fun (a : Option (List Byte)) q =>
    match a, (xlat s unit asid q.1).loc with
    | some bs, some l =>
      let bad := (List.range (q.2 / 128 + 2)).any fun i => match l with
        | .dev p => errored s (p + Nat.min (128 * i) (q.2 - 1))
        | _ => false
      if bad then none else some (bs ++ locRead s l q.2)
    | _, _ => none) (some [])

/-- What reading a range leaves of the flaws it finds (R381, R383). -/
def State.rangeRead (s : State) (unit : TlbUnit) (asid : Nat) (ptr : W64) (n : Nat) : State :=
  if s.flaws.isEmpty then s else (segments ptr n).foldl (fun s q => s.readPtr unit asid q.1 q.2) s

/-- The elements of some bytes. -/
def elemsOf (et : Nat) (bs : List Byte) : List W64 :=
  let n := elemBytes et
  (List.range (bs.length / n)).map fun i => extend et (natLE ((bs.drop (n * i)).take n))

/-- The bytes of some elements. -/
def bytesOfElems (et : Nat) (xs : List W64) : List Byte := xs.flatMap fun x => bytesLE (elemBytes et) (lowBits et x)

/-- The fold of R291 of a partial result with a member's own elements: RNE, subnormals kept, no saturation. -/
def foldBytes (et rop : Nat) (acc own : List Byte) : List Byte :=
  bytesOfElems et (List.zipWith (fun a b => (pair rop et (rne false) a b).1) (elemsOf et acc) (elemsOf et own))

/-- A result of one member alone: a NaN becomes the canonical one (R291). -/
def canonBytes (et : Nat) (bs : List Byte) : List Byte :=
  if isInt et then bs
  else bytesOfElems et ((elemsOf et bs).map fun x => match value et x with | .nan _ => BitVec.ofNat 64 (canonNaN et) | _ => x)

/-- The card of an operation, and the unit that translates for it. -/
def CollOp.card_ (o : CollOp) : CollCard := collOf o.card
def CollOp.unit (o : CollOp) : TlbUnit := .die o.die

/-- The slot of an operation. -/
def slotOf (s : State) (id : Nat) : Comm := (s.commWith id).getD (Comm.free 0)

/-- The maker of an operation's writes. -/
def CollOp.maker (o : CollOp) : Maker := ⟨o.lid, o.uid, o.cutid, o.asid, 128 * o.die, o.aseq, o.il, o.pc, o.crew⟩

/-- Whether an operation's schedule has stopped (R298). -/
def opStopped (s : State) (cid : Nat) (o : CollOp) : Bool := ((s.commOf cid).op o.id).all (·.stopped)

/-- Bytes of its own input that a member reads, or DATAERR (R295); nothing once the schedule has stopped. -/
def State.ownData (s : State) (cid : Nat) (o : CollOp) (off n : Nat) (go : State → List Byte → State) : State :=
  if opStopped s cid o then s
  else
  let t := s.rangeRead o.unit o.asid (ptrAdd o.card_.src off) n
  match readRange s o.unit o.asid (ptrAdd o.card_.src off) n with
  | some bs => go t bs
  | none => t.report cid o.id reasonDATAERR o.rank

/-- Writes of an operation to its DST go to the store queue, and in quantum mode wait for the quantum's end (R297, R302); an absent
page is DATAERR (R295). -/
def State.collWrite (s : State) (cid : Nat) (o : CollOp) (off : Nat) (bs : List Byte) : State :=
  let p := ptrAdd o.card_.dst off
  let segs := segments p bs.length
  if segs.any fun q => (xlat s o.unit o.asid q.1).loc.isNone then s.report cid o.id reasonDATAERR o.rank
  else
    let bytes := segs.flatMap fun q => match (xlat s o.unit o.asid q.1).loc with
      | none => []
      | some l => (List.range q.2).map fun i =>
        (⟨locAt l (locOff l + i), bs.getD (q.1.toNat - p.toNat + i) 0, o.il, ptrAdd q.1 i⟩ : StoredByte)
    let ws := gather bytes
    let mk := fun (id : Nat) (w : Write) =>
      ({ id := id, seq := o.aseq, uid := o.uid, anc := [], cutid := o.cutid, lid := o.lid, asid := o.asid, bench := 128 * o.die
         scope := o.card_.scope, release := false, order := [], loc := w.loc, op := w.op, outst := none, job := some o.id
         held := (s.launchOf o.lid).qm, il := o.il, ptr := w.ptr, pc := o.pc } : Store)
    { s with
      nextId := s.nextId + ws.length
      storeQ := s.storeQ ++ ((List.range ws.length).zip ws).map fun q => mk (s.nextId + q.1) q.2 }

/-- The 4 KiB chunks of a length: offsets with lengths (R292). -/
def chunks (n : Nat) : List (Nat × Nat) := (List.range (ceilDiv n 4096)).map fun i => (4096 * i, Nat.min 4096 (n - 4096 * i))

/-- Sends bytes to a member as a chunk at an offset. -/
def State.sendChunk (s : State) (cid : Nat) (o : CollOp) (rank off : Nat) (bs : List Byte) : State :=
  s.tell (s.commOf cid) o.seq rank 2 [off] bs

/-- The last member of the chain has a chunk of the result: it writes its own part and sends each other member, or ROOT, theirs
(R292). -/
def State.spread (s : State) (cid : Nat) (o : CollOp) (off : Nat) (bs : List Byte) : State :=
  let x := o.card_
  let give := fun (s : State) (r off : Nat) (bs : List Byte) =>
    if r = o.rank then s.collWrite cid o off bs else s.sendChunk cid o r off bs
  if x.op = 4 then give s x.root off bs
  else (List.range o.size).foldl (fun s r =>
    if x.op = 0 then give s r off bs
    else
      let lo := Nat.max off (r * x.block)
      let hi := Nat.min (off + bs.length) ((r + 1) * x.block)
      if lo < hi then give s r (lo - r * x.block) ((bs.drop (lo - off)).take (hi - lo)) else s) s

/-- A member of the chain has a partial result up to itself: it sends it on, or it is the last (R292). -/
def State.chainOn (s : State) (cid : Nat) (o : CollOp) (off : Nat) (bs : List Byte) : State :=
  if o.rank + 1 < o.size then s.sendChunk cid o (o.rank + 1) off bs else s.spread cid o off bs

/-! ## The schedule (R292) -/

/-- The bytes received from a rank: those taken, and those that wait for the operation to start. -/
def CollOp.from_ (o : CollOp) (k : Comm) (rank : Nat) : Nat :=
  (((o.got.filter (·.1 == rank)).map (·.2.2)) ++ k.inbox.filterMap fun m => match m with
    | .chunk seq r _ bs => if seq = o.seq ∧ r = rank then some bs.length else none
    | _ => none).foldl (· + ·) 0

/-- The ranks other than its own. -/
def CollOp.others (o : CollOp) : List Nat := (List.range o.size).filter (· != o.rank)

/-- The rank that a member waits for, the lowest where there are several; `none` where it waits for no one (R292, R295). -/
def CollOp.waitsOn (o : CollOp) (k : Comm) : Option Nat :=
  let x := o.card_
  let last := o.size - 1
  let data := match x.op with
    | 2 => o.others.find? fun r => decide (o.from_ k r < x.block)
    | 3 => if o.rank ≠ x.root ∧ o.from_ k x.root < x.block then some x.root else none
    | 5 => o.others.find? fun r => !o.got.any (·.1 == r)
    | _ =>
      if 0 < o.rank ∧ o.from_ k (o.rank - 1) < x.srcLen o.size then some (o.rank - 1)
      else if o.rank ≠ last ∧ (x.op ≠ 4 ∨ o.rank = x.root) ∧ o.from_ k last < x.block then some last
      else if x.op = 4 ∧ o.rank ≠ x.root ∧ !(o.noticed || decide (CollMsg.notice o.seq ∈ k.inbox)) then some x.root
      else none
  match data with
  | some r => some r
  | none => if o.rank = 0 then o.others.find? fun r => !o.fields.any (·.1 == r) else none

/-- The fields that members compare (R295). -/
def CollOp.fieldsOf (o : CollOp) : List Nat := let x := o.card_; [x.op, x.rop, x.et, x.root, x.count]

/-- What a member sends when it starts an operation (R292, R295); the notice of a barrier went out at its issue (R290). -/
def State.begin (s : State) (cid : Nat) (o : CollOp) : State :=
  let x := o.card_
  let k := s.commOf cid
  let s := if o.rank = 0 then s else s.tell k o.seq 0 1 o.fieldsOf []
  let each := fun (s : State) (n : Nat) (go : State → Nat → List Byte → State) =>
    (chunks n).foldl (fun s q => s.ownData cid o q.1 q.2 fun s bs => go s q.1 bs) s
  let toAll := fun (s : State) (off : Nat) (bs : List Byte) => o.others.foldl (fun s r => s.sendChunk cid o r off bs) s
  match x.op with
  | 5 => s
  | 2 => each s x.block fun s off bs => (toAll s off bs).collWrite cid o (o.rank * x.block + off) bs
  | 3 => if o.rank = x.root then each s x.block fun s off bs => (toAll s off bs).collWrite cid o off bs else s
  | _ =>
    if o.rank ≠ 0 then s
    else each s (x.srcLen o.size) fun s off bs =>
      if o.size = 1 then s.spread cid o off (canonBytes x.et bs) else s.chainOn cid o off bs

/-! ## Arrivals (R292, R295, R298) -/

/-- The sequence number that a message is for. -/
def CollMsg.seq : CollMsg → Nat
  | .chunk q _ _ _ => q
  | .fields q _ _ => q
  | .notice q => q

/-- Whether a message is of the schedule of an operation, which runs once it has started; a barrier's notices tell of issues only. -/
def CollMsg.ofSchedule (m : CollMsg) (o : CollOp) : Bool :=
  match m with
  | .chunk _ _ _ _ => o.card_.op != 5
  | .notice _ => true
  | .fields _ _ _ => false

/-- Whether a chunk is one of the schedule: from a rank that sends to this member, whole elements, within the range it covers. -/
def CollOp.takes (o : CollOp) (rank off n : Nat) : Bool :=
  let x := o.card_
  let whole := off % elemBytes x.et == 0 && n % elemBytes x.et == 0 && n != 0 && !o.got.any (fun g => g.1 == rank && g.2.1 == off)
  let fromChain := decide (0 < o.rank) && rank == o.rank - 1 && decide (off + n ≤ x.srcLen o.size)
  let fromLast := rank == o.size - 1 && o.rank != o.size - 1 && (x.op != 4 || o.rank == x.root) && decide (off + n ≤ x.block)
  rank != o.rank && decide (rank < o.size) && match x.op with
  | 5 => n == 0 && !o.got.any (·.1 == rank)
  | 2 => whole && decide (off + n ≤ x.block)
  | 3 => whole && rank == x.root && decide (off + n ≤ x.block)
  | _ => whole && (fromChain || fromLast)

/-- A chunk that the schedule awaits is folded and sent on, or written (R291, R292). -/
def State.takeChunk (s : State) (cid : Nat) (o : CollOp) (rank off : Nat) (bs : List Byte) : State :=
  let x := o.card_
  let o : CollOp := { o with got := o.got ++ [(rank, off, bs.length)] }
  let s := s.putOp cid o
  match x.op with
  | 5 => s
  | 2 => s.collWrite cid o (rank * x.block + off) bs
  | 3 => s.collWrite cid o off bs
  | _ =>
    if rank + 1 = o.rank then s.ownData cid o off bs.length fun s own => s.chainOn cid o off (foldBytes x.et x.rop bs own)
    else s.collWrite cid o off bs

/-- Rank 0 compares a member's fields with its own, and reports MISMATCH where they differ, naming the lowest of several (R295). -/
def State.takeFields (s : State) (cid : Nat) (o : CollOp) (rank : Nat) (vals : List Nat) : State :=
  if o.rank ≠ 0 ∨ o.word.isSome ∨ o.size ≤ rank then s
  else
    let o : CollOp := { o with fields := o.fields.filter (·.1 != rank) ++ [(rank, vals)] }
    let t := s.putOp cid o
    if vals = o.fieldsOf || o.reports.any fun r => r.rank == 0 && r.reason == reasonMISMATCH && decide (r.failrank ≤ rank) then t
    else t.report cid o.id reasonMISMATCH rank

/-- The reports that a member holds after a further one, or "none" (reason 0); at its first receipt its own "none" is among them. -/
def reportsWith (rs : List Report) (own : Nat) (first : Bool) (r : Report) : List Report :=
  let rs := if r ∈ rs then rs else rs ++ [r]
  if first then rs ++ [⟨own, 0, 0⟩] else rs

/-- A report of a member, or "none", arrives (R298): at its first receipt the member stops its schedule and sends its own "none" to rank
0, and rank 0 decides once it holds one from every member. The same where the operation has not been issued here, or has ended. -/
def State.takeReport (s : State) (cid seq rank reason failrank : Nat) : State :=
  let k := s.commOf cid
  let none_ := fun (s : State) (first : Bool) => if first && k.rank != 0 then s.tell k seq 0 5 [0, 0] [] else s
  let decide_ := fun (s : State) (rs : List Report) => if k.rank = 0 && k.allReported rs then s.arbitrate cid seq rs else s
  if !k.live then s
  else match (k.opSeq seq).filter fun o => o.word.isNone with
    | some o =>
      let rs := reportsWith o.reports o.rank (!o.stopped) ⟨rank, reason, failrank⟩
      let t := s.putOp cid { o with reports := rs, stopped := true, firstAt := if o.stopped then o.firstAt else s.cycle }
      decide_ (none_ t !o.stopped) rs
    | none =>
      let old := k.settling.find? (·.seq == seq)
      let x := old.getD ⟨seq, [], s.cycle, none⟩
      if x.word.isSome then s
      else
        let rs := reportsWith x.reports k.rank old.isNone ⟨rank, reason, failrank⟩
        decide_ (none_ (s.putComm (k.settle { x with reports := rs })) old.isNone) rs

/-- Keeps what arrived for an operation that has not come so far. -/
def State.keepFor (s : State) (cid : Nat) (m : CollMsg) : State :=
  let k := s.commOf cid
  s.putComm { k with inbox := k.inbox ++ [m] }

/-- A message for an operation of the slot's current generation: kept until the operation has issued, or has started where it is
of the schedule. -/
def State.receive (s : State) (cid : Nat) (m : CollMsg) : State :=
  let k := s.commOf cid
  match k.opSeq m.seq with
  | none => if k.live && !k.assigned m.seq then s.keepFor cid m else s
  | some o =>
    if m.ofSchedule o && !o.started && !o.stopped then s.keepFor cid m
    else match m with
      | .chunk _ rank off bs => if !o.stopped && o.takes rank off bs.length then s.takeChunk cid o rank off bs else s
      | .fields _ rank vals => s.takeFields cid o rank vals
      | .notice _ => if o.card_.op = 4 ∧ o.rank ≠ o.card_.root ∧ !o.stopped then s.putOp cid { o with noticed := true } else s

/-- What arrived before an operation was issued or started comes up again. -/
def State.openInbox (s : State) (cid seq : Nat) : State :=
  let k := s.commOf cid
  (k.inbox.filter (·.seq == seq)).foldl (fun s m => s.receive cid m) (s.putComm { k with inbox := k.inbox.filter (·.seq != seq) })

/-- CHUNK_ARRIVAL (R292): a chunk of a rank at a byte offset; an empty one is the notice that the rank has issued a barrier. -/
def execChunkArrival (cid seq rank off : Nat) (bytes : List Byte) (s : State) : Host.Outcome State Fault Refusal :=
  .next (s.receive cid (.chunk seq rank off bytes))

/-- CONTROL_FLIT (R295): the fields of a member's card reach rank 0. -/
def execControlFlit (cid seq rank : Nat) (fields : List Nat) (s : State) : Host.Outcome State Fault Refusal :=
  .next (s.receive cid (.fields seq rank fields))

/-- COMPLETION_NOTICE (R292): ROOT's notice ends a reduce on another member. -/
def execCompletionNotice (cid seq : Nat) (s : State) : Host.Outcome State Fault Refusal := .next (s.receive cid (.notice seq))

/-- ABORT_REPORT (R298). -/
def execAbortReport (cid seq rank reason failrank : Nat) (s : State) : Host.Outcome State Fault Refusal :=
  .next (s.takeReport cid seq rank reason failrank)

/-- ARBITER_WORD (R298): the arbiter's word settles an abort on another member. -/
def execArbiterWord (cid seq : Nat) (word : W64) (s : State) : Host.Outcome State Fault Refusal :=
  .next (if (s.commOf cid).live && (s.commOf cid).rank != 0 then s.settled cid seq word else s)

/-! ## Starting (R294) -/

/-- An operation starts in SEQ order, once its edges clear and every earlier one of its slot has ended (R227, R292, R294). -/
def State.startOp (s : State) (cid : Nat) (o : CollOp) : State :=
  let k := s.commOf cid
  let earlier := k.ops.takeWhile (·.id != o.id)
  let first := (sortBy id (outstanding s o.lid o.die)).take Config.jobsPerDie
  if o.started || o.stopped || o.word.isSome || earlier.any (fun p => p.stage == 0) || !decide (o.id ∈ first)
      || edgesHold s o.lid o.id o.src o.dst then s
  else
    let o : CollOp := { o with started := true }
    ((s.putOp cid o).begin cid o).openInbox cid o.seq

/-- The operation that a `COLL` makes, with its sequence number (R294). -/
def Maker.newOp (s : State) (m : Maker) (k : Comm) (w : List W64) (stale : Bool) (gen : Nat) : CollOp :=
  let x := collOf w
  { id := s.nextId, seq := if stale then 0 else k.next, gen := gen, stale := stale, uid := m.uid, cutid := m.cutid, lid := m.lid
    asid := m.asid, aseq := m.seq, crew := m.crew, die := dieOfBench m.bench, il := m.il, pc := m.pc, card := w
    rank := k.rank, size := k.size, src := objSpan x.src (x.srcLen k.size), dst := objSpan x.dst (x.dstLen k.size)
    since := s.cycle, started := false, stopped := false, own := none, reports := [], firstAt := 0
    word := none, stage := 0, fields := [], got := [], noticed := false }

/-- The bits of a handle (R287). -/
def handleCid (h : W64) : Nat := fld h 0 8
def handleGen (h : W64) : Nat := fld h 48 16

/-- An operation that has its place in its slot begins its life (R290, R294, R297 to R299): it ends at once on a stale handle, a broken
generation, or a word that came before it; an abort that is being settled stops it; else the others learn of a barrier's issue. -/
def State.enterOp (s : State) (cid : Nat) (o : CollOp) (broken : Option (Nat × Nat)) (x : Option Settling) : State :=
  if o.stale then s.endOp cid o.id (statusWord 2 reasonSTALE false 0xFFFF o.seq)
  else match broken, x with
    | some (_, r), _ => s.endOp cid o.id (statusWord 2 reasonBROKEN false r o.seq)
    | none, some x => match x.word with
      | some w => s.endOp cid o.id w
      | none => (s.putOp cid { o with stopped := true, reports := x.reports, firstAt := x.firstAt }).openInbox cid o.seq
    | none, none =>
      let k := s.commOf cid
      (if o.card_.op = 5 then o.others.foldl (fun s r => s.tell k o.seq r 3 [] []) s else s).openInbox cid o.seq

/-- A `COLL` whose checks have passed issues (R294, R302): it takes its sequence number and its place among the engine jobs, and its
ticket is the value given. -/
def State.issueOp (s : State) (m : Maker) (w : List W64) (handle : W64) : State × W64 :=
  let k := s.commOf (handleCid handle)
  let gen := handleGen handle
  let stale := gen != k.gen || !k.live
  let o := m.newOp s k w stale gen
  let settled := fun (x : Settling) => !stale && x.seq == o.seq
  let t := s.putComm { k with
    next := if stale then k.next else (k.next + 1) % 2 ^ 24, ops := k.ops ++ [o], settling := k.settling.filter fun x => !settled x }
  (({ t with nextId := t.nextId + 1 } : State).enterOp k.cid o k.broken (k.settling.find? settled),
    BitVec.ofNat 64 (gen * 2 ^ 48 + (if stale then 2 ^ 47 else 0) + k.cid * 2 ^ 24 + o.seq))

/-- The operations that a member holds outstanding on a slot, with those that await a quantum's end (R294, R38). -/
def collsHeld (s : State) (cid : Nat) : Nat :=
  ((s.commOf cid).ops.filter fun o => o.stage == 0).length
    + (s.qeff.filter fun q => match q.eff with | .coll _ h _ _ => handleCid h == cid | _ => false).length

/-! ## The instructions (R293, R294, R300, R301) -/

/-- The checks of `COLL` in order: the cause of the first that fails, its address and the REASON, or the card (R294). -/
def collCheck (s : State) (c : Cut) (ptr handle : W64) : CardCheck :=
  match readCard s c ptr with
  | .bad cause => ⟨cause, ptr, 0, []⟩
  | .errored => ⟨causeILL, ptr, 10, []⟩
  | .words w =>
    let n := fld handle 32 16
    if collInvalid s c w n then ⟨causeILL, ptr, 9, []⟩
    else
      let x := collAccess s c (collOf w) n
      if x.1 ≠ 0 then ⟨x.1, x.2, 0, []⟩
      else if !ownsSlot s (s.launchOf c.lid).part (s.commOf (handleCid handle)) then ⟨causeRGT, 0, 0, []⟩
      else ⟨0, 0, 0, w⟩

/-- A `COLL` whose checks have passed: its ticket is a long-latency value, in quantum mode of the commit that issues it (R294, R302). -/
def State.issueColl (s : State) (c : Cut) (l : Nat) (d a b : Opnd) (w : List W64) (handle : W64) : State :=
  if c.quantum s then
    let t := s.queueEffect c (c.ilAt s (c.positions.getD 0 0)) (.coll w handle c.crew s.nextId)
    t.await c.effect [a, b] c.gov { Outst.of d 0 l .later with id := t.nextId }
  else
    let r := s.issueOp (c.maker s (c.positions.getD 0 0)) w handle
    ({ r.1 with nextSeq := r.1.nextSeq + 1 } : State).writeLong c.effect [a, b] d l (uVal r.2) none []

/-- `COLL` (R293, R294). -/
def execColl (l : BitVec 4) (d a b : Opnd) (s : State) := operate (.coll l d a b) s fun c =>
  let g := c.governed
  let v := c.read s a []
  if c.mixedGuard then s.ill c
  else match c.uniformOf v, c.uniformOf (c.read s b [a]) with
    | some ptr, some handle =>
      if g.isEmpty then s.write c [a, b] .none d (uVal 0)
      else if !(effectMayIssue s c && c.cardsClear s v) then s.hold c .order
      else
        let r := collCheck s c ptr handle
        let t := s.cardRead c (c.cardLanes v ptr) ptr
        if r.cause ≠ 0 then (if r.reason ≠ 0 then t.rejected c r.reason ptr else t).raiseAll c r.cause r.addr
        else if Config.collOutstanding ≤ collsHeld s (handleCid handle) then s.hold c (.collLimit (handleCid handle))
        else if c.jobRoom s = 0 then s.hold c .jobs
        else t.issueColl c l.toNat d a b r.card handle
    | _, _ => s.ill c

/-- The status word of a ticket, with the scope of its card: pending, ended or unknown (R297, R299). -/
def ticketStatus (s : State) (t : W64) : W64 × Nat :=
  let seq := fld t 0 24
  let k := s.commOf (fld t 24 8)
  if bit t 47 then (statusWord 2 reasonSTALE false 0xFFFF 0, 3)
  else if fld t 32 15 ≠ 0 then (statusWord 3 0 false 0 seq, 0)
  else match k.words.find? fun w => w.1 == fld t 48 16 && w.2.1 == seq with
    | some w => (w.2.2.1, w.2.2.2)
    | none =>
      if k.ops.any fun o => o.gen == fld t 48 16 && o.seq == seq && !o.stale then (statusWord 0 0 false 0 seq, 0)
      else (statusWord 3 0 false 0 seq, 0)

/-- `CSTAT` (R300): a word of an ended operation is an acquire at the card's scope. -/
def execCstat (d a b : Opnd) (s : State) := operate (.cstat d a b) s fun c =>
  match c.uniformOf (c.read s a []) with
  | none => s.ill c
  | some t =>
    let r := ticketStatus s t
    let st := fld r.1 62 2
    if c.isPart then s.ill c
    else if !readMayIssue s c then s.hold c .order
    else if st = 0 ∧ constOf b = 1 then s.hold c (.coll (fld t 24 8) (fld t 48 16) (fld t 0 24))
    else
      let u := if (st = 1 ∨ st = 2) ∧ !c.quantum s then s.l1Flash c.bench else s
      u.write c [a] .all d (uVal r.1)

/-- The operation of a ticket that has not ended. -/
def pendingOp (s : State) (t : W64) : Option (Nat × CollOp) :=
  let k := s.commOf (fld t 24 8)
  if bit t 47 ∨ fld t 32 15 ≠ 0 then none
  else (k.ops.find? fun o => o.gen == fld t 48 16 && o.seq == fld t 0 24 && !o.stale && o.word.isNone).map fun o => (k.cid, o)

/-- An operation is cancelled by its own member (R301). -/
def State.cancelOp (s : State) (id : Nat) : State :=
  match s.commWith id with
  | none => s
  | some k => match k.op id with
    | none => s
    | some o => if o.word.isSome then s else s.report k.cid id reasonCANCEL o.rank

/-- `CABORT` (R301): an engine job issue, made at the quantum's end in quantum mode (R37, R38). -/
def execCabort (a : Opnd) (s : State) := operate (.cabort a) s fun c =>
  match c.uniformOf (c.read s a []) with
  | none => s.ill c
  | some t =>
    if c.isPart then s.ill c
    else if !effectMayIssue s c then s.hold c .order
    else match pendingOp s t with
      | none => s.complete c [a] c
      | some (_, o) =>
        let t := if c.quantum s then s.queueEffect c (c.ilLow s) (.cabort o.id) else s.cancelOp o.id
        t.complete c [a] c.effect

/-! ## Deadlines and windows (R295, R298) -/

/-- The deadline of an operation, in cycles from its issue on this member (R295). -/
def opDeadline (k : Comm) (o : CollOp) : Nat :=
  o.since + (if o.card_.limit = 0 then k.deadline else o.card_.limit) * Config.cyclesPerUs

/-- COLLECTIVE_DEADLINE (R295): the deadline passes while the member waits for a rank, and it reports TIMEOUT naming it. -/
def execCollectiveDeadline (cid seq : Nat) (s : State) : Host.Outcome State Fault Refusal :=
  .next (
    let k := s.commOf cid
    match k.opSeq seq with
    | none => s
    | some o =>
      if o.stopped || decide (s.cycle < opDeadline k o) then s
      else match o.waitsOn k with
        | some r => s.report cid o.id reasonTIMEOUT r
        | none => s)

/-- An abort that has no word on this member: when its first report came, the member's own report, and those it holds. -/
def Comm.abortOf (k : Comm) (seq : Nat) : Option (Nat × Option Report × List Report) :=
  match (k.opSeq seq).filter fun o => o.word.isNone with
  | some o => if o.stopped then some (o.firstAt, o.own, o.reports) else none
  | none => (k.settling.find? fun x => x.seq == seq && x.word.isNone).map fun x => (x.firstAt, none, x.reports)

/-- Whether the agreement window has passed since a member's first report or receipt (R298). -/
def windowOver (s : State) (k : Comm) (firstAt : Nat) : Bool := decide (firstAt + k.agw * Config.cyclesPerUs ≤ s.cycle)

/-- AGREEMENT_WINDOW_EXPIRY (R298 step 2): rank 0 decides with the reports it holds. -/
def execAgreementWindowExpiry (cid seq : Nat) (s : State) : Host.Outcome State Fault Refusal :=
  .next (
    let k := s.commOf cid
    match k.abortOf seq with
    | some (at_, _, rs) => if k.rank = 0 && windowOver s k at_ then s.arbitrate cid seq rs else s
    | none => s)

/-- ISOLATED_ENDING (R298 step 4): a member without the arbiter's word ends with its own report, or the least it received. -/
def execIsolatedEnding (cid seq : Nat) (s : State) : Host.Outcome State Fault Refusal :=
  .next (
    let k := s.commOf cid
    match k.abortOf seq with
    | some (at_, own, rs) =>
      if k.rank = 0 || !windowOver s k at_ then s
      else match (match own with | some r => some r | none => leastReport rs) with
        | some r => s.settled cid seq (statusWord 2 r.reason true r.failrank seq)
        | none => s
    | none => s)

/-! ## Endings (R297) -/

/-- The counter add ends an operation on this member. -/
def State.opAdd (s : State) (cid : Nat) (o : CollOp) : State :=
  let x := o.card_
  let gone := fun (s : State) => let k := s.commOf cid; s.putComm { k with ops := k.ops.filter (·.id != o.id) }
  if x.cnt = 0 then gone s
  else match s.engineWrite o.maker o.unit x.cnt x.scope (addOp o.il x.add) with
    | .held => s.putOp cid { o with stage := 3 }
    | .made t => gone t

/-- The event record of an operation (R297). -/
def CollOp.record (o : CollOp) (word : W64) : W64 := BitVec.ofNat 64 (2 ^ 63 + (if fld word 62 2 = 1 then 0 else 2 ^ 56) + o.card_.tag)

/-- The event record of an ending, and then the counter add. -/
def State.opEvent (s : State) (cid : Nat) (o : CollOp) (word : W64) : State :=
  if !o.card_.evt then s.opAdd cid o
  else match s.postEvent o.crew (o.record word) o.card_.scope with
    | some t => t.opAdd cid { o with stage := 3 }
    | none => (s.putOp cid { o with stage := 2 }).waitPost o.crew o.id

/-- ROOT of a reduce whose DST is written sends every other member its completion notice, once (R292). -/
def State.notifyDone (s : State) (cid : Nat) (o : CollOp) : State :=
  if o.card_.op = 4 ∧ o.rank = o.card_.root ∧ !o.noticed then
    (s.putOp cid { o with noticed := true }).tellAll (s.commOf cid) o.seq 4 [] []
  else s

/-- The word of an ended operation is kept for `CSTAT`, and its event record and counter add follow (R297, R299). -/
def State.keepWord (s : State) (cid : Nat) (o : CollOp) (word : W64) : State :=
  let k := s.commOf cid
  let s := if o.stale then s
    else s.putComm { k with words := (k.words ++ [(o.gen, o.seq, word, o.card_.scope)]).drop (k.words.length + 1 - Config.collWords) }
  let o : CollOp := { o with stage := 1 }
  (s.putOp cid o).opEvent cid o word

/-- The ending of an operation whose word is made: ROOT's notice, the status word to STAT and to the slot's words, the event record, the
counter add, in this order (R292, R297, R299). Writes of an aborted schedule still on their way are dropped. -/
def State.landOp (s : State) (cid : Nat) (o : CollOp) (word : W64) : State :=
  let x := o.card_
  let s : State := if fld word 62 2 = 1 then s else { s with storeQ := s.storeQ.filter (·.job != some o.id) }
  match o.stage with
  | 0 =>
    if jobWrites s o.id then s
    else
      let s := if fld word 62 2 = 1 then s.notifyDone cid o else s
      if x.stat = 0 then s.keepWord cid o word
      else match s.engineWrite o.maker o.unit x.stat x.scope
          (.bytes ((List.range 8).map fun i => (i, (bytesLE 8 word.toNat).getD i 0))) with
        | .held => s
        | .made t => t.keepWord cid o word
  | 3 => s.opAdd cid o
  | _ => s

/-- An operation completes: done once its data is written, it ends with its word; in quantum mode the writes, and with them the ending,
are made at the quantum's end (R292, R297, R302). -/
def State.finishOp (s : State) (cid : Nat) (o : CollOp) : State :=
  let ready := o.started && !o.stopped && (o.waitsOn (s.commOf cid)).isNone && ((s.launchOf o.lid).qm || !jobWrites s o.id)
  if o.word.isSome || !ready then s else s.endOp cid o.id (statusWord 1 0 false 0xFFFF o.seq)

/-- An operation's step: it ends if it can, and outside quantum mode its ending is made (R297, R302). -/
def State.completeOp (s : State) (cid : Nat) (o : CollOp) : State :=
  let s := s.finishOp cid o
  match (s.commOf cid).op o.id with
  | none => s
  | some o => match o.word with
    | some w => if (s.launchOf o.lid).qm then s else s.landOp cid o w
    | none => s

/-! ## The events of engine jobs -/

/-- JOB_START (R222, R227): a Carter job or a collective starts. -/
def execJobStart (id : Nat) (s : State) : Host.Outcome State Fault Refusal :=
  .next (match s.jobs.find? (·.id == id) with
    | some j => s.startJob j
    | none => match s.commWith id with
      | some k => match k.op id with
        | some o => s.startOp k.cid o
        | none => s
      | none => s)

/-- JOB_COMPLETION (R229, R297): outside quantum mode a Carter job completes; a collective ends. -/
def execJobCompletion (id : Nat) (s : State) : Host.Outcome State Fault Refusal :=
  .next (match s.jobs.find? (·.id == id) with
    | some j => if (s.launchOf j.lid).qm then s else s.completeJob j
    | none => match s.commWith id with
      | some k => match k.op id with
        | some o => s.completeOp k.cid o
        | none => s
      | none => s)

/-- The first post that waits for a crew's event queue enters it where there is room, and its counter add follows (R229, R231). -/
def State.postNext (s : State) (key : Nat) : State :=
  match s.crewOf key with
  | none => s
  | some k => match k.postWait with
    | [] => s
    | id :: rest =>
      if Config.eventQueue ≤ k.events.length then s
      else
        let post := fun (rec : W64) (scope : Nat) => s.putCrew { k with postWait := rest, events := k.events ++ [(rec, scope)] }
        match s.jobs.find? (·.id == id) with
        | some j => (post j.record j.copy.scope).addAndEnd { j with state := .adding }
        | none =>
          match s.commWith id with
          | none => s.putCrew { k with postWait := rest }
          | some m => match m.op id with
            | some o => (post (o.record (o.word.getD 0)) o.card_.scope).opAdd m.cid { o with stage := 3 }
            | none => s.putCrew { k with postWait := rest }

/-- EVENT_POST (R231): a post that waited enters its crew's queue once there is room, and its counter add follows. In quantum mode that
is a part of the quantum's end (R229). -/
def execEventPost (key : Nat) (s : State) : Host.Outcome State Fault Refusal :=
  .next (match s.crewOf key with
    | none => s
    | some k => if (s.launchOf k.lid).qm then s else s.postNext key)

end Sys2Proof.Machine
end

