-- ==== Sys2Proof/Machine/Records.lean ====
section
/-! DEFINITION. Launch records (R325 to R329): how the device reads one with its tables, and the checks of admission in the
order of R329's table. -/

namespace Sys2Proof.Machine

/-! ## Reading for a queue (R329) -/

/-- The unit whose translations the device's own reads and writes use: the L2 TLB of die 0 (DESIGN CHOICE, log 45). -/
def ownUnit : TlbUnit := .die 0

/-- What a read of an object in a queue's address space gives: it fails R124 or meets an uncorrectable error, it finds a page
absent, or it has the bytes. -/
inductive ObjGot where
  | bad
  | absent (ptr : W64)
  | bytes (bs : List Byte)
  deriving DecidableEq, Repr

/-- Joins what two reads give. -/
def ObjGot.join (a b : ObjGot) : ObjGot :=
  match a, b with
  | .bad, _ => .bad
  | _, .bad => .bad
  | .absent p, _ => .absent p
  | _, .absent p => .absent p
  | .bytes x, .bytes y => .bytes (x ++ y)

/-- One page's part of a read. -/
def readPart (s : State) (asid : Nat) (p : W64 × Nat) : ObjGot :=
  match (xlat s ownUnit asid p.1).loc with
  | none => .absent p.1
  | some (.remote _ _ _ _) => .bad
  | some (.host q) => .bytes (hostRead s q p.2)
  | some (.dev q) =>
    if (List.range (p.2 / 128 + 2)).any fun i => errored s (q + Nat.min (128 * i) (p.2 - 1)) then .bad else .bytes (homeRead s q p.2)

/-- Reads `n` bytes of an object as R124 reads them; nothing is read, and nothing checked, for a length of 0 (R325, R329). -/
def readObj (s : State) (asid : Nat) (ptr : W64) (n : Nat) : ObjGot :=
  if n = 0 then .bytes []
  else if accessCause s ownUnit asid ptr n 1 .read ≠ 0 then .bad
  else (segments ptr n).foldl (fun a p => a.join (readPart s asid p)) (.bytes [])

/-- The bytes of a read, empty where it has none. -/
def ObjGot.got : ObjGot → List Byte
  | .bytes bs => bs
  | _ => []

/-- The 8-byte words of some bytes. -/
def words8 (bs : List Byte) : List W64 := (List.range (bs.length / 8)).map fun i => BitVec.ofNat 64 (natLE ((bs.drop (8 * i)).take 8))

/-- Word i of a list of words. -/
def wordAt (ws : List W64) (i : Nat) : W64 := ws.getD i 0

/-! ## A record and its tables (R325) -/

/-- A record as admission has read it: its 32 words, its range list, its tables, and its parameters. -/
structure Record where
  w : List W64
  ranges : List W64
  roles : List W64
  chutes : List Nat
  stages : List W64
  maps : List W64
  params : List Byte
  deriving DecidableEq, Repr

def Record.mode (r : Record) : W32 := BitVec.ofNat 32 (fld (wordAt r.w 4) 32 32)
def Record.plen (r : Record) : Nat := fld (wordAt r.w 9) 0 9
def Record.parmObj (r : Record) : Nat := fld (wordAt r.w 9) 44 20
def Record.space (r : Record) : Nat := fld (wordAt r.w 7) 0 23
def Record.nslot (r : Record) : Nat := fld (wordAt r.w 7) 40 24
def Record.serial (r : Record) : Bool := bit (wordAt r.w 4) 30
def Record.next (r : Record) : W64 := wordAt r.w 19

/-- A count of the record's COUNTS word. -/
def countAt (w : List W64) (lo len : Nat) : Nat := fld (wordAt w 11) lo len

/-- The parameter length where it is valid, else 0: nothing is read beyond the record then. -/
def plenOf (w : List W64) : Nat :=
  let n := fld (wordAt w 9) 0 9
  if n ≤ 256 ∧ n % 8 = 0 then n else 0

/-- What a record names: pointers with lengths, in the order range list, roles, chutes, stages, maps, parameters. -/
def recordParts (ptr : W64) (w : List W64) : List (W64 × Nat) :=
  [(wordAt w 10, 16 * countAt w 48 16), (wordAt w 12, 8 * countAt w 40 8), (wordAt w 13, 4 * countAt w 32 8),
    (wordAt w 14, 8 * countAt w 24 8), (wordAt w 15, 64 * countAt w 16 8), (ptrAdd ptr 256, plenOf w)]

/-- The record that its words and parts make. -/
def recordOf (w : List W64) (parts : List ObjGot) : Record :=
  let part := fun i => (parts.getD i .bad).got
  { w := w, ranges := words8 (part 0), roles := words8 (part 1)
    chutes := (List.range ((part 2).length / 4)).map fun i => natLE (((part 2).drop (4 * i)).take 4)
    stages := words8 (part 3), maps := words8 (part 4), params := part 5 }

/-- Tile map `n` of a record's table, as eight words. -/
def Record.map (r : Record) (n : Nat) : List W64 := (r.maps.drop (8 * n)).take 8

/-- The number of maps that a record's table holds. -/
def Record.nmap (r : Record) : Nat := r.maps.length / 8

/-- A tile map from its words (R236). -/
def tileMapOf (m : List W64) : TileMap :=
  { base := wordAt m 0, ctl := wordAt m 1, rows := fld (wordAt m 2) 32 32, cols := fld (wordAt m 2) 0 32
    pitch := (wordAt m 3).toNat, scale := wordAt m 4, spitch := (wordAt m 5).toNat }

def TileMap.valid (m : TileMap) : Bool := bit m.ctl 0
def TileMap.kind (m : TileMap) : Nat := fld m.ctl 62 2
def TileMap.fmt (m : TileMap) : Nat := fld m.ctl 58 4
def TileMap.mx (m : TileMap) : Bool := bit m.ctl 57

/-- The formats that R237 allows. -/
def formatOk (kind fmt : Nat) (mx : Bool) : Bool :=
  match kind, mx with
  | 0, false => fmt == 0 || fmt == 8 || fmt == 9 || fmt == 12 || fmt == 13
  | 0, true => fmt == 12 || fmt == 13
  | 1, false => fmt == 0 || fmt == 8 || fmt == 9 || fmt == 12 || fmt == 13 || fmt == 14
  | 1, true => fmt == 12 || fmt == 13 || fmt == 14
  | 2, false => fmt == 4 || fmt == 8 || fmt == 9 || fmt == 10 || fmt == 12 || fmt == 13
  | 2, true => fmt == 0 || fmt == 12 || fmt == 13 || fmt == 15
  | _, _ => false

/-- Whether a declared map keeps R236 and R237. -/
def TileMap.ok (m : TileMap) : Bool :=
  let line := if m.kind = 1 then m.rows else m.cols
  formatOk m.kind m.fmt m.mx && decide (1 ≤ m.rows ∧ m.rows ≤ 2 ^ 24 ∧ 1 ≤ m.cols ∧ m.cols ≤ 2 ^ 24)
    && decide (ceilDiv (line * width m.fmt) 8 ≤ m.pitch) && (width m.fmt == 4 || m.pitch % elemBytes m.fmt == 0)
    && (m.mx || (m.scale == 0 && m.spitch == 0))

/-! ## The checks (R329) -/

/-- Whether a reserved field of a record is nonzero (R325). -/
def recordReserved (w : List W64) : Bool :=
  let z := fun i lo len => fld (wordAt w i) lo len != 0
  z 1 40 24 || z 2 40 24 || z 3 40 24 || z 4 17 7 || z 6 32 31 || z 7 23 17 || z 9 9 35 || z 11 0 16 || z 17 32 32 || z 18 32 32
    || (w.drop 20).any (· != 0)

/-- Whether a reserved field of a table entry is nonzero (R236, R325, R328): of the tables that have been read, and of declared
maps. -/
def Record.reserved (r : Record) : Bool :=
  ((List.range (r.ranges.length / 2)).any fun i => fld (wordAt r.ranges (2 * i + 1)) 40 23 != 0)
    || (r.roles.any fun e => fld e 8 24 != 0 || fld e 0 4 != 0)
    || (r.chutes.any fun e => decide (2 ^ 16 ≤ e))
    || (r.stages.any fun e => fld e 32 8 != 0)
    || (List.range r.nmap).any fun n => let m := r.map n
        bit (wordAt m 1) 0 && (fld (wordAt m 1) 1 56 != 0 || wordAt m 6 != 0 || wordAt m 7 != 0)

/-- The object of a pointer as a walk finds it. -/
def objectOf (s : State) (asid : Nat) (obj : Nat) : Option ObjEnt :=
  match walkObject s asid obj with
  | .ok (e, _) => some e
  | .error _ => none

/-- Whether an instruction at an offset from KCODE lies in the code object (R329 reason 6). -/
def inCode (s : State) (asid : Nat) (kcode : W64) (off : Nat) : Bool :=
  (objectOf s asid (objOf kcode)).any fun e => decide (off % 4 = 0 ∧ offOf kcode + off + 4 ≤ e.len)

/-- The quadrants that a partition owns. -/
def quadsOwned (s : State) (part : Nat) : Nat := ((List.range (4 * Config.benches)).filter fun q => quadOwner s q == some part).length

/-- Whether chute `n` is declared: its depth is not zero. -/
def Record.chute (r : Record) (n : Nat) : Bool := r.chutes.getD n 0 != 0

/-- Whether a stage names roles and chutes that the record declares. -/
def Record.stageOk (r : Record) (e : W64) : Bool :=
  let named := fun c => c == 0xFF || r.chute c
  decide (fld e 56 8 < r.roles.length) && named (fld e 48 8) && named (fld e 40 8)

/-- The checks after the reads, reason by reason: what holds is a failure (R329). -/
def Record.failures (s : State) (asid part : Nat) (r : Record) : List (Nat × Bool) :=
  let w := r.w
  let ext := fun i => fld (wordAt w i) 0 40
  let kcode := wordAt w 0
  let q := fld (wordAt w 4) 0 17
  let stages := List.range r.stages.length
  let st := fun i => wordAt r.stages i
  let obj := objectOf s asid
  [ (3, ext 1 == 0 || ext 2 == 0 || ext 3 == 0 || decide (2 ^ 40 < ext 1 * ext 2 * ext 3)),
    (4, !modeLegal r.mode),
    (5, decide (1 ≤ q ∧ q ≤ 63) || decide (65536 < q) || fld (wordAt w 4) 28 2 == 3),
    (6, (r.roles.any fun e => !inCode s asid kcode (fld e 32 32))
      || (bit (wordAt w 6) 63 && !inCode s asid kcode (fld (wordAt w 6) 0 32))),
    (7, r.space % 2048 != 0 || decide (2 ^ 22 < r.space)
      || (r.nslot != 0 && (offOf (wordAt w 8) != 0
        || !(obj (objOf (wordAt w 8))).any fun e => e.dev && decide ((r.nslot + 1) * r.space ≤ e.len)))),
    (8, decide (4096 < countAt w 48 16) || (List.range (r.ranges.length / 2)).any fun i =>
      let p := wordAt r.ranges (2 * i)
      let n := fld (wordAt r.ranges (2 * i + 1)) 0 40
      n == 0 || !(obj (objOf p)).any fun e => decide (offOf p + n ≤ e.len)),
    (9, decide (16 < countAt w 40 8) || decide (64 < countAt w 32 8) || decide (16 < countAt w 24 8)
      || (r.roles.any fun e => fld e 6 2 == 3) || (r.chutes.any fun d => decide (1024 < d)) || r.stages.any fun e => !r.stageOk e),
    (10, decide (16 * quadsOwned s part < (r.stages.map fun e => fld e 0 32).foldl (· + ·) 0)
      || stages.any fun i => i != 0 && fld (st i) 48 8 != fld (st (i - 1)) 40 8),
    (11, (List.range r.nmap).any fun n => (tileMapOf (r.map n)).valid && !(tileMapOf (r.map n)).ok),
    (12, fld (wordAt w 18) 0 32 != s.field (regPmap part) 40 24),
    (13, decide (256 < r.plen) || r.plen % 8 != 0
      || (r.parmObj != 0 && !(obj r.parmObj).any fun e => e.dev && decide (256 ≤ e.len))) ]

/-- What the checks of a record give: a reason, a page to wait for with the reason if it stays absent, or the record. -/
inductive Verdict where
  | reject (reason : Nat)
  | wait (ptr : W64) (reason : Nat)
  | ok (r : Record)
  deriving DecidableEq, Repr

/-- Checks a record in the order of R329's table, and stops at the first failure. -/
def checkRecord (s : State) (asid part : Nat) (ptr : W64) : Verdict :=
  if ptr.toNat % 64 ≠ 0 then .reject 2
  else match readObj s asid ptr 256 with
    | .bad => .reject 2
    | .absent p => .wait p 2
    | .bytes bs =>
      let w := words8 bs
      let parts := (recordParts ptr w).map fun p => readObj s asid p.1 p.2
      let r := recordOf w parts
      if recordReserved w || r.reserved then .reject 1
      else match parts.find? fun g => match g with | .absent _ => true | _ => false with
        | some (.absent p) => .wait p 2
        | _ =>
          if parts.any (· == .bad) then .reject 2
          else match (r.failures s asid part).find? (·.2) with
            | some p => .reject p.1
            | none => .ok r

/-- What reading a record and its tables leaves of the flaws it finds (R381, R383). -/
def State.recordRead (s : State) (asid : Nat) (ptr : W64) : State :=
  if s.flaws.isEmpty then s
  else
    let w := words8 (readObj s asid ptr 256).got
    (if w.isEmpty then [] else recordParts ptr w).foldl (fun s p => if p.2 = 0 then s else s.rangeRead ownUnit asid p.1 p.2)
      (s.rangeRead ownUnit asid ptr 256)

/-! ## Lists and patches (R332, R333) -/

/-- What following a chain from its head gives: the records' words as far as they can be read, and a page that is absent. -/
def chainOf (s : State) (asid : Nat) : Nat → W64 → List (List W64) × Option W64
  | 0, _ => ([], none)
  | fuel + 1, ptr =>
    if ptr = 0 ∨ ptr.toNat % 64 ≠ 0 then ([], none)
    else match readObj s asid ptr 256 with
      | .bad => ([], none)
      | .absent p => ([], some p)
      | .bytes bs =>
        let rest := chainOf s asid fuel (wordAt (words8 bs) 19)
        (words8 bs :: rest.1, rest.2)

/-- Whether a patch breaks its layout, given the records of the chain: it names none of them, or an offset that is no multiple of
8 below the record's PLEN (R333). -/
def patchBad (chain : List (List W64)) (p : W64 × W64) : Bool :=
  let off := fld p.1 0 9
  fld p.1 9 47 != 0 || off % 8 != 0 ||
    match chain[fld p.1 56 8]? with
    | none => true
    | some w => decide (fld (wordAt w 9) 0 9 ≤ off)

/-- Whether the patches of an entry are laid out as R333 requires: `none` where they are, else a verdict. -/
def checkPatches (s : State) (t : Taken) : Option Verdict :=
  if t.patches.isEmpty then none
  else
    let deepest := (t.patches.map fun p => fld p.1 56 8).foldl Nat.max 0
    let chain := chainOf s t.asid (if t.kind = 0 then 1 else deepest + 1) t.head
    if t.patches.any fun p => fld p.1 9 47 != 0 || fld p.1 0 3 != 0 then some (.reject 1)
    else match chain.2 with
      | some p => some (.wait p 2)
      | none => if t.patches.any (patchBad chain.1) then some (.reject 1) else none

/-- The parameters of a record's private copy: 256 bytes, with the patches for it applied in order (R326, R333). -/
def patched (params : List Byte) (idx : Nat) (patches : List (W64 × W64)) : List Byte :=
  (patches.filter fun p => fld p.1 56 8 == idx).foldl
    (fun (bs : List Byte) p => (List.range 8).foldl (fun bs i => bs.set (fld p.1 0 9 + i) ((bytesLE 8 p.2.toNat).getD i 0)) bs)
    (fitBytes 256 params)

end Sys2Proof.Machine
end

