-- ==== Sys2Proof/Machine/Residence.lean ====
section
/-! DEFINITION. Becoming resident: which cuts of a launch may take a place (R352, R378, R380), the cut queues (R22, R34, R39), and
the entry state of a cut (R16). -/

namespace Sys2Proof.Machine

/-! ## Who may become resident -/

/-- The slice of a partition (R380). -/
def State.sliceOf (s : State) (part : Nat) : Slice := (s.slices.find? (·.part == part)).getD ⟨part, 0, [], false⟩

/-- Stores the slice of a partition. -/
def State.putSlice (s : State) (x : Slice) : State :=
  { s with slices := if s.slices.any (·.part == x.part) then s.slices.map fun (y : Slice) => if y.part = x.part then x else y
                     else s.slices ++ [x] }

/-- Whether an account of a partition was found exhausted at the last slice end (R380). -/
def exhausted (s : State) (part acct : Nat) : Bool := decide (acct ∈ (s.sliceOf part).exhausted)

/-- Whether a context holds its clusters for itself (R378). -/
def exclusive (s : State) (asid : Nat) : Bool := (s.contextOf asid).any fun x => bit x.ctl 63 && bit x.ctl 60

/-- Whether a cut is resident on a cluster of Benches. -/
def residentOn (c : Cut) (cluster : Nat) : Bool :=
  match c.place with
  | .foreman b => clusterOf b == cluster
  | .quad b _ => clusterOf b == cluster
  | _ => false

/-- Whether a pre-emption affects a launch. -/
def Preempt.affects (p : Preempt) (lid : Nat) : Bool := p.affected.any (·.1 == lid)

/-- Whether cuts of a launch may become resident on a Bench: its account is not exhausted (R380), no pre-emption of it is
under way there (R352), and no other context of its partition holds the cluster for itself (R378). -/
def mayReside (s : State) (l : Launch) (bench : Nat) : Bool :=
  !exhausted s l.part l.acct
    && !(s.preempts.any fun p => p.affects l.lid && p.cluster == clusterOf bench && !p.finished)
    && !s.cuts.any fun c =>
      let m := s.launchOf c.lid
      residentOn c (clusterOf bench) && m.part == l.part && m.asid != l.asid && exclusive s m.asid

/-! ## Cut queues -/

/-- The quadrant that quantum mode names for a cut in no crew, the partition's first on the Bench where it does not own that one
(R39; DEDUCED, log 31). -/
def quantumQuad (s : State) (l : Launch) (c : Cut) : Nat :=
  let q := (quantumPlace s l c.first).2
  if q ∈ ownedQuads s l.part c.bench then q else (ownedQuads s l.part c.bench).headD q

/-- Whether a cut is saved. -/
def Cut.isSaved (c : Cut) : Bool := match c.place with | .saved _ => true | _ => false

/-- Whether a lane cut of lower identifier of the launch waits for a place on the Bench, queued there, or saved with its place there by
R39: in quantum mode it becomes resident first. -/
def lowerWaits (s : State) (l : Launch) (c : Cut) (bench : Nat) : Bool :=
  s.cuts.any fun d => d.lid == c.lid && d.parent != c.parent && decide ((d.parid s).toNat < (c.parid s).toNat)
    && (d.place == .queue bench
      || (d.isSaved && !d.isPattern && !d.mill && d.crew.isNone && (quantumPlace s l d.first).1 == bench))

/-- Whether a queued cut may take a slot of a quadrant now: the quadrant is its partition's and has a free slot, crews keep the
slots they reserved (R213), and in quantum mode the quadrant is the one of R39 and no lower identifier waits on the Bench. -/
def mayEnter (s : State) (c : Cut) (bench quad : Nat) : Bool :=
  let l := s.launchOf c.lid
  c.place == .queue bench && quadOwner s (4 * bench + quad) == some l.part
    && decide ((quadHolds s bench quad).length < Config.slotsPerQuad) && mayReside s l bench
    && (c.crew.isSome || mayReserve s l.part bench 1 c.parent)
    && (!l.qm || ((c.crew.isSome || quantumQuad s l c == quad) && !lowerWaits s l c bench))

/-- A lane cut with its parts takes a place. -/
def State.placeFamily (s : State) (c : Cut) (p : Place) : State :=
  { s with cuts := s.cuts.map fun (d : Cut) =>
      if d.parent = c.parent ∧ d.lid = c.lid ∧ !d.isPattern then { d with place := p, born := s.cycle, age := s.cycle } else d }

/-- The queued cut that takes a free slot of a quadrant next: the lowest identifier, and of those the one that has waited longest
(R24). -/
def nextQueued (s : State) (bench quad : Nat) : Option Cut :=
  (sortBy (fun c : Cut => (c.parid s).toNat * 2 ^ 64 + c.born) (s.cuts.filter fun c => mayEnter s c bench quad)).head?

/-- CUT_QUEUE_ISSUE (R34, R39): a queued lane cut becomes resident in a free slot. -/
def execCutQueueIssue (bench quad : Nat) (s : State) : Host.Outcome State Fault Refusal :=
  .next (match nextQueued s bench quad with
    | some c => s.placeFamily c (.quad bench quad)
    | none => s)

/-! ## Saving (R36, R256) -/

/-- The cuts that are saved and moved together with a cut: its crew's members, else the parts of its lane cut (R29, R36). -/
def togetherWith (s : State) (c : Cut) : List Cut :=
  match c.crew with
  | some k => s.cuts.filter (·.crew == some k)
  | none => if c.isPattern then [c] else familyOf s c

/-- A crew that is saved stands on no Bench until it resumes; writes to its space are held (R209). -/
def State.standDown (s : State) (key : Nat) : State :=
  { s with crews := s.crews.map fun (k : Crew) => if k.key = key then { k with moving := true } else k }

/-- A cut as a save leaves it: no window is open, and it has left a `SEAM` where it waited, to arrive there anew (R83, R175). -/
def Cut.asSaved (c : Cut) (bench cycle : Nat) : Cut :=
  { c with
    place := .saved bench, born := cycle, leaving := false
    wait := match c.wait with | .seam _ _ _ => .none | w => w }

/-- Saves a cut, with all that move with it: their claims and, for a crew, the frames of its space (R36, R209, R256). The save waits
for every outstanding result, and the cuts issue nothing till then (R83). -/
def State.saveCut (s : State) (c : Cut) : State :=
  let all := togetherWith s c
  if all.any fun d => !d.outst.isEmpty then all.foldl (fun (s : State) (d : Cut) => s.putCut { d with leaving := true }) s
  else
    let t := all.foldl (fun (s : State) (d : Cut) => (s.saveClaims d).putCut (d.asSaved d.place.bench s.cycle))
      (all.foldl (fun s d => s.settleBench d.place.bench) s)
    match c.crew.bind t.crewOf with
    | some k => (t.evictAll k).standDown k.key
    | none => t

/-! ## The entry state (R16) -/

/-- The context of a cut at a kernel's entry point. -/
def Ctx.entry (pc : W64) (mode active : W32) : Ctx :=
  { pc := pc, v := List.replicate 64 (uVal 0), o := List.replicate 8 (uVal 0), l0 := .val (uVal 0), l1 := .val (uVal 0)
    preds := List.replicate 8 (.uni false), mode := mode, loops := [], fences := List.replicate 8 none, fseq := 0, asf := 0
    tenable := 0, active := active }

/-- The trap CSRs of a cut at entry (R340; DESIGN CHOICE, log 7). -/
def TrapCsrs.entry (l : Launch) : TrapCsrs :=
  { tcause := 0, tpc := 0, taddr := 0, tlanes := 0, tdone := 0, tparent := 0, tsibs := 0, tlspc := 0, inh := false, hv := l.hv
    off := l.hoff, sl0 := uVal 0, sl1 := uVal 0, sloops := savedLoops [] }

/-- A cut of a launch in its entry state; where it stands and its items are set by its maker. -/
def Cut.atEntry (s : State) (l : Launch) (uid : Nat) (kind : CutKind) (box : Box) (items : List Item) (place : Place) : Cut :=
  { uid := uid, lid := l.lid, kind := kind, frag := 0, mill := false, first := 0, parent := uid, box := box, items := items
    ctx := Ctx.entry l.kcode l.mode (maskOf 32 (· < items.length)), trap := TrapCsrs.entry l, pend := none, late := [], outst := []
    binds := List.replicate 16 none, crew := none, role := 0, allot := 64, cls := l.cls, place := place, wait := .none, anc := []
    age := s.cycle, born := s.cycle, retired := 0, rgen := replayGen s l.part, effects := false
    sec := Section.fresh, localMem := [], arrived := none, solo := List.replicate 8 0, replay := 0, part := [], exiting := false
    leaving := false, issuing := [], haltPc := false }

/-- The Bench of a launch's placement whose Foreman takes a new pattern cut: the first with a free entry (DESIGN CHOICE, log 11). -/
def freeForeman (s : State) (l : Launch) : Option Nat :=
  (placement s l.part).find? fun b =>
    mayReside s l b && decide ((s.cuts.filter fun c => c.isPattern && c.place == .foreman b).length < Config.foremanLimit)

end Sys2Proof.Machine
end

