-- ==== Sys2Proof/Machine/Queues.lean ====
section
/-! DEFINITION. Launch queues (R323, R324), admission and rejection (R326 to R329), lists and replays (R332, R333), dispatch (R16)
and completion (R330), and `LAUNCH` (R331): op7 0x4F. -/

namespace Sys2Proof.Machine

/-! ## Queue registers (R323, R377) -/

/-- The entries of a queue's ring. -/
def ringSize (s : State) (q : Nat) : Nat := 2 ^ (s.field (regQcfg q) 4 4 + 4)

/-- The address space of a queue. -/
def queueAsid (s : State) (q : Nat) : Nat := s.field (regQcfg q) 32 13

/-- The next entry that the device will take, and the next that the driver will fill. -/
def queueHead (s : State) (q : Nat) : Nat := s.field (regQhead q) 0 32
def queueTail (s : State) (q : Nat) : Nat := s.field (regQtail q) 0 32

/-- Where an entry lies. -/
def entryPtr (s : State) (q i : Nat) : W64 := ptrAdd (s.reg (regQbase q)) (32 * (i % ringSize s q))

/-- The partition of a queue that is served, `none` where QCFG.EN reads 0 (R323, R377). -/
def served (s : State) (q : Nat) : Option Nat :=
  let part := s.field (regVfmap (q / 8)) 48 6
  let ctl := BitVec.ofNat 64 (homeWord s (s.field regAstbase 18 22 * 2 ^ 18 + 32 * queueAsid s q) 8)
  if bit (s.reg (regQcfg q)) 63 && decide (s.field (regQcfg q) 4 4 ≤ 12) && bit (s.reg (regVfmap (q / 8))) 63
      && decide (part < 40) && bit (s.reg (regPcfg part)) 63 && bit ctl 63 && fld ctl 48 6 == part
  then some part else none

/-- QTAIL_WRITE (R323): a value too far ahead of QHEAD is ignored, and sets OVF. -/
def execQtailWrite (queue : Nat) (v : W64) (s : State) : Host.Outcome State Fault Refusal :=
  .next (
    let n := fld v 0 32
    if ringSize s queue < (n + 2 ^ 32 - queueHead s queue) % 2 ^ 32 then s.setField (regQstat queue) 63 1 1
    else s.setReg (regQtail queue) (BitVec.ofNat 64 n))

/-- QSTAT_WRITE (R323): OVF and CDROP clear where 1 is written. -/
def execQstatWrite (queue : Nat) (v : W64) (s : State) : Host.Outcome State Fault Refusal :=
  .next (s.setReg (regQstat queue) (s.reg (regQstat queue) &&& ~~~(v &&& bits 63 62)))

/-! ## Waiting for pages (R326, R329) -/

/-- The entry of a queue that is being admitted. -/
def State.takenOf (s : State) (q : Nat) : Option Taken := s.taken.find? (·.queue == q)

def State.putTaken (s : State) (t : Taken) : State :=
  { s with taken := s.taken.map fun (u : Taken) => if u.queue = t.queue then t else u }

def State.dropTaken (s : State) (q : Nat) : State := { s with taken := s.taken.filter (·.queue != q) }

/-- An entry waits for a page: it is requested as `PGREQ` requests one, and again after a replay-all (R329, R366, R368). -/
def State.awaitPage (s : State) (t : Taken) (part : Nat) (ptr : W64) : State :=
  let g := replayGen s part
  match t.waiting with
  | some (p, since, h) =>
    if p = ptr ∧ h = g then s
    else ((s.request ownUnit part t.asid ptr 2).2).putTaken { t with waiting := some (ptr, if p = ptr then since else s.cycle, g) }
  | none => ((s.request ownUnit part t.asid ptr 2).2).putTaken { t with waiting := some (ptr, s.cycle, g) }

/-! ## Taking an entry (R324, R333) -/

/-- QHEAD passes the entry in hand, and the ring slot's depth is known no more. -/
def State.passHead (s : State) (t : Taken) : State :=
  { s.setReg (regQhead t.queue) (BitVec.ofNat 64 ((t.index + 1) % 2 ^ 32)) with
    children := s.children.filter fun c => !(c.1 == t.queue && c.2.1 == t.index) }

/-- Reads the entry that a queue has in hand, and its patch block (R324, R333). -/
def State.enterEntry (s : State) (t : Taken) (part : Nat) : State :=
  let first := s.rangeRead ownUnit t.asid (entryPtr s t.queue t.index) 32
  let enter := fun (s : State) (t : Taken) => (s.passHead t).putTaken { t with entered := true, waiting := none }
  let go := enter first
  match readObj s t.asid (entryPtr s t.queue t.index) 32 with
  | .bad => go { t with bad := some 2 }
  | .absent p => s.awaitPage t part p
  | .bytes bs =>
    let e := words8 bs
    let ctl := wordAt e 1
    let mine := s.children.find? fun c => c.1 == t.queue && c.2.1 == t.index
    let t : Taken := { t with
      kind := fld ctl 56 8, child := bit ctl 55, depth := (mine.map (·.2.2)).getD 0, acct := fld ctl 51 4, irq := bit ctl 50
      user := BitVec.ofNat 32 (fld ctl 0 32), ptr := wordAt e 0, head := wordAt e 0, doneP := wordAt e 3 }
    let late := if t.doneP.toNat % 32 ≠ 0 then some 2 else none
    let patch := wordAt e 2
    if 2 ≤ t.kind ∨ fld ctl 32 18 ≠ 0 ∨ (t.child ∧ mine.isNone) then go { t with bad := some 1 }
    else if patch = 0 then go { t with bad := late }
    else match readObj s t.asid patch 8 with
      | .bad => go { t with bad := some 2 }
      | .absent p => s.awaitPage t part p
      | .bytes h =>
        let hw := wordAt (words8 h) 0
        match readObj s t.asid (ptrAdd patch 8) (16 * fld hw 0 16) with
        | .absent p => s.awaitPage t part p
        | .bad => go { t with bad := some (if fld hw 16 48 ≠ 0 then 1 else 2) }
        | .bytes b =>
          let ws := words8 b
          let ps := (List.range (ws.length / 2)).map fun i => (wordAt ws (2 * i), wordAt ws (2 * i + 1))
          enter (first.rangeRead ownUnit t.asid patch (8 + b.length)) { t with patches := ps, bad := if fld hw 16 48 ≠ 0 then some 1 else late }

/-- ENTRY_TAKE (R324): the next entry of a served queue is taken; one whose reading waits for a page is read again. -/
def execEntryTake (queue : Nat) (s : State) : Host.Outcome State Fault Refusal :=
  .next (match served s queue with
    | none => s
    | some part =>
      match s.takenOf queue with
      | some t => if t.entered then s else s.enterEntry t part
      | none =>
        if queueHead s queue = queueTail s queue then s
        else
          let t : Taken := ⟨queue, queueHead s queue, queueAsid s queue, 0, false, 0, 0, false, 0, 0, 0, 0, [], [], 0, false, none, none⟩
          { s with taken := s.taken ++ [t], turns := insertBy (·.1) (queue / 8, queue) (s.turns.filter (·.1 != queue / 8)) }.enterEntry t
            part)

/-! ## Completion records (R330) -/

/-- A launch that runs or has been admitted. -/
def Launch.live (l : Launch) : Bool := l.state == .admitted || l.state == .running

/-- Where a completion record lies: `none` where its page is absent, or it fails R124 as a write (DEDUCED, log 46). -/
def recordLocs (s : State) (l : Launch) : Option (List Loc) :=
  if accessCause s ownUnit l.asid l.doneP 32 1 .write ≠ 0 then none else accessLocs s ownUnit l.asid l.doneP 1 32

/-- The completion record (R330). -/
def Launch.recordBytes (l : Launch) : List Byte :=
  let status : Nat := l.endState * 2 ^ 62 + l.endReason * 2 ^ 56 + l.user.toNat
  [status, l.launchId.toNat, l.charged, 0].flatMap (bytesLE 8)

/-- The launch leaves: its interrupt is sent, whether its record was written or dropped (R330). -/
def State.recorded (s : State) (l : Launch) : State :=
  let s : State := { s with launches := s.launches.filter (·.lid != l.lid) }
  if l.irq then s.interrupt (s.field (regQvec l.queue) 0 16) else s

/-- The record is dropped, and QSTAT.CDROP set (R330). -/
def State.dropRecord (s : State) (l : Launch) : State := (s.setField (regQstat l.queue) 62 1 1).recorded l

/-- Writes a completion record, or waits for its page (R330). -/
def State.writeRecord (s : State) (l : Launch) : State :=
  if l.doneP = 0 then s.recorded l
  else match recordLocs s l with
    | none =>
      let g := replayGen s l.part
      if l.rgen = g + 1 then s else ((s.request ownUnit l.part l.asid l.doneP 2).2).putLaunch { l with rgen := g + 1 }
    | some ls =>
      if ls.any fun p => match p with | .dev a => flushHolds s (sectorOf a) | _ => false then s
      else if erroredAt s ls || beyondAt ls then s.dropRecord l
      else ((s.xlatted ownUnit l.asid l.doneP).putAt ls l.recordBytes).recorded l

/-- COMPLETION_RECORD_WAIT_LIMIT (R330). -/
def execCompletionRecordWaitLimit (lid : Nat) (s : State) : Host.Outcome State Fault Refusal :=
  .next (match s.launches.find? (·.lid == lid) with
    | none => s
    | some l =>
      if l.state = .recording ∧ l.doneP ≠ 0 ∧ l.since + waitLimit s l.part ≤ s.cycle ∧ (recordLocs s l).isNone then s.dropRecord l
      else s)

/-- The other launches of the queue entry that a launch came from, which share its list's record (R330, R332). -/
def siblingsOf (s : State) (l : Launch) : List Launch :=
  s.launches.filter fun d => d.lid != l.lid && d.listPtr.isSome && d.queue == l.queue && d.index == l.index && d.state != .recording

/-- The record of a list has been made: the launches of its entry make none of their own, and a later replay of the list still waits
for them (R330, R332). -/
def State.listRecorded (s : State) (queue index : Nat) : State :=
  let of := fun (d : Launch) => d.listPtr.isSome && d.queue == queue && d.index == index && d.state != .recording
  { s with launches := (s.launches.filter fun d => !(of d && d.state == .ended)).map fun (d : Launch) =>
      if of d then { d with doneP := 0, irq := false } else d }

/-- A launch that is complete waits to write its record. -/
def Launch.recording (s : State) (l : Launch) : Launch := { l with state := .recording, since := s.cycle, rgen := 0 }

/-- The remaining launches of a list are not admitted. -/
def State.dropTakenOf (s : State) (l : Launch) : State :=
  { s with taken := s.taken.filter fun t => !(t.queue == l.queue && t.index == l.index) }

/-- A launch is complete: its parameter slot frees, and its record is due; a list has one record, for its last launch, when all of
them have completed, or at once for one that was reset (R326, R330; DEDUCED, log 47). -/
def State.finish (s : State) (l : Launch) : State :=
  let s : State := { s with parmSlots := s.parmSlots.filter (·.2.2 != l.lid), qeff := s.qeff.filter (·.lid != l.lid) }
  let l : Launch := { l with endState := if l.endState = 0 then 1 else l.endState }
  if l.listPtr.isNone then s.putLaunch (l.recording s)
  else if l.endState = 3 ∧ l.endReason = 1 then
    ((s.putLaunch (l.recording s)).listRecorded l.queue l.index).dropTakenOf l
  else if (siblingsOf s l).any Launch.live || s.taken.any (fun t => t.queue == l.queue && t.index == l.index) then
    s.putLaunch { l with state := .ended }
  else
    let all := l :: siblingsOf s l
    let last := all.foldl (fun (a : Launch) d => if a.recIdx < d.recIdx then d else a) l
    let sum := (all.map (·.charged)).foldl (· + ·) 0
    (s.putLaunch { (last.recording s) with charged := sum, lid := l.lid }).listRecorded l.queue l.index

/-- Whether a launch is complete: no cut, Mill command, job or collective of it is left, and its effects have performed (R330). -/
def launchDone (s : State) (lid : Nat) : Bool :=
  let l := s.launchOf lid
  !(s.cuts.any (·.lid == lid)) && l.cmds.isEmpty && !(s.jobs.any (·.lid == lid))
    && !(s.comms.any fun k => k.ops.any (·.lid == lid)) && !(s.storeQ.any (·.lid == lid)) && !(s.scratchW.any (·.lid == lid))
    && !(s.remotes.any fun r => r.store.any (·.lid == lid)) && (l.endState != 0 || !(s.qeff.any (·.lid == lid)))

/-- LAUNCH_COMPLETION (R330): a complete launch finishes, and its record is written. -/
def execLaunchCompletion (lid : Nat) (s : State) : Host.Outcome State Fault Refusal :=
  .next (match s.launches.find? (·.lid == lid) with
    | none => s
    | some l => match l.state with
      | .running => if launchDone s lid then s.finish l else s
      | .recording => s.writeRecord l
      | _ => s)

/-! ## Rejection (R329) -/

/-- A launch is rejected: QSTAT names it, and its record is due; the rest of its list is not admitted (R329, R330). -/
def State.rejectEntry (s : State) (t : Taken) (part reason : Nat) : State :=
  let s := if t.entered then s else s.passHead t
  let s := (s.setField (regQstat t.queue) 48 8 reason).setField (regQstat t.queue) 0 32 t.index
  let s := (s.dropTaken t.queue).listRecorded t.queue t.index
  let l : Launch := { Launch.absent with
    lid := s.nextLid, state := .recording, asid := t.asid, vf := t.queue / 8, part := part, queue := t.queue, index := t.index
    user := t.user, irq := t.irq, doneP := t.doneP, endState := 2, endReason := reason, since := s.cycle }
  { s with launches := s.launches ++ [l], nextLid := s.nextLid + 1 }

/-! ## Admission (R326, R329, R332) -/

/-- Whether a launch must wait for others: SERIAL waits for the earlier launches of its queue, which are those of its list too
(R325), and a replay for the launches of the previous replay of its list (R332). -/
def mustFollow (s : State) (t : Taken) (r : Record) : Bool :=
  (r.serial && s.launches.any fun l => l.live && l.queue == t.queue)
    || (t.kind == 1 && t.recIdx == 0 && (
      (s.launches.any fun l => l.live && l.listPtr == some t.head && l.asid == t.asid)
        || s.taken.any fun u => u.queue != t.queue && u.kind == 1 && u.head == t.head && u.asid == t.asid && u.recIdx != 0))

/-- The slot of a parameter object that a launch takes: the lowest free one (R326; DESIGN CHOICE, log 11). Slots are numbered by the pointers to
them, in units of 256 bytes. -/
def parmSlot (s : State) (asid obj : Nat) : Option Nat :=
  let n := ((objectOf s asid obj).map (·.len)).getD 0 / 256
  let base := obj * 2 ^ 36
  let used := (s.parmSlots.filter fun p => p.1 == asid && decide (base ≤ p.2.1 ∧ p.2.1 < base + 2 ^ 36)).map (·.2.1)
  lowestFree base (base + n) used

/-- The launch that an admitted record becomes (R325 to R327). -/
def Record.launch (s : State) (t : Taken) (part : Nat) (r : Record) (slot : Option Nat) : Launch :=
  let w := r.w
  let ctl := wordAt w 4
  let entry := fun (e : W64) => (⟨fld e 32 32, fld e 6 2, 16 * (fld e 4 2 + 1)⟩ : Role)
  let stage := fun (e : W64) => (⟨fld e 56 8, fld e 48 8, fld e 40 8, fld e 0 32⟩ : Stage)
  { lid := s.nextLid, state := .admitted, asid := t.asid, vf := t.queue / 8, part := part, queue := t.queue, index := t.index
    user := t.user, irq := t.irq, doneP := t.doneP, kcode := wordAt w 0, extx := fld (wordAt w 1) 0 40
    exty := fld (wordAt w 2) 0 40, extz := fld (wordAt w 3) 0 40, mode := r.mode, seed := wordAt w 5, hv := bit (wordAt w 6) 63
    hoff := BitVec.ofNat 32 (fld (wordAt w 6) 0 32), nslot := r.nslot, space := r.space, backing := wordAt w 8, parmSlot := slot
    launchId := BitVec.ofNat 64 (match slot with | some k => 256 * k | none => (s.launchNo + 1) % 2 ^ 44)
    boltId := BitVec.ofNat 64 (t.depth * 2 ^ 60 + t.recIdx * 2 ^ 43 + t.queue * 2 ^ 32 + t.index)
    depth := t.depth, qm := bit ctl 31, quantum := if fld ctl 0 17 = 0 then 1024 else fld ctl 0 17, serial := r.serial
    cls := fld ctl 28 2, acct := if t.child then t.acct else fld ctl 24 4, roles := r.roles.map entry, chutes := r.chutes
    stages := r.stages.map stage, maps := (List.range r.nmap).map fun n => tileMapOf (r.map n)
    ranges := (List.range (r.ranges.length / 2)).map fun i => (wordAt r.ranges (2 * i), wordAt r.ranges (2 * i + 1))
    slotGens := [], millSeq := 0, cmds := [], charged := 0, listPtr := if t.kind = 1 then some t.head else none
    recIdx := t.recIdx, endState := 0, endReason := 0, since := s.cycle, rgen := 0
    lifetimes := [] }

/-- Why a context's descriptor is rejected, as WALKERR counts it; 0 where it is not: a reserved bit (R3, R378), or an uncorrectable error
(R370; DEDUCED, log 91). -/
def contextFault (s : State) (asid : Nat) : Nat :=
  let d := fun i => BitVec.ofNat 64 (homeWord s (ctxAddr s asid + 8 * i) 8)
  if errored s (ctxAddr s asid) then 4
  else if fld (d 0) 40 20 ≠ 0 ∨ fld (d 0) 0 32 ≠ 0 ∨ fld (d 1) 40 19 ≠ 0 ∨ fld (d 4) 32 32 ≠ 0
      ∨ d 5 ≠ 0 ∨ d 6 ≠ 0 ∨ d 7 ≠ 0 then 1
  else 0

/-- Reads the descriptor of a context; a rejected one stands as not VALID (R3, R378). -/
def readContext (s : State) (asid : Nat) : Context :=
  let d := fun i => BitVec.ofNat 64 (homeWord s (ctxAddr s asid + 8 * i) 8)
  if contextFault s asid ≠ 0 then ⟨asid, 0, 0, 0, 0⟩ else ⟨asid, d 0, d 1, d 3, fld (d 0) 32 8⟩

/-- What reading a context's descriptor leaves: the flaws it finds, and WALKERR where it is rejected. -/
def State.descriptorRead (s : State) (asid : Nat) : State :=
  let t := s.readAll (.dev (ctxAddr s asid)) 64
  if contextFault s asid = 0 then t else t.walkError (contextFault s asid) asid 0

/-- The device reads a context's descriptor when its first launch is admitted (R378). -/
def State.meetContext (s : State) (asid : Nat) : State :=
  if (s.contextOf asid).isSome then s
  else { s.descriptorRead asid with contexts := s.contexts ++ [readContext s asid] }

/-- The pages of a range that are to be requested (R328). -/
def migratePages (s : State) (asid : Nat) (p : W64 × W64) : List W64 :=
  let size := pageSize ((objectOf s asid (objOf p.1)).any (·.large))
  let first := offOf p.1 / size
  let last := (offOf p.1 + fld p.2 0 40 - 1) / size
  (List.range (last + 1 - first)).map fun i => BitVec.ofNat 64 (objOf p.1 * 2 ^ 44 + (first + i) * size)

/-- Range entries with REQ request their pages that are not resident (R328). -/
def State.requestRanges (s : State) (l : Launch) : State :=
  (l.ranges.filter fun p => bit p.2 63).foldl (fun s p =>
    (migratePages s l.asid p).foldl (fun s q => (s.request ownUnit l.part l.asid q 2).2) s) s

/-- Writes the parameter copy of a launch, visible to every load of it: the bytes perform at their home, and no L1 keeps a line of
the slot (R326; DEDUCED, log 48). -/
def State.copyParams (s : State) (asid slot : Nat) (bs : List Byte) : State :=
  let ptr := BitVec.ofNat 64 (256 * slot)
  match accessLocs s ownUnit asid ptr 1 256 with
  | none => s
  | some ls =>
    let t := (s.xlatted ownUnit asid ptr).putAt ls bs
    t.dropLines fun _ base => ls.any fun q => match q with
      | .dev a => base == a / Config.lineBytes
      | _ => false

/-- The record of an entry in hand has been admitted: what is left of the chain (R332). -/
def State.nextRecord (s : State) (t : Taken) (r : Record) : State :=
  if t.kind = 0 ∨ r.next = 0 then s.dropTaken t.queue
  else s.putTaken { t with ptr := r.next, recIdx := t.recIdx + 1, seen := t.ptr :: t.seen, waiting := none }

/-- Admits a record that has passed its checks (R326, R329). -/
def State.admitRecord (s : State) (t : Taken) (part : Nat) (r : Record) : State :=
  let go := fun (s : State) (slot : Option Nat) =>
    let l := r.launch s t part slot
    let s : State := { s with
      launches := s.launches ++ [l], nextLid := s.nextLid + 1
      launchNo := if slot.isSome then s.launchNo else s.launchNo + 1
      parmSlots := match slot with | some k => s.parmSlots ++ [(t.asid, k, l.lid)] | none => s.parmSlots }
    ((s.meetContext t.asid).requestRanges l).nextRecord t r
  if r.parmObj = 0 then go s none
  else match parmSlot s t.asid r.parmObj with
    | none => s
    | some k =>
      if ((accessLocs s ownUnit t.asid (BitVec.ofNat 64 (256 * k)) 1 256).getD []).any fun l => match l with
          | .dev p => flushHolds s (sectorOf p)
          | _ => false then s
      else if !pageResident s ownUnit t.asid (BitVec.ofNat 64 (256 * k)) then s.awaitPage t part (BitVec.ofNat 64 (256 * k))
      else go (s.copyParams t.asid k (patched r.params t.recIdx t.patches)) (some k)

/-- What admission makes of the record in hand now: a rejection, a page to wait for, or the record (R329, R332, R333). -/
def verdictOf (s : State) (t : Taken) (part : Nat) : Verdict :=
  let v := checkRecord s t.asid part t.ptr
  if t.recIdx != 0 && (decide (256 ≤ t.recIdx) || decide (t.ptr ∈ t.seen)) then .reject 9
  else if t.bad = some 1 then .reject 1
  else if t.recIdx != 0 then v
  else match checkPatches s t, v, t.bad with
    | some (.reject n), _, _ => .reject n
    | _, .reject 1, _ => .reject 1
    | _, _, some n => .reject n
    | some w, _, _ => w
    | none, v, none => v

/-- ADMISSION (R329): the record in hand is checked, and its launch admitted, rejected, or left to wait. -/
def execAdmission (queue : Nat) (s : State) : Host.Outcome State Fault Refusal :=
  .next (match s.takenOf queue, served s queue with
    | some t, some part =>
      let v := verdictOf s t part
      let s := if t.entered then s.recordRead t.asid t.ptr else s
      if !t.entered then s
      else match v with
        | .reject n => s.rejectEntry t part n
        | .wait p _ => s.awaitPage t part p
        | .ok r =>
          let acct := if t.child then t.acct else fld (wordAt r.w 4) 24 4
          if quadsOwned s part = 0 ∨ mustFollow s t r ∨ exhausted s part acct then s
          else s.admitRecord t part r
    | _, _ => s)

/-- ADMISSION_WAIT_LIMIT (R326, R329): a page that admission waits for is still absent when WAITLIM passes. -/
def execAdmissionWaitLimit (queue : Nat) (s : State) : Host.Outcome State Fault Refusal :=
  .next (match s.takenOf queue with
    | none => s
    | some t =>
      let part := (served s queue).getD (s.field (regVfmap (queue / 8)) 48 6)
      match t.waiting with
      | none => s
      | some (p, since, _) =>
        if s.cycle < since + waitLimit s part || pageResident s ownUnit t.asid p then s
        else if !t.entered then s.rejectEntry t part 2
        else match verdictOf s t part with
          | .wait _ n => s.rejectEntry t part n
          | .ok _ => s.rejectEntry t part 13
          | .reject n => s.rejectEntry t part n)

/-! ## Pre-migration and dispatch (R16, R328) -/

/-- The dies where a launch's placement has Benches. -/
def placedDies (s : State) (l : Launch) : List Nat := distinct ((placement s l.part).map dieOfBench)

/-- PRE_MIGRATION (R328): a resident page of a range that lies in a stack of no placed die moves to a frame of one that is attached
to one; the move is indivisible, and the frame is the one that firmware's policy found free. -/
def execPreMigration (lid range page frame : Nat) (s : State) : Host.Outcome State Fault Refusal :=
  .next (
    let l := s.launchOf lid
    match l.ranges[range]? with
    | none => s
    | some p =>
      let ptrs := migratePages s l.asid p
      match ptrs[page]? with
      | none => s
      | some ptr =>
        let e := objectOf s l.asid (objOf ptr)
        let size := pageSize (e.any (·.large))
        let entry := (e.map (·.plist)).getD 0 + 8 * (offOf ptr / size)
        let old := fld (BitVec.ofNat 64 (homeWord s entry 8)) 16 24 * 2 ^ 16
        let near := fun a => decide (dieOfStack (stackOf a) ∈ placedDies s l)
        if l.state != .admitted || !(e.any fun x => x.kind == 0) || (walk s ownUnit l.asid ptr).loc.isNone || near old || !near frame
            || frame % size != 0 || !isDevice frame || districtOwner s (districtOf frame) != some l.part then s
        else
          let t := s.devPut frame (homeRead s old size)
          let w := putFld (BitVec.ofNat 64 (homeWord s entry 8)) 16 24 (frame / 2 ^ 16)
          let t := t.devPut entry (bytesLE 8 w.toNat)
          let t := t.dropLines fun _ base => decide (frame / Config.lineBytes ≤ base ∧ base < (frame + size) / Config.lineBytes)
          { t with
            tlb := t.tlb.map fun (x : TlbEnt) =>
              if x.asid = l.asid ∧ x.obj = objOf ptr ∧ x.page = offOf ptr / size then { x with frame := frame } else x
            poison := t.poison ++ (s.poison.filter fun q => decide (old / 128 ≤ q ∧ q < (old + size) / 128)).map
              fun q => q + frame / 128 - old / 128 })

/-- DISPATCH (R16): the launch begins as one bolt in its entry state, on a Foreman of its placement. -/
def execDispatch (lid : Nat) (s : State) : Host.Outcome State Fault Refusal :=
  .next (match s.launches.find? (·.lid == lid) with
    | none => s
    | some l =>
      match if l.state = .admitted then freeForeman s l else none with
      | none => s
      | some b =>
        let c := Cut.atEntry s l s.nextUid .pattern ⟨⟨0, 0, 0⟩, l.extx, l.exty, l.extz⟩ [] (.foreman b)
        { s.putLaunch { l with state := .running } with cuts := s.cuts ++ [c], nextUid := s.nextUid + 1 })

/-! ## `LAUNCH` (R331) -/

/-- The queue that a launch's `LAUNCH` names. -/
def Launch.queueNo (l : Launch) (b : Nat) : Nat := 8 * l.vf + b

/-- An entry image with CHILD and ACCT as `LAUNCH` sets them. -/
def childEntry (l : Launch) (e : List W64) : List W64 :=
  e.set 1 (putFld (putFld (wordAt e 1) 55 1 1) 51 4 l.acct)

/-- Enqueues an entry image, and gives the status with the ring index (R331); no words stand for an image that could not be read. An
entry whose page is not resident is not written (DESIGN CHOICE, log 110). -/
def State.enqueue (s : State) (l : Launch) (q : Nat) (e : List W64) : W64 × State :=
  let st := fun (n : Nat) => (BitVec.ofNat 64 (n * 2 ^ 56), s)
  if e.isEmpty ∨ 2 ≤ fld (wordAt e 1) 56 8 ∨ fld (wordAt e 1) 32 18 ≠ 0 then st 5
  else match served s q with
    | none => st 3
    | some _ =>
      if l.depth = 15 then st 4
      else if ringSize s q ≤ (queueTail s q + 2 ^ 32 - queueHead s q) % 2 ^ 32 then st 1
      else
        let i := queueTail s q
        let t := match accessLocs s ownUnit (queueAsid s q) (entryPtr s q i) 1 32 with
          | some ls => s.putAt ls (e.flatMap fun (w : W64) => bytesLE 8 w.toNat)
          | none => s
        let t : State := { t with children := t.children ++ [(q, i, l.depth + 1)] }
        (BitVec.ofNat 64 i, t.setReg (regQtail q) (BitVec.ofNat 64 ((i + 1) % 2 ^ 32)))

/-- The words of an entry image, `none` where its page is absent; none are given for one that meets an uncorrectable error or lies
in an object of another device (DEDUCED, log 49). -/
def imageAt (s : State) (c : Cut) (ptr : W64) : Option (List W64) :=
  match (xlat s c.unit (c.asid s) ptr).loc with
  | none => none
  | some (.remote _ _ _ _) => some []
  | some (.host p) => some (words8 (loadBytes s c s.nextSeq false (.host p) 32))
  | some (.dev p) => if erroredFor s c s.nextSeq p then some [] else some (words8 (loadBytes s c s.nextSeq false (.dev p) 32))

/-- `LAUNCH` (R331): a release at device scope, one enqueue for the cut. -/
def execLaunch (l : BitVec 4) (d a b : Opnd) (s : State) := operate (.launch l d a b) s fun c =>
  let x := c.read s a []
  let y := c.read s b [a]
  if c.governed.isEmpty then s.complete c [] c
  else if c.governed.length ≠ c.positions.length then s.ill c
  else match c.uniformOf x, c.uniformOf y with
    | some ptr, some n =>
      let job := s.launchOf c.lid
      if 7 < n.toNat then s.ill c
      else if !releaseMayIssue s c || (!c.quantum s && !fenceDone s (c.releasing s 3)) then
        s.hold c .order
      else
        let cause := accessCause s c.unit (c.asid s) ptr 32 32 .read
        if cause ≠ 0 then s.raiseAll c cause ptr
        else match imageAt s c ptr with
          | none => s.raiseAll c causeABS ptr
          | some e =>
            let t := (s.xlatted c.unit (c.asid s) ptr).readPtr c.unit (c.asid s) ptr 32
            let img := if e.isEmpty then [] else childEntry job e
            if c.quantum s then
              let t := t.queueEffect c (c.ilLow s) (.launch img (job.queueNo n.toNat) t.nextId)
              (t.await c.effect [a, b] c.gov { Outst.of d 0 l.toNat .later with id := t.nextId }).endQuantum c.uid
            else
              let r := t.enqueue job (job.queueNo n.toNat) img
              ({ r.2 with nextSeq := r.2.nextSeq + 1 } : State).writeLong c.effect [a, b] d l.toNat (uVal r.1) none []
    | _, _ => s.ill c

end Sys2Proof.Machine
end

