-- ==== Sys2Proof/Machine/Tiles.lean ====
section
/-! DEFINITION. Tile handles (R238, R240), the rows of a tile and how an operand fetch reads them (R237, R243 to R245), and the
sums of a step (R68, R69, R243). -/

namespace Sys2Proof.Machine

/-! ## Handles (R238, R240) -/

/-- The fields of a handle. -/
def handleMap (h : W64) : Nat := fld h 56 8
def handleTR (h : W64) : Nat := fld h 28 28
def handleTC (h : W64) : Nat := fld h 0 28

/-- A declared map of a launch. -/
def Launch.map (l : Launch) (n : Nat) : Option TileMap :=
  match l.maps[n]? with
  | some m => if m.valid && decide (n ≤ 254) then some m else none
  | none => none

/-- The map that a handle names, of a kind. -/
def Launch.mapOf (l : Launch) (h : W64) (kind : Nat) : Option TileMap := (l.map (handleMap h)).filter (·.kind == kind)

/-- Whether a handle is a stream handle. -/
def isStream (h : W64) : Bool := handleMap h == 255

/-- `THMAKE` (R240). -/
def makeHandle (l : Launch) (a b : W64) : Option W64 :=
  if a.toNat ≤ 254 ∧ (l.map a.toNat).isSome ∧ b.toNat < 2 ^ 28 then some (BitVec.ofNat 64 (a.toNat * 2 ^ 56 + b.toNat * 2 ^ 28))
  else if a = 255 ∧ b.toNat ≤ 15 then some (BitVec.ofNat 64 (255 * 2 ^ 56 + b.toNat))
  else none

/-- The bytes that `n` elements of a map take. -/
def TileMap.bytes (m : TileMap) (n : Nat) : Nat := ceilDiv (n * width m.fmt) 8

/-- How many lines a map has, and how many elements a line (R237): columns and k for KIND B, rows and columns else. -/
def TileMap.lines (m : TileMap) : Nat := if m.kind = 1 then m.cols else m.rows
def TileMap.across (m : TileMap) : Nat := if m.kind = 1 then m.rows else m.cols

/-- The first line and the first element of a handle's tile (R237). -/
def TileMap.line0 (m : TileMap) (h : W64) : Nat := 16 * (if m.kind = 1 then handleTC h else handleTR h)
def TileMap.elem0 (m : TileMap) (h : W64) : Nat := 32 * (if m.kind = 1 then handleTR h else handleTC h)

/-- Where an element of a map lies (R237). -/
def TileMap.elemPtr (m : TileMap) (line elem : Nat) : W64 := ptrAdd m.base (line * m.pitch + elem * width m.fmt / 8)
def TileMap.scalePtr (m : TileMap) (line elem : Nat) : W64 := ptrAdd m.scale (line * m.spitch + elem / 32)

/-- `THOFF` (R240). -/
def handlePtr (l : Launch) (h : W64) : Option W64 := (l.map (handleMap h)).map fun m => m.elemPtr (m.line0 h) (m.elem0 h)

/-- `THSHAPE` (R240). -/
def handleShape (l : Launch) (h : W64) : Option W64 :=
  (l.map (handleMap h)).map fun m =>
    let lines := Nat.min 16 (m.lines - m.line0 h)
    let elems := Nat.min 32 (m.across - m.elem0 h)
    let first := if m.kind = 1 then elems else lines
    let second := if m.kind = 1 then lines else elems
    if lines = 0 ∨ elems = 0 then 0 else BitVec.ofNat 64 (first * 2 ^ 32 + second)

/-- An instruction over handles: U when every input is U, L otherwise; ILL in any governed lane raises it (R240). -/
def State.handles (s : State) (c : Cut) (d : Opnd) (srcs : List Opnd) (f : List W64 → Option W64) : State :=
  let vals := (List.range srcs.length).map fun j => c.read s (srcs.getD j 0) (srcs.take j)
  if vals.all (·.isU) then
    if c.gov = .none then s.write c srcs .none d (uVal 0)
    else match f (vals.map (·.base)) with
      | some w => s.write c srcs c.gov d (uVal w)
      | none => s.ill c
  else if c.isPattern then s.lanesOnly c
  else
    let at_ := fun i => f (vals.map fun v => c.valAt v i)
    if c.governed.any fun i => (at_ i).isNone then s.ill c
    else s.write c srcs c.gov d (c.overLanes fun i => if i ∈ c.governed then (at_ i).getD 0 else 0)

def execThmake (d a b : Opnd) (s : State) := operate (.thmake d a b) s fun c =>
  s.handles c d [a, b] fun xs => makeHandle (s.launchOf c.lid) (wordAt xs 0) (wordAt xs 1)

def execThoff (d a : Opnd) (s : State) := operate (.thoff d a) s fun c =>
  s.handles c d [a] fun xs => handlePtr (s.launchOf c.lid) (wordAt xs 0)

def execThshape (d a : Opnd) (s : State) := operate (.thshape d a) s fun c =>
  s.handles c d [a] fun xs => handleShape (s.launchOf c.lid) (wordAt xs 0)

/-! ## The rows of a tile -/

/-- A row that an operation reads or writes: pointer, bytes, the right it needs and the multiple its address must be (R245). -/
structure Row where
  ptr : W64
  len : Nat
  need : Need
  align : Nat
  deriving DecidableEq, Repr

/-- The lines of a 16-line window that a map has, and how many of 32 elements from `k0` each has (R237). -/
def TileMap.window (m : TileMap) (l0 k0 : Nat) : List Nat × Nat :=
  let n := Nat.min 32 (m.across - k0)
  (if n = 0 then [] else (List.range 16).filterMap fun i => if l0 + i < m.lines then some i else none, n)

/-- The rows of a tile, with its scales where the map has them (R237, R245). -/
def TileMap.rowsOf (m : TileMap) (l0 k0 : Nat) (need : Need) : List Row :=
  let w := m.window l0 k0
  w.1.flatMap fun i =>
    ⟨m.elemPtr (l0 + i) k0, m.bytes w.2, need, Nat.max 1 (elemBytes m.fmt)⟩ ::
      (if m.mx then [⟨m.scalePtr (l0 + i) k0, 1, need, 1⟩] else [])

/-- The cause that a row's check raises, with the address (R124, R245): absence raises ABS whatever LF holds. -/
def rowCause (s : State) (c : Cut) (r : Row) : Nat :=
  let cause := accessCause s c.unit (c.asid s) r.ptr r.len r.align r.need
  if cause ≠ 0 then cause
  else if (segments r.ptr r.len).any fun p => (xlat s c.unit (c.asid s) p.1).loc.isNone then causeABS else 0

/-! ## Reading rows (R245, R253) -/

/-- The pieces of a row, none across a sector. -/
def sectorPieces (ptr : W64) (n : Nat) : List (W64 × Nat) :=
  (List.range (n / 128 + 2)).filterMap fun j =>
    let base := (ptr.toNat / 128 + j) * 128
    let lo := Nat.max ptr.toNat base
    let hi := Nat.min (ptr.toNat + n) (base + 128)
    if lo < hi then some (BitVec.ofNat 64 lo, hi - lo) else none

/-- What an operand fetch gives: the bytes and whether some were read as zero (R245), or a wait for another device. -/
inductive Fetched where
  | wait
  | got (bs : List Byte) (err : Bool)
  deriving DecidableEq, Repr

def Fetched.join (a b : Fetched) : Fetched :=
  match a, b with
  | .wait, _ => .wait
  | _, .wait => .wait
  | .got x e, .got y f => .got (x ++ y) (e || f)

/-- The unit whose translations an operation's fetches use. -/
def LoomOp.unit (loom : Nat) : TlbUnit := .bench (loom / 4)

/-- The cut that issued an operation, while it lives: itself or one that it has become. -/
def LoomOp.cut (s : State) (o : LoomOp) : Option Cut := s.cuts.find? fun c => c.lid == o.lid && c.isOf o.uid

/-- Bytes at a place as a fetch of an operation finds them: behind its own cut's earlier writes (R130, R253). -/
def LoomOp.bytesAt (s : State) (o : LoomOp) (l : Loc) (n : Nat) : List Byte :=
  match o.cut s with
  | some c => loadBytes s c o.seq false l n
  | none => locRead s l n

/-- Whether a fetch waits for earlier writes of its cut that have yet to be made: atomics, and drains of its other Looms (R130, R253). -/
def LoomOp.behind (s : State) (o : LoomOp) (l : Loc) (n : Nat) : Bool := (o.cut s).any fun c => writesAhead s c o.seq l n

/-- One piece of a row: absent bytes and errored sectors read as zero (R245). -/
def LoomOp.piece (s : State) (loom : Nat) (o : LoomOp) (p : W64 × Nat) : Fetched :=
  let zeros := Fetched.got (List.replicate p.2 0) true
  match (xlat s (LoomOp.unit loom) o.asid p.1).loc with
  | none => zeros
  | some (.remote f a b off) =>
    match s.remotes.find? fun r => r.lane == o.id && r.loc == .remote f a b off && decide (4 ≤ r.kind) with
    | some r => if r.kind = 4 then .got (fitBytes p.2 r.data) false else zeros
    | none => .wait
  | some l =>
    if o.behind s l p.2 then .wait
    else if (match l with | .dev q => errored s q | _ => false) then zeros else .got (o.bytesAt s l p.2) false

/-- A row. -/
def LoomOp.row (s : State) (loom : Nat) (o : LoomOp) (ptr : W64) (n : Nat) : Fetched :=
  (sectorPieces ptr n).foldl (fun a p => a.join (o.piece s loom p)) (.got [] false)

/-- Asks another device for the pieces of rows that lie there, and enters translations (R363). -/
def State.askPieces (s : State) (loom : Nat) (o : LoomOp) (rows : List Row) : State :=
  (rows.flatMap fun r => sectorPieces r.ptr r.len).foldl (fun (s : State) p =>
    let s := s.xlatted (LoomOp.unit loom) o.asid p.1
    match (xlat s (LoomOp.unit loom) o.asid p.1).loc with
    | some (.remote f a b off) =>
      if s.remotes.any fun r => r.lane == o.id && r.loc == .remote f a b off then s
      else
        { s.send (s.launchOf o.lid).part (remoteMsg (.remote f a b off) 0 s.nextId [p.2] []) with
          nextId := s.nextId + 1
          remotes := s.remotes ++ [⟨s.nextId, 3, o.uid, none, o.id, .remote f a b off, p.1, List.replicate p.2 0, s.cycle, none⟩] }
    | some l => s.readAll l p.2
    | none => s) s

/-! ## Tiles -/

/-- A tile as a step has it: 16 lines of 32 elements, `none` where clipped, the scale byte of each line (127 is 1), and whether an
operand was read as zero. -/
structure Tile where
  el : List (List (Option Nat))
  sc : List Nat
  err : Bool
  deriving DecidableEq, Repr

/-- The elements of a row's bytes. -/
def rowElems (fmt n : Nat) (bs : List Byte) : List (Option Nat) :=
  (List.range 32).map fun k => if k < n then some (natLE ((bs.drop (k * elemBytes fmt)).take (elemBytes fmt))) else none

/-! ## The weight buffer (R253, R255) -/

/-- The bytes that a tile takes in the buffer, 512 at a time: kept plain, or as a 64-byte mask with its nonzero bytes, rounded up to 32,
where 64 bytes or more are zero (R255). -/
def packedSize (bs : List Byte) : Nat :=
  (List.range (ceilDiv bs.length 512)).foldl (fun n i =>
    let full := (((bs.drop (512 * i)).take 512).filter (· != 0)).length
    n + (if full ≤ 448 then 64 + 32 * ceilDiv full 32 else 512)) 0

/-- The tiles that fit a weight buffer, given the newest first: what does not is dropped (DESIGN CHOICE, log 10). -/
def fitTiles (room : Nat) : List WTile → List WTile
  | [] => []
  | t :: ts =>
    let n := packedSize (t.pieces.flatMap (·.2))
    if n ≤ room then t :: fitTiles (room - n) ts else []

/-- A Loom's weight buffer takes a tile in, and drops the oldest for want of room (R255). -/
def State.keepTile (s : State) (t : WTile) : State :=
  let old := s.wbuf.filter fun x => !(x.loom == t.loom && x.pieces.map (·.1) == t.pieces.map (·.1))
  let mine := fitTiles Config.weightBuffer ((old ++ [t]).filter (·.loom == t.loom)).reverse
  { s with wbuf := old.filter (·.loom != t.loom) ++ mine.reverse }

/-- The pieces of the elements of a B tile that lie in device memory, with their lengths; `none` where some byte lies elsewhere, is absent
or has an error: such a tile is not kept (R255). -/
def tilePieces (s : State) (loom : Nat) (o : LoomOp) (m : TileMap) (l0 k0 : Nat) : Option (List (Nat × Nat)) :=
  let w := m.window l0 k0
  (w.1.flatMap fun i => sectorPieces (m.elemPtr (l0 + i) k0) (m.bytes w.2)).mapM fun p =>
    match (xlat s (LoomOp.unit loom) o.asid p.1).loc with
    | some (.dev q) => if errored s q then none else some (q, p.2)
    | _ => none

/-- A B tile that a Loom's weight buffer does not hold is brought into it, as its home has it; in quantum mode the fetch is of the state
that the last commit left, as every read is (R253, R254, R255). -/
def State.bringTile (s : State) (loom : Nat) (o : LoomOp) (m : TileMap) (l0 k0 : Nat) : State :=
  match tilePieces s loom o m l0 k0 with
  | none => s
  | some [] => s
  | some ps =>
    if s.wbuf.any fun t => t.loom == loom && t.pieces.map (·.1) == ps.map (·.1) then s
    else ps.foldl (fun s p => s.readAll (.dev p.1) p.2) (s.keepTile ⟨loom, ps.map fun p => (p.1, homeRead s p.1 p.2)⟩)

/-- The bytes that a Loom's weight buffer holds for a piece of a tile. -/
def tileBytes (s : State) (loom : Nat) (keys : List Nat) (p : Nat) : Option (List Byte) :=
  ((s.wbuf.find? fun t => t.loom == loom && t.pieces.map (·.1) == keys).bind fun t => t.pieces.find? (·.1 == p)).map (·.2)

/-- One piece of a B tile: from the weight buffer where it holds the tile, under the writes that its cut sees, as an `LD` of it would
find it (R130, R253); as any other row else. -/
def LoomOp.pieceB (s : State) (loom : Nat) (o : LoomOp) (keys : List Nat) (p : W64 × Nat) : Fetched :=
  match (xlat s (LoomOp.unit loom) o.asid p.1).loc with
  | some (.dev q) => match tileBytes s loom keys q with
    | some bs =>
      if o.behind s (.dev q) p.2 then .wait
      else .got ((o.cut s).elim bs fun c => seenOver s c o.seq (.dev q) p.2 fun x =>
          if q ≤ x ∧ x < q + p.2 then bs.getD (x - q) 0 else homeByte s x) false
    | none => o.piece s loom p
  | _ => o.piece s loom p

/-- Fetches a tile of a map, the elements of a B tile through the weight buffer; `none` where it waits (R243, R244, R253). -/
def LoomOp.tile (s : State) (loom : Nat) (o : LoomOp) (m : TileMap) (l0 k0 : Nat) : Option Tile :=
  let w := m.window l0 k0
  let keys := if m.kind = 1 then ((tilePieces s loom o m l0 k0).getD []).map (·.1) else []
  let elems := fun (ptr : W64) (n : Nat) =>
    if keys.isEmpty then o.row s loom ptr n
    else (sectorPieces ptr n).foldl (fun a p => a.join (o.pieceB s loom keys p)) (.got [] false)
  let line := fun i => if i ∈ w.1 then elems (m.elemPtr (l0 + i) k0) (m.bytes w.2) else .got [] false
  let scale := fun i => if m.mx && decide (i ∈ w.1) then o.row s loom (m.scalePtr (l0 + i) k0) 1 else .got [127#8] false
  let rows := (List.range 16).map line
  let scs := (List.range 16).map scale
  if (rows ++ scs).any (· == .wait) then none
  else
    let data := fun (f : Fetched) => match f with | .got bs _ => bs | .wait => []
    some
      { el := (List.range 16).map fun i =>
          if i ∈ w.1 then rowElems m.fmt w.2 (data (rows.getD i .wait)) else List.replicate 32 none
        sc := scs.map fun f => ((data f).getD 0 127#8).toNat
        err := (rows ++ scs).any fun f => match f with | .got _ e => e | .wait => false }

/-- The 16×32 tile at a scratch offset: bytes beyond the space's length and of pages that cannot be resolved read as zero, and
set ERR (R243). -/
def streamTile (s : State) (crew : Option Crew) (et : Nat) (off : Nat) (sc : List Nat) : Tile :=
  let n := 512 * elemBytes et
  let absent := fun (m : Nat) => List.replicate m (none : Option Byte)
  let page := fun (k : Crew) (p : Nat × Nat) =>
    if k.pages.length ≤ p.1 / Config.scratchPage then absent p.2
    else match k.bytesOf s (p.1 / Config.scratchPage) with
      | none => absent p.2
      | some bs => ((List.range p.2).zip ((bs.drop (p.1 % Config.scratchPage)).take p.2)).map fun x =>
          if (k.faults [] true [p.1 + x.1]).isEmpty then some x.2 else none
  let bs := match crew with
    | none => absent n
    | some k => (pagesOf Config.scratchPage off n).flatMap (page k)
  let raw := bs.map fun (b : Option Byte) => b.getD 0
  { el := (List.range 16).map fun i => rowElems et 32 ((raw.drop (32 * elemBytes et * i)).take (32 * elemBytes et))
    sc := sc, err := bs.any Option.isNone }

/-! ## The sums of a step (R68, R69, R243) -/

/-- One product of kind F; a clipped element contributes zero (R68, R244), whose sign the manual does not give: +0 (DESIGN CHOICE,
log 105). -/
def termF (et fmt sa sb : Nat) (a b : Option Nat) : Exact :=
  match a, b with
  | some x, some y =>
    let v := (numMul (value et (BitVec.ofNat 64 x)) (value fmt (BitVec.ofNat 64 y))).1
    (numMul v (numMul (e8m0 sa) (e8m0 sb)).1).1
  | _, _ => .fin false 0 0

/-- One product of kind I (R69). -/
def termI (fmt : Nat) (a b : Option Nat) : Int :=
  match a, b with
  | some x, some y => intValue 0 (BitVec.ofNat 64 x) * (if fmt = 14 then ds8Fixed y else intValue 0 (BitVec.ofNat 64 y))
  | _, _ => 0

/-- An accumulator element after a step of kind F: both roundings to nearest even, subnormals kept (R68). -/
def accF (acc : W32) (terms : List Exact) : W32 :=
  let s := (roundTo 10 (rne false) (numSum 0 terms).1).1
  BitVec.ofNat 32 (roundTo 10 (rne false) (numAdd 0 (value 10 (acc.setWidth 64)) (value 10 (BitVec.ofNat 64 s))).1).1

/-- An accumulator element after a step of kind I: modulo 2^32 (R69). -/
def accI (acc : W32) (terms : List Int) : W32 := acc + BitVec.ofInt 32 (terms.foldl (· + ·) 0)

/-- NAN and INF after an operation on kind F are sticky (R243, R250). -/
def Acc.marked (x : Acc) : Acc :=
  if x.kindI then x
  else
    let vs := x.elems.map fun e => value 10 (e.setWidth 64)
    { x with nan := x.nan || vs.any isNaN, inf := x.inf || vs.any fun v => match v with | .inf _ => true | _ => false }

/-- One step of a product on an accumulator (R243). -/
def Acc.step (x : Acc) (et fmt : Nat) (ta tb : Tile) : Acc :=
  let a := fun i => ta.el.getD i []
  let b := fun j => tb.el.getD j []
  let elem := fun n =>
    let i := n / 16
    let j := n % 16
    let old := x.elems.getD n 0
    if x.kindI then accI old ((List.range 32).map fun k => termI fmt ((a i).getD k none) ((b j).getD k none))
    else accF old ((List.range 32).map fun k =>
      termF et fmt (ta.sc.getD i 127) (tb.sc.getD j 127) ((a i).getD k none) ((b j).getD k none))
  ({ x with elems := (List.range 256).map elem, err := x.err || ta.err || tb.err } : Acc).marked

/-- Whether the types of a product fit an accumulator's kind (R242). -/
def productOk (kindI : Bool) (et fmt : Nat) (mxA mxB : Bool) : Bool :=
  if kindI then et == 0 && (fmt == 14 || fmt == 0) && !mxA && !mxB
  else (et == 8 || et == 9 || et == 12 || et == 13)
    && (fmt == 14 || fmt == 12 || fmt == 13 || ((fmt == 8 || fmt == 9) && !mxA && !mxB))

/-! ## Draining (R249) -/

/-- floor(log2) of a finite value that is not zero, relative to nothing: the exponent of its top bit. -/
def topExp : Exact → Int
  | .fin _ m e => (bitLen m : Int) - 1 + e
  | _ => 0

/-- emax and u of a scaled destination (R249). -/
def drainBias (fmt : Nat) : Int × Int :=
  match fmt with
  | 12 => (8, 0)
  | 13 => (15, 0)
  | 15 => (2, 0)
  | _ => (6, 6)

/-- The scale byte of a row, and the exponent X that divides it, from its unclipped values; no exponent for scale 0xFF. -/
def drainScale (fmt : Nat) (vs : List Exact) : Nat × Option Int :=
  let bad := vs.any fun v => match v with | .fin _ _ _ => false | _ => true
  let nz := vs.filter fun v => !isZero v
  if bad then (0xFF, none)
  else match nz with
    | [] => (0, some 0)
    | v :: rest =>
      let top := rest.foldl (fun m w => max m (topExp w)) (topExp v)
      let x := top - (drainBias fmt).1
      let sc := min 254 (max 0 (x + (drainBias fmt).2 + 127))
      (sc.toNat, some (sc - (drainBias fmt).2 - 127))

/-- A value divided by 2^X. -/
def scaleDown (v : Exact) (x : Int) : Exact :=
  match v with
  | .fin n m e => .fin n m (e - x)
  | v => v

end Sys2Proof.Machine
end

