-- ==== Sys2Proof/Machine/Loom.lean ====
section
/-! DEFINITION. The Loom (R233 to R258): claims, tokens, the sequencer, products, loads, drains, status and self-test: op7 0x50
to 0x57. -/

namespace Sys2Proof.Machine

/-! ## Looms (R233, R257) -/

/-- A Loom by its device-wide number. -/
def State.loomOf (s : State) (n : Nat) : Loom := (s.looms.find? (·.num == n)).getD (freshLoom n)

/-- Stores a Loom. -/
def State.putLoom (s : State) (m : Loom) : State :=
  { s with looms := if s.looms.any (·.num == m.num) then s.looms.map fun (d : Loom) => if d.num = m.num then m else d
                    else s.looms ++ [m] }

/-- Whether a Loom is in service, and whether it has no fenced sub-array (R246, R257). -/
def loomWorks (s : State) (n : Nat) : Bool := !bit (s.reg (regLhealth n)) 16
def loomWhole (s : State) (n : Nat) : Bool := loomWorks s n && s.field (regLhealth n) 0 16 == 0

/-- The claim that holds a Loom now (R234): one that has ended holds it until its operations retire. -/
def heldBy (s : State) (n : Nat) : Option (Nat × Nat) :=
  let m := s.loomOf n
  match m.claim with
  | some k => if claimLive s k || !m.ops.isEmpty then some k else none
  | none => none

/-- The accumulator of a Loom by its number. -/
def Loom.acc (m : Loom) (a : Nat) : Acc := m.accs.getD a ⟨List.replicate 256 0, false, false, false, false, false⟩

/-- Stores an accumulator. -/
def Loom.setAcc (m : Loom) (a : Nat) (x : Acc) : Loom := { m with accs := m.accs.set a x }

/-- An accumulator at zero of a kind, its status clear (R247, R249). -/
def zeroAcc (kindI : Bool) : Acc := ⟨List.replicate 256 0, kindI, false, false, false, false⟩

/-- Whether an accumulator will be of kind I once the queued operations have retired: what a product is checked against (R242). -/
def Loom.kindAfter (m : Loom) (a : Nat) : Bool :=
  m.ops.foldl (fun k o => if o.acc = a ∧ (o.op = 0 ∨ o.op = 3) then o.et == 4 else k) (m.acc a).kindI

/-- The accumulators that an operation writes or reads. -/
def LoomOp.accs (o : LoomOp) : List Nat := if o.op = 2 ∨ o.op = 4 then [o.acc, o.acc + 1] else [o.acc]

/-- Whether operations on some accumulators have retired, 4 standing for the whole Loom (R251, R258). -/
def loomIdle (s : State) (as : List (Nat × Nat)) : Bool :=
  as.all fun p =>
    let m := s.loomOf p.1
    if p.2 = 4 then m.ops.isEmpty && !m.slave && m.test.isEmpty && (m.asked.isNone || m.found.isSome)
    else m.ops.all fun o => !decide (p.2 ∈ o.accs)

/-! ## Tokens (R252, R375) -/

/-- The partitions that own a quadrant, ascending. -/
def quadOwners (s : State) : List Nat :=
  sortBy id (distinct ((s.own.take (4 * Config.benches)).filterMap fun b => if b.toNat < 40 then some b.toNat else none))

/-- The tokens that each partition receives in the two rounds (R375). -/
def tokenShares (s : State) : List (Nat × Nat) :=
  let ps := quadOwners s
  let pool := s.field regTokpool 0 11
  let pool := Nat.max (if pool = 0 then 1024 else pool) (2 * ps.length)
  (ps.foldl (fun (acc : List (Nat × Nat) × Nat) p =>
    let extra := Nat.min (Nat.max 2 (s.field (regPcfg p) 40 11) - 2) acc.2
    (acc.1 ++ [(p, 2 + extra)], acc.2 - extra)) ([], pool - 2 * ps.length)).1

/-- The tokens of a partition that none of its operations holds. -/
def tokensFree (s : State) (part : Nat) : Nat :=
  let share := ((tokenShares s).find? (·.1 == part)).map (·.2)
  let used := ((s.looms.flatMap (·.ops)).filter fun o => (s.launchOf o.lid).part == part).map (·.tokens)
  share.getD 0 - used.foldl (· + ·) 0

/-! ## Finding a Loom (R234) -/

/-- The Loom of a lane cut's quadrant. -/
def Cut.quadLoom (c : Cut) : Nat :=
  match c.place with
  | .quad b q => 4 * b + q
  | p => 4 * p.bench

/-- The Loom that a claim holds. -/
def claimed (s : State) (k : Nat × Nat) : Option Nat := (s.looms.find? fun m => m.claim == some k).map (·.num)

/-- Whether a Loom can be claimed: no claim holds it, it is in service, and its partition's. -/
def claimable (s : State) (part n : Nat) : Bool :=
  (heldBy s n).isNone && loomWorks s n && quadOwner s n == some part && (s.loomOf n).ops.isEmpty && (s.loomOf n).test.isEmpty

/-- The Looms that `items` of a pattern cut may be bound to, in order: those of its Bench, and for more than four items those of the
placement's others after them, over which the sub-box is then shared afresh (R17, R234). -/
def Cut.loomsNear (s : State) (c : Cut) (items : Nat) : List Nat :=
  (if items ≤ 4 then [c.bench] else distinct (c.bench :: placement s (s.launchOf c.lid).part)).flatMap fun b =>
    (List.range 4).map (4 * b + ·)

/-- Binds items to Looms of a list, all or none, keeping the bindings they have (R234). -/
def bindItems (s : State) (part : Nat) (near : List Nat) : List (Nat × Nat) → List Nat → Option (List Nat)
  | [], _ => some []
  | k :: ks, taken =>
    let n := match claimed s k with
      | some n => some n
      | none => near.find? fun n => claimable s part n && !decide (n ∈ taken)
    match n with
    | none => none
    | some n => (bindItems s part near ks (n :: taken)).map (n :: ·)

/-- Whether a claim is on its way out: an `MDRN` that releases it has not drained yet (R234, R249). -/
def claimEnding (s : State) (k : Nat × Nat) : Bool := s.looms.any fun m => m.claim == some k && m.ops.any fun o => o.op == 4 && bit o.b 1

/-- Whether an item or lane cut has a claim saved and not yet taken again (R256). -/
def claimSaved (s : State) (k : Nat × Nat) : Bool := s.savedClaims.any (·.claim == k)

/-- The Looms of the claims that an instruction needs, `none` where it must wait. -/
def Cut.loomsFor (s : State) (c : Cut) (keys : List (Nat × Nat)) : Option (List Nat) :=
  if keys.any fun k => claimSaved s k || claimEnding s k then none
  else if c.isPattern then bindItems s (s.launchOf c.lid).part (c.loomsNear s keys.length) keys (keys.filterMap (claimed s))
  else match heldBy s c.quadLoom, keys with
    | some k, [key] => if k = key then some [c.quadLoom] else none
    | none, [_] => if (s.loomOf c.quadLoom).test.isEmpty then some [c.quadLoom] else none
    | _, _ => none

/-- The Loom as a claim has it, on a Loom or saved: what an instruction's types are checked against. -/
def loomAs (s : State) (k : Nat × Nat) : Loom :=
  match claimed s k with
  | some n => s.loomOf n
  | none => ((s.savedClaims.find? (·.claim == k)).map (·.loom)).getD (freshLoom 0)

/-- A claim takes a Loom: a new one begins with every accumulator +0, kind F, status clear (R234). -/
def State.claimLoom (s : State) (n : Nat) (k : Nat × Nat) : State :=
  let m := s.loomOf n
  if m.claim = some k then s else s.putLoom { freshLoom n with claim := some k, slave := m.slave }

/-! ## Accumulator instructions (R235, R242, R245) -/

/-- An accumulator instruction as it stands in the word: its number as a `LoomOp` has it, 5 for `MSTAT`; the accumulator it names;
its operand registers in order; for `MMAP` its coordinate; for `MDRN` its bits f. -/
structure LoomUse where
  op : Nat
  acc : Nat
  srcs : List Opnd
  coord : BitVec 14
  f : Nat
  deriving DecidableEq, Repr

/-- The value of operand j at a position. -/
def LoomUse.val (s : State) (c : Cut) (u : LoomUse) (j i : Nat) : W64 :=
  let v := c.read s (u.srcs.getD j 0x4A) (u.srcs.take j)
  if v.isU then v.base else c.valAt v i

/-- The stream that a stream handle names: the crew and its number; `none` raises ILL (R238). -/
def Cut.handleStream (c : Cut) (h : W64) : Option (Nat × Nat) :=
  if fld h 4 52 ≠ 0 then none
  else match c.binds.getD (fld h 0 4) none with
    | some (.stream k n) => some (k, n)
    | _ => none

/-- The `o6` scales of a stream's A tiles, `none` where they raise ILL (R244). -/
def Cut.streamScales (s : State) (c : Cut) (et : Nat) : Option (List W64) :=
  if et ≠ 12 ∧ et ≠ 13 then some []
  else
    let v := c.read s 0x46 []
    if v.isU then some (List.replicate 16 v.base)
    else if c.isPattern then none
    else some ((List.range 16).map fun i => c.valAt v i)

/-- The follower that a coordinate and mask allow a leader: the pair-link neighbour's same quadrant (R8, R246). -/
def followerOf (coord : BitVec 14) (loom : Nat) : Option Nat :=
  let q := loom % 4
  if (coordMask coord).testBit q ∧ coordBench coord = (loom / 4) ^^^ 1 then some (4 * coordBench coord + q) else none

/-- An operation before its operands are known. -/
def LoomUse.blank (s : State) (c : Cut) (u : LoomUse) (i : Nat) : LoomOp :=
  { id := 0, seq := s.nextSeq, op := u.op, uid := c.uid, cutid := c.cutid, lid := c.lid, asid := c.asid s, il := c.ilAt s i, dil := 0
    acc := u.acc, a := 0, b := 0, et := modeET c.ctx.mode, rm := modeRM c.ctx.mode, sat := modeSAT c.ctx.mode
    ss := modeSS c.ctx.mode, scales := [], scope := modeSC c.ctx.mode, off := c.offset s, steps := 1, step := 0, follower := none
    slaved := false, tokens := 0, crew := 0, stream := none, order := [], dest := [], pc := c.ctx.pc }

/-- A product's operation with the rows it will read; `none` raises ILL (R238, R242 to R246). -/
def LoomUse.product (s : State) (c : Cut) (u : LoomUse) (m : Loom) (i acc : Nat) (ha hb : W64) : Option (LoomOp × List Row) :=
  let l := s.launchOf c.lid
  let et := modeET c.ctx.mode
  let o := { u.blank s c i with acc := acc, a := ha, b := hb, tokens := u.op }
  match if isStream hb then none else l.mapOf hb 1 with
  | none => none
  | some mb =>
    let steps := ceilDiv mb.rows 32 - handleTR hb
    let fits := fun (mx : Bool) => o.accs.all fun a => productOk (m.kindAfter a) et mb.fmt mx mb.mx
    let rowsB := (List.range steps).flatMap fun t => (List.range o.accs.length).flatMap fun k =>
      mb.rowsOf (mb.line0 hb + 16 * k) (mb.elem0 hb + 32 * t) .read
    if isStream ha then
      match c.handleStream ha, c.streamScales s et with
      | some (key, n), some scs =>
        if fits false then
          some ({ o with steps := steps, crew := key, stream := some n, scales := scs }, rowsB)
        else none
      | _, _ => none
    else match l.mapOf ha 0 with
      | none => none
      | some ma =>
        if ma.fmt == et && fits ma.mx then
          some ({ o with steps := steps },
            ((List.range steps).flatMap fun t => ma.rowsOf (ma.line0 ha) (ma.elem0 ha + 32 * t) .read) ++ rowsB)
        else none

/-- The operation of an accumulator instruction for one item, with the rows it reads or writes; `none` raises ILL. For `MDRN` in a lane cut
under RSD whose handle is equal in every lane but not U, I is the index of the item for which the operation stands, the lowest governed
one's (R63; DESIGN CHOICE, log 99). -/
def LoomUse.build (s : State) (c : Cut) (u : LoomUse) (m : Loom) (i : Nat) : Option (LoomOp × List Row) :=
  let et := modeET c.ctx.mode
  let o := u.blank s c i
  let v := fun j => u.val s c j i
  match u.op with
  | 0 =>
    let n := elemBytes et
    if (et ≠ 4 ∧ et ≠ 8 ∧ et ≠ 9 ∧ et ≠ 10) ∨ (v 1).toNat % n ≠ 0 ∨ (v 1).toNat < 16 * n then none
    else some ({ o with a := v 0, b := v 1 },
      (List.range 16).map fun r => (⟨ptrAdd (v 0) (r * (v 1).toNat), 16 * n, .read, n⟩ : Row))
  | 1 => u.product s c m i u.acc (v 0) (v 1)
  | 2 => if v 0 = 0 ∨ v 0 = 2 then u.product s c m i (v 0).toNat (v 1) (v 2) else none
  | 3 => if et = 4 ∨ et = 10 then some (o, []) else none
  | 4 =>
    match if isStream (v 0) then none else (s.launchOf c.lid).mapOf (v 0) 2 with
    | none => none
    | some d =>
      let ki := m.kindAfter u.acc
      let plain := d.fmt == 4 && !d.mx
      if m.kindAfter (u.acc + 1) != ki || ki != plain then none
      else
        let uni := (c.read s (u.srcs.getD 0 0x4A) []).isU
        let rows := d.rowsOf (d.line0 (v 0)) (d.elem0 (v 0)) .write
        some ({ o with
            a := v 0, b := BitVec.ofNat 64 u.f, dil := if uni then 0 else o.il, order := c.storeOrder s false o.scope
            dest := rows.map fun r => (r.ptr, r.len) }, rows)
  | _ => some (o, [])

/-- Queues the operations of an instruction, each on its Loom (R251). -/
def State.queueOps (s : State) (items : List (LoomOp × Nat × (Nat × Nat))) (coord : BitVec 14) : State :=
  items.foldl (fun (s : State) p =>
    let s := s.claimLoom p.2.1 p.2.2
    let m := s.loomOf p.2.1
    let o : LoomOp := { p.1 with id := s.nextId, follower := if p.1.op = 2 then followerOf coord p.2.1 else none }
    ({ s with nextId := s.nextId + 1 } : State).putLoom { m with ops := m.ops ++ [o] }) s

/-- The value that `MSTAT` writes (R250). -/
def Acc.status (x : Acc) : W64 :=
  BitVec.ofNat 64 ((if x.suspect then 16 else 0) + (if x.kindI then 8 else 0) + (if x.err then 4 else 0) + (if x.inf then 2 else 0)
    + (if x.nan then 1 else 0))

/-- The positions for which an accumulator instruction acts: each governed item of a pattern cut, a lane cut once (R234); those that have
not been issued, where some have. -/
def Cut.loomItems (c : Cut) : List Nat :=
  if !c.issuing.isEmpty then c.issuing.map (·.1) else if c.isPattern then c.governed else c.governed.take 1

/-- An instruction whose rows fail stops before anything is read, written or claimed, naming the active lanes (R245); a pattern cut
of which only some items fail would have to materialize (R337). -/
def State.rowsFail (s : State) (c : Cut) (items bad : List (Nat × List (Nat × W64))) : State :=
  let all := bad.flatMap (·.2)
  let least := all.foldl (fun (m : Option W64) p => match m with | some a => some (if p.2.toNat < a.toNat then p.2 else a) | none => some p.2) none
  if c.isPattern && bad.length != items.length then s.lanesOnly c
  else s.stop c (c.cause (all.foldl (fun m p => m ||| p.1) 0) (least.getD 0) c.allLanes)

/-- Whether a product's A handle names a stream whose scales an outstanding load to `o6` has still to bring (R244). -/
def LoomUse.scalesWait (s : State) (c : Cut) (u : LoomUse) (i : Nat) : Bool :=
  (u.op == 1 || u.op == 2) && (modeET c.ctx.mode == 12 || modeET c.ctx.mode == 13) && isStream (u.val s c (u.op - 1) i)
    && c.outst.any fun o => decide (0x46 ∈ o.dsts)

/-- Whether every coordinate of an `MMAP` lies in the cut's partition (R84); the other instructions have none. -/
def LoomUse.mine (s : State) (c : Cut) (u : LoomUse) : Bool := u.op != 2 || coordMine s c u.coord

/-- The checks of an accumulator instruction for the items at some positions (R84, R87, R235, R245): the state after one that fails, or
each item's operation with its rows. ILL comes before every other cause. -/
def State.loomChecks (s : State) (c : Cut) (u : LoomUse) (is : List Nat) : State ⊕ List (LoomOp × List Row) :=
  let uniform := (List.range u.srcs.length).all fun j =>
    c.isPattern || (c.uniformOf (c.read s (u.srcs.getD j 0x4A) (u.srcs.take j))).isSome
  let built := is.map fun i => u.build s c (loomAs s (c.claimKey s i)) i
  let ops := built.filterMap id
  let fails := (List.range ops.length).map fun j =>
    (is.getD j 0, ((ops.getD j (u.blank s c 0, [])).2.map fun r => (rowCause s c r, r.ptr)).filter (·.1 != 0))
  let bad := fails.filter fun p => !p.2.isEmpty
  if (!c.isPattern && c.mixedGuard) || !uniform then .inl (s.ill c)
  else if c.isPattern && decide (4 * (placement s (s.launchOf c.lid).part).length < is.length) then .inl (s.ill c)
  else if is.any (u.scalesWait s c) then .inl (s.hold c .results)
  else if is.any fun i => claimEnding s (c.claimKey s i) then .inl (s.hold c .claim)
  else if built.any (·.isNone) then .inl (s.ill c)
  else if !u.mine s c then .inl (s.raiseAll c causeRGT 0)
  else if !bad.isEmpty then .inl (s.rowsFail c fails bad)
  else .inr ops

/-- Queues the operations of some items as far as their Looms have room and the partition has tokens; the positions left over with what
they wait for (R251, R252). -/
def State.queueItems (s : State) (part : Nat) (coord : BitVec 14) :
    List (Nat × LoomOp × Nat × (Nat × Nat)) → State × Option (List Nat × Wait)
  | [] => (s, none)
  | p :: ps =>
    let m := s.loomOf p.2.2.1
    if Config.loomQueue ≤ m.ops.length + (if m.slave then 1 else 0) then (s, some ((p :: ps).map (·.1), .loomFull))
    else if tokensFree s part < p.2.1.tokens then (s, some ((p :: ps).map (·.1), .token))
    else (s.queueOps [p.2] coord).queueItems part coord ps

/-- The operations of an instruction issue, item by item; what finds no room or token holds the cut, and goes on later (R251, R252). -/
def State.issueLoom (s : State) (c : Cut) (u : LoomUse) (items : List (Nat × LoomOp × Nat × (Nat × Nat))) : State :=
  let r := s.queueItems (s.launchOf c.lid).part u.coord items
  let t : State := { r.1 with nextSeq := r.1.nextSeq + 1 }
  let k := (t.cutOf c.uid).getD c
  let k := if u.op = 4 then k.effect else k
  match r.2 with
  | none => t.complete k u.srcs k
  | some (left, w) => t.hold { k with issuing := left.map fun i => (i, []) } w

/-- An accumulator instruction (R234, R235, R245, R251, R252). In order: its checks, order, the claim, the operations that it reads; then
its own operations are queued. One that has issued for some of its items goes on with the others. `d` is `MSTAT`'s destination. -/
def State.accumulate (s : State) (c : Cut) (u : LoomUse) (d : Opnd) : State :=
  let is := c.loomItems
  let keys := is.map (c.claimKey s)
  let goOn := fun (ops : List (LoomOp × List Row)) =>
    let op := fun j => (ops.getD j (u.blank s c 0, [])).1
    match c.loomsFor s keys with
    | none => s.hold c .claim
    | some ns =>
      let read := (List.range ns.length).flatMap fun j => (op j).accs.map fun a => (ns.getD j 0, a)
      let t := (ns.zip keys).foldl (fun (t : State) p => t.claimLoom p.1 p.2) s
      if 4 ≤ u.op && c.issuing.isEmpty && !loomIdle s read then s.hold c (.loomDrain read)
      else if u.op = 5 then t.write c [] c.gov d (uVal ((t.loomOf (ns.getD 0 0)).acc u.acc).status)
      else t.issueLoom c u ((List.range ns.length).map fun j => (is.getD j 0, op j, ns.getD j 0, keys.getD j (0, 0)))
  if !c.issuing.isEmpty then goOn (is.filterMap fun i => u.build s c (loomAs s (c.claimKey s i)) i)
  else if c.isPart || (u.op == 5 && c.isPattern && c.box.size != 1) then s.ill c
  else if is.isEmpty then (if u.op = 5 then s.write c [] .none d (uVal 0) else s.complete c u.srcs c)
  else match s.loomChecks c u is with
  | .inl t => t
  | .inr ops =>
    if u.op = 4 && !storeMayIssue s c then s.hold c .order
    else if u.op ≤ 2 && !readMayIssue s c then s.hold c .order
    else if !c.isPattern && !loomWorks s c.quadLoom then s.saveCut c
    else goOn ops

def execMld (d a b : Opnd) (s : State) := operate (.mld d a b) s fun c => s.accumulate c ⟨0, constOf d, [a, b], 0, 0⟩ 0x4A

def execMma (d a b : Opnd) (s : State) := operate (.mma d a b) s fun c => s.accumulate c ⟨1, constOf d, [a, b], 0, 0⟩ 0x4A

def execMmap (a : Opnd) (m : BitVec 14) (s : State) := operate (.mmap a m) s fun c => s.accumulate c ⟨2, 0, spanOf a 3, m, 0⟩ 0x4A

def execMzero (d : Opnd) (s : State) := operate (.mzero d) s fun c => s.accumulate c ⟨3, constOf d, [], 0, 0⟩ 0x4A

def execMdrn (d a b : Opnd) (s : State) := operate (.mdrn d a b) s fun c => s.accumulate c ⟨4, constOf d, [a], 0, constOf b⟩ 0x4A

def execMstat (d a : Opnd) (s : State) := operate (.mstat d a) s fun c => s.accumulate c ⟨5, constOf a, [], 0, 0⟩ d

/-- The tiles that an `MWB` asks for are brought into a weight buffer, those that fail R245 left out (R255). -/
def State.bringTiles (s : State) (c : Cut) (loom : Nat) (m : TileMap) (o : LoomOp) (h n : W64) : State :=
  (List.range (Nat.min n.toNat 256)).foldl (fun s t =>
    let l0 := m.line0 h
    let k0 := m.elem0 h + 32 * t
    if (m.rowsOf l0 k0 .read).all fun r => rowCause s c r == 0 then s.bringTile loom o m l0 k0 else s) s

/-- `MWB` (R255), for each item at its Loom; one whose handle names no B map has no tiles, and is dropped. It needs no claim: without one
an item's tiles are dropped too (DESIGN CHOICE, log 10). -/
def execMwb (a b : Opnd) (s : State) := operate (.mwb a b) s fun c =>
  let u : LoomUse := ⟨0, 0, [a, b], 0, 0⟩
  let t := c.loomItems.foldl (fun s i =>
    match (s.launchOf c.lid).mapOf (u.val s c 0 i) 1, if c.isPattern then claimed s (c.claimKey s i) else some c.quadLoom with
    | some m, some n => s.bringTiles c n m (u.blank s c i) (u.val s c 0 i) (u.val s c 1 i)
    | _, _ => s) s
  t.complete c [a, b] c

/-! ## `MTEST` and `MFENCED` (R258) -/

/-- The Loom of a cut for `MTEST` and `MFENCED`: it needs no claim. -/
def Cut.anyLoom (s : State) (c : Cut) : Nat :=
  if c.isPattern then (claimed s (c.claimKey s 0)).getD (4 * c.bench) else c.quadLoom

/-- `MTEST`: waits until the Loom is idle, asks for a self-test, and writes what it found. -/
def execMtest (d : Opnd) (s : State) := operate (.mtest d) s fun c =>
  let n := c.anyLoom s
  let m := s.loomOf n
  if c.isPattern && c.box.size != 1 then s.ill c
  else if c.governed.isEmpty then s.write c [] .none d (uVal 0)
  else match m.found with
    | some k =>
      if m.asked = some c.uid then (s.putLoom { m with asked := none, found := none }).write c [] c.gov d (uVal (BitVec.ofNat 64 k))
      else (s.putLoom { m with asked := some c.uid, found := none }).hold c (.loomDrain [(n, 4)])
    | none =>
      if m.ops.isEmpty && !m.slave && m.test.isEmpty && m.asked.isNone then
        (s.putLoom { m with asked := some c.uid }).hold c (.loomDrain [(n, 4)])
      else s.hold c (.loomDrain [(n, 4)])

def execMfenced (d : Opnd) (s : State) := operate (.mfenced d) s fun c =>
  if c.isPattern && c.box.size != 1 then s.ill c
  else s.write c [] c.gov d (uVal (BitVec.ofNat 64 (s.field (regLhealth (c.anyLoom s)) 0 16)))

/-! ## The sequencer (R243, R246, R251) -/

/-- The head operation of a Loom retires: its tokens return, its follower is released, and a self-test is due after a product
(R251, R252, R257). -/
def State.retireOp (s : State) (n : Nat) (o : LoomOp) : State :=
  let m := s.loomOf n
  let product := o.op == 1 || o.op == 2
  let key := m.claim.getD (0, 0)
  let s := s.putLoom { m with ops := m.ops.drop 1, test := if product then o.accs.map fun a => (key, a) else m.test }
  match if o.slaved then o.follower else none with
  | some g =>
    let f := s.loomOf g
    s.putLoom { f with slave := false, test := f.test ++ [(key, o.acc + 1)] }
  | none => s

/-- The Loom through whose fetcher B tile `k` of an operation comes (R246). -/
def LoomOp.fetcher (o : LoomOp) (n k : Nat) : Nat := if k = 1 ∧ o.slaved then o.follower.getD n else n

/-- The scales of a stream's A tile in a step (R244). -/
def LoomOp.streamScale (o : LoomOp) : List Nat :=
  if o.scales.isEmpty then List.replicate 16 127 else o.scales.map fun w => fld w (8 * ((o.ss + o.step) % 8)) 8

/-- The pop of a step (R243): by the issuing cut, whose Bench's L1 it invalidates as an acquire at the pushing job's scope (R192, R193);
`none` where the stream is empty. -/
def State.popStep (s : State) (n : Nat) (o : LoomOp) (stream : Nat) : Option (Nat × State) :=
  match s.crewOf o.crew with
  | none => some (0, s)
  | some k =>
    let t := k.stream stream
    match t.ready with
    | [] => none
    | (off, scope) :: rest =>
      let s := s.putCrew { k with streams := k.streams.set stream { t with ready := rest, popped := t.popped + 1 } }
      let s := if 2 ≤ scope ∧ !(s.launchOf o.lid).qm then s.l1Flash (((o.cut s).map Cut.bench).getD (n / 4)) else s
      some (off.toNat, { s with cuts := s.cuts.map fun (c : Cut) => if c.lid = o.lid ∧ c.isOf o.uid then c.effect else c })

/-- The B tiles of a step enter the weight buffer of the Loom whose fetcher they come through: the follower's, for the second of a fused
pair (R246, R253). -/
def State.bringB (s : State) (n : Nat) (o : LoomOp) (mb : TileMap) : State :=
  (List.range o.accs.length).foldl (fun s k =>
    s.bringTile (o.fetcher n k) o mb (mb.line0 o.b + 16 * k) (mb.elem0 o.b + 32 * o.step)) s

/-- The B tiles of a step, for one accumulator or two; `none` where one waits. -/
def LoomOp.tilesB (s : State) (n : Nat) (o : LoomOp) (mb : TileMap) : Option (List Tile) :=
  (List.range o.accs.length).mapM fun k => o.tile s (o.fetcher n k) mb (mb.line0 o.b + 16 * k) (mb.elem0 o.b + 32 * o.step)

/-- An operation of a Loom meets an operand read as zero: the Bench counts it (R245). -/
def State.operandError (s : State) (n : Nat) (err : Bool) : State := if err then s.countUp (regBrerr (n / 4)) 48 16 1 else s

/-- One step of a product with its tiles (R243). -/
def State.applyStep (s : State) (n : Nat) (o : LoomOp) (fmt : Nat) (ta : Tile) (tbs : List Tile) : State :=
  let m := s.loomOf n
  let m := (List.range o.accs.length).foldl (fun (m : Loom) j =>
    let a := o.accs.getD j 0
    m.setAcc a ((m.acc a).step o.et fmt ta (tbs.getD j ⟨[], [], false⟩))) m
  let p : LoomOp := { o with step := o.step + 1 }
  let s := (s.putLoom { m with ops := p :: m.ops.drop 1 }).operandError n (ta.err || tbs.any (·.err))
  if o.steps ≤ o.step + 1 then s.retireOp n p else s

/-- A step of `MMA` or `MMAP` (R243): it waits for another device's bytes and for its stream. -/
def State.productStep (s : State) (n : Nat) (o : LoomOp) : State :=
  let l := s.launchOf o.lid
  match l.mapOf o.b 1 with
  | none => s.retireOp n o
  | some mb =>
    if o.steps ≤ o.step then s.retireOp n o
    else
      let rowsB := (List.range o.accs.length).flatMap fun k => mb.rowsOf (mb.line0 o.b + 16 * k) (mb.elem0 o.b + 32 * o.step) .read
      match o.stream, l.mapOf o.a 0 with
      | some t, _ =>
        let s := (s.askPieces n o rowsB).bringB n o mb
        match o.tilesB s n mb, s.popStep n o t with
        | some tbs, some (off, s) => s.applyStep n o mb.fmt (streamTile s (s.crewOf o.crew) o.et off o.streamScale) tbs
        | _, _ => s
      | none, some ma =>
        let s := (s.askPieces n o (ma.rowsOf (ma.line0 o.a) (ma.elem0 o.a + 32 * o.step) .read ++ rowsB)).bringB n o mb
        match o.tilesB s n mb, o.tile s n ma (ma.line0 o.a) (ma.elem0 o.a + 32 * o.step) with
        | some tbs, some ta => s.applyStep n o mb.fmt ta tbs
        | _, _ => s
      | none, none => s.retireOp n o

/-- Whether a Loom can be slaved now: its current operation has retired (R246). -/
def mayEnslave (s : State) (g : Nat) : Bool :=
  let f := s.loomOf g
  !f.slave && f.test.isEmpty && f.asked.isNone && (f.ops.head?.all fun o => o.step == 0)

/-- Begins an `MMAP` (R246, R252): it slaves its follower where it may run fused, or returns a token and runs alone; `none` where it
waits for the follower. -/
def State.beginPair (s : State) (n : Nat) (o : LoomOp) : Option (State × LoomOp) :=
  let store := fun (s : State) (p : LoomOp) =>
    let m := s.loomOf n
    (s.putLoom { m with ops := p :: m.ops.drop 1 }, p)
  if o.op ≠ 2 ∨ o.step ≠ 0 ∨ o.slaved then some (s, o)
  else match o.follower with
    | none => some (if o.tokens = 2 then store s { o with tokens := 1 } else (s, o))
    | some g =>
      if !(loomWhole s n && loomWhole s g) then some (store s { o with follower := none, tokens := 1 })
      else if mayEnslave s g then some (store (s.putLoom { s.loomOf g with slave := true }) { o with slaved := true })
      else none

/-- Loads an accumulator (R248). -/
def State.loadStep (s : State) (n : Nat) (o : LoomOp) : State :=
  let w := elemBytes o.et
  let rows := (List.range 16).map fun r => (⟨ptrAdd o.a (r * o.b.toNat), 16 * w, .read, w⟩ : Row)
  let s := s.askPieces n o rows
  let got := rows.map fun r => o.row s n r.ptr r.len
  if got.any (· == .wait) then s
  else
    let bs := got.flatMap fun f => match f with | .got b _ => b | .wait => []
    let err := got.any fun f => match f with | .got _ e => e | .wait => false
    let elem := fun j => BitVec.ofNat 64 (natLE ((bs.drop (j * w)).take w))
    let conv := fun j => if o.et = 4 then (elem j).setWidth 32 else BitVec.ofNat 32 (roundTo 10 (rne false) (value o.et (elem j))).1
    let m := s.loomOf n
    let x := ({ zeroAcc (o.et == 4) with elems := (List.range 256).map conv, err := err } : Acc).marked
    ((s.putLoom (m.setAcc o.acc x)).operandError n err).retireOp n o

/-- Whether a saved claim may be taken again by a Loom: its cut is resident there, and has the tokens its operations need (R256). -/
def mayReclaim (s : State) (n : Nat) (x : SavedClaim) : Bool :=
  let part := (s.launchOf x.claim.1).part
  let need := (x.loom.ops.filter fun o => o.op == 1 || o.op == 2).length
  claimable s part n && decide (need ≤ tokensFree s part) && s.cuts.any fun c =>
    let items := (s.looms.filter fun m => m.claim.any (c.holds s)).length + (s.savedClaims.filter fun y => c.holds s y.claim).length
    c.holds s x.claim && c.place.resident && (if c.isPattern then decide (n ∈ c.loomsNear s items) else c.quadLoom == n)

/-- A Loom that is free takes again a claim that was saved (R256); its cut, if it waits for operations on the old Loom, looks again. -/
def State.reclaim (s : State) (n : Nat) : State :=
  match s.savedClaims.find? (mayReclaim s n) with
  | none => s
  | some x =>
    let held := fun (o : LoomOp) => ({ o with tokens := if o.op = 1 ∨ o.op = 2 then 1 else 0 } : LoomOp)
    let m : Loom := { x.loom with num := n, claim := some x.claim, ops := x.loom.ops.map held, slave := (s.loomOf n).slave }
    let again := fun (c : Cut) => match c.wait with
      | .loomDrain _ => if c.holds s x.claim then { c with wait := .none } else c
      | _ => c
    ({ s with savedClaims := s.savedClaims.filter (·.claim != x.claim), cuts := s.cuts.map again } : State).putLoom m

/-- The sequencer runs one step of its head operation; a free Loom takes a saved claim again (R243, R251, R256). -/
def State.loomStep (s : State) (n : Nat) : State :=
  let m := s.loomOf n
  if m.slave || !m.test.isEmpty || m.asked.isSome then s
  else match m.ops with
    | [] => if (heldBy s n).isNone then s.reclaim n else s
    | o :: _ =>
      if haltedAt s o.asid (n / 4) then s
      else match o.op with
        | 0 => s.loadStep n o
        | 3 => (s.putLoom (m.setAcc o.acc (zeroAcc (o.et == 4)))).retireOp n o
        | 4 => s
        | _ => match s.beginPair n o with
          | some (s, o) => s.productStep n o
          | none => s

/-- LOOM_STEP (R243). -/
def execLoomStep (loom : Nat) (s : State) : Host.Outcome State Fault Refusal := .next (s.loomStep loom).settleConds

/-! ## Drains (R249, R253) -/

/-- The encoded elements of a row, with its scale byte. -/
def LoomOp.drainRow (s : State) (o : LoomOp) (d : TileMap) (x y : Acc) (i n : Nat) : List Nat × Option Nat :=
  let raw := fun j => ((if j < 16 then x else y).elems.getD (16 * i + j % 16) 0)
  if x.kindI then ((List.range n).map fun j => (raw j).toNat, none)
  else
    let vs := (List.range n).map fun j => value 10 ((raw j).setWidth 64)
    let dj := fun j => if o.rm = 5 then dither (s.launchOf o.lid).seed o.off o.dil (32 * i + j) else 0
    let enc := fun (sat : Bool) (j : Nat) (v : Exact) => (roundTo d.fmt ⟨o.rm, sat, false, dj j⟩ v).1
    if d.mx then
      match drainScale d.fmt vs with
      | (sc, none) => (List.replicate n (canonNaN d.fmt), some sc)
      | (sc, some e) => ((List.range n).map fun j => enc true j (scaleDown (vs.getD j (.fin false 0 0)) e), some sc)
    else ((List.range n).map fun j => enc o.sat j (vs.getD j (.fin false 0 0)), none)

/-- The bytes of a row of elements: two to a byte for e2m1, the even column low, the nibble of a clipped column kept (R67, R237). -/
def LoomOp.packRow (s : State) (loom : Nat) (o : LoomOp) (d : TileMap) (ptr : W64) (es : List Nat) : List Byte :=
  if width d.fmt = 4 then
    (List.range (ceilDiv es.length 2)).map fun k =>
      let old := match o.row s loom (ptrAdd ptr k) 1 with | .got b _ => (b.getD 0 0).toNat / 16 | .wait => 0
      BitVec.ofNat 8 (es.getD (2 * k) 0 % 16 + 16 * (if 2 * k + 1 < es.length then es.getD (2 * k + 1) 0 % 16 else old))
  else es.flatMap fun e => bytesLE (elemBytes d.fmt) e

/-- What a drain writes: pointers with bytes, rows ascending, each row's scale before its elements (R249). -/
def LoomOp.drainWrites (s : State) (loom : Nat) (o : LoomOp) (d : TileMap) : List (W64 × List Byte) :=
  let m := s.loomOf loom
  let w := d.window (d.line0 o.a) (d.elem0 o.a)
  w.1.flatMap fun i =>
    let r := d.line0 o.a + i
    let e := o.drainRow s d (m.acc o.acc) (m.acc (o.acc + 1)) i w.2
    let ptr := d.elemPtr r (d.elem0 o.a)
    (match e.2 with | some sc => [(d.scalePtr r (d.elem0 o.a), [BitVec.ofNat 8 sc])] | none => [])
      ++ [(ptr, o.packRow s loom d ptr e.1)]

/-- The store queue entry of a drain's write (R253). -/
def LoomOp.storeOf (o : LoomOp) (id bench : Nat) (w : Write) : Store :=
  { id := id, seq := o.seq, uid := o.uid, anc := [], cutid := o.cutid, lid := o.lid, asid := o.asid, bench := bench, scope := o.scope
    release := false, order := o.order, loc := w.loc, op := w.op, outst := none, job := none, held := false, il := w.il, ptr := w.ptr
    pc := o.pc }

/-- Makes a drain's writes: Sts of the issuing cut, which await the commit in quantum mode; bytes whose page is absent are a late
fault (R128, R253, R254). -/
def State.drainStores (s : State) (n : Nat) (o : LoomOp) (ws : List (W64 × List Byte)) : State :=
  let parts := ws.flatMap fun p => (sectorPieces p.1 p.2.length).map fun q => (q.1, (p.2.drop (q.1.toNat - p.1.toNat)).take q.2)
  let unit := LoomOp.unit n
  let s := parts.foldl (fun s p => s.xlatted unit o.asid p.1) s
  let bytes := parts.flatMap fun p => match (xlat s unit o.asid p.1).loc with
    | some l => (List.range p.2.length).map fun i => (⟨locAt l (locOff l + i), p.2.getD i 0, o.il, ptrAdd p.1 i⟩ : StoredByte)
    | none => []
  let recs := ((List.range (gather bytes).length).zip (gather bytes)).map fun p => o.storeOf (s.nextId + p.1) (n / 4) p.2
  let s : State := { s with nextId := s.nextId + recs.length }
  let s : State := if (s.launchOf o.lid).qm then
      { s with qeff := s.qeff ++ recs.map fun w => (⟨o.lid, o.uid, o.cutid, o.seq, o.il, o.pc, n / 4, o.asid, .store w⟩ : QEntry) }
    else { s with storeQ := s.storeQ ++ recs }
  (parts.filter fun p => (xlat s unit o.asid p.1).loc.isNone).foldl (fun s p =>
    s.holdLate o.lid o.cutid ⟨o.uid, o.seq, o.il, BitVec.ofNat 64 causeLSF, p.1, itemLanes s o.lid o.il, o.pc, 0⟩) s

/-- LOOM_DRAIN (R249): the head operation drains its pair of accumulators; f may zero them and release the claim. -/
def execLoomDrain (loom : Nat) (s : State) : Host.Outcome State Fault Refusal :=
  .next (
    let m := s.loomOf loom
    match m.ops with
    | [] => s
    | o :: _ =>
      if o.op ≠ 4 ∨ m.slave ∨ !m.test.isEmpty ∨ m.asked.isSome ∨ haltedAt s o.asid (loom / 4) then s
      else
        let t := match (s.launchOf o.lid).mapOf o.a 2 with
          | some d => s.drainStores loom o (o.drainWrites s loom d)
          | none => s
        let t := t.retireOp loom o
        let m := t.loomOf loom
        let zero := fun (m : Loom) (a : Nat) => m.setAcc a (zeroAcc (m.acc a).kindI)
        let m := if bit o.b 0 then zero (zero m o.acc) (o.acc + 1) else m
        (t.putLoom (if bit o.b 1 then { m with claim := none, accs := (freshLoom loom).accs } else m)).settleConds)

/-! ## Self-test (R257) -/

/-- Fences sub-arrays, lowest first; a ninth takes the Loom out of service instead (R257). -/
def State.fenceSubs (s : State) (n : Nat) (subs : List Nat) : State :=
  subs.foldl (fun s i =>
    let w := s.reg (regLhealth n)
    if (lanesOf (w.setWidth 16 |>.setWidth 32)).length < Config.fenceLimit then s.setReg (regLhealth n) (w ||| BitVec.ofNat 64 (2 ^ i))
    else s.setField (regLhealth n) 16 1 1) s

/-- The claim of a Loom that goes out of service is saved, and its lane cut with it (R256, R257). -/
def State.evictLoom (s : State) (n : Nat) : State :=
  match s.cuts.find? fun c => (s.loomOf n).claim.any (c.holds s) with
  | none => s
  | some c =>
    if c.isPattern then s.saveLooms fun m => m.num == n else s.saveCut c

/-- SUSPECT is set on an accumulator of a claim, wherever the claim is now (R256, R257). -/
def State.suspectAcc (s : State) (key : Nat × Nat) (a : Nat) : State :=
  let mark := fun (m : Loom) => m.setAcc a { m.acc a with suspect := true }
  { s with
    looms := s.looms.map fun (m : Loom) => if m.claim = some key then mark m else m
    savedClaims := s.savedClaims.map fun x => if x.claim = key then { x with loom := mark x.loom } else x }

/-- SELF_TEST (R257): the outcome of a test that is due or that `MTEST` asked for: the sub-arrays that fail it, and those of them that
fail again. -/
def execSelfTest (loom : Nat) (first second : BitVec 16) (s : State) : Host.Outcome State Fault Refusal :=
  .next (
    let m := s.loomOf loom
    if m.test.isEmpty ∧ (m.asked.isNone ∨ m.found.isSome) then s
    else
      let fenced := (s.reg (regLhealth loom)).setWidth 16
      let fail := lanesOf ((first &&& ~~~fenced).setWidth 32)
      let again := fail.filter fun i => second.getLsbD i
      let t := s.countUp (regLhealth loom) 48 16 (fail.length - again.length)
      let t := if fail.isEmpty then t else m.test.foldl (fun t p => t.suspectAcc p.1 p.2) t
      let k := t.loomOf loom
      let t := t.putLoom { k with test := [], found := if m.asked.isSome then some fail.length else none }
      let u := t.fenceSubs loom again
      if loomWorks t loom && !loomWorks u loom then u.evictLoom loom else u)

end Sys2Proof.Machine
end

