-- ==== Sys2Proof/Machine/Mill.lean ====
section
/-! DEFINITION. Mills (R259 to R286): Mill commands and Mill cuts, section instructions, the Assay's commits, flushed attempts,
return traps on their Bench, and the Mill error registers: op7 0x58 to 0x5B. -/

namespace Sys2Proof.Machine

/-! ## Mills and their command queues (R261 to R263) -/

/-- A Mill by its number. -/
def State.millOf (s : State) (n : Nat) : Mill := (s.mills.find? (·.num == n)).getD ⟨n, [], none, false⟩

/-- Stores a Mill. -/
def State.putMill (s : State) (m : Mill) : State :=
  { s with mills := if s.mills.any (·.num == m.num) then s.mills.map fun (x : Mill) => if x.num = m.num then m else x
                    else s.mills ++ [m] }

/-- The Mill command of a card: the number of the launch's next one (R22), its maker and its place in program order. -/
def State.sendMill (s : State) (m : Maker) (mill : Nat) (card : List W64) : State :=
  let l := s.launchOf m.lid
  let cmd : MillCmd := ⟨l.millSeq, m.lid, m.uid, m.seq, card⟩
  let s := s.putLaunch { l with millSeq := (l.millSeq + 1) % 2 ^ 40, cmds := l.cmds ++ [cmd] }
  let x := s.millOf mill
  s.putMill { x with queue := x.queue ++ [cmd] }

/-- Whether a Mill command card's contents are valid (R261): ENTRY names a word of the code object, CTL's reserved bits are
zero, MODE is legal and LANES is 1 to 8. -/
def millCardOk (s : State) (c : Cut) (w : List W64) : Bool :=
  let entry := w.getD 0 0
  let ctl := w.getD 1 0
  let code := (s.launchOf c.lid).kcode
  entry.toNat % 4 == 0 && (code.toNat + entry.toNat) / 2 ^ 44 == code.toNat / 2 ^ 44
    && accessCause s c.unit (c.asid s) (code + entry) 4 4 .exec == 0
    && fld ctl 4 28 == 0 && modeLegal (ctl.extractLsb' 32 32) && decide (1 ≤ fld ctl 0 4 ∧ fld ctl 0 4 ≤ Config.millLanes)

/-- The checks of one Mill command card (R261): those of a job card's pointer, its contents, and then the coordinate's partition
(DEDUCED, log 100). -/
def millCheck (s : State) (c : Cut) (mill : Nat) (ptr : W64) : CardCheck :=
  match readCard s c ptr with
  | .bad cause => ⟨cause, ptr, 0, []⟩
  | .errored => ⟨causeILL, ptr, 10, []⟩
  | .words w =>
    if !millCardOk s c w then ⟨causeILL, ptr, 8, []⟩
    else if millOwner s mill != some (s.launchOf c.lid).part then ⟨causeRGT, 0, 0, []⟩
    else ⟨0, ptr, 0, w⟩

/-- The cards of an `MSEND`: one for each distinct pointer of the governed lanes; one for each item of a pattern cut (R261). -/
def Cut.millCards (c : Cut) (v : RegVal) : List (Nat × W64) :=
  if c.isPattern then (c.governed.filter fun i => !c.performed i).map fun i => (i, c.valAt v i) else c.cardItems v

/-- How many commands a Mill's queue has room for: those that await a quantum's end have their places (R263, R38). -/
def millRoom (s : State) (mill : Nat) : Nat :=
  Config.millQueue - ((s.millOf mill).queue.length
    + (s.qeff.filter fun q => match q.eff with | .msend _ n => n == mill | _ => false).length)

/-- `MSEND` (R261, R263): every card is checked before the first command issues. -/
def execMsend (l : BitVec 4) (a : Opnd) (m : BitVec 14) (s : State) := operate (.msend l a m) s fun c =>
  let v := c.read s a []
  let items := c.millCards v
  let mill := coordMill m
  let issue := fun (t : State) (k : Cut) (xs : List (Nat × List W64)) =>
    t.issueSome k [a] (millRoom t mill) (.millFull mill) xs fun t xs =>
      t.issueCards k 3 m (fun t m card => t.sendMill m mill card) (fun card => .msend card mill) xs
  if !c.issuing.isEmpty then issue s c c.issuing
  else if items.isEmpty then s.complete c [a] c
  else if !(effectMayIssue s c && c.cardsClear s v) then s.hold c .order
  else if !c.onMill && millRoom s mill == 0 then s.hold c (.millFull mill)
  else if c.onMill && !items.all fun p => millMay s c p.2 then s.returnTrap c 4
  else
    let checks := items.map fun p => (p, millCheck s c mill p.2)
    if checks.any (·.2.cause != 0) then s.cardsFail c v checks else s.cardsIssue c v checks issue

/-- The cut that a Mill command starts (R262). -/
def millCut (s : State) (cmd : MillCmd) (mill : Nat) : Cut :=
  let l := s.launchOf cmd.lid
  let ctl := cmd.card.getD 1 0
  let n := fld ctl 0 4
  let k := Cut.atEntry s l s.nextUid .lane ⟨⟨0, 0, 0⟩, n, 1, 1⟩ ((List.range n).map fun i => ⟨i, 0, 0⟩) (.mill mill)
  { k with
    mill := true, first := cmd.seq
    ctx := { k.ctx with
      pc := l.kcode + cmd.card.getD 0 0, mode := ctl.extractLsb' 32 32
      o := (List.range 8).map fun i => uVal (if i < 6 then cmd.card.getD (2 + i) 0 else 0) } }

/-- Whether a launch's Mill cuts may run: its account is not exhausted, and its context is not being pre-empted (R284, R380). -/
def millMayRun (s : State) (l : Launch) : Bool :=
  !exhausted s l.part l.acct && !s.preempts.any fun p => p.affects l.lid && !p.finished

/-- MILL_CUT_START (R262, R263): a free Mill of the launch's partition takes its next command. -/
def execMillCutStart (mill : Nat) (s : State) : Host.Outcome State Fault Refusal :=
  let x := s.millOf mill
  .next (match x.run, x.queue with
    | none, cmd :: rest =>
      if millMayRun s (s.launchOf cmd.lid) && millOwner s mill == some (s.launchOf cmd.lid).part then
        let s := s.putMill { x with queue := rest, run := some (s.nextUid, cmd) }
        { s with cuts := s.cuts ++ [millCut s cmd mill], nextUid := s.nextUid + 1 }
      else s
    | _, _ => s)

/-- REFRESH_START, REFRESH_END (R267): refresh freezes a Mill with its state held, and ends. -/
def execRefreshStart (mill : Nat) (s : State) : Host.Outcome State Fault Refusal :=
  .next (s.putMill { s.millOf mill with frozen := true })

def execRefreshEnd (mill : Nat) (s : State) : Host.Outcome State Fault Refusal :=
  .next (s.putMill { s.millOf mill with frozen := false })

/-! ## Commits (R274, R275) -/

/-- An attempt that ended as a conflict (R275, R281): a replay is counted. -/
def Section.replayed (cause : Nat) (esc : Bool) (x : Section) : Section :=
  { x.dropAttempt cause with
    replays := Nat.min 255 (x.replays + 1), total := Nat.min (2 ^ 32 - 1) (x.total + 1), nextFlushed := esc }

/-- A section after its commit (R274 step 5). -/
def Section.closed (x : Section) : Section :=
  { x with state := .out, buffer := [], undo := [], held := [], restore := none, committing := false, implicit := none
           unfrozen := 0, exited := 0, cause := 0, openSeq := 0 }

/-- Whether both segments of a signature hold a bit (R274). -/
def bothSegments (w : Nat) (sig : BitVec 512) : Bool :=
  sig.toNat % 2 ^ (w / 2) != 0 && sig.toNat / 2 ^ (w / 2) % 2 ^ (w / 2) != 0

/-- What the test of an ORDINARY attempt compares (R274). -/
def Section.hit (x : Section) : BitVec 512 := (x.rs ||| x.ws) &&& x.cs

/-- Whether an attempt is tested and conflicts; a FLUSHED one is untested (R274). -/
def Section.conflicts (x : Section) : Bool := x.state == .ordinary && bothSegments (sigWidth x.width) x.hit

/-- A section with what its test leaves for `MSIG` (R278). -/
def Section.tested (x : Section) : Section := if x.state = .ordinary then { x with lastCs := x.cs, lastHit := x.hit } else x

/-- The buffer drains to DRAM in one step: its sectors are clean and no home slice holds them; other open sections of the stack
see the drain (R271, R274). Copies in an L1 remain. -/
def State.drain (s : State) (buf : List Host.Cell) : State :=
  let seen := buf.filter fun p => (viewAt s p.1).isSome
  let buf := buf.filter fun p => (viewAt s p.1).isNone
  let s := s.dropWrites (seen.map (·.1))
  let secs := bufSectors buf
  let s : State := { s with
    views := s.views.filter fun v => !decide (v.1 ∈ secs)
    mem := buf.foldl (fun m p => cellPut p.1 p.2 m) s.mem
    stale := s.stale.filter fun d => !decide (d.1 ∈ secs)
    poison := s.poison.filter fun n => (buf.filter fun p => sectorOf p.1 == n).length != 128 }
  let s := secs.foldl State.noteWrite s
  buf.foldl (fun s p => s.dropViews p.1) s

/-- Issues what a section held for its commit (R265, R274 step 4). -/
def State.issueHeld (s : State) (c : Cut) (h : HeldIssue) : State :=
  let m : Maker := { c.maker s 0 with il := h.il, pc := h.pc }
  let s := if h.op = 3 then s.sendMill m (coordMill h.coord) h.card else s.addJob m h.op h.card h.coord
  { s with nextSeq := s.nextSeq + 1 }

/-- A cut leaves the lists of its Assay unit. -/
def State.leaveAssay (s : State) (c : Cut) : State := { s with assays := s.assays.map (Assay.forget [c]) }

/-- The cut goes on after its section's commit: an implicit section's instruction has completed, an `EXIT` ends the cut, and
`MCOMMIT` writes its status (R274, R275, R283). -/
def State.afterCommit (s : State) (c : Cut) (implicit : Bool) : State :=
  if implicit then s.putCut { c with wait := .none }
  else if c.exiting then s.endCut c
  else s.write { c with wait := .none } [] .all c.sec.commitDst (uVal 0)

/-- A section commits (R274): its buffer drains, its jobs and commands issue, and the cut goes on. -/
def State.commitSection (s : State) (c : Cut) : State :=
  let y := c.sec
  let s := s.putSec c y.closed c.localMem
  let s := s.drain y.buffer
  let s := y.held.foldl (fun s h => s.issueHeld c h) s
  match s.cutOf c.uid with
  | some k => s.afterCommit k y.implicit.isSome
  | none => s

/-- The Assay unit tests an attempt, and commits it or discards it (R274, R275). -/
def State.assayTest (s : State) (c : Cut) : State :=
  let s := s.leaveAssay c
  let k : Cut := { c with sec := c.sec.tested }
  if c.sec.conflicts then s.discard k (Section.replayed 1 false) else s.commitSection k

/-- Whether a flushed attempt of another cut holds the drain of an attempt (R276). -/
def heldByFlush (s : State) (c : Cut) : Bool := c.sec.state != .flushed && (bufSectors c.sec.buffer).any (flushHolds s)

/-- The cuts whose commits wait at a stack, oldest first. -/
def commitsAt (s : State) (stack : Nat) : List Cut := (s.assayOf stack).commits.filterMap s.cutOf

/-- ASSAY_COMMIT (R274): the oldest waiting commit that no flushed attempt holds. A launch in quantum mode commits at its quantum's
end (R285). -/
def execAssayCommit (stack : Nat) (s : State) : Host.Outcome State Fault Refusal :=
  .next (match (commitsAt s stack).find? fun c => !c.quantum s && !heldByFlush s c with
    | some c => s.assayTest c
    | none => s)

/-- The sections of a launch in quantum mode commit at a quantum's end, in ascending number of their commands; one that a flushed
attempt holds delays every later one of its stack, a flushed one too (R285). -/
def State.quantumCommits (s : State) (lid : Nat) : State :=
  let mine := fun (s : State) (st : Nat) => sortBy (·.first) ((commitsAt s st).filter (·.lid == lid))
  (List.range Config.stackCount).foldl (fun s st =>
    ((mine s st).foldl (fun (p : State × Bool) d =>
      match p.1.cutOf d.uid with
      | none => p
      | some c =>
        if p.2 || !c.sec.committing then p
        else if heldByFlush p.1 c then (p.1, true)
        else (p.1.assayTest c, false)) (s, false)).1) s

/-! ## Flushed attempts (R276) -/

/-- FLUSHED_ATTEMPT_START (R276): the oldest waiting attempt of a stack is admitted where none runs; the sectors that hit the previous
attempt's signatures are written back where they are dirty, and leave their home slices. -/
def execFlushedAttemptStart (stack : Nat) (s : State) : Host.Outcome State Fault Refusal :=
  let a := s.assayOf stack
  .next (match a.running, a.waiting with
    | none, u :: rest =>
      match s.cutOf u with
      | none => s.putAssay { a with waiting := rest }
      | some c =>
        let w := sigWidth c.sec.width
        let hit := fun (sec : Nat) => stackOf (sec * 128) == stack && c.sec.state != .out && sigHit w c.sec.prevSig sec
        let s := (s.stale.filter fun d => hit d.1).foldl (fun s d => s.writeBack d.1) s
        let s : State := { s with views := s.views.filter fun v => !hit v.1 }
        (s.putAssay { a with waiting := rest, running := some u }).hold c .none
    | _, _ => s)

/-- FLUSHED_LIMIT (R276): a flushed attempt of more than 65536 unfrozen cycles ends with a return trap. -/
def execFlushedLimit (uid : Nat) (s : State) : Host.Outcome State Fault Refusal :=
  .next (match s.cutOf uid with
    | some c => if c.onMill && c.sec.state == .flushed && c.sec.restore.isSome && decide (Config.flushedLimit < c.sec.unfrozen)
        then s.returnTrap c 3 else s
    | none => s)

/-! ## The section instructions (R269, R272, R282) -/

/-- `MSECT` on a Mill (R272). -/
def State.openSection (s : State) (c : Cut) (w l : Nat) : State :=
  let start := fun (y : Section) =>
    let t := s.putSec c (y.begin s c.stack c.ctx) c.localMem
    t.advance ((t.cutOf c.uid).getD c)
  let go := fun (fl : Bool) (y : Section) => if fl && !mayFlush s c then s.askFlush c else start y
  if c.sec.state = .out then go (l == 0) (c.sec.opened c.ctx.pc w l none)
  else if c.sec.restore.isNone ∧ c.sec.pc = c.ctx.pc then go (c.sec.nextFlushed || c.sec.replays == c.sec.limit) c.sec
  else s.ill c

/-- `MSECT` on a Bench (R282): a section without atomicity; REPLAYS stays where a return trap restarts the section here. -/
def State.openOnBench (s : State) (c : Cut) (w l : Nat) : State :=
  if c.sec.state = .out then
    s.advance { c with sec := { c.sec.opened c.ctx.pc w l none with
      state := .ordinary, attempt := 1, onBench := true, openSeq := s.nextSeq } }
  else if c.sec.openSeq = 0 ∧ c.sec.pc = c.ctx.pc then
    s.advance { c with sec := { c.sec with
      state := .ordinary, attempt := Nat.min 255 (c.sec.attempt + 1), onBench := true, openSeq := s.nextSeq } }
  else s.ill c

def execMsect (w : BitVec 4) (a : Opnd) (s : State) := operate (.msect w a) s fun c =>
  let v := c.read s a []
  if c.isPart || !v.isU || decide (15 < v.base.toNat) then s.ill c
  else if c.onMill then s.openSection c w.toNat v.base.toNat
  else s.openOnBench c w.toNat v.base.toNat

/-- `MCOMMIT`: on a Mill the attempt's reads return and the Assay unit takes the attempt (R274); on a Bench everything the cut
issued performs at system scope (R282). -/
def execMcommit (l : BitVec 4) (d : Opnd) (s : State) := operate (.mcommit l d) s fun c =>
  if c.isPart || c.sec.state == .out then s.ill c
  else if !c.outst.isEmpty then s.hold c .results
  else if c.onMill then s.offer { c with sec := { c.sec with commitDst := d } }
  else if !benchCommitted s c then s.hold c .order
  else s.write { c with sec := { c.sec with state := .out, openSeq := 0, cause := 0 } } [] .all d (uVal 0)

/-- `MRCNT` (R280). -/
def execMrcnt (d : Opnd) (s : State) := operate (.mrcnt d) s fun c =>
  let x := c.sec
  s.write c [] .all d (uVal (BitVec.ofNat 64
    (x.total * 2 ^ 32 + (if x.ranFlushed then 2 ^ 16 else 0) + x.limit * 2 ^ 8 + x.replays)))

/-- `MSIG` (R278): bits beyond the width read zero, as the signatures hold none there. -/
def execMsig (d a b : Opnd) (s : State) := operate (.msig d a b) s fun c =>
  let x := c.sec
  let sig := match constOf a with | 0 => x.rs | 1 => x.ws | 2 => x.lastCs | _ => x.lastHit
  s.write c [] .all d (uVal (sig.extractLsb' (64 * constOf b) 64))

/-- `MSTATE` (R279). -/
def execMstate (d : Opnd) (s : State) := operate (.mstate d) s fun c =>
  let x := c.sec
  let st := match x.state with | .out => 0 | .ordinary => 1 | .flushed => 2
  s.write c [] .all d (uVal (BitVec.ofNat 64
    ((bufSectors x.buffer).length * 2 ^ 48 + x.cause * 2 ^ 36 + (if c.onMill then 0 else 2 ^ 16) + x.attempt * 2 ^ 8
      + x.limit * 2 ^ 4 + x.width * 2 ^ 2 + st)))

/-- `MESC` (R281, R282). -/
def execMesc (d a : Opnd) (s : State) := operate (.mesc d a) s fun c =>
  let x := c.sec
  if constOf a = 0 then
    s.write c [] .all d (uVal (BitVec.ofNat 64
      (Nat.min (2 ^ 32 - 1) x.flushedCount * 2 ^ 32 + Nat.min (2 ^ 32 - 1) x.returnTraps)))
  else if c.isPart then s.ill c
  else if !c.onMill then s.advance c
  else if constOf a = 1 ∧ x.state = .out then s.ill c
  else if constOf a = 1 ∧ x.state = .ordinary then s.discard c (Section.replayed 5 true)
  else s.returnTrap c 5

/-! ## Returned cuts on their Bench (R266) -/

/-- The pages of a returned cut's space: they hold the local store's bytes, backed in the context save area. -/
def returnedPages (mem : List Host.Cell) : List SPage :=
  (List.range (Config.localStore / Config.scratchPage)).map fun n =>
    let data := (mem.filter fun p => p.1 / Config.scratchPage == n).map fun p => (p.1 % Config.scratchPage, p.2)
    if data.isEmpty then SPage.zero else ⟨.backed, 0, 0, true, false, [], data⟩

/-- RETURNED_CUT_RESUME (R266): a returned cut with its parts becomes a crew of one on its Bench, once the crew can be formed
(R213), and waits in the cut queue for its slot. -/
def execReturnedCutResume (uid : Nat) (s : State) : Host.Outcome State Fault Refusal :=
  .next (match s.cutOf uid with
    | none => s
    | some c => match c.place with
      | .returned b =>
        let l := s.launchOf c.lid
        let fits := decide ((s.crewsOn b).length < Config.crewsPerBench) && mayReserve s l.part b 1 c.parent
        match if fits then freeSlot s l true 8192 else none with
        | none => s
        | some slot =>
          let k := Crew.new l s.nextId slot (slotGen l (genKey slot true)) b Config.lanes 0 true
          let s : State := { s with
            crews := s.crews ++ [{ k with pages := returnedPages c.localMem }], nextId := s.nextId + 1
            cuts := s.cuts.map fun (d : Cut) =>
              if d.parent = c.parent ∧ d.lid = c.lid ∧ !d.isPattern then { d with crew := some k.key } else d }
          s.placeFamily c (.queue b)
      | _ => s)

/-! ## The Mill error registers (R268) -/

/-- MSUM_WRITE: VWDROP is set to 0, and MTRAP bits written 1 are cleared. -/
def execMsumWrite (stack : Nat) (v : W64) (s : State) : Host.Outcome State Fault Refusal :=
  let w := s.reg (regMsum stack)
  .next (if stack < Config.stackCount then s.setReg (regMsum stack) (w &&& ~~~(bits 63 48 ||| (v &&& bits 31 0))) else s)

/-- MDERR_WRITE: COUNT is set to 0, BANK bits written 1 are cleared, and MSUM.DERR follows. -/
def execMderrWrite (stack dist : Nat) (v : W64) (s : State) : Host.Outcome State Fault Refusal :=
  let w := s.reg (regMderr stack dist) &&& bits 31 0 &&& ~~~v
  .next (if stack < Config.stackCount ∧ dist < 4 then
      (s.setReg (regMderr stack dist) w).setField (regMsum stack) (32 + dist) 1 (if w = 0 then 0 else 1)
    else s)

end Sys2Proof.Machine
end

