-- ==== Sys2Proof/Machine/System.lean ====
section
/-! DEFINITION. The system instructions and the CSRs (R345 to R350), and the end of a `PGWAIT` (R144): op7 0x5C to 0x5E. -/

namespace Sys2Proof.Machine

/-! ## The CSRs (R346) -/

/-- THANDLER (R340). -/
def TrapCsrs.handler (t : TrapCsrs) : W64 :=
  BitVec.ofNat 64 ((if t.inh then 2 ^ 63 else 0) + (if t.hv then 2 ^ 32 else 0) + t.off.toNat)

/-- A word of a loop stack by its CSR number, the outermost level first; a level that is not live reads 0 (R105). -/
def loopCsr (ls : List Level) (n : Nat) : W64 :=
  let l := ls.getD ((n - 0x20) / 3) ⟨0, 0, 0⟩
  if l.cnt = 0 then 0 else match (n - 0x20) % 3 with | 0 => l.start | 1 => l.stop | _ => l.cnt

/-- The loop stack that the CSRs show: the saved one in the handler, the live one otherwise (R346). -/
def Cut.shownLoops (c : Cut) : List Level := if c.trap.inh then c.trap.sloops else savedLoops c.ctx.loops

/-- The value of a CSR (R346). -/
def Cut.csr (s : State) (c : Cut) (n : Nat) : W64 :=
  let l := s.launchOf c.lid
  if n = 0 then c.ctx.mode.setWidth 64
  else if n = 1 then c.ctx.asf
  else if n = 2 then c.ctx.tenable
  else if n = 0x10 then c.trap.tcause
  else if n = 0x11 then c.trap.tpc
  else if n = 0x12 then c.trap.taddr
  else if n = 0x13 then c.trap.tlanes
  else if n = 0x14 then c.trap.tdone
  else if n = 0x15 then c.trap.tparent
  else if n = 0x16 then c.trap.tsibs
  else if n = 0x17 then c.trap.tlspc
  else if n = 0x18 then c.trap.handler
  else if n < 0x30 then loopCsr c.shownLoops n
  else if n = 0x30 then c.cutid
  else if n = 0x31 then l.boltId
  else if n = 0x32 then l.launchId
  else if n = 0x33 then ((c.crew.bind s.crewOf).map Crew.handle).getD 0
  else if n = 0x34 then BitVec.ofNat 64 c.role
  else if n = 0x40 then BitVec.ofNat 64 c.sec.replays
  else if n = 0x50 then BitVec.ofNat 64 (if c.mill then c.items.length else l.extx)
  else if n = 0x51 then BitVec.ofNat 64 (if c.mill then 1 else l.exty)
  else BitVec.ofNat 64 (if c.mill then 1 else l.extz)

/-- `CSRR` (R346): ASF and TENABLE are read once every flag-setting instruction has completed (R150). -/
def execCsrr (d : Opnd) (i : BitVec 11) (s : State) := operate (.csrr d i) s fun c =>
  if (i = 1#11 ∨ i = 2#11) ∧ c.outst.any Outst.mayFlag then s.hold c .results
  else s.write c [] .all d (uVal (c.csr s i.toNat))

/-- A loop stack with one word of the saved stack written (R346). -/
def setLoopCsr (ls : List Level) (n : Nat) (v : W64) : List Level :=
  let k := (n - 0x20) / 3
  let l := ls.getD k ⟨0, 0, 0⟩
  ls.set k (match (n - 0x20) % 3 with | 0 => { l with start := v } | 1 => { l with stop := v } | _ => { l with cnt := v })

/-- A write of the CSR that a `CSRW` names, where the table lets it (R346); `none` raises ILL. -/
def Cut.csrWrite (c : Cut) (n : Nat) (v : W64) : Option Cut :=
  let flags := v &&& 0x1F
  if n = 0 then some (c.setMode (v.setWidth 32))
  else if n = 1 then some { c with ctx := { c.ctx with asf := flags } }
  else if n = 2 then some { c with ctx := { c.ctx with tenable := flags } }
  else if !c.trap.inh then none
  else if n = 0x11 then some { c with trap := { c.trap with tpc := v, tdone := 0 }, part := [] }
  else if n = 0x14 then (if fld v 32 31 ≠ 0 then none else some { c with trap := { c.trap with tdone := v } })
  else if 0x20 ≤ n ∧ n < 0x2C then some { c with trap := { c.trap with sloops := setLoopCsr c.trap.sloops n v } }
  else none

/-- `CSRW` (R346): MODE as `MODE` checks it (R80, R98), ASF and TENABLE after the wait of R150. -/
def execCsrw (a : Opnd) (i : BitVec 11) (s : State) := operate (.csrw a i) s fun c =>
  match c.uniformOf (c.read s a []) with
  | none => s.ill c
  | some v =>
    if i = 0#11 ∧ !modeLegal (v.setWidth 32) then s.raiseAll c causeMOD 0
    else if (i = 1#11 ∨ i = 2#11) ∧ c.outst.any Outst.mayFlag then s.hold c .results
    else match c.csrWrite i.toNat v with
      | none => s.ill c
      | some k => s.complete c [a] k

/-! ## `TRET`, `FLAGS` and `FLAGC` (R347, R348) -/

/-- The levels of a saved loop stack that are live. -/
def liveLevels (ls : List Level) : List Level := ls.takeWhile (·.cnt != 0)

/-- Whether a saved loop stack may become live: its live levels are 0 to n − 1, each with LSTART not above LEND (R348). -/
def savedLoopsOk (ls : List Level) : Bool :=
  (ls.drop (liveLevels ls).length).all (·.cnt == 0) && (liveLevels ls).all fun l => decide (l.start.toNat ≤ l.stop.toNat)

/-- Whether TDONE covers every item of a cut: execution then resumes after the word at TPC (R348). -/
def Cut.allDone (c : Cut) : Bool := bit c.trap.tdone 63 || (!c.isPattern && c.ctx.active &&& ~~~(c.trap.tdone.setWidth 32) == 0)

/-- THE RETURN FROM A TRAP (R348): the saved loop stack, `l0` and `l1` are live again and the handler is left; the word at TPC
is resumed after, or executes again with the lanes of TDONE counted as performed. -/
def Cut.returned (c : Cut) : Cut :=
  let loops := (liveLevels c.trap.sloops).reverse
  let k : Cut := { c with
    trap := { c.trap with inh := false }
    ctx := { c.ctx with pc := c.trap.tpc, l0 := .val c.trap.sl0, l1 := .val c.trap.sl1, loops := loops } }
  if c.allDone then k.advance
  else
    let again := if c.isPattern then 0#64 else c.trap.tdone &&& c.ctx.active.setWidth 64
    { k.goTo c.trap.tpc loops with replay := again, part := if again = 0 then [] else c.part }

/-- `TRET` (R348): a saved loop stack or TPC that cannot be resumed is a trap inside the handler (R339). -/
def execTret (s : State) := operate .tret s fun c =>
  if !c.trap.inh then s.ill c
  else if !savedLoopsOk c.trap.sloops ∨ targetCause s c true c.trap.tpc ≠ 0 then s.ill c
  else s.retired c.returned

/-- The bits of TCAUSE that `FLAGS` may set (R340). -/
def causeBits : W64 := 0x1FBFF

/-- `FLAGS` (R347): TCAUSE before the change is returned, and bits are set; a reserved bit raises ILL. -/
def execFlags (d a : Opnd) (s : State) := operate (.flags d a) s fun c =>
  match c.uniformOf (c.read s a []) with
  | none => s.ill c
  | some v =>
    if v &&& ~~~causeBits ≠ 0 then s.ill c
    else s.write { c with trap := { c.trap with tcause := c.trap.tcause ||| v } } [a] .all d (uVal c.trap.tcause)

/-- `FLAGC` (R347): TCAUSE before the change is returned, and bits are cleared. -/
def execFlagc (d a : Opnd) (s : State) := operate (.flagc d a) s fun c =>
  match c.uniformOf (c.read s a []) with
  | none => s.ill c
  | some v => s.write { c with trap := { c.trap with tcause := c.trap.tcause &&& ~~~v } } [a] .all d (uVal c.trap.tcause)

/-! ## `TLBINV` and `SCRINV` (R349) -/

/-- Whether a pointer lies in the 64 KiB page that a `TLBINV` names, or in the whole address space. -/
def invalidates (b ptr : W64) : Bool := objOf b == 0 || (objOf ptr == objOf b && offOf ptr / 2 ^ 16 == offOf b / 2 ^ 16)

/-- Whether a cached translation is one that a `TLBINV` drops. -/
def dropsEntry (asid : Nat) (b : W64) (t : TlbEnt) : Bool :=
  t.asid == asid && (objOf b == 0 || (t.obj == objOf b && t.page == offOf b / pageSize t.ent.large))

/-- Drops cached translations of an address space or a page, everywhere (R349). -/
def State.tlbDrop (s : State) (asid : Nat) (b : W64) : State := { s with tlb := s.tlb.filter fun t => !dropsEntry asid b t }

/-- Whether an access that may have translated through a dropped entry has not performed (R349, R365). -/
def tlbPending (s : State) (asid : Nat) (b : W64) : Bool :=
  let queued := fun (w : Store) => w.asid == asid && invalidates b w.ptr
  s.storeQ.any queued || (s.remotes.any fun r => r.store.any queued)
    || (s.qeff.any fun q => match q.eff with | .store w => queued w | _ => false)
    || s.cuts.any fun c => c.asid s == asid && c.outst.any fun o => o.what.reads.any fun r => r.got.isNone && invalidates b r.ptr

/-- `TLBINV` (R349). -/
def execTlbinv (a b : Opnd) (s : State) := operate (.tlbinv a b) s fun c =>
  match c.uniformOf (c.read s a []), c.uniformOf (c.read s b [a]) with
  | some x, some p =>
    if !privileged s c || decide (8191 < x.toNat) then s.ill c
    else
      let t := s.tlbDrop x.toNat p
      if tlbPending s x.toNat p then t.hold c .tlbinv else t.complete c [a, b] c
  | _, _ => s.ill c

/-- Writes back the frames of a space: unpinned pages become BACKED, pinned ones stay RES (R349, R201). -/
def State.scrInvalidate (s : State) (key : Nat) : State :=
  (List.range (((s.crewOf key).map (·.pages.length)).getD 0)).foldl (fun (s : State) n =>
    match s.crewOf key with
    | none => s
    | some k =>
      let p := k.page n
      if p.state ≠ .res then s
      else if !pinnedPage s k n then s.evictPage key n
      else match if p.dirty || p.fresh then k.backLocs s n else none with
        | some ls => ((s.putAt ls (cellsGet p.data 0 Config.scratchPage)).poisonAt (p.lost.filterMap fun i => ls[i]?)).putCrew
            (k.setPage n { p with dirty := false, fresh := false })
        | none => s) s

/-- `SCRINV` (R349): the spaces of an address space on one Bench, or on every Bench of the partition. -/
def execScrinv (a b : Opnd) (s : State) := operate (.scrinv a b) s fun c =>
  match c.uniformOf (c.read s a []), c.uniformOf (c.read s b [a]) with
  | some x, some n =>
    if !privileged s c || decide (8191 < x.toNat) || !(decide (n.toNat < Config.benches) || n == -1) then s.ill c
    else
      let part := (s.launchOf c.lid).part
      let mine := s.crews.filter fun k => (s.launchOf k.lid).asid == x.toNat
        && (if n = -1 then !(ownedQuads s part k.bench).isEmpty else k.bench == n.toNat)
      (mine.foldl (fun s k => s.scrInvalidate k.key) s).complete c [a, b] c
  | _, _ => s.ill c

/-! ## `CLOCK` and `PERF` (R350) -/

/-- `CLOCK`: the cycles since device reset. -/
def execClock (d : Opnd) (s : State) := operate (.clock d) s fun c => s.write c [] .all d (uVal (BitVec.ofNat 64 s.cycle))

/-- The profiling lease of a cut's context where the cut runs (R389, R390). -/
def Cut.lease (s : State) (c : Cut) : Option Lease :=
  s.leases.find? fun l => l.asid == c.asid s && l.atMill == c.onMill && l.place == (if c.onMill then c.millNum else c.bench)

/-- The counters whose events the model sees: cycles, instructions by cut and by kind, what becomes of cuts, stalls, scratch pages, Loom
steps, engine jobs, sections, and the cycles that refresh freezes (R389). Counter 63 reads 0; every other counts what caches, engines or the network do (DESIGN CHOICE, log 4). -/
def countedEvents : List Nat := [0, 1, 2, 3, 4, 5, 6, 7, 8, 9, 10, 11, 12, 13, 14, 15, 16, 17, 18, 24, 25, 26, 27, 28, 30, 31,
  32, 36, 39, 40, 41, 44, 45, 46, 47, 48, 49, 50, 51, 52, 53, 54]

/-- The count of a counter of a lease, as a cut reads it. -/
def Lease.count (s : State) (l : Lease) (n uid : Nat) : BitVec 63 :=
  if n = 63 then 0
  else if n ∈ countedEvents then BitVec.ofNat 63 (((l.counts.find? (·.1 == n)).map (·.2)).getD 0)
  else Config.unseenCount n uid s.cycle

/-- The counter that `PERF` reads: UNAVAIL with a count of 0 outside the lease (R350). -/
def Cut.perf (s : State) (c : Cut) (n : Nat) : W64 :=
  match c.lease s with
  | some l => if l.eff.testBit (n / 8) then (l.count s n c.uid).setWidth 64 else 1#64 <<< 63
  | none => 1#64 <<< 63

/-- `PERF` (R350). -/
def execPerf (d a : Opnd) (s : State) := operate (.perf d a) s fun c =>
  match c.uniformOf (c.read s a []) with
  | none => s.ill c
  | some n => if 63 < n.toNat then s.ill c else s.write c [a] .all d (uVal (c.perf s n.toNat))

/-! ## The page-wait limit (R144) -/

/-- PAGE_WAIT_LIMIT: the limit of the partition passes for a waiting `PGWAIT`, which ends. -/
def execPageWaitLimit (uid : Nat) (s : State) : Host.Outcome State Fault Refusal :=
  .next (match s.cutOf uid with
    | none => s
    | some c => match c.wait, c.instrAt s with
      | .page since, some (.pgwait d a) =>
        if since + waitLimit s (s.launchOf c.lid).part ≤ s.cycle && c.place.resident then s.writePages c d a (c.read s a []) else s
      | _, _ => s)

end Sys2Proof.Machine
end

