-- ==== Sys2Proof/Machine/Waits.lean ====
section
/-! DEFINITION. When a wait is over, so that a cut may issue again (R32), which waits are the blocking ones of a quantum (R38), and
the reasons that stall cycles are charged to (R33). -/

namespace Sys2Proof.Machine

/-! ## Order (R129, R187, R188) -/

/-- Whether what memory order held an instruction for is past: the test that its meaning makes, by its kind. -/
def orderOver (s : State) (c : Cut) (i : Instr) : Bool :=
  let u := c.usesOf i
  let own := match i with
    | .st _ _ _ | .stm _ _ _ | .ared _ _ | .atom _ _ _ _ | .mdrn _ _ _ => storeMayIssue s c
    | .stl _ _ _ | .cadd _ _ => releaseMayIssue s c
    | .launch _ _ _ _ =>
      releaseMayIssue s c && (c.quantum s || fenceDone s (c.releasing s 3))
    | .cpy _ a | .cpyt _ a | .cpym _ a _ | .msend _ a _ => effectMayIssue s c && c.cardsClear s (c.read s a [])
    | .coll _ _ _ _ | .cabort _ | .sts _ _ _ | .sfree _ _ => effectMayIssue s c
    | .lds _ _ _ _ | .cwait _ _ _ _ | .evwait _ | .cstat _ _ _ | .mld _ _ _ | .mma _ _ _ | .mmap _ _ => readMayIssue s c
    | .mcommit _ _ | .exit => benchCommitted s c
    | _ => true
  own && (!u.srcs.any isQ || readMayIssue s c) && (!u.dsts.any isQ || effectMayIssue s c)

/-- Whether an instruction's next job or Mill command finds room (R226, R263, R294). -/
def roomOver (s : State) (c : Cut) (i : Instr) : Bool :=
  match i with
  | .msend _ _ m => decide (0 < millRoom s (coordMill m))
  | _ => decide (0 < c.jobRoom s)

/-- Whether the instruction at a cut's pc passes a test; a word that is none does, and will stop. -/
def Cut.nextIs (s : State) (c : Cut) (test : Instr → Bool) : Bool := (c.instrAt s).all test

/-- Whether the chute and stream ends that an instruction needs are ready, or closed (R220). -/
def queuesOver (s : State) (c : Cut) (i : Instr) : Bool :=
  match c.queuesReady s (c.usesOf i) with
  | .wait _ => false
  | _ => true

/-! ## The end of a wait (R32) -/

/-- Whether a cut's wait is over. Those that an event of their own ends are not: trap entry, a quantum's end, a seam, a flushed attempt
not yet admitted. -/
def waitOver (s : State) (c : Cut) : Bool :=
  match c.wait with
  | .none => true
  | .results => c.outst.isEmpty
  | .fence slot seq => match c.ctx.fences.getD slot none with
    | some f => f.seq != seq || fenceDone s f
    | none => true
  | .fenceSlot => (c.fenceSlot s).isSome
  | .barrier _ bar phase => phaseDone s c bar phase
  | .chutePush _ _ | .chutePop _ _ | .streamPop _ _ => c.nextIs s (queuesOver s c)
  | .event _ => (c.crewIn s).any fun k => !k.events.isEmpty
  | .counter => c.nextIs s fun i => match i with | .cwait _ _ a b => c.counterMet s a b | _ => true
  | .page _ => c.nextIs s fun i => match i with | .pgwait _ a => c.pageWaitOver s (c.read s a []) | _ => true
  | .coll cid gen seq => fld (ticketStatus s (BitVec.ofNat 64 (gen * 2 ^ 48 + cid * 2 ^ 24 + seq))).1 62 2 != 0
  | .collLimit cid => decide (collsHeld s cid < Config.collOutstanding)
  | .seam _ _ _ => false
  | .yield till => decide (till ≤ s.cycle)
  | .claim => (c.loomsFor s (c.loomItems.map (c.claimKey s))).isSome
  | .loomFull => (c.loomsFor s (c.loomItems.map (c.claimKey s))).all fun ns => ns.head?.all fun n =>
      decide ((s.loomOf n).ops.length + (if (s.loomOf n).slave then 1 else 0) < Config.loomQueue)
  | .loomDrain accs => loomIdle s accs
  | .token => c.nextIs s fun i => decide ((match i with | .mmap _ _ => 2 | _ => 1) ≤ tokensFree s (s.launchOf c.lid).part)
  | .jobs => c.nextIs s (roomOver s c)
  | .millFull _ => c.nextIs s (roomOver s c)
  | .scratchPage accs => match c.crewIn s with
    | some k => accs.all fun a => (k.page (a.2 / Config.scratchPage)).state == .res
    | none => true
  | .trap => false
  | .quantum => false
  | .commit => !c.sec.committing && !c.sec.implicit.any fun u => u != c.uid || c.sec.restore.isSome
  | .flushed => mayFlush s c
  | .order => c.nextIs s (orderOver s c)
  | .foremanFull => c.nextIs s fun i => match i with
    | .cjoin _ a => match c.uniformOf (c.read s a []) with
      | none => true
      | some h => (spaceOf s c.lid h).all fun k =>
        !k.moving && (decide (k.capacity < crewCount s k.key + c.counts) || c.bench == k.bench || !c.isPattern
          || decide ((s.cuts.filter fun e => e.isPattern && e.place == .foreman k.bench).length < Config.foremanLimit))
    | _ => true
  | .tlbinv => c.nextIs s fun i => match i with
    | .tlbinv a b => match c.uniformOf (c.read s a []), c.uniformOf (c.read s b [a]) with
      | some x, some p => !tlbPending s x.toNat p
      | _, _ => true
    | _ => true

/-- Whether the next instruction of a cut reads what is not ready, though the cut waits for nothing yet (R32, R77). -/
def Cut.operandsReady (s : State) (c : Cut) : Bool :=
  c.nextIs s fun i => !(c.stalls (c.usesOf i) || c.reading)

/-- Whether a resident cut is eligible (R32): its wait is over, its operands are ready, no save waits for it, and its context is not
halted. -/
def Cut.eligible (s : State) (c : Cut) : Bool :=
  c.place.resident && !c.leaving && waitOver s c && !c.halted s && (c.wait != .none || c.operandsReady s)

/-! ## The blocking waits of a quantum (R38) -/

/-- Whether everything that a cut has outstanding is delivered by the quantum's commit. -/
def Cut.awaitsCommit (c : Cut) : Bool :=
  !c.outst.isEmpty && c.outst.all fun o => match o.what with
    | .later => true
    | .atomic _ _ => true
    | _ => false

/-- Whether a wait is one of R38's blocking waits: for a chute, a stream, a fence, a barrier, an event, a counter, a page, a
collective, a Loom claim, a seam or the value of an atomic; and the others that only a commit may end (DEDUCED, log 51). -/
def Cut.blocking (c : Cut) : Bool :=
  match c.wait with
  | .chutePush _ _ | .chutePop _ _ | .streamPop _ _ | .fence _ _ | .fenceSlot | .barrier _ _ _ | .event _ | .counter | .page _
  | .coll _ _ _ | .collLimit _ | .claim | .seam _ _ _ | .quantum | .jobs | .millFull _ | .order | .foremanFull | .tlbinv => true
  | .results | .trap => c.awaitsCommit
  | _ => false

/-! ## The reasons of a stall (R33) -/

/-- Whether a cut's next instruction depends on an outstanding result whose lookahead window is open: a violation of the window
(R81, R82). -/
def Cut.violates (s : State) (c : Cut) : Bool :=
  (c.instrAt s).any fun i => c.outst.any fun o => o.la != 0 && o.blocks (c.usesOf i) (modeGP c.ctx.mode)

/-- The code of R33 for which a cut that is not eligible waits. Codes 0 and 2 are never given here: a scheduler without a cut counts as idle
by itself, and a fetch takes no cycle of its own (DESIGN CHOICE, log 97). -/
def Cut.reason (s : State) (c : Cut) : Nat :=
  if c.halted s then 15
  else if c.leaving then 13
  else match c.wait with
    | .none | .results => if c.violates s then 9 else 1
    | .loomDrain _ => 1
    | .token => 3
    | .chutePush _ _ => 4
    | .chutePop _ _ | .streamPop _ _ => 5
    | .fence _ _ | .fenceSlot => 6
    | .barrier _ _ _ => 7
    | .seam _ _ _ => 8
    | .scratchPage _ => 10
    | .event _ | .counter | .page _ | .coll _ _ _ => 11
    | .trap => 12
    | .quantum => 14
    | _ => 15

end Sys2Proof.Machine
end

