-- ==== Sys2Proof/Machine/Preempt.lean ====
section
/-! DEFINITION. Slice ends and pre-emption (R36, R37, R351 to R355, R380): what a cluster chooses, saves, discards, the report,
resumption, and the forced reset of a context (R352). -/

namespace Sys2Proof.Machine

/-! ## What a save and a drain cost (R351) -/

/-- How many registers of the main, operand and last-result files pass a test. -/
def Cut.registers (c : Cut) (test : RegVal → Bool) : Nat :=
  let slot := fun (x : LSlot) => match x with | .val v => test v | .rsv _ _ => false
  (c.ctx.v.filter test).length + (c.ctx.o.filter test).length + ([c.ctx.l0, c.ctx.l1].filter slot).length

/-- The bytes that a cut's save takes. -/
def Cut.saveBytes (c : Cut) : Nat :=
  if c.isPattern then 512 + 20 * c.registers (fun v => v != uVal 0) else 256 + 256 * c.registers RegVal.isL

/-- The bytes of a saved Loom claim (R256). -/
def claimBytes : Nat := 4160

/-- Whether a cut belongs to one of some launches and has a place on a cluster's Benches. -/
def Cut.residesIn (lids : List Nat) (cluster : Nat) (c : Cut) : Bool := decide (c.lid ∈ lids) && residentOn c cluster

/-- The save cost of some launches on a cluster, in cycles. -/
def saveCost (s : State) (lids : List Nat) (cluster : Nat) : Nat :=
  let cuts := ((s.cuts.filter (Cut.residesIn lids cluster)).map Cut.saveBytes).foldl (· + ·) 0
  let claims := (s.looms.filter fun m => clusterOf (m.num / 4) == cluster && m.claim.any fun k => decide (k.1 ∈ lids)).length
  let dirty := (s.crews.filter fun k => clusterOf k.bench == cluster && decide (k.lid ∈ lids)).map fun k =>
    (k.pages.filter fun p => p.state == .res && p.dirty).length
  (cuts + claimBytes * claims) / 64 + 32 * dirty.foldl (· + ·) 0

/-- Whether a cut's wait makes the drain estimate infinite. -/
def Cut.undrainable (c : Cut) : Bool :=
  match c.wait with
  | .chutePush _ _ | .chutePop _ _ | .streamPop _ _ | .barrier _ _ _ | .event _ | .counter | .coll _ _ _ | .page _ => true
  | _ => false

/-- The drain estimate of some launches on a cluster: `none` is infinite. -/
def drainEstimate (s : State) (lids : List Nat) (cluster : Nat) : Option Nat :=
  (s.cuts.filter (Cut.residesIn lids cluster)).foldl (fun (a : Option Nat) c =>
    let lived := ((s.launchOf c.lid).lifetimes.filter (·.1 == cluster)).map (·.2)
    match a with
    | none => none
    | some n => if c.undrainable || lived.isEmpty then none
      else some (Nat.max n (lived.foldl (· + ·) 0 / lived.length - (s.cycle - c.born)))) (some 0)

/-- The pre-emption deadline of a partition, in cycles (R351, R374). -/
def deadlineOf (s : State) (part : Nat) : Nat := Nat.min (2 ^ 24) (Nat.max (2 ^ 13) (s.field (regPtime part) 16 25))

/-- The action that a cluster chooses: 1 drain, 2 save, 3 discard (R351). -/
def chooseAction (s : State) (part : Nat) (lids : List Nat) (cluster : Nat) : Nat :=
  let cuts := s.cuts.filter (Cut.residesIn lids cluster)
  let ts := saveCost s lids cluster
  if (drainEstimate s lids cluster).any fun td => decide (td ≤ Nat.min ts (deadlineOf s part / 2)) then 1
  else if !cuts.any (fun c => c.quantum s) && cuts.all (fun c => !c.effects)
      && decide ((cuts.map fun c => s.cycle - c.born).foldl (· + ·) 0 ≤ ts) then 3
  else 2

/-! ## Forced reset (R352) -/

/-- A collective of a context that is reset ends on this member with RESET (R295). -/
def State.resetOps (s : State) (asid : Nat) : State :=
  (s.comms.flatMap fun k => (k.ops.filter fun o => o.asid == asid && o.stage == 0 && o.word.isNone).map fun o => (k.cid, o)).foldl
    (fun s p => s.report p.1 p.2.id reasonRESET p.2.rank) s

/-- Drops the engine work of some launches: Carter jobs with their writes under way, queued Mill commands, and effects that await a
commit. -/
def State.dropEngines (s : State) (lids : List Nat) : State :=
  let gone := (s.jobs.filter fun j => decide (j.lid ∈ lids)).map (·.id)
  { s with
    jobs := s.jobs.filter fun j => !decide (j.lid ∈ lids)
    storeQ := s.storeQ.filter fun w => !w.job.any fun j => decide (j ∈ gone)
    scratchW := s.scratchW.filter fun w => !decide (w.job ∈ gone)
    qeff := s.qeff.filter fun q => !decide (q.lid ∈ lids)
    mills := s.mills.map fun (m : Mill) => { m with queue := m.queue.filter fun k => !decide (k.lid ∈ lids) }
    launches := s.launches.map fun (l : Launch) => if l.lid ∈ lids then { l with cmds := [] } else l }

/-- FORCED RESET of a context (R352): its cuts stop and their state is dropped, with its claims, attempts, jobs, spaces and crews;
collectives end with RESET; its launches complete with STATE 3 and REASON 1. -/
def State.forceReset (s : State) (asid : Nat) : State :=
  let lids := (s.launches.filter fun l => l.asid == asid && l.live).map (·.lid)
  let mine := fun (s : State) => s.cuts.filter fun c => decide (c.lid ∈ lids)
  let s : State := { s with assays := s.assays.map (Assay.forget (mine s)) }
  let s : State := (mine s).foldl (fun s c => s.endCut { c with late := [] }) s
  let s := s.dropLoomWork fun o => decide (o.lid ∈ lids)
  let s := s.resetOps asid
  let s := s.dropEngines lids
  let s := (s.crews.filter fun k => decide (k.lid ∈ lids)).foldl State.endCrew s
  let s : State := { s with
    launches := s.launches.map fun (l : Launch) =>
      if l.lid ∈ lids then { l with state := .running, endState := 3, endReason := 1 } else l
    preempts := s.preempts.map fun (p : Preempt) =>
      if p.asid = asid ∧ !p.finished then
        { p with forced := true, finished := true, took := s.cycle - p.since, affected := p.affected.map fun x => (x.1, x.2.1, 3) }
      else p }
  s.faultRecord asid ⟨4, 1, 0, 0, 0, 0, 0, 0⟩

/-- FORCED_CONTEXT_RESET (R352, R378). -/
def execForcedContextReset (asid : Nat) (s : State) : Host.Outcome State Fault Refusal := .next (s.forceReset asid)

/-- CONTEXT_RELOAD (R378, R390): the device reads the descriptor of a context again. -/
def execContextReload (asid : Nat) (s : State) : Host.Outcome State Fault Refusal :=
  .next (if (s.contextOf asid).isSome then
      { s.descriptorRead asid with contexts := s.contexts.map fun (x : Context) => if x.asid = asid then readContext s asid else x }
    else s)

/-! ## Saving (R36, R284, R353) -/

/-- The bytes that a context's saved cuts, claims and returned spaces take in its save area. -/
def savedBytes (s : State) (asid : Nat) : Nat :=
  let cuts := s.cuts.filter fun c => c.asid s == asid && c.isSaved
  let claims := s.savedClaims.filter fun x => (s.launchOf x.claim.1).asid == asid
  let spaces := s.crews.filter fun k => k.ret && k.moving && (s.launchOf k.lid).asid == asid
  (cuts.map Cut.saveBytes).foldl (· + ·) 0 + claimBytes * claims.length + Config.localStore * spaces.length

/-- Whether the saves of a context overrun its save area (R378). -/
def overruns (s : State) (asid : Nat) : Bool :=
  (s.contextOf asid).any fun x => decide (4096 * fld x.save 40 24 < savedBytes s asid)

/-- A Mill cut is saved at an instruction boundary; it keeps its Mill, and an open attempt is discarded without counting a replay
(R284). Without an attempt the save waits for every outstanding result (R83). -/
def State.saveMill (s : State) (c : Cut) : State :=
  let fam := familyOf s c
  let s : State := { s with assays := s.assays.map (Assay.forget fam) }
  let s := s.discard c (fun x => x.dropAttempt 6)
  let mine := fun (d : Cut) => d.parent == c.parent && d.lid == c.lid && d.onMill
  let ready := (s.cuts.filter mine).all fun d => d.outst.isEmpty
  { s with cuts := s.cuts.map fun (d : Cut) =>
      if !mine d then d else if ready then d.asSaved (homeBench s (c.millNum / 8)) s.cycle else { d with leaving := true } }

/-- Saves every resident cut of some launches that passes a test, each with those that move with it. -/
def State.saveWhere (s : State) (test : Cut → Bool) : State :=
  (s.cuts.filter test).foldl (fun s c =>
    match s.cutOf c.uid with
    | some d => if d.isSaved then s else if d.onMill then s.saveMill d else s.saveCut d
    | none => s) s

/-- A save that waited for the results of a cut is made once the last of them has arrived (R83). -/
def State.saveLeaving (s : State) (uid : Nat) : State :=
  match s.cutOf uid with
  | some c => if !c.leaving || !(togetherWith s c).all (·.outst.isEmpty) then s else if c.onMill then s.saveMill c else s.saveCut c
  | none => s

/-- RESULT_ARRIVAL (R77): a result arrives, and with the last of a cut's the save that waited for it is made (R83). -/
def execResultArrival (uid id : Nat) (s : State) : Host.Outcome State Fault Refusal := .next ((s.arrival uid id).saveLeaving uid)

/-- A queued cut of some launches is saved: it waits behind the others (R351, R380). -/
def Cut.isQueued (c : Cut) : Bool := match c.place with | .queue _ => true | _ => false

/-- Saves what a cluster holds of some launches, and resets the context where its save area is overrun (R36, R378). -/
def State.saveCluster (s : State) (asid : Nat) (lids : List Nat) (cluster : Nat) : State :=
  let t := s.saveWhere (Cut.residesIn lids cluster)
  if overruns t asid then s.forceReset asid else t

/-! ## Discarding (R37) -/

/-- The cut that takes the place of one that is discarded: over the same items at the kernel's entry point, as a pattern cut where they
form a box. -/
def Cut.requeued (s : State) (c : Cut) (items : List Item) (uid : Nat) : Cut :=
  let l := s.launchOf c.lid
  let b := boundingBox items
  if b.size = items.length then
    { Cut.atEntry s l uid .pattern b [] (.saved c.place.bench) with first := ilOf l b.lo }
  else { Cut.atEntry s l uid .lane b items (.saved c.place.bench) with first := ilOf l (items.getD 0 ⟨0, 0, 0⟩) }

/-- Discards a cut with its parts: their items are requeued, and what they held goes with them. -/
def State.discardCut (s : State) (c : Cut) : State :=
  match s.cutOf c.uid with
  | none => s
  | some c =>
    let fam := if c.isPattern then [c] else familyOf s c
    let items := sortBy (ilOf (s.launchOf c.lid)) (fam.flatMap Cut.activeItems)
    let k := c.requeued s items s.nextUid
    let uids := fam.map (·.uid)
    let s := s.dropClaims fun x => fam.any (Cut.holds s · x)
    let s : State := { s with cuts := s.cuts.filter (fun d => !decide (d.uid ∈ uids)) ++ [k], nextUid := s.nextUid + 1 }
    s.dropLoomWork fun o => decide (o.uid ∈ uids)

/-! ## Slice ends (R380) -/

/-- The length of a partition's slice, in cycles. -/
def sliceLength (s : State) (part : Nat) : Nat := Nat.max 1 (s.field (regPtime part) 0 16) * Config.cyclesPerUs

/-- Credits the accounts of a partition (R380 step 1). -/
def State.credit (s : State) (part : Nat) : State :=
  (List.range 16).foldl (fun (s : State) a =>
    let cfg := s.reg (regAcctcfg part a)
    let n : Int := (s.reg (regAcctbal part a)).toInt + (fld cfg 32 32 : Int)
    s.setReg (regAcctbal part a) (BitVec.ofInt 64 (min n (2 ^ 10 * fld cfg 0 32 : Nat)))) s

/-- The accounts of a partition that hold no positive balance. -/
def emptyAccounts (s : State) (part : Nat) : List Nat :=
  (List.range 16).filter fun a => decide ((s.reg (regAcctbal part a)).toInt ≤ 0)

/-- The live launches of a partition. -/
def partLaunches (s : State) (part : Nat) : List Launch := s.launches.filter fun l => l.part == part && l.live

/-- Whether some context's admitted cuts found no free slot for a whole slice: a cut that has waited since it began, or a launch
(R380 step 3). -/
def starving (s : State) (part began : Nat) (empty : List Nat) : Bool :=
  (partLaunches s part).any fun l => !decide (l.acct ∈ empty)
    && ((l.state == .admitted && decide (l.since ≤ began))
      || s.cuts.any fun c => c.lid == l.lid && (c.isQueued || c.isSaved) && decide (c.born ≤ began))

/-- The context that is pre-empted for those that starve: of positive balance, its oldest resident cut the oldest (R380 step 3). -/
def oldestContext (s : State) (part : Nat) (empty : List Nat) : Option Nat :=
  let cuts := s.cuts.filter fun c => c.place.resident && !c.onMill &&
    (let l := s.launchOf c.lid
     l.part == part && !decide (l.acct ∈ empty))
  ((sortBy (fun c => c.born * 8192 + c.asid s) cuts).head?).map (Cut.asid s)

/-- The launches that a slice end pre-empts (R380 steps 2 and 3). -/
def preempted (s : State) (part began : Nat) (empty : List Nat) : List Launch :=
  let v := if starving s part began empty then oldestContext s part empty else none
  (partLaunches s part).filter fun l => decide (l.acct ∈ empty) || v == some l.asid

/-- The pre-emption records of one context: one for each cluster with its resident cuts, and one that names every launch of it, with
its Mill cuts, on no cluster (R351). -/
def preemptRecords (s : State) (part asid : Nat) (ls : List Launch) : List Preempt :=
  let lids := ls.map (·.lid)
  let names := ls.map fun l => (l.lid, l.launchId, 0)
  let here := (List.range 16).filter fun k => s.cuts.any (Cut.residesIn lids k)
  let one := fun k =>
    let act := chooseAction s part lids k
    (⟨part, asid, k, act, s.cycle, if act = 2 then saveCost s lids k else 0, false, (s.cuts.filter (Cut.residesIn lids k)).length,
      false, names⟩ : Preempt)
  here.map one ++ [⟨part, asid, 16, 0, s.cycle, 0, false, 0, false, names⟩]

/-- A record takes its action: a drain only holds new cuts back; a save or discard takes its cuts, those in quantum mode at the
quantum's end (R38, R351). -/
def State.takeAction (s : State) (p : Preempt) : State :=
  let lids := (p.affected.map (·.1)).filter fun n => !(s.launchOf n).qm
  match p.action with
  | 2 => s.saveCluster p.asid lids p.cluster
  | 3 =>
    let s := (s.cuts.filter (Cut.residesIn lids p.cluster)).foldl (fun s c => s.discardCut c) s
    { s with preempts := s.preempts.map fun (q : Preempt) =>
        if q.asid = p.asid ∧ q.cluster = p.cluster ∧ q.part = p.part ∧ !q.finished then
          { q with affected := q.affected.map fun x => (x.1, x.2.1, 1) } else q }
  | _ => s

/-- Pre-empts the launches of one context (R351): its Mill cuts and queued cuts are saved at once. -/
def State.preemptContext (s : State) (part asid : Nat) (ls : List Launch) : State :=
  let lids := ls.map (·.lid)
  let ps := preemptRecords s part asid ls
  let s : State := { s with preempts := s.preempts ++ ps }
  let s := s.saveWhere fun c => decide (c.lid ∈ lids) && (c.onMill || (c.isQueued && !c.quantum s))
  let s := if overruns s asid then s.forceReset asid else s
  ps.foldl (fun s p => if s.preempts.any (fun q => q.asid == asid && q.part == part && q.forced) then s else s.takeAction p) s

/-- SLICE_END (R380): accounts are credited, exhausted launches and a context for those that starve are pre-empted. A slice ends once
the report of the one before is written, for partitions that are served (DEDUCED, log 52). -/
def execSliceEnd (part : Nat) (s : State) : Host.Outcome State Fault Refusal :=
  let x := s.sliceOf part
  .next (
    if !bit (s.reg (regPcfg part)) 63 ∨ x.reporting ∨ s.cycle < x.began + sliceLength s part then s
    else
      let s := s.credit part
      let empty := emptyAccounts s part
      let ls := preempted s part x.began empty
      let s := s.putSlice ⟨part, s.cycle, empty, true⟩
      (distinct (ls.map (·.asid))).foldl (fun s a => s.preemptContext part a (ls.filter (·.asid == a))) s)

/-! ## Deadlines and the end of actions (R352) -/

/-- Whether a record's action has ended: none of its cuts is resident, and a save has had its time. -/
def Preempt.ended (s : State) (p : Preempt) : Bool :=
  let lids := p.affected.map (·.1)
  (p.cluster == 16 || !s.cuts.any (Cut.residesIn lids p.cluster)) && (p.action != 2 || decide (p.since + p.took ≤ s.cycle))

/-- What a launch that a pre-emption affected has come to: complete, or as its cuts were left (R354, R355). -/
def outcomeOf (s : State) (x : Nat × W64 × Nat) : Nat :=
  if x.2.2 = 3 then 3 else if s.launches.any fun l => l.lid == x.1 && l.live then x.2.2 else 2

/-- Records whose actions have ended are finished; cuts that a drain left queued are saved (R351). -/
def State.finishActions (s : State) (part : Nat) : State :=
  let done := s.preempts.filter fun p => p.part == part && !p.finished && p.ended s
  let s : State := { s with preempts := s.preempts.map fun (p : Preempt) =>
    if p.part = part ∧ !p.finished ∧ p.ended s then
      { p with finished := true, took := if p.action = 1 then s.cycle - p.since else p.took } else p }
  done.foldl (fun s p => if p.action = 1 then
      s.saveWhere fun c => c.isQueued && p.affects c.lid && clusterOf c.place.bench == p.cluster
    else s) s

/-- DRAIN_DEADLINE (R352): half of PDL after the slice end, a drain saves its remaining cuts. -/
def execDrainDeadline (part : Nat) (s : State) : Host.Outcome State Fault Refusal :=
  .next ((s.preempts.filter fun p => p.part == part && p.action == 1 && !p.finished && !p.ended s
      && decide (p.since + deadlineOf s part / 2 ≤ s.cycle)).foldl (fun s p =>
    let took := s.cycle - p.since + saveCost s (p.affected.map (·.1)) p.cluster
    let q : Preempt := { p with action := 2, took := took }
    ({ s with preempts := s.preempts.map fun (r : Preempt) =>
        if r.asid = p.asid ∧ r.cluster = p.cluster ∧ r.part = p.part ∧ !r.finished then { r with action := 2, took := took } else r }
      : State).takeAction q) s)

/-- PREEMPTION_DEADLINE (R352): an action not ended by PDL becomes a forced reset of its context. -/
def execPreemptionDeadline (part : Nat) (s : State) : Host.Outcome State Fault Refusal :=
  .next ((distinct ((s.preempts.filter fun p => p.part == part && !p.finished && !p.ended s
      && decide (p.since + deadlineOf s part ≤ s.cycle)).map (·.asid))).foldl State.forceReset s)

/-! ## The report (R355) -/

/-- The record of a cluster: an action of one of its contexts, the longest time, and every cut affected (DEDUCED, log 53). -/
def clusterRecord (ps : List Preempt) (k : Nat) : List Nat :=
  let mine := ps.filter (·.cluster == k)
  let act := (mine.map (·.action)).foldl Nat.max 0
  let took := (mine.map (·.took)).foldl Nat.max 0
  [act * 2 ^ 62 + (if mine.any (·.forced) then 2 ^ 61 else 0) + k * 2 ^ 32 + took % 2 ^ 32, (mine.map (·.cuts)).foldl (· + ·) 0 % 2 ^ 32]

/-- The launches that a partition's pre-emptions affected, each once: what was saved anywhere counts as saved. -/
def affectedLaunches (s : State) (ps : List Preempt) : List (W64 × Nat) :=
  let all := ps.flatMap (·.affected)
  (distinct (all.map (·.1))).map fun n =>
    let xs := all.filter (·.1 == n)
    let o := if xs.any (fun x => outcomeOf s x == 3) then 3
      else if xs.any (fun x => outcomeOf s x == 2) then 2
      else if (ps.filter fun p => p.affects n && p.cluster != 16).all (·.action == 3) && (ps.any fun p => p.affects n && p.cluster != 16) then 1
      else 0
    (((xs.head?.map (·.2.1)).getD 0), o)

/-- PREEMPTION_REPORT (R355, R380): once every action of a slice end is over, the report is written to the partition's buffer. -/
def execPreemptionReport (part : Nat) (s : State) : Host.Outcome State Fault Refusal :=
  .next (
    let t := s.finishActions part
    let mine := t.preempts.filter (·.part == part)
    let x := t.sliceOf part
    if !x.reporting || mine.any (fun p => !p.finished) then t
    else
      let ls := affectedLaunches t mine
      let base := fld (t.reg (regPrpt part)) 12 28 * 2 ^ 12
      let clusters := (List.range 16).flatMap (clusterRecord mine)
      let launches := (ls.take Config.reportLaunches).flatMap fun p => [p.1.toNat, p.2 * 2 ^ 62]
      let t := t.devPut base ((clusters ++ launches).flatMap (bytesLE 8))
      let r := regRptstat part
      let t := ((t.setField r 32 32 (t.field r 32 32 + 1)).setField r 31 1 (if Config.reportLaunches < ls.length then 1 else 0)).setField r 0 8
        (Nat.min Config.reportLaunches ls.length)
      ({ t with preempts := t.preempts.filter (·.part != part) } : State).putSlice { x with reporting := false })

/-! ## Resumption (R36, R209, R256, R284) -/

/-- The Mill that a saved Mill cut keeps. -/
def keptMill (s : State) (c : Cut) : Option Nat :=
  if c.crew.isSome then none else (s.mills.find? fun m => m.run.any (·.1 == c.parent)).map (·.num)

/-- Whether a saved lane cut may take a slot of a quadrant: its partition's, with a free slot, a working Loom for its claims, none
waiting in the queue there, and in quantum mode the place that R39 names. -/
def mayResume (s : State) (c : Cut) (bench quad : Nat) : Bool :=
  let l := s.launchOf c.lid
  quadOwner s (4 * bench + quad) == some l.part && decide ((quadHolds s bench quad).length < Config.slotsPerQuad)
    && mayReside s l bench && mayReserve s l.part bench 1 c.parent && (nextQueued s bench quad).isNone
    && ((familyOf s c).all (fun d => !d.claims s) || loomWorks s (4 * bench + quad))
    && (!l.qm || ((quantumPlace s l c.first).1 == bench
      && quantumQuad s l { c with place := .queue bench } == quad && !lowerWaits s l c bench))

/-- Whether a saved pattern cut may take an entry of a Foreman. -/
def mayResumeForeman (s : State) (c : Cut) (bench : Nat) : Bool :=
  let l := s.launchOf c.lid
  decide (bench ∈ placement s l.part) && mayReside s l bench
    && decide ((s.cuts.filter fun d => d.isPattern && d.place == .foreman bench).length < Config.foremanLimit)

/-- A saved crew resumes on a Bench with room for it, space and members together (R209). -/
def State.resumeCrew (s : State) (k : Crew) (bench : Nat) : State :=
  let l := s.launchOf k.lid
  let members := s.cuts.filter (·.crew == some k.key)
  if !mayReside s l bench || !roomFor s k bench then s
  else match s.settleSpace k.key bench with
    | none => s
    | some t => members.foldl (fun (t : State) m =>
        match t.cutOf m.uid with
        | some d => if !d.isSaved then t
          else if d.isPattern then (t.moveCut d bench).1
          else (t.freshFor d.place.bench bench).placeFamily d (match freeQuad t l.part bench with | some q => .quad bench q | none => .queue bench)
        | none => t) t

/-- CUT_RESUME (R36, R353): a saved cut resumes: a Mill cut on its Mill, a crew with its members, any other cut alone. -/
def execCutResume (uid bench quad : Nat) (s : State) : Host.Outcome State Fault Refusal :=
  .next (match s.cutOf uid with
    | none => s
    | some c =>
      let l := s.launchOf c.lid
      if !c.isSaved then s
      else match keptMill s c, c.crew.bind s.crewOf with
        | some m, _ => if millMayRun s l && millOwner s m == some l.part then s.placeFamily c (.mill m) else s
        | none, some k => s.resumeCrew k bench
        | none, none =>
          let t := s.freshFor c.place.bench bench
          if c.isPattern then (if mayResumeForeman s c bench then t.putCut { c with place := .foreman bench, born := s.cycle } else s)
          else if mayResume s c bench quad then t.placeFamily c (.quad bench quad) else s)

end Sys2Proof.Machine
end

