-- ==== Sys2Proof/Machine/Quantum.lean ====
section
/-! DEFINITION. The end of a quantum (R38, R196, R216, R220, R229, R285, R302): when it comes, and what its commit makes visible in
ascending identifier order. -/

namespace Sys2Proof.Machine

/-! ## When a quantum ends -/

/-- Whether a cut no longer holds its quantum up: it has retired its quota, or a blocking wait holds it (R38). -/
def Cut.quantumOver (s : State) (l : Launch) (c : Cut) : Bool :=
  decide (l.quantum ≤ c.retired) || (c.blocking && !waitOver s c && !c.halted s)

/-- Whether a Loom's sequencer has work of a launch: an operation that has an operand to fetch or a stream entry to pop holds the quantum
in which it was issued (R254), and so do the others, which go on by themselves (DEDUCED, log 54); those of a claim that is saved too,
until it is taken up again (R256). -/
def loomBusy (s : State) (lid : Nat) : Bool :=
  s.looms.any (fun m => m.ops.any (·.lid == lid)) || s.savedClaims.any fun x => x.loom.ops.any (·.lid == lid)

/-- Whether loads of a launch are not yet bound: they read before the commit (R38). -/
def loadsUnbound (s : State) (lid : Nat) : Bool :=
  s.cuts.any fun c => c.lid == lid && !c.onMill && c.outst.any fun o => match o.what with
    | .load _ _ _ _ _ => true
    | _ => false

/-- Whether the quantum of a launch ends now (R38). -/
def quantumEnds (s : State) (l : Launch) : Bool :=
  l.qm && l.state == .running
    && s.cuts.all (fun c => c.lid != l.lid || !c.place.resident || c.onMill || c.quantumOver s l)
    && !loomBusy s l.lid && !loadsUnbound s l.lid

/-! ## Committing effects (R38 steps 1 to 3) -/

/-- A store or atomic of the quantum performs; one that a flushed attempt holds back waits for it in the store queue (R276). -/
def State.commitStore (s : State) (w : Store) : State :=
  let held := match w.loc with | .dev p => flushHolds s (sectorOf p) | _ => false
  if homeFails s w then s.failStore w
  else if held || s.storeQ.any (fun x => x.job.isNone && x.meets w) then { s with storeQ := s.storeQ ++ [w] }
  else s.perform w

/-- A push of the quantum is entered, or dropped as a late fault where this order places it after its chute's close or its crew's end,
`ended` (R220). One that came before its crew's end goes with the crew (R214). -/
def State.commitPush (s : State) (q : QEntry) (ended : Bool) (key n : Nat) (e : List W64) : State :=
  let late := s.holdLate q.lid q.cutid
      ⟨q.uid, q.seq, q.il, BitVec.ofNat 64 (causeCHC + causeLSF), 0, itemLanes s q.lid q.il, q.pc, 0⟩
  match s.crewOf key with
  | some k =>
    if (k.chute n).closed then late
    else s.putCrew { k with chutes := k.chutes.set n { k.chute n with entries := (k.chute n).entries ++ [e] } }
  | none => if ended then late else s

/-- The value that a commit delivers to an outstanding instruction. -/
def State.deliverLater (s : State) (id : Nat) (v : W64) : State :=
  { s with cuts := s.cuts.map fun (c : Cut) => { c with outst := c.outst.map fun (o : Outst) =>
      if o.id = id then { o with what := .value (uVal v) none } else o } }

/-- Commits one effect; `ended` are the crews whose end this order has passed. -/
def State.commitEffect (s : State) (q : QEntry) (ended : List Nat) : State :=
  match q.eff with
  | .store w => s.commitStore { w with held := false }
  | .push key n e => s.commitPush q (decide (key ∈ ended)) key n e
  | .close key n popEnd => match s.crewOf key with | some k => s.putCrew (k.close n popEnd) | none => s
  | .job op card coord crew => s.addJob (q.maker crew) op card coord
  | .msend card mill => s.sendMill (q.maker none) mill card
  | .coll card handle crew id =>
    let r := s.issueOp (q.maker crew) card handle
    r.1.deliverLater id r.2
  | .cabort id => s.cancelOp id
  | .launch e queue id =>
    let r := s.enqueue (s.launchOf q.lid) queue e
    r.2.deliverLater id r.1
  | .arrive key n items => match s.crewOf key with
    | some k => s.putCrew { k with barriers := k.barriers.set n ((k.barrier n).arrive [] items) }
    | none => s
  | .scratch key bs => s.spaceWrite key bs
  | .sfree key lo n => s.spaceFree key lo n
  | .pin key lo n up => s.commitPin key lo n up
  | .touch key ns => s.commitTouch key ns
  | .crewEnd _ => s

/-- Commits effects in their order. -/
def State.commitInOrder (s : State) (ended : List Nat) : List QEntry → State
  | [] => s
  | q :: qs => (s.commitEffect q ended).commitInOrder (match q.eff with | .crewEnd key => key :: ended | _ => ended) qs

/-- The place of something made by a cut in the commit order: its identifier, then the order of making. -/
def commitKey (cutid : W64) (n : Nat) : Nat := cutid.toNat * 2 ^ 128 + n

/-- Commits the effects of a launch. -/
def State.commitEffects (s : State) (lid : Nat) : State :=
  let mine := sortBy (fun q : QEntry => commitKey q.cutid q.seq) (s.qeff.filter (·.lid == lid))
  ({ s with qeff := s.qeff.filter (·.lid != lid) } : State).commitInOrder [] mine

/-! ## Engine jobs (R229, R302) -/

/-- The writes that an engine job has made perform; those that a flushed attempt holds back stay. -/
def State.releaseWrites (s : State) (id : Nat) : State :=
  let s : State := { s with storeQ := s.storeQ.map fun (w : Store) => if w.job = some id then { w with held := false } else w }
  let s : State := (s.storeQ.filter (·.job == some id)).foldl (fun s w =>
    if mayPerform s w then ({ s with storeQ := s.storeQ.filter (·.id != w.id) } : State).perform w else s) s
  (s.scratchW.filter (·.job == id)).foldl State.deliverScratch s

/-- The engine jobs of a launch that have finished in the quantum, by identifier and, within a cut, in issue order: Carter jobs that have
made their writes or failed, and collectives that have ended (R229, R302). -/
def finishedJobs (s : State) (lid : Nat) : List Nat :=
  let js := s.jobs.filter fun j => j.lid == lid
    && (j.status != 0 || (j.state != .issued && j.state != .waiting && j.state != .stalled))
  let os := (s.comms.flatMap (·.ops)).filter fun o => o.lid == lid && o.word.isSome
  (sortBy (·.1) (js.map (fun j => (commitKey j.cutid j.id, j.id)) ++ os.map fun o => (commitKey o.cutid o.id, o.id))).map (·.2)

/-- One engine job's writes perform, and its completion or ending is made. -/
def State.commitJob (s : State) (id : Nat) : State :=
  match s.jobs.find? (·.id == id) with
  | some _ =>
    let s := s.releaseWrites id
    match s.jobs.find? (·.id == id) with
    | some j => s.completeJob j
    | none => s
  | none =>
    let op := fun (s : State) => (s.commWith id).bind fun k => (k.op id).bind fun o => o.word.map fun w => (k.cid, o, w)
    match op s with
    | none => s
    | some (_, _, w) =>
      let s := if fld w 62 2 = 1 then s.releaseWrites id else s
      match op s with
      | some (cid, o, w) => s.landOp cid o w
      | none => s

/-- The completions of a launch's engine jobs (R229, R302): first the posts that have waited for an event queue since earlier ends, then
the jobs that have finished. -/
def State.commitJobs (s : State) (lid : Nat) : State :=
  let s := (s.crews.filter (·.lid == lid)).foldl (fun s k => k.postWait.foldl (fun s _ => s.postNext k.key) s) s
  (finishedJobs s lid).foldl State.commitJob s

/-! ## The quantum's end -/

/-- The phases that the quantum's arrivals and departures complete (R216). -/
def State.settlePhases (s : State) (lid : Nat) : State :=
  { s with crews := s.crews.map fun (k : Crew) =>
      let items := crewItems s k.key
      if k.lid = lid then k.settled s items else k }

/-- Every seam of a launch at which cuts wait ends (R38 step 4). -/
def State.endSeams (s : State) (lid : Nat) : State :=
  let pcs := distinct ((s.cuts.filter (·.lid == lid)).filterMap fun c => match c.wait with
    | .seam pc _ true => if c.place.resident then some pc else none
    | _ => none)
  pcs.foldl (fun s pc => if seamHalted s lid pc then s else s.seamEnd lid pc) s

/-- Every L1 of the placement is invalidated (R196). -/
def State.flashAll (s : State) (l : Launch) : State :=
  let bs := distinct (placement s l.part ++ (s.cuts.filter (·.lid == l.lid)).map Cut.bench)
  bs.foldl State.l1Flash s

/-- The next quantum begins: the counts of retired instructions start again. -/
def State.nextQuantum (s : State) (lid : Nat) : State :=
  { s with cuts := s.cuts.map fun (c : Cut) =>
      if c.lid = lid then { c with retired := 0, wait := if c.wait = .quantum then .none else c.wait } else c }

/-- Pre-emption that is pending is taken by a save; a drain goes on (R38 step 5). -/
def State.takePending (s : State) (lid : Nat) : State :=
  (s.preempts.filter fun p => p.affects lid && !p.finished && 2 ≤ p.action && p.cluster != 16).foldl (fun s p =>
    s.saveCluster p.asid [lid] p.cluster) s

/-- QUANTUM_END (R38). -/
def execQuantumEnd (lid : Nat) (s : State) : Host.Outcome State Fault Refusal :=
  let l := s.launchOf lid
  .next (
    if !quantumEnds s l then s
    else
      let s := s.commitEffects lid
      let s := s.commitJobs lid
      let s := s.settlePhases lid
      let s := s.quantumCommits lid
      let s := s.nextQuantum lid
      let s := s.endSeams lid
      let s := s.flashAll l
      s.takePending lid)

end Sys2Proof.Machine
end

