-- ==== Sys2Proof/Machine/Firmware.lean ====
section
/-! DEFINITION. What firmware does through the control window: communicator commands (R334, R335), page-request replay (R368), the
ownership table (R371 to R373), format windows (R13) and registers with a behaviour of their own (R211, R370, R374, R383, R386, R387). -/

namespace Sys2Proof.Machine

/-! ## Communicator commands (R334, R335) -/

/-- A member of a list: its fabric identifier and slot. -/
def memberOf (w : W64) : Nat := fld w 40 24

/-- The member list that CMEMB names. -/
def memberList (s : State) (size : Nat) : List W64 :=
  (List.range size).map fun i => BitVec.ofNat 64 (homeWord s (fld (s.reg regCmemb) 0 40 + 8 * i) 8)

/-- Whether the list, size or times of a command are invalid (R334): a list not in device memory, with a reserved bit, or whose entry
at RANK is not this device and slot (DEDUCED, log 56). -/
def listInvalid (s : State) (cid rank size : Nat) : Bool :=
  let ms := memberList s size
  let t := s.reg regCtime
  size == 0 || decide (4096 < size) || decide (size ≤ rank) || fld t 32 32 == 0 || fld t 0 32 == 0 || decide (10 ^ 6 < fld t 0 32)
    || !isDevice (fld (s.reg regCmemb) 0 40 + 8 * size - 1) || ms.any (fun m => fld m 0 40 != 0)
    || memberOf (ms.getD rank 0) != fld (s.reg regFabid) 0 16 * 2 ^ 8 + cid

/-- Whether the survivors of a re-form stand out of rank order, or behind members new to the slot (R288, R335). -/
def outOfOrder (old new : List W64) : Bool :=
  let olds := old.map memberOf
  let place := fun (m : W64) => olds.findIdx (· == memberOf m)
  let stay := new.takeWhile fun m => decide (memberOf m ∈ olds)
  let rest := new.drop stay.length
  rest.any (fun m => decide (memberOf m ∈ olds)) || ((stay.zip (stay.drop 1)).any fun p => decide (place p.2 ≤ place p.1))

/-- Whether the new owner is no context of a partition, or on re-form of another partition than the slot's (R334; DEDUCED, log 57). -/
def ownerWrong (s : State) (k : Comm) : Bool :=
  let p := asidPart s (s.field regCown 0 13)
  p.isNone || (k.live && p != asidPart s k.asid)

/-- The result of a command: CRES with DONE 0 and its code, and CCMD as it was written (R334). -/
def State.cmdResult (s : State) (v : W64) (code : Nat) : State :=
  (s.setReg regCcmd (v &&& bits 63 16)).setReg regCres (BitVec.ofNat 64 (code * 2 ^ 56))

/-- Whether a command is accepted: the last one has finished (R334). -/
def mayCommand (s : State) : Bool := bit (s.reg regCres) 63

/-- Installs a generation of a slot: list, times and owner, from sequence number 0 (R335). CHDL reads its handle. -/
def State.install (s : State) (k : Comm) (rank size : Nat) : State :=
  let gen := (k.gen + 1) % 2 ^ 16
  let t := s.reg regCtime
  (s.putComm { k with
    gen := gen, live := true, size := size, rank := rank, members := memberList s size, deadline := fld t 32 32, agw := fld t 0 32
    asid := s.field regCown 0 13, next := 0, broken := none, inbox := [], settling := [] }).setReg regChdl
      (BitVec.ofNat 64 (gen * 2 ^ 48 + size * 2 ^ 32 + rank * 2 ^ 16 + k.cid))

/-- Ends the operations of a slot's generation that are still pending with STALE (R335). -/
def State.endStale (s : State) (cid : Nat) : State :=
  ((s.commOf cid).ops.filter fun o => o.word.isNone).foldl (fun s o =>
    s.endOp cid o.id (statusWord 2 reasonSTALE false 0xFFFF o.seq)) s

/-- CREATE (R335): a write of CCMD with OP 1. -/
def execCreate (v : W64) (s : State) : Host.Outcome State Fault Refusal :=
  let k := s.commOf (fld v 48 8)
  .next (
    if !mayCommand s then s
    else if k.live then s.cmdResult v 1
    else if listInvalid s k.cid (fld v 32 16) (fld v 16 16) then s.cmdResult v 2
    else if ownerWrong s k then s.cmdResult v 4
    else (s.install k (fld v 32 16) (fld v 16 16)).cmdResult v 0)

/-- RE_FORM (R335): a write of CCMD with OP 2. -/
def execReForm (v : W64) (s : State) : Host.Outcome State Fault Refusal :=
  let k := s.commOf (fld v 48 8)
  .next (
    if !mayCommand s then s
    else if !k.live then s.cmdResult v 1
    else if listInvalid s k.cid (fld v 32 16) (fld v 16 16) then s.cmdResult v 2
    else if outOfOrder k.members (memberList s (fld v 16 16)) then s.cmdResult v 3
    else if ownerWrong s k then s.cmdResult v 4
    else
      let t := s.endStale k.cid
      (t.install (t.commOf k.cid) (fld v 32 16) (fld v 16 16)).cmdResult v 0)

/-- DESTROY (R335): a write of CCMD with OP 3. -/
def execDestroy (v : W64) (s : State) : Host.Outcome State Fault Refusal :=
  let k := s.commOf (fld v 48 8)
  .next (
    if !mayCommand s then s
    else if !k.live then s.cmdResult v 1
    else
      let t := s.endStale k.cid
      (t.putComm { t.commOf k.cid with live := false, inbox := [], settling := [] }).cmdResult v 0)

/-- COMMUNICATOR_COMMAND_DONE (R334): CRES.DONE reads 1, and a new command is accepted. -/
def execCommunicatorCommandDone (s : State) : Host.Outcome State Fault Refusal := .next (s.setField regCres 63 1 1)

/-! ## Page-request replay (R368) -/

/-- REPLAY_ALL: entries and DROPPED become 0, and RGEN advances; the waits and jobs that this frees test it themselves. -/
def execReplayAll (part : Nat) (s : State) : Host.Outcome State Fault Refusal :=
  let s := (List.range 8).foldl (fun (s : State) k => s.setReg (regPrent part k) 0) s
  let s := (s.setField (regPrstat part) 63 1 0).setField (regPrstat part) 0 4 0
  .next (s.setField (regPrstat part) 32 16 ((replayGen s part + 1) % 2 ^ 16))

/-! ## The ownership table (R371 to R373) -/

/-- The bytes of the table. -/
def tableSize : Nat := 1792

/-- OWNERSHIP_RELOAD (R371, R373): the device reads the table; a reload in the meantime is ignored. -/
def execOwnershipReload (s : State) : Host.Outcome State Fault Refusal :=
  .next (
    if !bit (s.reg regOwnstat) 63 then s
    else { s.setField regOwnstat 63 1 0 with
      ownNew := some (homeRead s (fld (s.reg regOwnbase) 12 28 * 2 ^ 12) tableSize) }.readAll
        (.dev (fld (s.reg regOwnbase) 12 28 * 2 ^ 12)) tableSize)

/-- The state that owns units as a table names them. -/
def State.owning (s : State) (table : List Byte) : State := { s with own := table }

/-- Whether a table keeps R372: each owned district's home Bench holds a quadrant of its owner, each Mill byte is its district's owner
or none, and the reserved bytes are 0xFF. -/
def tableOk (s : State) : Bool :=
  ((List.range 48).all fun d => match districtOwner s d with
      | some p => decide (homeBench s d < Config.benches) && ((List.range 4).any fun n => quadOwner s (4 * homeBench s d + n) == some p)
      | none => true)
    && ((List.range 384).all fun m => (millOwner s m).all fun p => districtOwner s (m / 8) == some p)
    && (s.own.drop 1632).all (· == 0xFF#8)

/-- What a Bench loses when its quadrants change owner: the cuts of each such quadrant, the claim of its Loom, and the crews and pattern
cuts of a partition that owned one. -/
def State.leaveQuad (s : State) (q : Nat) : State :=
  let old := quadOwner s q
  let b := q / 4
  let of := fun (s : State) (lid : Nat) => old.any fun p => (s.launchOf lid).part == p
  let s := if (s.loomOf q).claim.isSome then s.evictLoom q else s
  let s := s.saveWhere fun c => c.place == .quad b (q % 4)
  s.saveWhere fun c => of s c.lid && ((c.place == .foreman b) || (c.place.bench == b && c.place.resident && !c.onMill && c.crew.isSome))

/-- Saves the work of every unit whose owner changes (R373 step 2), and resets a context whose save area is overrun. -/
def State.leaveUnits (s : State) (new : State) : State :=
  let quads := (List.range (4 * Config.benches)).filter fun q => quadOwner s q != quadOwner new q
  let mills := (List.range 384).filter fun m => millOwner s m != millOwner new m
  let t := quads.foldl State.leaveQuad s
  let t := t.saveWhere fun c => c.onMill && decide (c.millNum ∈ mills)
  (distinct ((t.cuts.filter Cut.isSaved).map (Cut.asid t))).foldl (fun t a => if overruns t a then t.forceReset a else t) t

/-- OWNERSHIP_RELOAD_DONE (R373): the work on changed units is saved, which may wait for results (R83), and then the copy installed; a
table that breaks R372 changes nothing and WALKERR records it. -/
def execOwnershipReloadDone (s : State) : Host.Outcome State Fault Refusal :=
  .next (match s.ownNew with
    | none => s
    | some table =>
      let done := fun (s : State) => ({ s.setField regOwnstat 63 1 1 with ownNew := none } : State)
      if tableOk (s.owning table) then
        let t := s.leaveUnits (s.owning table)
        if t.cuts.any (·.leaving) then t else done (t.owning table)
      else done (s.setField regWalkerr 60 4 1))

/-! ## Format windows (R12, R13) -/

/-- A window whose conditions fail is off: FMT reads 0. -/
def State.checkWindow (s : State) (stack win : Nat) : State :=
  if (windowOf s stack win).valid stack then s else s.setField (regFwctl stack win) 0 4 0

/-- FWBASE_WRITE and FWCTL_WRITE (R13). -/
def execFwbaseWrite (stack win : Nat) (v : W64) (s : State) : Host.Outcome State Fault Refusal :=
  .next (if stack < Config.stackCount ∧ win < 16 then (s.setReg (regFwbase stack win) (v &&& bits 59 22)).checkWindow stack win else s)

def execFwctlWrite (stack win : Nat) (v : W64) (s : State) : Host.Outcome State Fault Refusal :=
  .next (if stack < Config.stackCount ∧ win < 16 then
      (s.setReg (regFwctl stack win) (v &&& (bits 63 20 ||| bits 3 0))).checkWindow stack win
    else s)

/-! ## Registers with a behaviour of their own -/

/-- PMAP_WRITE (R374): PMGEN advances, and BASE takes the value. -/
def execPmapWrite (part : Nat) (v : W64) (s : State) : Host.Outcome State Fault Refusal :=
  .next (if part < 40 then
      s.setReg (regPmap part) (BitVec.ofNat 64 ((s.field (regPmap part) 40 24 + 1) % 2 ^ 24 * 2 ^ 40) ||| (v &&& bits 39 6))
    else s)

/-- SDROP_WRITE (R211): COUNT is set to 0. -/
def execSdropWrite (bench : Nat) (_v : W64) (s : State) : Host.Outcome State Fault Refusal :=
  .next (if bench < Config.benches then s.setField (regSdrop bench) 0 24 0 else s)

/-- BRERR_WRITE and MEMERR_WRITE (R383): every count is set to 0, whatever is written. -/
def execBrerrWrite (bench : Nat) (_v : W64) (s : State) : Host.Outcome State Fault Refusal :=
  .next (if bench < Config.benches then s.setReg (regBrerr bench) 0 else s)

def execMemerrWrite (stack : Nat) (_v : W64) (s : State) : Host.Outcome State Fault Refusal :=
  .next (if stack < Config.stackCount then s.setReg (regMemerr stack) 0 else s)

/-- MEMADDR_WRITE (R383): writing 1 to VALID clears it. -/
def execMemaddrWrite (stack : Nat) (v : W64) (s : State) : Host.Outcome State Fault Refusal :=
  .next (if stack < Config.stackCount ∧ bit v 63 then s.setField (regMemaddr stack) 63 1 0 else s)

/-- LHEALTH_WRITE (R383): TRANS is set to 0. -/
def execLhealthWrite (loom : Nat) (_v : W64) (s : State) : Host.Outcome State Fault Refusal :=
  .next (if loom < 4 * Config.benches then s.setField (regLhealth loom) 48 16 0 else s)

/-- LKSTAT_WRITE (R383): DOWNS and RESENDS are set to 0. -/
def execLkstatWrite (link : Nat) (_v : W64) (s : State) : Host.Outcome State Fault Refusal :=
  .next (if link < Config.links then s.setReg (regLkstat link) (s.reg (regLkstat link) &&& bits 63 63) else s)

/-- PRSTAT_WRITE (R367): DROPCNT is set to 0. -/
def execPrstatWrite (part : Nat) (_v : W64) (s : State) : Host.Outcome State Fault Refusal :=
  .next (if part < 40 then s.setField (regPrstat part) 16 16 0 else s)

/-- WALKERR_WRITE (R370): REASON and COUNT are set to 0. -/
def execWalkerrWrite (_v : W64) (s : State) : Host.Outcome State Fault Refusal :=
  .next ((s.setField regWalkerr 60 4 0).setField regWalkerr 0 16 0)

/-- SMPHEAD_WRITE (R387): DROPPED is set to 0, and HEAD takes the value. -/
def execSmpheadWrite (v : W64) (s : State) : Host.Outcome State Fault Refusal := .next (s.setReg regSmphead (v &&& bits 31 0))

/-- ELIG_WRITE and STALL_WRITE (R386): the counter is set to 0. -/
def execEligWrite (bench sched bin : Nat) (_v : W64) (s : State) : Host.Outcome State Fault Refusal :=
  .next (if bench < Config.benches ∧ sched < 5 ∧ bin < 17 then s.setReg (regElig bench sched bin) 0 else s)

def execStallWrite (bench sched reason : Nat) (_v : W64) (s : State) : Host.Outcome State Fault Refusal :=
  .next (if bench < Config.benches ∧ sched < 5 ∧ reason < 16 then s.setReg (regStall bench sched reason) 0 else s)

/-- REGISTER_WRITE (R322): a write to a register with no behaviour of its own; the bits of its RW fields take the value (R3). A write of
CCMD whose OP is no command does nothing but stand there; it is ignored while a command runs, and a command is an event of its own
(R334). -/
def execRegisterWrite (off : Nat) (v : W64) (s : State) : Host.Outcome State Fault Refusal :=
  .next (
    if off = regCcmd then (if fld v 56 8 ∈ [1, 2, 3] ∨ !mayCommand s then s else s.setReg regCcmd (v &&& bits 63 16))
    else s.plainWrite off v)

end Sys2Proof.Machine
end

