-- ==== Sys2Proof/Machine/Host.lean ====
section
/-! DEFINITION. What the host and the world outside do to the device: host reads and writes (R322), device reset, links and UCIe
modules (R381, R383), and the checkpoint engine (R384, R385). -/

namespace Sys2Proof.Machine

/-! ## Host accesses (R322) -/

/-- A host write performs at its home; one that fails R124 or meets an absent page is dropped (DEDUCED, log 58). -/
def State.hostPut (s : State) (asid : Nat) (ptr : W64) (bs : List Byte) : State :=
  if bs.isEmpty || accessCause s ownUnit asid ptr bs.length 1 .write != 0 then s
  else match accessLocs s ownUnit asid ptr 1 bs.length with
    | none => s
    | some ls =>
      let t := s.xlatted ownUnit asid ptr
      let bytes := ((List.range bs.length).zip ls).map fun p => (⟨p.2, bs.getD p.1 0, 0, ptrAdd ptr p.1⟩ : StoredByte)
      (gather bytes).foldl (fun (t : State) w =>
        match w.loc, w.op with
        | .dev p, .bytes xs => t.devWrite p xs
        | .host p, .bytes xs => { t with host := scatter t.host p xs }
        | _, _ => t) t

/-- Whether a host write may not perform now: the checkpoint engine runs (R385), or a flushed attempt holds a sector of it back (R276). -/
def hostBlocked (s : State) (asid : Nat) (ptr : W64) (n : Nat) : Bool :=
  s.ckpt.isSome || (((accessLocs s ownUnit asid ptr 1 n).getD []).any fun l => match l with | .dev p => flushHolds s (sectorOf p) | _ => false)

/-- The host's events that write the control window. Its writes perform in the order in which they were made, to device memory and to
the window; the device's reset, its abort of a checkpoint and its reads wait for none of them (R322; DESIGN CHOICE, log 104: the host
has one thread that writes). -/
def byHost : Instr → Bool
  | .qtailWrite _ _ | .qstatWrite _ _ | .registerWrite _ _ | .create _ | .reForm _ | .destroy _ | .replayAll _
  | .ownershipReload | .checkpointSave | .checkpointRestore | .contextReload _ | .forcedContextReset _ | .halt _ | .resume _ | .retrain _ _
  | .fwbaseWrite _ _ _ | .fwctlWrite _ _ _ | .pmapWrite _ _ | .sdropWrite _ _ | .msumWrite _ _ | .mderrWrite _ _ _ | .brerrWrite _ _
  | .memerrWrite _ _ | .memaddrWrite _ _ | .lhealthWrite _ _ | .lkstatWrite _ _ | .prstatWrite _ _ | .walkerrWrite _ | .smpheadWrite _
  | .eligWrite _ _ _ _ | .stallWrite _ _ _ _ => true
  | _ => false

/-- Whether an event writes the control window behind a write that is held (R322). -/
def heldBehind (s : State) (i : Instr) : Bool := !s.heldHost.isEmpty && byHost i

/-- Holds a write of the host behind those that are held. -/
def State.holdHost (s : State) (w : HeldWrite) : State := { s with heldHost := s.heldHost ++ [w] }

/-- HOST_WRITE (R322): held while it may not perform, or behind another that is. -/
def execHostWrite (asid : Nat) (ptr : W64) (bytes : List Byte) (s : State) : Host.Outcome State Fault Refusal :=
  .next (if !s.heldHost.isEmpty || hostBlocked s asid ptr bytes.length then s.holdHost (.memory asid ptr bytes)
    else s.hostPut asid ptr bytes)

/-- The first held write of the host, where it may perform now: the state after a write to memory, or the event and the state in which
it happens. -/
def State.heldTurn (s : State) : Option (Option Instr × State) :=
  match s.heldHost with
  | [] => none
  | .memory asid ptr bytes :: rest =>
    if hostBlocked s asid ptr bytes.length then none else some (none, ({ s with heldHost := rest } : State).hostPut asid ptr bytes)
  | .event i :: rest => some (some i, { s with heldHost := rest })

/-- HOST_READ: the bytes that the host receives; zeros where the access fails or meets an error (DEDUCED, log 58). -/
def execHostRead (asid : Nat) (ptr : W64) (len : Nat) (s : State) : Host.Outcome State Fault Refusal :=
  let zeros := List.replicate len (0#8)
  let bs := if len = 0 ∨ accessCause s ownUnit asid ptr len 1 .read ≠ 0 then zeros
    else (readRange s ownUnit asid ptr len).getD zeros
  .next { s.rangeRead ownUnit asid ptr len with hostReads := s.hostReads ++ [bs] }

/-- DEVICE_RESET: the device is as after reset; what lies outside it stays: host memory, the flaws of its parts, the events to come and
what it has already sent (DESIGN CHOICE, log 59). -/
def execDeviceReset (s : State) : Host.Outcome State Fault Refusal :=
  .next { State.reset with
    agenda := s.agenda, host := s.host, flaws := s.flaws, evict := s.evict, irqs := s.irqs, hostReads := s.hostReads, fabric := s.fabric }

/-! ## Links and modules (R381, R383) -/

/-- The failed resends of the flit in hand on a link. -/
def resendsOf (s : State) (link : Nat) : Nat := ((s.resends.find? (·.1 == link)).map (·.2)).getD 0

/-- Sets the failed resends of a link. -/
def State.setResends (s : State) (link n : Nat) : State :=
  { s with resends := (s.resends.filter (·.1 != link)) ++ (if n = 0 then [] else [(link, n)]) }

/-- Whether a link carries flits. -/
def linkUp (s : State) (link : Nat) : Bool := decide (link < Config.links) && bit (s.reg (regLkstat link)) 63

/-- FLIT_RESEND (R381): a flit that failed its CRC is resent: delivered, it is counted; failing again, it counts towards the limit. -/
def execFlitResend (link : Nat) (delivered : Bool) (s : State) : Host.Outcome State Fault Refusal :=
  .next (if !linkUp s link then s
    else if delivered then (s.setResends link 0).countUp (regLkstat link) 0 32 1
    else s.setResends link (Nat.min Config.resendLimit (resendsOf s link + 1)))

/-- LINK_DOWN (R381, R383): after 16 failed resends of one flit the link goes down, and is counted. -/
def execLinkDown (link : Nat) (s : State) : Host.Outcome State Fault Refusal :=
  .next (if linkUp s link ∧ Config.resendLimit ≤ resendsOf s link then
      ((s.setResends link 0).setField (regLkstat link) 63 1 0).countUp (regLkstat link) 32 16 1
    else s)

/-- RETRAIN (R383): a write of RETRAIN trains the link; UP reads 1 when training succeeds. -/
def execRetrain (link : Nat) (success : Bool) (s : State) : Host.Outcome State Fault Refusal :=
  .next (if link < Config.links then (s.setResends link 0).setField (regLkstat link) 63 1 (if success then 1 else 0) else s)

/-- UCIE_MODULE_RETIREMENT (R381): a module is retired; the attach runs on the rest. -/
def execUcieModuleRetirement (module : Nat) (s : State) : Host.Outcome State Fault Refusal :=
  .next (if module < Config.ucieModules ∧ module ∉ s.retiredUcie then { s with retiredUcie := s.retiredUcie ++ [module] } else s)

/-! ## Checkpoints (R384, R385) -/

/-- The checkpoint engine's rate in GB/s: its share, or what the remaining modules carry. -/
def ckptRate (s : State) : Nat := Nat.min Config.ckptRate (Config.moduleRate * (Config.ucieModules - s.retiredUcie.length))

/-- MiB copied so far by an operation that began in a cycle: the engine's rate at the 940 MHz clock (R384). -/
def ckptProgress (s : State) (began : Nat) : Nat :=
  Nat.min Config.deviceMiB ((s.cycle - began) * ckptRate s * 1000 / 940 / 2 ^ 20)

/-- Whether a byte of device memory lies in what has been copied: the stacks are copied together. -/
def copied (mib p : Nat) : Bool := decide (p % 2 ^ 36 < mib * 2 ^ 20 / Config.stackCount)

/-- The bytes that device memory has. -/
def deviceBytes : Nat := Config.stackCount * 2 ^ 36

/-- Host physical addresses of the image and of the poison list (R384). -/
def imageBase (s : State) : Nat := fld (s.reg regCkptdst) 30 18 * 2 ^ 30
def listBase (s : State) : Nat := fld (s.reg regCkptpl) 15 33 * 2 ^ 15

/-- Why the engine refuses to start: 1 work outstanding, 2 a destination beyond host physical memory; 0 where it starts (R385). -/
def ckptRefusal (s : State) : Nat :=
  let busy := s.cuts.any (·.place.resident) || s.looms.any (fun m => m.claim.isSome) || !s.jobs.isEmpty
    || s.mills.any (fun m => !m.queue.isEmpty) || s.comms.any fun k => !k.ops.isEmpty
  if busy then 1
  else if 2 ^ 48 < imageBase s + deviceBytes ∨ 2 ^ 48 < listBase s + 8 * Config.poisonList then 2
  else 0

/-- The status register of the engine. -/
def State.ckptStat (s : State) (state code : Nat) (plovf : Bool) (npoison prog : Nat) : State :=
  s.setReg regCkptstat
    (BitVec.ofNat 64 (state * 2 ^ 62 + code * 2 ^ 56 + (if plovf then 2 ^ 55 else 0) + npoison * 2 ^ 32 + prog))

/-- Starts an operation of the engine, or refuses it; while one runs the write is ignored (R385; DEDUCED, log 60). -/
def State.ckptStart (s : State) (op : Nat) (go : State → State) : State :=
  if s.ckpt.isSome then s
  else if ckptRefusal s ≠ 0 then s.ckptStat 3 (ckptRefusal s) false 0 0
  else { (go s).ckptStat 1 0 false 0 0 with ckpt := some (op, s.cycle) }

/-- CHECKPOINT_SAVE (R385): scratch frames are written to backing and dirty sectors to DRAM, and the copy begins. -/
def execCheckpointSave (s : State) : Host.Outcome State Fault Refusal :=
  .next (s.ckptStart 1 fun s =>
    let t := (s.crews.map (·.key)).foldl State.scrInvalidate s
    { t with stale := [] })

/-- CHECKPOINT_RESTORE (R385). -/
def execCheckpointRestore (s : State) : Host.Outcome State Fault Refusal := .next (s.ckptStart 3 id)

/-- The poisoned sectors, by address. -/
def poisoned (s : State) : List Nat := sortBy id (distinct s.poison)

/-- A save reads device memory, and finds its flaws as far as it has come (R381, R383). -/
def State.findFlaws (s : State) (mib : Nat) : State :=
  ((s.flaws.map fun f => 128 * f.sector).filter (copied mib)).foldl State.readFlaw s

/-- Copies device memory to its image, as far as the copy has come: poisoned sectors as zeros, their addresses listed; entries of the
list beyond them read zero. -/
def State.copyOut (s : State) (mib : Nat) : State :=
  let base := imageBase s
  let bad := (poisoned s).filter fun n => copied mib (128 * n)
  let rest := s.host.filter fun c => !(decide (base ≤ c.1 ∧ c.1 < base + deviceBytes) && copied mib (c.1 - base))
  let host := s.mem.foldl (fun h c => if copied mib c.1 && !decide (sectorOf c.1 ∈ bad) then cellPut (base + c.1) c.2 h else h) rest
  let list := (bad.take Config.poisonList) ++ List.replicate (Config.poisonList - bad.length) 0
  { s with host := cellsPut host (listBase s) (list.flatMap fun n => bytesLE 8 (128 * n)) }

/-- The sectors that a poison list names. -/
def listed (s : State) : List Nat :=
  let ws := (List.range Config.poisonList).map fun i => natLE (hostRead s (listBase s + 8 * i) 8)
  distinct ((ws.filter (· != 0)).map (· / 128))

/-- Copies an image back, as far as the copy has come: the listed sectors are poisoned again (R385). -/
def State.copyIn (s : State) (mib : Nat) : State :=
  let base := imageBase s
  let rest := s.mem.filter fun c => !copied mib c.1
  let mem := s.host.foldl (fun m c =>
    if base ≤ c.1 ∧ c.1 < base + deviceBytes ∧ copied mib (c.1 - base) then cellPut (c.1 - base) c.2 m else m) rest
  { s with
    mem := mem
    stale := s.stale.filter fun d => !copied mib (128 * d.1)
    poison := s.poison.filter (fun n => !copied mib (128 * n)) ++ (listed s).filter fun n => copied mib (128 * n) }

/-- The copy has ended: the host's writes are held no longer (R385). -/
def State.copyEnded (s : State) : State := { s with ckpt := none }

/-- What the caches keep after a restore: nothing (R385). -/
def State.dropCaches (s : State) : State := { s with views := [], l1 := [], wbuf := [], tlb := [] }

/-- CHECKPOINT_DONE (R384, R385): the copy has ended. -/
def execCheckpointDone (s : State) : Host.Outcome State Fault Refusal :=
  .next (match s.ckpt with
    | none => s
    | some (op, _) =>
      let s := if op = 1 then s.findFlaws Config.deviceMiB else s
      let n := (poisoned s).length
      if op = 1 then
        ((s.copyOut Config.deviceMiB).ckptStat 2 0 (decide (Config.poisonList < n)) (Nat.min Config.poisonList n) Config.deviceMiB).copyEnded
      else ((s.copyIn Config.deviceMiB).dropCaches.ckptStat 2 0 false (listed s).length Config.deviceMiB).copyEnded)

/-- CHECKPOINT_ABORT (R385): the copy stops where it has come to. -/
def execCheckpointAbort (s : State) : Host.Outcome State Fault Refusal :=
  .next (match s.ckpt with
    | none => s
    | some (op, began) =>
      let mib := ckptProgress s began
      let t := if op = 1 then (s.findFlaws mib).copyOut mib else (s.copyIn mib).dropCaches
      (t.ckptStat 3 3 false 0 mib).copyEnded)

end Sys2Proof.Machine
end

