-- ==== Sys2Proof/Machine/Halting.lean ====
section
/-! DEFINITION. Halting a context by firmware, the spread of a trigger, dumps and resumption (R391 to R394). -/

namespace Sys2Proof.Machine

/-! ## Halting and resuming (R391, R392) -/

/-- HALT (R391): a write of HALT halts the context that the slot holds, with CAUSE 4, at every unit from Bench 0 on. -/
def execHalt (slot : Nat) (s : State) : Host.Outcome State Fault Refusal :=
  .next (if slot < 4 ∧ bit (s.reg (regDbgctl slot)) 63 ∧ (s.halts.find? (·.slot == slot)).isNone
      ∧ debugSlot s (s.field (regDbgctl slot) 0 13) = some slot then
      let s := s.setReg (regDbgstat slot) (haltStat 4 0 0)
      { s with halts := s.halts ++ [⟨slot, s.field (regDbgctl slot) 0 13, s.cycle, []⟩] }
    else s)

/-- RESUME (R391, R393): the stopped cuts are eligible again, and the slot's status is as before the trigger, with SKEW cleared. -/
def execResume (slot : Nat) (s : State) : Host.Outcome State Fault Refusal :=
  .next (if s.halts.any (·.slot == slot) then
      { s.setReg (regDbgstat slot) 0 with halts := s.halts.filter (·.slot != slot) }
    else s)

/-! ## The spread of a trigger (R393) -/

/-- The die of a unit: a Bench's, or that of a Mill's stack. -/
def dieOfUnit (unit : Nat) : Nat :=
  if unit < Config.benches then dieOfBench unit else dieOfStack ((unit - Config.benches) / 32)

/-- The units that have work of a halting context and have not stopped. -/
def unstopped (s : State) (h : HaltState) : List Nat :=
  distinct ((s.cuts.filter fun c => c.place.resident && c.asid s == h.asid && !decide (c.unitNo ∈ h.stopped)).map Cut.unitNo)

/-- DEBUG_STOP (R393): the trigger reaches a unit, where the context's cuts stop at instruction boundaries; SKEW counts from the
trigger. -/
def execDebugStop (slot bench : Nat) (s : State) : Host.Outcome State Fault Refusal :=
  .next (match s.halts.find? (·.slot == slot) with
    | none => s
    | some h =>
      if bench ∈ h.stopped ∨ haltedWhole s slot then s
      else (s.stopUnit slot bench).setField (regDbgstat slot) 0 32 (Nat.min 0xFFFFFFFE (s.cycle - h.since)))

/-! ## Dumps (R394) -/

/-- A register entry: its tag, and its value by its form. -/
def dumpReg (spec : Opnd) (v : RegVal) : List Byte :=
  let tag := fun (form : Nat) => bytesLE 8 (spec.toNat + form * 2 ^ 8)
  match v with
  | .lanes vs => tag 2 ++ (List.range 32).flatMap fun i => bytesLE 8 (vs.getD i 0).toNat
  | .pat b sx sy sz =>
    if v.isU then tag 0 ++ bytesLE 8 b.toNat
    else tag 1 ++ bytesLE 8 b.toNat ++ bytesLE 8 (sx.toNat + sy.toNat * 2 ^ 32) ++ bytesLE 8 sz.toNat

/-- The registers of a dump: those of the three files that do not hold U zero, `v` by 0x00 to 0x3F, `o` from 0x40, `l0` and `l1`
by 0x48 and 0x49; a reserved slot has no value yet (DEDUCED, log 61). -/
def Cut.dumpRegs (c : Cut) : List (Opnd × RegVal) :=
  let file := fun (base : Nat) (vs : List RegVal) => ((List.range vs.length).zip vs).map fun p => (BitVec.ofNat 7 (base + p.1), p.2)
  let slot := fun (n : Nat) (x : LSlot) => match x with | .val v => [(BitVec.ofNat 7 n, v)] | .rsv _ _ => []
  (file 0 c.ctx.v ++ file 0x40 c.ctx.o ++ slot 0x48 c.ctx.l0 ++ slot 0x49 c.ctx.l1).filter fun p => p.2 != uVal 0

/-- The registers that an outstanding instruction will write. -/
def Outst.pendingRegs (c : Cut) (o : Outst) : List Opnd :=
  let awaits := fun (x : LSlot) => match x with | .rsv id _ => id == o.id | .val _ => false
  (o.dsts.filter fun r => decide (r.toNat < 0x48)) ++ (if awaits c.ctx.l0 then [0x48#7] else [])
    ++ (if awaits c.ctx.l1 then [0x49#7] else [])

/-- A register's value once every result has arrived. -/
def Cut.arrived_ (c : Cut) (r : Opnd) : RegVal :=
  if r = 0x48#7 then (match c.ctx.l0 with | .val v => v | .rsv _ _ => uVal 0)
  else if r = 0x49#7 then (match c.ctx.l1 with | .val v => v | .rsv _ _ => uVal 0)
  else if r.toNat < 0x40 then c.ctx.v.getD r.toNat (uVal 0)
  else c.ctx.o.getD (r.toNat - 0x40) (uVal 0)

/-- The dump record of a cut as it stopped, and as it is once its results have arrived (R394). -/
def dumpCut (s : State) (c k : Cut) : List Byte :=
  let regs := c.dumpRegs
  let pend := (sortBy (·.seq) c.outst).flatMap fun o => (o.pendingRegs c).map fun r => (r, o.pc)
  let header := [c.cutid.toNat, c.ctx.pc.toNat, (s.launchOf c.lid).launchId.toNat, c.ctx.loops.length, c.ctx.mode.toNat,
    (Config.dumpPreds c.uid s.cycle).toNat, pend.length, regs.length]
  header.flatMap (bytesLE 8) ++ regs.flatMap (fun p => dumpReg p.1 p.2)
    ++ pend.flatMap fun p => dumpReg p.1 (k.arrived_ p.1) ++ bytesLE 8 p.2.toNat

/-- The resident cuts of a context, in ascending CUTID order. -/
def stoppedCuts (s : State) (asid : Nat) : List Cut :=
  sortBy (·.cutid.toNat) (s.cuts.filter fun c => c.place.resident && c.asid s == asid)

/-- The results of a cut arrive, in program order, as far as they may. -/
def State.arriveAll (s : State) (uid : Nat) : State :=
  (sortBy (·.seq) (((s.cutOf uid).map (·.outst)).getD [])).foldl (fun s o =>
    match s.cutOf uid with
    | none => s
    | some c =>
      let s := s.settleFences c
      match s.cutOf uid with
      | none => s
      | some c => match c.outst.find? (·.id == o.id) with
        | some p => s.arrive c p
        | none => s) s

/-- Whether every unit of a halting context has stopped. -/
def allStopped (s : State) (h : HaltState) : Bool := (unstopped s h).isEmpty

/-- DUMP (R394): once every unit has stopped and the results have arrived, a record of each stopped cut is written and STATE is 2; a
buffer too small leaves it at 1 with SKEW all ones. -/
def execDump (slot : Nat) (s : State) : Host.Outcome State Fault Refusal :=
  .next (match s.halts.find? (·.slot == slot) with
    | none => s
    | some h =>
      if haltedWhole s slot || !allStopped s h then s
      else
        let cuts := stoppedCuts s h.asid
        let t := cuts.foldl (fun t c => t.arriveAll c.uid) s
        if cuts.any fun c => (t.cutOf c.uid).any fun k => !k.outst.isEmpty then s
        else
          let bytes := cuts.flatMap fun c => dumpCut s c ((t.cutOf c.uid).getD c)
          let w := s.reg (regDump slot)
          if 4096 * fld w 40 24 < bytes.length then t.setField (regDbgstat slot) 0 32 0xFFFFFFFF
          else (t.devPut (fld w 6 34 * 64) bytes).setField (regDbgstat slot) 62 2 2)

end Sys2Proof.Machine
end

