-- ==== Sys2Proof/Machine/Profile.lean ====
section
/-! DEFINITION. A cycle of the schedulers (R31 to R33), the budgets it charges (R379), profiling leases (R389, R390) and sampling
(R387, R388). -/

namespace Sys2Proof.Machine

/-! ## Schedulers (R31, R386) -/

/-- The scheduler of a resident cut of a Bench: 0 to 3 the quadrants, 4 the Foreman. -/
def Cut.sched (c : Cut) : Option (Nat × Nat) :=
  match c.place with
  | .foreman b => some (b, 4)
  | .quad b q => some (b, q)
  | _ => none

/-- The cuts resident on a scheduler. -/
def onSched (s : State) (k : Nat × Nat) : List Cut := s.cuts.filter fun c => c.sched == some k

/-- The schedulers that hold a resident cut, in ascending order. -/
def schedulers (s : State) : List (Nat × Nat) :=
  sortBy (fun k : Nat × Nat => 8 * k.1 + k.2) (distinct (s.cuts.filterMap Cut.sched))

/-- The cycles since a cut last issued (R31). -/
def Cut.waited (s : State) (c : Cut) : Nat := s.cycle - c.age

/-- The class that a cut issues at: strays are always class 3 (R31). -/
def Cut.issueClass (c : Cut) : Nat := if c.kind = .stray then 3 else c.cls

/-- The order of a choice as one number: by class where classes count, the oldest first, then the lower identifier. -/
def Cut.turn (classes : Bool) (c : Cut) : Nat :=
  (((if classes then c.issueClass else 0) * 2 ^ 64 + c.age) * 2 ^ 64 + c.cutid.toNat) * 2 ^ 64 + c.uid

/-- The stage of a declared pipeline that a lane cut runs by its role (R30, R325). -/
def Cut.stage (s : State) (c : Cut) : Option Stage :=
  if c.isPattern || c.mill then none else (s.launchOf c.lid).stages.find? (·.role == c.role)

/-- The entries of a chute as a cut reaches it: of its own crew, or of the crew to which it has bound a push end of the chute. -/
def Cut.fill (s : State) (c : Cut) (n : Nat) : Nat :=
  let far := c.binds.findSome? fun b => match b with | some (.push key m) => if m = n then some key else none | _ => none
  (((far.or c.crew).bind s.crewOf).map fun k => (k.chute n).entries.length).getD 0

/-- The order of a pipeline's cuts of one class: the fullest input chute first, then the emptiest output chute, then the lower
identifier (R232). -/
def Cut.pipeTurn (s : State) (c : Cut) (g : Stage) : Nat :=
  (((2 ^ 16 - c.fill s g.inp) * 2 ^ 16 + c.fill s g.out) * 2 ^ 64 + c.cutid.toNat) * 2 ^ 64 + c.uid

/-- The choice of a scheduler among its eligible cuts: by age among those that have waited 512 cycles, else by class and age; where that
falls on a cut of a declared pipeline, the pipeline's cuts of the class are ordered among themselves (R31, R232). -/
def choose (s : State) (cs : List Cut) : Option Cut :=
  let aged := cs.filter fun c => decide (Config.agingLimit ≤ c.waited s)
  if !aged.isEmpty then (sortBy (Cut.turn false) aged).head?
  else (sortBy (Cut.turn true) cs).head?.map fun c =>
    if (c.stage s).isNone then c
    else
      let line := cs.filter fun d => d.lid == c.lid && d.issueClass == c.issueClass && (d.stage s).isSome
      ((sortBy (fun d : Cut => ((d.stage s).map (d.pipeTurn s)).getD 0) line).head?).getD c

/-- The oldest cut of a scheduler, to which a stall is charged (R33). -/
def oldest (cs : List Cut) : Option Cut := (sortBy (Cut.turn false) cs).head?

/-- The cuts that issue in this cycle: one of each scheduler, and of each Mill that refresh does not freeze (R262, R267). -/
def picks (s : State) : List Nat :=
  (schedulers s).filterMap (fun k => (choose s ((onSched s k).filter (Cut.eligible s))).map (·.uid))
    ++ (s.mills.filter fun m => !m.frozen).filterMap fun m =>
      (choose s (s.cuts.filter fun c => c.place == .mill m.num && c.eligible s)).map (·.uid)

/-! ## Histograms and stalls (R33, R386) -/

/-- Adds one to a 64-bit counter, which saturates. -/
def State.count64 (s : State) (off : Nat) : State :=
  if s.reg off = BitVec.allOnes 64 then s else s.setReg off (s.reg off + 1)

/-- Counts a cycle of one scheduler in a state whose cycle has advanced: `before` is the state before it. The counters of an idle
scheduler advance with the cycle, and are set back where the cycle counts elsewhere. -/
def State.countCycle (before s : State) (k : Nat × Nat) : State :=
  let cs := onSched before k
  let n := (cs.filter (Cut.eligible before)).length
  let keep := fun (s : State) (off : Nat) => s.setReg off (before.reg off)
  let idle := regElig k.1 k.2 0
  let nothing := regStall k.1 k.2 0
  if n ≠ 0 then (keep (keep s idle) nothing).count64 (regElig k.1 k.2 (Nat.min 16 n))
  else match oldest cs with
    | none => s
    | some c => (keep s nothing).count64 (regStall k.1 k.2 (c.reason before))

/-! ## Budgets (R379) -/

/-- The Benches on which a launch holds a resident cut, a Foreman sub-box or a Loom claim. -/
def benchesHeld (s : State) (lid : Nat) : List Nat :=
  distinct ((s.cuts.filter fun c => c.lid == lid && c.sched.isSome).map (fun c => c.place.bench)
    ++ (s.looms.filter fun m => m.claim.any (·.1 == lid)).map (fun m => m.num / 4))

/-- Whether one of a launch's Mill cuts runs: on a Mill that refresh does not freeze. -/
def millRuns (s : State) (lid : Nat) : Bool :=
  s.cuts.any fun c => c.lid == lid && c.onMill && !(s.millOf c.millNum).frozen && !c.halted s

/-- What a launch is charged in a cycle. -/
def chargeOf (s : State) (lid : Nat) : Nat := (benchesHeld s lid).length + (if millRuns s lid then 1 else 0)

/-- Charges the launches for a cycle (R379). -/
def State.charge (s : State) : State :=
  s.launches.foldl (fun (s : State) (l : Launch) =>
    let n := chargeOf s l.lid
    if n = 0 then s
    else
      let t := s.putLaunch { l with charged := l.charged + n }
      t.setReg (regAcctbal l.part l.acct) (t.reg (regAcctbal l.part l.acct) - BitVec.ofNat 64 n)) s

/-! ## Leases (R389, R390) -/

/-- Where a cut's lease is open: at its Mill, a saved cut's that keeps one included, or at its Bench. -/
def Cut.leaseAt (s : State) (c : Cut) : Bool × Nat :=
  match c.place with
  | .mill m => (true, m)
  | .saved b => match keptMill s c with | some m => (true, m) | none => (false, b)
  | p => (false, p.bench)

/-- The leases of a place. -/
def leasesAt (s : State) (p : Bool × Nat) : List Lease := s.leases.filter fun l => l.atMill == p.1 && l.place == p.2

/-- Whether a context is alone in a cluster (R390). -/
def aloneIn (s : State) (asid cluster : Nat) : Bool := s.cuts.all fun c => !residentOn c cluster || c.asid s == asid

/-- The event groups available to a context at a place (R390), as a mask. -/
def groupsAt (s : State) (asid : Nat) (p : Bool × Nat) : Nat :=
  if p.1 then 2 ^ 6
  else
    (if decide (((leasesAt s p).filter fun l => l.asid != asid && decide (l.eff % 64 ≠ 0)).length < Config.leasesPerBench) then 63 else 0)
      + (if exclusive s asid && aloneIn s asid (clusterOf p.2) then 2 ^ 7 else 0)

/-- The lease of a context at a place. -/
def leaseOf (s : State) (asid : Nat) (p : Bool × Nat) : Option Lease := (leasesAt s p).find? (·.asid == asid)

/-- Opens the lease of a context at a place with a set of groups, its counts at 0; an open one there is replaced. -/
def State.openLease (s : State) (asid : Nat) (p : Bool × Nat) (eff : Nat) : State :=
  { s with leases := (s.leases.filter fun l => !(l.asid == asid && l.atMill == p.1 && l.place == p.2)) ++ [⟨asid, p.1, p.2, eff, []⟩] }

/-- Opens the lease of each context at the places where it has a first resident cut, and closes those at which it has none. -/
def State.settleLeases (s : State) : State :=
  let t := (s.cuts.filter fun c => c.place.resident).foldl (fun (s : State) (c : Cut) =>
    let p := c.leaseAt s
    let a := c.asid s
    if (leaseOf s a p).isSome then s
    else s.openLease a p ((((s.contextOf a).map (·.leaseE)).getD 0) &&& groupsAt s a p)) s
  { t with leases := t.leases.filter fun l => t.cuts.any fun c => c.asid t == l.asid && c.leaseAt t == (l.atMill, l.place) }

/-- A cut's context moves its lease from one place to another: what remains at the old place reads nothing more, and the new one
opens with what is left of the set (R390). -/
def State.moveLease (s : State) (asid : Nat) (old new : Bool × Nat) : State :=
  match leaseOf s asid old with
  | none => s
  | some l => (s.openLease asid old 0).openLease asid new (l.eff &&& groupsAt s asid new)

/-- Moves the leases of the cuts that have changed their place since `before`. -/
def State.followCuts (before s : State) : State :=
  s.cuts.foldl (fun (s : State) (c : Cut) =>
    match before.cutOf c.uid with
    | some b => if b.leaseAt before = c.leaseAt s then s else s.moveLease (c.asid s) (b.leaseAt before) (c.leaseAt s)
    | none => s) s

/-- Adds events to a counter of a context's lease at a place. -/
def State.countEvent (s : State) (asid : Nat) (p : Bool × Nat) (n k : Nat) : State :=
  if k = 0 then s
  else { s with leases := s.leases.map fun (l : Lease) =>
    if l.asid = asid ∧ (l.atMill, l.place) = p then
      let old := ((l.counts.find? (·.1 == n)).map (·.2)).getD 0
      { l with counts := insertBy (·.1) (n, old + k) (l.counts.filter (·.1 != n)) }
    else l }

/-- The counter of an instruction's own kind (R389). -/
def kindCounter : Instr → Option Nat
  | .ld _ _ _ _ | .ldb _ _ _ _ | .lda _ _ _ _ | .ldt _ _ _ _ | .ldm _ _ _ _ => some 16
  | .st _ _ _ | .stl _ _ _ | .stm _ _ _ => some 17
  | .atom _ _ _ _ | .ared _ _ | .cadd _ _ => some 18
  | .lds _ _ _ _ => some 24
  | .sts _ _ _ => some 25
  | .mdrn _ _ _ => some 39
  | .coll _ _ _ _ => some 46
  | .msend _ _ _ => some 48
  | _ => none

/-- The counters that a retired instruction of a cut adds to. -/
def retiredCounters (c : Cut) (i : Instr) : List Nat :=
  [1, match c.kind with | .pattern => 2 | .lane => 3 | _ => 4] ++ (kindCounter i).toList

/-- Counts an instruction that a cut has executed: it retired where the cut counts one more, or is gone with its items. -/
def State.countInstr (before s : State) (c : Cut) (i : Instr) : State :=
  let retired := match s.cutOf c.uid with
    | some k => decide (c.retired < k.retired)
    | none => !s.cuts.any fun k => decide (c.uid ∈ k.anc) && k.ctx.pc == c.ctx.pc
  let unpinned := match i, s.cutOf c.uid with
    | .spin d _ _, some k => if d != 0x4A#7 && k.ctx.l0 == .val (uVal 0) then [30] else []
    | _, _ => []
  if retired then (retiredCounters c i ++ unpinned).foldl (fun s n => s.countEvent (c.asid before) (c.leaseAt before) n 1) s else s

/-- Whether an event has committed the section of a Mill cut: it is over without a return trap, or its committing `EXIT` has ended the
cut while its launch goes on. -/
def sectionDone (before t : State) (c : Cut) : Bool :=
  c.onMill && c.sec.state != .out && match t.cutOf c.uid with
    | some k => k.sec.state == .out && k.sec.returnTraps == c.sec.returnTraps
    | none => c.sec.committing && c.exiting && (before.launchOf c.lid).endState == (t.launchOf c.lid).endState

/-- The events of a Mill cut's section, which its parts share: commits with the sectors that they drain, replays, flushed attempts and
return traps. -/
def sectionEvents (before t : State) (c : Cut) : List (Nat × Nat) :=
  if (familyOf before c).head?.map (·.uid) != some c.uid then []
  else
    (if sectionDone before t c then [(49, 1), (54, (bufSectors c.sec.buffer).length)] else [])
      ++ match t.cutOf c.uid with
        | some k => [(50, k.sec.total - c.sec.total), (51, k.sec.flushedCount - c.sec.flushedCount), (52, k.sec.returnTraps - c.sec.returnTraps)]
        | none => []

/-- What an event that led from one state to another has done with a cut, by counter: materializations, splits, scratch page faults,
and what has become of its section (R389). -/
def cutEvents (before t : State) (c : Cut) : List (Nat × Nat) :=
  let kids := t.cuts.filter fun k => decide (c.uid ∈ k.anc) && (before.cutOf k.uid).isNone
  sectionEvents before t c ++ match t.cutOf c.uid with
  | none =>
    if c.isPattern && !kids.isEmpty && kids.all (fun k => !k.isPattern) then [(5, 1)]
    else if 2 ≤ kids.length then [(6, 1)] else []
  | some k =>
    let fault := fun (w : Wait) => match w with | .scratchPage _ => true | _ => false
    (if fault k.wait && !fault c.wait then [(26, 1)] else [])
      ++ (if c.onMill && kids.any (·.parent == c.parent) then [(6, 1)] else [])

/-- What an event has done with a crew: page-ins, evictions, stream pushes and events posted. -/
def crewEvents (t : State) (k : Crew) : List (Nat × Nat) :=
  match t.crewOf k.key with
  | none => []
  | some x =>
    let ps := k.pages.zip x.pages
    [(27, (ps.filter fun p => p.1.state != .res && p.2.state == .res).length),
      (28, (ps.filter fun p => p.1.state == .res && p.2.state == .backed).length),
      (44, ((k.streams.zip x.streams).map fun p => p.2.ready.length - p.1.ready.length).foldl (· + ·) 0),
      (45, x.events.length - k.events.length)]

/-- What an event has done with the operation that a Loom was at: its steps, and those of them that ran fused (R246). An operation is
gone with its last step. -/
def loomEvents (before t : State) (m : Loom) : List (Nat × Nat) :=
  match m.ops.head? with
  | none => []
  | some o =>
    let last := decide (o.step + 1 = o.steps) && (o.op == 1 || o.op == 2) && (t.loomOf m.num).claim == m.claim
    let n := match (t.loomOf m.num).ops.find? (·.id == o.id) with
      | some p => p.step - o.step
      | none => if last then 1 else 0
    let fused := o.slaved || (((t.loomOf m.num).ops.find? (·.id == o.id)).any (·.slaved))
      || o.follower.any fun g => decide ((before.loomOf g).test.length < (t.loomOf g).test.length)
    [(32, n), (36, if fused then n else 0)]

/-- The multicast writes that an event has discarded, and the operations of collectives that it has ended other than done, each at its
context and place (R210, R295). -/
def lostEvents (before t : State) : List ((Nat × (Bool × Nat)) × (Nat × Nat)) :=
  let lost := before.scratchW.filter fun w => (spaceOf before w.lid w.handle).isNone && !t.scratchW.any (·.id == w.id)
    && before.jobs.any fun j => j.id == w.job && j.op == 2
  let ended := before.comms.flatMap fun k => k.ops.filter fun o => o.word.isNone
    && ((t.commOf k.cid).ops.find? (·.id == o.id)).any fun p => p.word.any fun w => fld w 62 2 != 1
  lost.map (fun w => (((before.launchOf w.lid).asid, (false, w.deliver)), (31, 1)))
    ++ ended.filterMap fun o => (before.cuts.find? (Cut.isOf · o.uid)).map fun c => ((o.asid, c.leaseAt before), (47, 1))

/-- What the leases count of an event: for each context and place, a counter and an amount. -/
def observed (before t : State) : List ((Nat × (Bool × Nat)) × (Nat × Nat)) :=
  let asid := fun (lid : Nat) => (before.launchOf lid).asid
  let joined := t.cuts.filter fun k => k.isPattern && (before.cutOf k.uid).isNone
    && decide (2 ≤ (before.cuts.filter fun c => decide (c.uid ∈ k.anc)).length)
  let steps := before.looms.flatMap fun m => (loomEvents before t m).map fun e =>
    ((((m.ops.head?).map fun o => asid o.lid).getD 0, (false, m.num / 4)), e)
  before.cuts.flatMap (fun c => (cutEvents before t c).map fun e => ((c.asid before, c.leaseAt before), e))
    ++ joined.map (fun k => ((k.asid before, k.leaseAt t), (7, 1)))
    ++ before.crews.flatMap (fun k => (crewEvents t k).map fun e => ((asid k.lid, (false, k.bench)), e))
    ++ (t.jobs.filter fun j => !before.jobs.any (·.id == j.id)).map (fun j => ((asid j.lid, (false, j.bench)), (40, 1)))
    ++ (before.jobs.filter fun j => !t.jobs.any (·.id == j.id)).map (fun j => ((asid j.lid, (false, j.bench)), (41, 1))) ++ steps ++ lostEvents before t

/-- Counts an event in the leases. -/
def State.tally (before t : State) : State :=
  (observed before t).foldl (fun s x => s.countEvent x.1.1 x.1.2 x.2.1 x.2.2) t

/-- The counters of group 1 to which a stall is charged, by its reason (R33, R389). -/
def stallCounter : Nat → Option Nat
  | 1 => some 8
  | 2 => some 9
  | 3 => some 10
  | 4 | 5 => some 11
  | 6 => some 12
  | 7 | 8 => some 13
  | 9 => some 14
  | 10 => some 15
  | _ => none

/-- Counts a cycle in the leases: one for each that has a resident cut, the stalls, and the cycles in which refresh freezes a Mill. -/
def State.countLeases (before s : State) : State :=
  let t := before.leases.foldl (fun (s : State) (l : Lease) =>
    let here := before.cuts.any fun c => c.place.resident && c.asid before == l.asid && c.leaseAt before == (l.atMill, l.place)
    let s := if here then s.countEvent l.asid (l.atMill, l.place) 0 1 else s
    if here && l.atMill && (before.millOf l.place).frozen then s.countEvent l.asid (true, l.place) 53 1 else s) s
  (schedulers before).foldl (fun (s : State) (k : Nat × Nat) =>
    let cs := onSched before k
    if cs.any (Cut.eligible before) then s
    else match oldest cs with
      | none => s
      | some c => match stallCounter (c.reason before) with
        | some n => s.countEvent (c.asid before) (c.leaseAt before) n 1
        | none => s) t

/-! ## The cycle -/

/-- The registers whose reading counts a cycle: the cycle advances, the schedulers, leases, budgets and flushed attempts count it
(R31, R33, R276, R379, R386, R389), and the checkpoint engine shows its progress (R384). -/
def State.passCycle (s : State) : State :=
  let t : State := { s with cycle := s.cycle + 1, issued := [], sampled := [] }
  let t := (schedulers s).foldl (State.countCycle s) t
  let t := if s.leases.isEmpty then t else State.countLeases s t
  let t := t.charge
  let t : State := { t with cuts := t.cuts.map fun (c : Cut) =>
    if c.onMill ∧ c.sec.state = .flushed ∧ !(s.millOf c.millNum).frozen then { c with sec := { c.sec with unfrozen := c.sec.unfrozen + 1 } }
    else c }
  match t.ckpt with
  | some (_, began) => t.setField regCkptstat 0 32 (ckptProgress t began)
  | none => t

/-- SCHEDULER_CYCLE (R31, R33, R379, R386): a cycle of the arithmetic clock begins: each scheduler counts it and picks an eligible
cut, or fails to. -/
def execSchedulerCycle (s : State) : Host.Outcome State Fault Refusal :=
  let t := s.settleLeases.passCycle
  .next { t with issue := picks t }

/-! ## Sampling (R387, R388) -/

/-- The cycles between two samples of a scheduler. -/
def samplePeriod (s : State) : Nat := Nat.max 1024 (s.field regSmpctl 0 32)

/-- Whether a scheduler samples in this cycle. -/
def samples (s : State) (bench sched : Nat) : Bool :=
  bit (s.reg regSmpctl) 63 && decide ((s.cycle + 5 * bench + sched) % samplePeriod s = 0)

/-- The record of a scheduler: what it issued in this cycle, or its oldest resident cut. A cut whose `EXIT` waits for results has
retired it (R386). -/
def sampleRecord (s : State) (bench sched : Nat) : Option (List W64) :=
  let info := fun (state reason asid : Nat) =>
    BitVec.ofNat 64 (state * 2 ^ 60 + reason * 2 ^ 56 + bench * 2 ^ 48 + sched * 2 ^ 45 + asid * 2 ^ 32)
  match s.issued.find? fun x => x.bench == bench && x.sched == sched with
  | some x => some [x.pc, x.cutid, x.launchId, info 0 0 x.asid]
  | none => (oldest (onSched s (bench, sched))).map fun c =>
      let exited := c.wait == .results && c.instrAt s == some .exit
      let state := if c.halted s then 4 else if exited then 3 else 1
      [c.ctx.pc, c.cutid, (s.launchOf c.lid).launchId, info state (if state = 1 then c.reason s else 0) (c.asid s)]

/-- SAMPLE (R387, R388): in its sampling cycle a scheduler with a resident cut writes a record to the ring; a full ring drops it. -/
def execSample (bench sched : Nat) (s : State) : Host.Outcome State Fault Refusal :=
  .next (
    if !samples s bench sched || decide ((bench, sched) ∈ s.sampled) then s
    else match sampleRecord s bench sched with
      | none => s
      | some ws =>
        let s : State := { s with sampled := s.sampled ++ [(bench, sched)] }
        let size := 2 ^ (s.field regSmpbase 59 5 + 6)
        let head := s.field regSmphead 0 32
        if (head + 2 ^ 32 - s.field regSmptail 0 32) % 2 ^ 32 = size then s.countUp regSmphead 32 32 1
        else
          let base := s.field regSmpbase 5 35 * 32
          let t := s.devPut (base + 32 * (head % size)) (ws.flatMap fun w => bytesLE 8 w.toNat)
          t.setField regSmphead 0 32 ((head + 1) % 2 ^ 32))

end Sys2Proof.Machine
end

