-- ==== Sys2Proof/Machine/Issue.lean ====
section
/-! DEFINITION. Issuing a cut's next instruction (R31, R32, R72, R93), and what an issue counts (R387, R389). -/

namespace Sys2Proof.Machine

/-- What comes of a cut's turn to issue: nothing more than the state says, the instruction it executes, or a word that names none. -/
inductive Turn where
  | over (s : State)
  | run (i : Instr) (s : State)
  | illegal (w : W32) (s : State)
  deriving DecidableEq, Repr

/-- Whether a picked cut may still issue: it is resident, its wait is over, and neither a debugger nor refresh holds it (R32, R267). -/
def Cut.mayIssue (s : State) (c : Cut) : Bool :=
  c.place.resident && !c.leaving && waitOver s c && !c.halted s && !(c.onMill && (s.millOf c.millNum).frozen)

/-- What an issue of a cut records (R388); Mill cuts are in no sample. -/
def State.noteIssue (s : State) (c : Cut) : State :=
  match c.sched with
  | none => s
  | some (b, k) =>
    let l := s.launchOf c.lid
    { s with issued := s.issued ++ [⟨c.uid, c.ctx.pc, b, k, c.cutid, l.launchId, l.asid⟩] }

/-- Ends the yields of the other cuts of a scheduler, one of whose cuts has issued (R94). -/
def Cut.wakes (c d : Cut) : Bool :=
  match d.wait with
  | .yield _ => d.uid != c.uid && d.sched.isSome && d.sched == c.sched
  | _ => false

/-- A cut issues: it becomes the executing cut, its age starts again (R31), and the yields that it ends are over. -/
def State.issues (s : State) (c : Cut) (w : W32) : State :=
  let t := ((s.xlatted c.unit (c.asid s) c.ctx.pc).readPtr c.unit (c.asid s) c.ctx.pc 4).noteIssue c
  { t with
    cur := c.uid, fetched := w
    cuts := t.cuts.map fun (d : Cut) =>
      if d.uid = c.uid then { d with age := t.cycle } else if c.wakes d then { d with wait := .none } else d }

/-- The turn of a picked cut: an armed breakpoint halts its context before the word (R392), a fetch that stops raises its cause
before the word executes (R93), and otherwise the word is the next to execute. -/
def State.turn (s : State) (uid : Nat) : Turn :=
  match s.cutOf uid with
  | none => .over s
  | some c =>
    if !c.mayIssue s then .over s
    else match c.breakpoint s with
      | some (slot, k) => .over (s.triggerAt c slot 1 k)
      | none => match c.fetch s with
        | .stops cause =>
          let t := s.issues c 0
          .over (t.fetchStops ((t.cutOf uid).getD c) cause)
        | .word w => match decodeWord w with
          | some i => .run i (s.issues c w)
          | none => .illegal w (s.issues c w)

/-- The leases that move with the cuts that an event has moved (R390). -/
def followed (before t : State) : State := if before.leases.isEmpty then t else before.followCuts (before.tally t)

/-- What the leases count of an executed instruction, and the leases that move with the cuts it moves (R389, R390). -/
def noted (before : State) (i : Option Instr) (o : Host.Outcome State Fault Refusal) : Host.Outcome State Fault Refusal :=
  match o with
  | .next t =>
    if before.leases.isEmpty then .next t
    else
      let u := before.followCuts (before.tally t)
      .next (match before.executing, i with | some c, some j => before.countInstr u c j | _, _ => u)
  | x => x

/-! ## Placing a word where the next step fetches it (DESIGN CHOICE, log 8) -/

/-- The object that holds the code of a placed word: its executable page lies in a frame of stack 0. -/
def placedCode : ObjEnt := ⟨2 ^ 40, 0, false, false, true, false, true, 0, 0, 0, 0⟩
def placedPtr : W64 := BitVec.ofNat 64 (2 ^ 44)
def placedFrame : Nat := 0x10000

/-- A running launch of 32 items at the placed code. -/
def placedLaunch (lid : Nat) : Launch := { Launch.absent with lid := lid, state := .running, kcode := placedPtr, extx := 32 }

/-- A state in which a lane cut of a launch of its own is resident on quadrant 0 of Bench 0 and picked, its code page in Bench 0's
TLB, as a program stands once its launch has been admitted and dispatched. -/
def State.withLaneCut (s : State) : State :=
  let l := placedLaunch s.nextLid
  let c := Cut.atEntry s l s.nextUid .lane ⟨⟨0, 0, 0⟩, 32, 1, 1⟩ ((List.range 32).map fun i => ⟨i, 0, 0⟩) (.quad 0 0)
  { s with
    agenda := [], issue := [s.nextUid], nextLid := s.nextLid + 1, nextUid := s.nextUid + 1
    launches := s.launches ++ [l], cuts := s.cuts ++ [c]
    tlb := ⟨.bench 0, 0, 1, 0, placedCode, placedFrame, true⟩ :: s.tlb }

/-- The bytes of a word at the place from which the next step fetches: the home memory behind the picked cut's pc. -/
def State.placeBytes (s : State) (bs : List Byte) : State :=
  match s.issue.head?.bind s.cutOf with
  | none => s
  | some c => match (xlat s c.unit (c.asid s) c.ctx.pc).loc with
    | some (.dev p) => { s with mem := cellsPut s.mem p bs }
    | some (.host p) => { s with host := cellsPut s.host p bs }
    | _ => s

/-- Whether the next step fetches the word of a picked cut. -/
def State.fetchesNext (s : State) : Bool :=
  match s.issue.head?.bind s.cutOf with
  | none => false
  | some c => c.mayIssue s && (c.breakpoint s).isNone && (match c.fetch s with | .word _ => true | .stops _ => false)

end Sys2Proof.Machine
end

