-- ==== Sys2Proof/Machine/Due.lean ====
section
/-! DEFINITION. What the device does by itself between cycles (DESIGN CHOICE, log 1): the events that the state has due, in a fixed order. An event
is due where taking it changes the state; the outside world's events are never due by themselves. -/

namespace Sys2Proof.Machine

/-- The device's own events, by what they name. -/
inductive Due where
  | home (id : Nat)
  | scratch (id : Nat)
  | result (uid id : Nat)
  | job (id : Nat)
  | collective (cid seq : Nat)
  | post (key : Nat)
  | loom (n : Nat)
  | mill (n : Nat)
  | assay (stack : Nat)
  | cut (uid : Nat)
  | seam (lid : Nat) (pc : W64)
  | remote (id : Nat)
  | link (k : Nat)
  | enter (bench quad : Nat)
  | resume (uid bench quad : Nat)
  | launch (lid : Nat)
  | queue (q : Nat)
  | part (p : Nat)
  | stop (slot unit : Nat)
  | dump (slot : Nat)
  | command
  | reload
  | checkpoint
  | sample (bench sched : Nat)
  deriving DecidableEq, Repr

/-- An event's meanings, in the order in which they are tried. -/
abbrev Meanings := List (State → Host.Outcome State Fault Refusal)

/-- Whether the checkpoint engine has copied everything. -/
def ckptOver (s : State) : Bool := s.ckpt.any fun k => ckptProgress s k.2 == Config.deviceMiB

/-- The meanings that an event takes (R1 and the rules that each names). -/
def Due.meanings (s : State) : Due → Meanings
  | .home id => [execHomeWrite id, execLateStoreFault id]
  | .scratch id => [execScratchWriteDelivery id]
  | .result uid id => [execResultArrival uid id]
  | .job id => [execJobStart id, execJobCompletion id, execJobFailure id]
  | .collective cid seq => [execCollectiveDeadline cid seq, execAgreementWindowExpiry cid seq, execIsolatedEnding cid seq]
  | .post key => [execEventPost key]
  | .loom n => [execLoomStep n, execLoomDrain n, execSelfTest n 0 0]
  | .mill n => [execMillCutStart n]
  | .assay stack => [execAssayCommit stack, execFlushedAttemptStart stack]
  | .cut uid => [execTrapEntry uid, execPageIn uid, execRejoin uid, execPageWaitLimit uid, execFlushedLimit uid,
      execReturnedCutResume uid, execYieldExpiry uid]
  | .seam lid pc => [execSeamWaitEnd lid pc, execSeamWaitLimit lid pc]
  | .remote id => [execRemoteDeadline id]
  | .link k => [execLinkDown k]
  | .enter bench quad => [execCutQueueIssue bench quad]
  | .resume uid bench quad => [execCutResume uid bench quad]
  | .launch lid => [execDispatch lid, execQuantumEnd lid, execLaunchCompletion lid, execCompletionRecordWaitLimit lid]
  | .queue q => [execEntryTake q, execAdmission q, execAdmissionWaitLimit q]
  | .part p => [execPreemptionReport p, execSliceEnd p, execDrainDeadline p, execPreemptionDeadline p]
  | .stop slot unit => [execDebugStop slot unit]
  | .dump slot => [execDump slot]
  | .command => [execCommunicatorCommandDone]
  | .reload => [execOwnershipReloadDone]
  | .checkpoint => if ckptOver s then [execCheckpointDone] else []
  | .sample bench sched => [execSample bench sched]

/-! ## What may be due -/

/-- The engine events: writes, results, jobs, collectives, Looms, Mills and remote accesses. -/
def engineDue (s : State) : List Due :=
  s.storeQ.map (fun w => .home w.id) ++ s.scratchW.map (fun w => .scratch w.id)
    ++ s.cuts.flatMap (fun c => c.outst.map fun o => .result c.uid o.id)
    ++ s.jobs.map (fun j => .job j.id) ++ s.comms.flatMap (fun k => k.ops.map fun o => .job o.id)
    ++ s.comms.flatMap (fun k => k.ops.map (fun o => .collective k.cid o.seq) ++ k.settling.map fun x => .collective k.cid x.seq)
    ++ (s.crews.filter fun k => !k.postWait.isEmpty).map (fun k => .post k.key)
    ++ s.looms.map (fun m => .loom m.num) ++ s.mills.map (fun m => .mill m.num)
    ++ s.assays.map (fun a => .assay a.stack) ++ s.remotes.map (fun r => .remote r.id)
    ++ s.resends.map (fun p => .link p.1)

/-- The events of cuts: their own, seams, and the places that queued and saved cuts may take, the oldest saved cut first. -/
def cutDue (s : State) : List Due :=
  let quads := fun (bs : List Nat) => bs.flatMap fun b => (List.range 4).map fun q => (b, q)
  let waiting := distinct (s.cuts.filterMap fun c => match c.place with | .queue b => some b | _ => none)
  s.cuts.map (fun c => .cut c.uid)
    ++ (distinct (s.cuts.filterMap fun c => match c.wait with | .seam pc _ _ => some (c.lid, pc) | _ => none)).map (fun p => .seam p.1 p.2)
    ++ (quads waiting).map (fun p => .enter p.1 p.2)
    ++ (sortBy (·.born) (s.cuts.filter Cut.isSaved)).flatMap fun c =>
        let ps := match c.place with
          | .saved b => b :: (placement s (s.launchOf c.lid).part).filter (· != b)
          | _ => []
        (quads ps).map fun p => .resume c.uid p.1 p.2

/-- The queues and partitions that firmware or the driver has set up: those whose registers hold something. -/
def queuesSet (s : State) : List Nat :=
  distinct ((s.win.filter fun p => decide (0x100000 ≤ p.1 ∧ p.1 < 0x200000)).map fun p => (p.1 - 0x100000) / 0x200)

/-- The queues of each virtual function in rotation: those behind the one that was served last come first (R324;
the lowest where none has been, DESIGN CHOICE, log 107). -/
def inRotation (s : State) (qs : List Nat) : List Nat :=
  let last := fun (q : Nat) => ((s.turns.find? (·.1 == q / 8)).map (·.2)).getD (8 * (q / 8) + 7)
  sortBy (fun q => 8 * (q / 8) + (q + 7 - last q % 8) % 8) qs

def partsSet (s : State) : List Nat :=
  distinct ((s.win.filter fun p => decide (0x8000 ≤ p.1 ∧ p.1 < 0x8000 + 0x100 * 40)).map fun p => (p.1 - 0x8000) / 0x100)

/-- The events of launches, queues, partitions, firmware's commands, debug slots and samples. -/
def systemDue (s : State) : List Due :=
  s.launches.map (fun l => .launch l.lid) ++ (inRotation s (queuesSet s)).map .queue ++ (partsSet s).map .part
    ++ s.halts.flatMap (fun h => (unstopped s h).map (.stop h.slot)) ++ s.halts.map (fun h => .dump h.slot)
    ++ [.command, .reload, .checkpoint] ++ ((schedulers s).filter fun k => samples s k.1 k.2).map (fun k => .sample k.1 k.2)

/-- All that may be due, in order. -/
def mayBeDue (s : State) : List Due := engineDue s ++ cutDue s ++ systemDue s

/-! ## What is due -/

/-- The state after the first of some meanings that changes the state. -/
def firstChange (s : State) : Meanings → Option State
  | [] => none
  | f :: fs =>
    match f s with
    | .next t => if t = s then firstChange s fs else some t
    | _ => firstChange s fs

/-- The state after the first event that is due. -/
def State.due (s : State) : Option State := firstChange s ((mayBeDue s).flatMap (Due.meanings s))

end Sys2Proof.Machine
end

