-- ==== Sys2Proof/Machine/Predicates.lean ====
section
/-! DEFINITION. Comparisons (R101 to R103) and the predicate group (R104): op7 0x0B, 0x0C and 0x0D. -/

namespace Sys2Proof.Machine

/-! ## Results merged under the guard (R20, R80, R103) -/

/-- A predicate result under the guard: where the guard is uniformly false the predicate stays; else the governed items take
`f` and the others keep predicate `d`. `form` says whether R20 allows a pattern predicate. `none` materializes a pattern cut. -/
def Cut.guarded (c : Cut) (d : Nat) (ins : List PredVal) (form : Bool) (f : Item → Nat → Bool) : Option PredVal :=
  let old := c.pred d
  let gp := c.pred (modeGP c.ctx.mode)
  let whole := fun (it : Item) (i : Nat) => if gp.at it i != modeGS c.ctx.mode then f it i else old.at it i
  match c.guardUni with
  | some false => some old
  | some true => if form then predResult c ins f else if c.isPattern then none else some (lanePred c fun i => f (c.item i) i)
  | none =>
    if form then predResult c (gp :: old :: ins) whole
    else if c.isPattern then none else some (lanePred c fun i => whole (c.item i) i)

/-! ## The predicate group (R104) -/

/-- A source predicate with its inversion bit, at an item. -/
def Cut.srcPred (c : Cut) (t : BitVec 1) (a : BitVec 3) (it : Item) (i : Nat) : Bool :=
  (c.pred a.toNat).at it i != (t == 1#1)

/-- A predicate instruction of one or two sources. -/
def State.predOp (s : State) (c : Cut) (d : BitVec 3) (ins : List (BitVec 3)) (f : Item → Nat → Bool) : State :=
  s.writePred c [] d.toNat (c.guarded d.toNat (ins.map fun a => c.pred a.toNat) true f)

def execPand (d : BitVec 3) (t : BitVec 1) (a : BitVec 3) (u : BitVec 1) (b : BitVec 3) (s : State) :=
  operate (.pand d t a u b) s fun c => s.predOp c d [a, b] fun it i => c.srcPred t a it i && c.srcPred u b it i
def execPor (d : BitVec 3) (t : BitVec 1) (a : BitVec 3) (u : BitVec 1) (b : BitVec 3) (s : State) :=
  operate (.por d t a u b) s fun c => s.predOp c d [a, b] fun it i => c.srcPred t a it i || c.srcPred u b it i
def execPxor (d : BitVec 3) (t : BitVec 1) (a : BitVec 3) (u : BitVec 1) (b : BitVec 3) (s : State) :=
  operate (.pxor d t a u b) s fun c => s.predOp c d [a, b] fun it i => c.srcPred t a it i != c.srcPred u b it i
def execPandn (d : BitVec 3) (t : BitVec 1) (a : BitVec 3) (u : BitVec 1) (b : BitVec 3) (s : State) :=
  operate (.pandn d t a u b) s fun c => s.predOp c d [a, b] fun it i => c.srcPred t a it i && !c.srcPred u b it i
def execPnot (d : BitVec 3) (t : BitVec 1) (a : BitVec 3) (s : State) :=
  operate (.pnot d t a) s fun c => s.predOp c d [a] fun it i => !c.srcPred t a it i
def execPmov (d : BitVec 3) (t : BitVec 1) (a : BitVec 3) (s : State) :=
  operate (.pmov d t a) s fun c => s.predOp c d [a] fun it i => c.srcPred t a it i

/-- The governed positions at which a source predicate is true. -/
def Cut.holding (c : Cut) (t : BitVec 1) (a : BitVec 3) : List Nat :=
  c.governed.filter fun i => c.srcPred t a (c.item i) i

/-- `PANY` and `PALL` write a uniform predicate in every lane (R104). -/
def execPany (d : BitVec 3) (t : BitVec 1) (a : BitVec 3) (s : State) :=
  operate (.pany d t a) s fun c => s.writePred c [] d.toNat (some (.uni !(c.holding t a).isEmpty))
def execPall (d : BitVec 3) (t : BitVec 1) (a : BitVec 3) (s : State) :=
  operate (.pall d t a) s fun c => s.writePred c [] d.toNat (some (.uni ((c.holding t a).length == c.governed.length)))

/-- `PCNT` and `PMASK` write a uniform value in every lane, as R104 says of both; R171 gives `PMASK` form L (DESIGN CHOICE, log 96). -/
def execPcnt (d : Opnd) (t : BitVec 1) (a : BitVec 3) (s : State) :=
  operate (.pcnt d t a) s fun c => s.write c [] .all d (uVal (BitVec.ofNat 64 (c.holding t a).length))
def execPmask (d : Opnd) (t : BitVec 1) (a : BitVec 3) (s : State) :=
  operate (.pmask d t a) s fun c => s.write c [] .all d (uVal (lanesWord (c.holding t a)))

/-- `PFROM`: bit i of lane i's value (R104). -/
def execPfrom (d : BitVec 3) (a : Opnd) (s : State) := operate (.pfrom d a) s fun c =>
  let x := c.read s a []
  s.writePred c [a] d.toNat (c.guarded d.toNat [] false fun _ i => (c.valAt x i).toNat.testBit i)

/-! ## Comparisons (R101, R102) -/

/-- An integer comparison of encodings as ET reads them (R101): the `u` conditions compare them unsigned. -/
def compareInt (k et : Nat) (x y : W64) : Bool :=
  let a := intValue et x
  let b := intValue et y
  let m := lowBits et x
  let n := lowBits et y
  match k with
  | 0 => m == n
  | 1 => m != n
  | 2 => decide (a < b)
  | 3 => decide (a ≤ b)
  | 4 => decide (b < a)
  | 5 => decide (b ≤ a)
  | 6 => decide (m < n)
  | 7 => decide (m ≤ n)
  | 8 => decide (n < m)
  | _ => decide (n ≤ m)

/-- A comparison of exact values (R101): unordered with a NaN. -/
def compareNum (k : Nat) (x y : Exact) : Bool :=
  let nan := isNaN x || isNaN y
  match k with
  | 0 => !nan && numEq x y
  | 1 => nan || !numEq x y
  | 2 => !nan && numLt x y
  | 3 => !nan && (numLt x y || numEq x y)
  | 4 => !nan && numLt y x
  | 5 => !nan && (numLt y x || numEq x y)
  | 10 => nan
  | _ => !nan

/-- Whether the comparison of two integer inputs may give a pattern predicate (R20): a P value with a nonzero stride in at
most one dimension of extent above 1, against a U value. -/
def Cut.boxable (c : Cut) (x y : RegVal) : Bool :=
  let b := c.theBox
  let few := fun (v : RegVal) => match v with
    | .pat _ sx sy sz =>
      decide (([(sx, b.nx), (sy, b.ny), (sz, b.nz)].filter fun p => p.1 != 0 && decide (1 < p.2)).length ≤ 1)
    | .lanes _ => false
  (x.isU && few y) || (y.isU && few x)

/-- What a comparison gives at an item: the outcome, and whether a signalling NaN took part. -/
abbrev Compared := Bool × Bool

/-- A comparison completes (R101 to R103): U inputs give a uniform outcome, computed once; integer inputs that R20 allows give a
pattern predicate where the true set is a box; anything else is a lane predicate. A signalling NaN in a governed item sets
IV. -/
def State.compare (s : State) (c : Cut) (srcs : List Opnd) (d : Nat) (x y : RegVal) (g : W64 → W64 → Compared) : State :=
  let int := isInt (modeET c.ctx.mode)
  let f := fun (it : Item) (i : Nat) => (g (x.at it i) (y.at it i)).1
  let form := (x.isU && y.isU) || (int && c.boxable x y)
  match c.guarded d [] form f with
  | none => s.lanesOnly c
  | some p =>
    let iv := !int && c.governed.any fun i => (g (c.valAt x i) (c.valAt y i)).2
    s.writePred (c.raiseFlags (if iv then flagIV else 0)) srcs d (some p)

/-- The outcome for one item of a comparison under ET and FTZ. -/
def outcome (k et : Nat) (ftz : Bool) (x y : W64) : Compared :=
  if isInt et then (compareInt k et x y, false)
  else
    let a := readNum ftz et x
    let b := readNum ftz et y
    (compareNum k a b, sigFlag [a, b] != 0)

def execCmp (k : BitVec 4) (d : BitVec 3) (a b : Opnd) (s : State) := operate (.cmp k d a b) s fun c =>
  s.compare c [a, b] d.toNat (c.read s a []) (c.read s b [a]) (outcome k.toNat (modeET c.ctx.mode) (modeFTZ c.ctx.mode))

/-- The outcome for one item of a comparison with an immediate: read as ET reads it, or as its exact value (R102). -/
def outcomeImm (k et : Nat) (ftz : Bool) (n : Int) (x : W64) : Compared :=
  if isInt et then (compareInt k et x (ofInt n), false)
  else
    let a := readNum ftz et x
    (compareNum k a (ofScaled n 0), sigFlag [a] != 0)

def execCmpi (k : BitVec 4) (d : BitVec 3) (a : Opnd) (i : BitVec 11) (s : State) := operate (.cmpi k d a i) s fun c =>
  s.compare c [a] d.toNat (c.read s a []) (uVal 0) fun x _ =>
    outcomeImm k.toNat (modeET c.ctx.mode) (modeFTZ c.ctx.mode) i.toInt x

end Sys2Proof.Machine
end

