-- ==== Sys2Proof/Machine/Pattern.lean ====
section
/-! DEFINITION. The pattern group (R163 to R169): op7 0x0E. -/

namespace Sys2Proof.Machine

/-! ## The narrowest form (R164) -/

/-- How often 2 divides a number modulo 2^64: 64 for 0. -/
def twos (n : Nat) : Nat := if n % 2 ^ 64 = 0 then 64 else (List.range 64).foldl (fun k i => if k = 64 && n.testBit i then i else k) 64

/-- The inverse of an odd number modulo 2^64, by Newton's iteration. -/
def inverse (u : Nat) : Nat := (List.range 6).foldl (fun x _ => x * (2 + 2 ^ 64 - u * x % 2 ^ 64) % 2 ^ 64) (u % 2 ^ 64)

/-- An equation of strides modulo 2^64: a coefficient for each dimension, and its right side. -/
structure StrideEq where
  coef : List Nat
  rhs : Nat
  deriving DecidableEq, Repr

def StrideEq.at (e : StrideEq) (d : Nat) : Nat := e.coef.getD d 0

/-- `e` less `k` times `p`, modulo 2^64. -/
def StrideEq.less (e p : StrideEq) (k : Nat) : StrideEq :=
  let sub := fun (x y : Nat) => (x + 2 ^ 64 - k * y % 2 ^ 64) % 2 ^ 64
  ⟨(List.range 3).map fun d => sub (e.at d) (p.at d), sub e.rhs p.rhs⟩

/-- The signed number nearest 0 that is congruent to `n` modulo 2^m. -/
def nearZero (m n : Nat) : Int := signedOf m n

/-- Solves equations for the strides of some dimensions, pivoting on the coefficient that 2 divides least. A pivot divided by 2
more than 32 times leaves several residues in 32 bits: `none`. -/
def solveStrides : Nat → List StrideEq → List Nat → Option (List (Nat × Int))
  | _, _, [] => some []
  | 0, _, _ => none
  | fuel + 1, es, d0 :: ds =>
    let dims := d0 :: ds
    let cands := es.flatMap fun e => dims.map fun d => (e, d)
    match cands with
    | [] => none
    | c0 :: cs =>
      let best := cs.foldl (fun b c => if twos (c.1.at c.2) < twos (b.1.at b.2) then c else b) c0
      let p := best.1
      let d := best.2
      let v := twos (p.at d)
      if 32 < v then none
      else
        let inv := inverse (p.at d / 2 ^ v)
        let rest := (es.filter (· != p)).map fun e => e.less p (e.at d / 2 ^ v * inv)
        match solveStrides fuel rest (dims.filter (· != d)) with
        | none => none
        | some sol =>
          let known := sol.foldl (fun (n : Int) (q : Nat × Int) => n - (p.at q.1 : Int) * q.2) (p.rhs : Int)
          let r := (known % (2 ^ 64 : Nat)).toNat / 2 ^ v * inv
          some ((d, nearZero (64 - v) r) :: sol)

/-! ### Strides that the equations alone do not determine: the signed 32-bit range may still leave exactly one tuple (R164) -/

/-- The values that the stride of each dimension may still take, as inclusive bounds. -/
abbrev Ranges := List (Int × Int)

/-- The range of a dimension. -/
def rangeAt (iv : Ranges) (d : Nat) : Int × Int := iv.getD d (0, 0)

/-- The coefficient of a dimension as a signed number. -/
def StrideEq.signed (e : StrideEq) (d : Nat) : Int := nearZero 64 (e.at d)

/-- The least and greatest of a stride's term in an equation. -/
def StrideEq.term (e : StrideEq) (iv : Ranges) (d : Nat) : Int × Int :=
  let a := e.signed d
  if a < 0 then (a * (rangeAt iv d).2, a * (rangeAt iv d).1) else (a * (rangeAt iv d).1, a * (rangeAt iv d).2)

/-- What an equation leaves of the ranges; `none` where it has no solution in them. The left side is congruent to the right modulo 2^64,
so it is one of the numbers `least`, `least` + 2^64, ... `most`; where it is only one, the open coefficients' common divisor divides
what the fixed ones leave of it. -/
def StrideEq.narrow (e : StrideEq) (iv : Ranges) : Option Ranges :=
  let ts := (List.range 3).map (e.term iv)
  let lo := (ts.map (·.1)).foldl (· + ·) 0
  let hi := (ts.map (·.2)).foldl (· + ·) 0
  let least := lo + ((e.rhs : Int) - lo) % (2 ^ 64 : Nat)
  let most := hi - (hi - (e.rhs : Int)) % (2 ^ 64 : Nat)
  let fixed := fun (d : Nat) => (rangeAt iv d).1 == (rangeAt iv d).2
  let rest := ((List.range 3).filter fixed).foldl (fun n d => n - e.signed d * (rangeAt iv d).1) least
  let g := ((List.range 3).filter fun d => !fixed d).foldl (fun g d => Nat.gcd g (e.signed d).natAbs) (if least = most then 0 else 2 ^ 64)
  if most < least ∨ rest % (g : Int) ≠ 0 then none
  else
    let cut := fun (d : Nat) =>
      let a := e.signed d
      let t := ts.getD d (0, 0)
      let l := least - (hi - t.2)
      let h := most - (lo - t.1)
      let r := rangeAt iv d
      if a = 0 then r
      else if 0 < a then (max r.1 (-((-l).fdiv a)), min r.2 (h.fdiv a))
      else (max r.1 (-((-h).fdiv a)), min r.2 (l.fdiv a))
    let iv := (List.range 3).map cut
    if iv.any (fun r => decide (r.2 < r.1)) then none else some iv

/-- What the equations leave of the ranges, applied in turn `n` times. -/
def narrowAll (es : List StrideEq) : Nat → Ranges → Option Ranges
  | 0, iv => some iv
  | n + 1, iv => (es.foldl (fun (r : Option Ranges) e => r.bind e.narrow) (some iv)).bind (narrowAll es n)

/-- The tuples that fit, at most two of them, found by halving the widest range; `none` where the search is given up. -/
def searchStrides (es : List StrideEq) : Nat → List Ranges → List (List Int) → Option (List (List Int))
  | _, [], found => some found
  | 0, _, _ => none
  | fuel + 1, iv :: more, found =>
    if 2 ≤ found.length then some found
    else match narrowAll es 8 iv with
      | none => searchStrides es fuel more found
      | some iv =>
        match sortBy (fun d => ((2 ^ 33 : Nat) : Int) - ((rangeAt iv d).2 - (rangeAt iv d).1) |>.toNat) (List.range 3) with
        | [] => some found
        | d :: _ =>
          let r := rangeAt iv d
          if r.1 = r.2 then searchStrides es fuel more (iv.map (·.1) :: found)
          else
            let mid := (r.1 + r.2).fdiv 2
            searchStrides es fuel (iv.set d (r.1, mid) :: iv.set d (mid + 1, r.2) :: more) found

/-- The one tuple of signed 32-bit strides that fits, by dimension, if there is exactly one (R164). A search that is given up after 4096
ranges counts as finding several (DEDUCED, log 43). -/
def oneStrides (es : List StrideEq) (dims : List Nat) : Option (List (Nat × Int)) :=
  match solveStrides 3 es dims with
  | some sol => some sol
  | none =>
    let all : Ranges := (List.range 3).map fun d => if d ∈ dims then (-(2 ^ 31 : Nat), (2 ^ 31 : Nat) - 1) else (0, 0)
    match searchStrides es 4096 [all] [] with
    | some [t] => some (dims.map fun d => (d, t.getD d 0))
    | _ => none

/-- The narrowest form of values at the active items (R164). -/
def Cut.narrowest (c : Cut) (val : Nat → W64) : RegVal :=
  match c.positions with
  | [] => c.overLanes val
  | j :: js =>
    let i0 := c.item j
    if js.all fun k => val k == val j then uVal (val j)
    else
      let delta := fun (a b : Nat) => (a + 2 ^ 64 - b) % 2 ^ 64
      let es := js.map fun k =>
        (⟨[delta (c.item k).x i0.x, delta (c.item k).y i0.y, delta (c.item k).z i0.z], (val k - val j).toNat⟩ : StrideEq)
      let dims := (List.range 3).filter fun d => es.any fun e => e.at d != 0
      match oneStrides es dims with
      | none => c.overLanes val
      | some sol =>
        let st := fun d => ((sol.find? (·.1 == d)).map (·.2)).getD 0
        let b := (val j).toInt - st 0 * i0.x - st 1 * i0.y - st 2 * i0.z
        match affine b (st 0) (st 1) (st 2) with
        | some v => if (j :: js).all fun k => c.valAt v k == val k then v else c.overLanes val
        | none => c.overLanes val

/-- `FORM` (R164): as `MOV` in a pattern cut with a uniform guard; in any other cut the merged value of d in its narrowest
form. -/
def execForm (d a : Opnd) (s : State) := operate (.form d a) s fun c =>
  let x := c.read s a []
  let g := c.gov
  if c.isPattern then s.write c [a] g d x
  else
    let merged := c.merge g x (c.oldReg d)
    let v := c.narrowest (c.valAt merged)
    let last := if g = .all then v else if d = 0x48#7 then c.narrowest (c.valAt (c.merge g x (uVal 0))) else c.merge g x (uVal 0)
    let s := s.popAll c [a]
    let s := if isQ d && g.anyLane then s.pushQ c d (c.entry g x) c.ctx.pc else s
    let k := c.popped [a]
    let k := if isResult d then (k.setReg d v).shift (.val last) else k
    s.advance (if isQ d && g.anyLane then k.effect else k)

/-- `MATL` (R165): a pattern cut has been materialized before it. -/
def execMatl (d a : Opnd) (s : State) := operate (.matl d a) s fun c =>
  s.write c [a] c.gov d (c.overLanes (c.valAt (c.read s a [])))

/-- What `PGET` describes of a stored form (R166). -/
def formPart (v : RegVal) (k : Nat) : W64 :=
  match v, k with
  | .pat b _ _ _, 0 => b
  | .pat _ sx _ _, 1 => sx.signExtend 64
  | .pat _ _ sy _, 2 => sy.signExtend 64
  | .pat _ _ _ sz, 3 => sz.signExtend 64
  | .pat _ _ _ _, _ => if v.isU then 0 else 1
  | .lanes _, 4 => 2
  | .lanes _, _ => 0

def execPget (d a b : Opnd) (s : State) := operate (.pget d a b) s fun c =>
  s.write c [a] c.gov d (uVal (formPart (c.read s a []) (constOf b)))

/-- The index that a dimension names: 0 `ix`, 1 `iy`, 2 `iz`, 3 `il` (R167). -/
def Cut.index (s : State) (c : Cut) (k : Nat) (it : Item) : Nat :=
  match k with
  | 0 => it.x
  | 1 => if c.mill then 0 else it.y
  | 2 => if c.mill then 0 else it.z
  | _ => if c.mill then it.x else ilOf (s.launchOf c.lid) it

/-- `PMAKE` (R167): a pattern predicate when the bounds are U and the true set is a box. -/
def execPmake (k : BitVec 2) (d : BitVec 3) (a b : Opnd) (s : State) := operate (.pmake k d a b) s fun c =>
  let x := c.read s a []
  let y := c.read s b [a]
  s.writePred c [a, b] d.toNat (c.guarded d.toNat [] (x.isU && y.isU) fun it i =>
    let n := (c.index s k.toNat it : Int)
    decide ((x.at it i).toInt ≤ n ∧ n < (y.at it i).toInt))

/-- `KILL` (R168): it acts in every item, whatever the guard; the wait for outstanding results is made by the shared checks. -/
def execKill (m a b : Opnd) (s : State) := operate (.kill m a b) s fun c =>
  let k := (killRegs a b).foldl (fun (k : Cut) r => k.setReg r (uVal 0)) c
  s.advance ((maskPreds m).foldl (fun (k : Cut) p => k.setPred p (.uni false)) k)

def execCutid (d : Opnd) (s : State) := operate (.cutid d) s fun c => s.write c [] c.gov d (uVal c.cutid)

def execParid (d : Opnd) (s : State) := operate (.parid d) s fun c => s.write c [] c.gov d (uVal (c.parid s))

/-- What `CUTBOX` describes of the active items (R169). -/
def Cut.boxPart (s : State) (c : Cut) (k : Nat) : Nat :=
  let b := c.theBox
  match k with
  | 0 => c.ilLow s
  | 1 => c.positions.length
  | 2 => b.lo.x
  | 3 => b.lo.y
  | 4 => b.lo.z
  | 5 => b.nx
  | 6 => b.ny
  | _ => b.nz

def execCutbox (d b : Opnd) (s : State) := operate (.cutbox d b) s fun c =>
  s.write c [] c.gov d (uVal (BitVec.ofNat 64 (c.boxPart s (constOf b))))

end Sys2Proof.Machine
end

