-- ==== Sys2Proof/Machine/Dispatch.lean ====
section
/-! DEFINITION. The dispatch: one arm for each instruction and event, each a call of its meaning. -/

namespace Sys2Proof.Machine

def exec (i : Instr) (s : State) : Host.Outcome State Fault Refusal :=
  match i with
  | .nop => Sys2Proof.Machine.execNop s
  | .yield => Sys2Proof.Machine.execYield s
  | .exit => Sys2Proof.Machine.execExit s
  | .seam => Sys2Proof.Machine.execSeam s
  | .tfence => Sys2Proof.Machine.execTfence s
  | .haltd => Sys2Proof.Machine.execHaltd s
  | .bkpt => Sys2Proof.Machine.execBkpt s
  | .ret => Sys2Proof.Machine.execRet s
  | .mode a => Sys2Proof.Machine.execMode a s
  | .modei imm => Sys2Proof.Machine.execModei imm s
  | .br n p o => Sys2Proof.Machine.execBr n p o s
  | .jmp o => Sys2Proof.Machine.execJmp o s
  | .call o => Sys2Proof.Machine.execCall o s
  | .jmpr a => Sys2Proof.Machine.execJmpr a s
  | .callr a => Sys2Proof.Machine.execCallr a s
  | .loop c n => Sys2Proof.Machine.execLoop c n s
  | .loopi imm n => Sys2Proof.Machine.execLoopi imm n s
  | .lbrk => Sys2Proof.Machine.execLbrk s
  | .trap imm => Sys2Proof.Machine.execTrap imm s
  | .pand d t a u b => Sys2Proof.Machine.execPand d t a u b s
  | .por d t a u b => Sys2Proof.Machine.execPor d t a u b s
  | .pxor d t a u b => Sys2Proof.Machine.execPxor d t a u b s
  | .pandn d t a u b => Sys2Proof.Machine.execPandn d t a u b s
  | .pnot d t a => Sys2Proof.Machine.execPnot d t a s
  | .pmov d t a => Sys2Proof.Machine.execPmov d t a s
  | .pany d t a => Sys2Proof.Machine.execPany d t a s
  | .pall d t a => Sys2Proof.Machine.execPall d t a s
  | .pcnt d t a => Sys2Proof.Machine.execPcnt d t a s
  | .pmask d t a => Sys2Proof.Machine.execPmask d t a s
  | .pfrom d a => Sys2Proof.Machine.execPfrom d a s
  | .cmp k d a b => Sys2Proof.Machine.execCmp k d a b s
  | .cmpi k d a imm => Sys2Proof.Machine.execCmpi k d a imm s
  | .form d a => Sys2Proof.Machine.execForm d a s
  | .matl d a => Sys2Proof.Machine.execMatl d a s
  | .pget d a b => Sys2Proof.Machine.execPget d a b s
  | .pmake k d a b => Sys2Proof.Machine.execPmake k d a b s
  | .kill m a b => Sys2Proof.Machine.execKill m a b s
  | .cutid d => Sys2Proof.Machine.execCutid d s
  | .parid d => Sys2Proof.Machine.execParid d s
  | .cutbox d b => Sys2Proof.Machine.execCutbox d b s
  | .add d a b => Sys2Proof.Machine.execAdd d a b s
  | .sub d a b => Sys2Proof.Machine.execSub d a b s
  | .and d a b => Sys2Proof.Machine.execAnd d a b s
  | .or d a b => Sys2Proof.Machine.execOr d a b s
  | .xor d a b => Sys2Proof.Machine.execXor d a b s
  | .andn d a b => Sys2Proof.Machine.execAndn d a b s
  | .shl d a b => Sys2Proof.Machine.execShl d a b s
  | .shr d a b => Sys2Proof.Machine.execShr d a b s
  | .sar d a b => Sys2Proof.Machine.execSar d a b s
  | .rol d a b => Sys2Proof.Machine.execRol d a b s
  | .min d a b => Sys2Proof.Machine.execMin d a b s
  | .max d a b => Sys2Proof.Machine.execMax d a b s
  | .minu d a b => Sys2Proof.Machine.execMinu d a b s
  | .maxu d a b => Sys2Proof.Machine.execMaxu d a b s
  | .absd d a b => Sys2Proof.Machine.execAbsd d a b s
  | .neg d a => Sys2Proof.Machine.execNeg d a s
  | .mul d a b => Sys2Proof.Machine.execMul d a b s
  | .mulhi d a b => Sys2Proof.Machine.execMulhi d a b s
  | .mulhiu d a b => Sys2Proof.Machine.execMulhiu d a b s
  | .mulw d a b => Sys2Proof.Machine.execMulw d a b s
  | .mulwu d a b => Sys2Proof.Machine.execMulwu d a b s
  | .clz d a => Sys2Proof.Machine.execClz d a s
  | .ctz d a => Sys2Proof.Machine.execCtz d a s
  | .popc d a => Sys2Proof.Machine.execPopc d a s
  | .brev d a => Sys2Proof.Machine.execBrev d a s
  | .bswap d a => Sys2Proof.Machine.execBswap d a s
  | .bfe d a b => Sys2Proof.Machine.execBfe d a b s
  | .bfeu d a b => Sys2Proof.Machine.execBfeu d a b s
  | .bfi d a b => Sys2Proof.Machine.execBfi d a b s
  | .addw d a b => Sys2Proof.Machine.execAddw d a b s
  | .addwu d a b => Sys2Proof.Machine.execAddwu d a b s
  | .subw d a b => Sys2Proof.Machine.execSubw d a b s
  | .accw d a b => Sys2Proof.Machine.execAccw d a b s
  | .accwu d a b => Sys2Proof.Machine.execAccwu d a b s
  | .satadd d a b => Sys2Proof.Machine.execSatadd d a b s
  | .satsub d a b => Sys2Proof.Machine.execSatsub d a b s
  | .narrow d a => Sys2Proof.Machine.execNarrow d a s
  | .sext d a => Sys2Proof.Machine.execSext d a s
  | .zext d a => Sys2Proof.Machine.execZext d a s
  | .mov d a => Sys2Proof.Machine.execMov d a s
  | .sel d a b => Sys2Proof.Machine.execSel d a b s
  | .addi d a imm => Sys2Proof.Machine.execAddi d a imm s
  | .andi d a imm => Sys2Proof.Machine.execAndi d a imm s
  | .ori d a imm => Sys2Proof.Machine.execOri d a imm s
  | .xori d a imm => Sys2Proof.Machine.execXori d a imm s
  | .shli d a imm => Sys2Proof.Machine.execShli d a imm s
  | .shri d a imm => Sys2Proof.Machine.execShri d a imm s
  | .sari d a imm => Sys2Proof.Machine.execSari d a imm s
  | .muli d a imm => Sys2Proof.Machine.execMuli d a imm s
  | .movx d imm => Sys2Proof.Machine.execMovx d imm s
  | .movi d imm => Sys2Proof.Machine.execMovi d imm s
  | .div l d a b => Sys2Proof.Machine.execDiv l d a b s
  | .divu l d a b => Sys2Proof.Machine.execDivu l d a b s
  | .fadd d a b => Sys2Proof.Machine.execFadd d a b s
  | .fsub d a b => Sys2Proof.Machine.execFsub d a b s
  | .fmul d a b => Sys2Proof.Machine.execFmul d a b s
  | .fmin d a b => Sys2Proof.Machine.execFmin d a b s
  | .fmax d a b => Sys2Proof.Machine.execFmax d a b s
  | .fminn d a b => Sys2Proof.Machine.execFminn d a b s
  | .fmaxn d a b => Sys2Proof.Machine.execFmaxn d a b s
  | .fabs d a => Sys2Proof.Machine.execFabs d a s
  | .fneg d a => Sys2Proof.Machine.execFneg d a s
  | .fcpsgn d a b => Sys2Proof.Machine.execFcpsgn d a b s
  | .fclass d a => Sys2Proof.Machine.execFclass d a s
  | .frnd d a => Sys2Proof.Machine.execFrnd d a s
  | .ffrac d a => Sys2Proof.Machine.execFfrac d a s
  | .fscale d a b => Sys2Proof.Machine.execFscale d a b s
  | .fexpo d a => Sys2Proof.Machine.execFexpo d a s
  | .twosum d a b => Sys2Proof.Machine.execTwosum d a b s
  | .fcvt t d a => Sys2Proof.Machine.execFcvt t d a s
  | .f2i d a => Sys2Proof.Machine.execF2i d a s
  | .f2u d a => Sys2Proof.Machine.execF2u d a s
  | .i2f d a => Sys2Proof.Machine.execI2f d a s
  | .u2f d a => Sys2Proof.Machine.execU2f d a s
  | .frcp l d a => Sys2Proof.Machine.execFrcp l d a s
  | .frsq l d a => Sys2Proof.Machine.execFrsq l d a s
  | .fsqrt l d a => Sys2Proof.Machine.execFsqrt l d a s
  | .fexp2 l d a => Sys2Proof.Machine.execFexp2 l d a s
  | .flog2 l d a => Sys2Proof.Machine.execFlog2 l d a s
  | .fsin l d a => Sys2Proof.Machine.execFsin l d a s
  | .fcos l d a => Sys2Proof.Machine.execFcos l d a s
  | .fdiv l d a b => Sys2Proof.Machine.execFdiv l d a b s
  | .shfl d a b => Sys2Proof.Machine.execShfl d a b s
  | .shflx d a b => Sys2Proof.Machine.execShflx d a b s
  | .shflu d a b => Sys2Proof.Machine.execShflu d a b s
  | .shfld d a b => Sys2Proof.Machine.execShfld d a b s
  | .bcast d a b => Sys2Proof.Machine.execBcast d a b s
  | .vote d a => Sys2Proof.Machine.execVote d a s
  | .compact d a => Sys2Proof.Machine.execCompact d a s
  | .lidx d => Sys2Proof.Machine.execLidx d s
  | .red l d a b => Sys2Proof.Machine.execRed l d a b s
  | .scan l d a b => Sys2Proof.Machine.execScan l d a b s
  | .dp4 d a b => Sys2Proof.Machine.execDp4 d a b s
  | .dp4u d a b => Sys2Proof.Machine.execDp4u d a b s
  | .dp2 d a b => Sys2Proof.Machine.execDp2 d a b s
  | .ld l d a b => Sys2Proof.Machine.execLd l d a b s
  | .st d a b => Sys2Proof.Machine.execSt d a b s
  | .ldb l d a b => Sys2Proof.Machine.execLdb l d a b s
  | .lda l d a b => Sys2Proof.Machine.execLda l d a b s
  | .stl d a b => Sys2Proof.Machine.execStl d a b s
  | .ldt l d a b => Sys2Proof.Machine.execLdt l d a b s
  | .lds l d a b => Sys2Proof.Machine.execLds l d a b s
  | .sts d a b => Sys2Proof.Machine.execSts d a b s
  | .atom l d a b => Sys2Proof.Machine.execAtom l d a b s
  | .ared a b => Sys2Proof.Machine.execAred a b s
  | .pgreq l d a => Sys2Proof.Machine.execPgreq l d a s
  | .pgwait d a => Sys2Proof.Machine.execPgwait d a s
  | .pgtest d a => Sys2Proof.Machine.execPgtest d a s
  | .pref a b => Sys2Proof.Machine.execPref a b s
  | .salloc d a b => Sys2Proof.Machine.execSalloc d a b s
  | .sfree a b => Sys2Proof.Machine.execSfree a b s
  | .spin d a b => Sys2Proof.Machine.execSpin d a b s
  | .sunpin a b => Sys2Proof.Machine.execSunpin a b s
  | .spgq d a b => Sys2Proof.Machine.execSpgq d a b s
  | .ldm l d a b => Sys2Proof.Machine.execLdm l d a b s
  | .stm d a b => Sys2Proof.Machine.execStm d a b s
  | .fence e f k d => Sys2Proof.Machine.execFence e f k d s
  | .fwait a => Sys2Proof.Machine.execFwait a s
  | .ftest d a => Sys2Proof.Machine.execFtest d a s
  | .bar a => Sys2Proof.Machine.execBar a s
  | .bara d a => Sys2Proof.Machine.execBara d a s
  | .barw a => Sys2Proof.Machine.execBarw a s
  | .cnew d a => Sys2Proof.Machine.execCnew d a s
  | .cjoin d a => Sys2Proof.Machine.execCjoin d a s
  | .cleave => Sys2Proof.Machine.execCleave s
  | .csize d => Sys2Proof.Machine.execCsize d s
  | .crank d => Sys2Proof.Machine.execCrank d s
  | .role a => Sys2Proof.Machine.execRole a s
  | .qbind d a b => Sys2Proof.Machine.execQbind d a b s
  | .qunbind d => Sys2Proof.Machine.execQunbind d s
  | .qcnt d a => Sys2Proof.Machine.execQcnt d a s
  | .qclose d => Sys2Proof.Machine.execQclose d s
  | .sbind d a => Sys2Proof.Machine.execSbind d a s
  | .srel d a => Sys2Proof.Machine.execSrel d a s
  | .scnt d a => Sys2Proof.Machine.execScnt d a s
  | .cpy l a => Sys2Proof.Machine.execCpy l a s
  | .cpyt l a => Sys2Proof.Machine.execCpyt l a s
  | .cpym l a m => Sys2Proof.Machine.execCpym l a m s
  | .cwait l d a b => Sys2Proof.Machine.execCwait l d a b s
  | .cadd a b => Sys2Proof.Machine.execCadd a b s
  | .evwait d => Sys2Proof.Machine.execEvwait d s
  | .evpeek d => Sys2Proof.Machine.execEvpeek d s
  | .coll l d a b => Sys2Proof.Machine.execColl l d a b s
  | .cstat d a b => Sys2Proof.Machine.execCstat d a b s
  | .cabort a => Sys2Proof.Machine.execCabort a s
  | .launch l d a b => Sys2Proof.Machine.execLaunch l d a b s
  | .mld d a b => Sys2Proof.Machine.execMld d a b s
  | .mwb a b => Sys2Proof.Machine.execMwb a b s
  | .mma d a b => Sys2Proof.Machine.execMma d a b s
  | .mmap a m => Sys2Proof.Machine.execMmap a m s
  | .mzero d => Sys2Proof.Machine.execMzero d s
  | .mdrn d a b => Sys2Proof.Machine.execMdrn d a b s
  | .mstat d a => Sys2Proof.Machine.execMstat d a s
  | .mtest d => Sys2Proof.Machine.execMtest d s
  | .mfenced d => Sys2Proof.Machine.execMfenced d s
  | .thmake d a b => Sys2Proof.Machine.execThmake d a b s
  | .thoff d a => Sys2Proof.Machine.execThoff d a s
  | .thshape d a => Sys2Proof.Machine.execThshape d a s
  | .msect w a => Sys2Proof.Machine.execMsect w a s
  | .mcommit l d => Sys2Proof.Machine.execMcommit l d s
  | .msend l a m => Sys2Proof.Machine.execMsend l a m s
  | .mrcnt d => Sys2Proof.Machine.execMrcnt d s
  | .msig d a b => Sys2Proof.Machine.execMsig d a b s
  | .mstate d => Sys2Proof.Machine.execMstate d s
  | .mesc d a => Sys2Proof.Machine.execMesc d a s
  | .csrr d imm => Sys2Proof.Machine.execCsrr d imm s
  | .csrw a imm => Sys2Proof.Machine.execCsrw a imm s
  | .tret => Sys2Proof.Machine.execTret s
  | .flags d a => Sys2Proof.Machine.execFlags d a s
  | .flagc d a => Sys2Proof.Machine.execFlagc d a s
  | .tlbinv a b => Sys2Proof.Machine.execTlbinv a b s
  | .scrinv a b => Sys2Proof.Machine.execScrinv a b s
  | .clock d => Sys2Proof.Machine.execClock d s
  | .perf d a => Sys2Proof.Machine.execPerf d a s
  | .fma d a b c => Sys2Proof.Machine.execFma d a b c s
  | .fnma d a b c => Sys2Proof.Machine.execFnma d a b c s
  | .madw d a b c => Sys2Proof.Machine.execMadw d a b c s
  | .madl d a b c => Sys2Proof.Machine.execMadl d a b c s
  | .cutQueueIssue bench quad => Sys2Proof.Machine.execCutQueueIssue bench quad s
  | .rejoin uid => Sys2Proof.Machine.execRejoin uid s
  | .seamWaitLimit lid pc => Sys2Proof.Machine.execSeamWaitLimit lid pc s
  | .seamWaitEnd lid pc => Sys2Proof.Machine.execSeamWaitEnd lid pc s
  | .yieldExpiry uid => Sys2Proof.Machine.execYieldExpiry uid s
  | .quantumEnd lid => Sys2Proof.Machine.execQuantumEnd lid s
  | .trapEntry uid => Sys2Proof.Machine.execTrapEntry uid s
  | .homeWrite id => Sys2Proof.Machine.execHomeWrite id s
  | .lateStoreFault id => Sys2Proof.Machine.execLateStoreFault id s
  | .pageIn uid => Sys2Proof.Machine.execPageIn uid s
  | .crewMove key bench => Sys2Proof.Machine.execCrewMove key bench s
  | .scratchWriteDelivery id => Sys2Proof.Machine.execScratchWriteDelivery id s
  | .jobStart id => Sys2Proof.Machine.execJobStart id s
  | .jobCompletion id => Sys2Proof.Machine.execJobCompletion id s
  | .eventPost key => Sys2Proof.Machine.execEventPost key s
  | .jobFailure id => Sys2Proof.Machine.execJobFailure id s
  | .pageWaitLimit uid => Sys2Proof.Machine.execPageWaitLimit uid s
  | .loomStep loom => Sys2Proof.Machine.execLoomStep loom s
  | .loomDrain loom => Sys2Proof.Machine.execLoomDrain loom s
  | .selfTest loom first second => Sys2Proof.Machine.execSelfTest loom first second s
  | .millCutStart mill => Sys2Proof.Machine.execMillCutStart mill s
  | .assayCommit stack => Sys2Proof.Machine.execAssayCommit stack s
  | .flushedAttemptStart stack => Sys2Proof.Machine.execFlushedAttemptStart stack s
  | .flushedLimit uid => Sys2Proof.Machine.execFlushedLimit uid s
  | .returnedCutResume uid => Sys2Proof.Machine.execReturnedCutResume uid s
  | .refreshStart mill => Sys2Proof.Machine.execRefreshStart mill s
  | .refreshEnd mill => Sys2Proof.Machine.execRefreshEnd mill s
  | .chunkArrival cid seq rank off bytes => Sys2Proof.Machine.execChunkArrival cid seq rank off bytes s
  | .controlFlit cid seq rank fields => Sys2Proof.Machine.execControlFlit cid seq rank fields s
  | .completionNotice cid seq => Sys2Proof.Machine.execCompletionNotice cid seq s
  | .collectiveDeadline cid seq => Sys2Proof.Machine.execCollectiveDeadline cid seq s
  | .abortReport cid seq rank reason failrank => Sys2Proof.Machine.execAbortReport cid seq rank reason failrank s
  | .arbiterWord cid seq word => Sys2Proof.Machine.execArbiterWord cid seq word s
  | .agreementWindowExpiry cid seq => Sys2Proof.Machine.execAgreementWindowExpiry cid seq s
  | .isolatedEnding cid seq => Sys2Proof.Machine.execIsolatedEnding cid seq s
  | .remoteRequest kind asid obj off et aop data => Sys2Proof.Machine.execRemoteRequest kind asid obj off et aop data s
  | .remoteReply id performed data => Sys2Proof.Machine.execRemoteReply id performed data s
  | .remoteDeadline id => Sys2Proof.Machine.execRemoteDeadline id s
  | .linkDown link => Sys2Proof.Machine.execLinkDown link s
  | .retrain link success => Sys2Proof.Machine.execRetrain link success s
  | .hostWrite asid ptr bytes => Sys2Proof.Machine.execHostWrite asid ptr bytes s
  | .hostRead asid ptr len => Sys2Proof.Machine.execHostRead asid ptr len s
  | .deviceReset => Sys2Proof.Machine.execDeviceReset s
  | .qtailWrite queue v => Sys2Proof.Machine.execQtailWrite queue v s
  | .entryTake queue => Sys2Proof.Machine.execEntryTake queue s
  | .admission queue => Sys2Proof.Machine.execAdmission queue s
  | .admissionWaitLimit queue => Sys2Proof.Machine.execAdmissionWaitLimit queue s
  | .preMigration lid range page frame => Sys2Proof.Machine.execPreMigration lid range page frame s
  | .dispatch lid => Sys2Proof.Machine.execDispatch lid s
  | .launchCompletion lid => Sys2Proof.Machine.execLaunchCompletion lid s
  | .sliceEnd part => Sys2Proof.Machine.execSliceEnd part s
  | .drainDeadline part => Sys2Proof.Machine.execDrainDeadline part s
  | .preemptionDeadline part => Sys2Proof.Machine.execPreemptionDeadline part s
  | .preemptionReport part => Sys2Proof.Machine.execPreemptionReport part s
  | .cutResume uid bench quad => Sys2Proof.Machine.execCutResume uid bench quad s
  | .contextReload asid => Sys2Proof.Machine.execContextReload asid s
  | .forcedContextReset asid => Sys2Proof.Machine.execForcedContextReset asid s
  | .create v => Sys2Proof.Machine.execCreate v s
  | .reForm v => Sys2Proof.Machine.execReForm v s
  | .destroy v => Sys2Proof.Machine.execDestroy v s
  | .replayAll part => Sys2Proof.Machine.execReplayAll part s
  | .ownershipReload => Sys2Proof.Machine.execOwnershipReload s
  | .checkpointSave => Sys2Proof.Machine.execCheckpointSave s
  | .checkpointAbort => Sys2Proof.Machine.execCheckpointAbort s
  | .checkpointRestore => Sys2Proof.Machine.execCheckpointRestore s
  | .checkpointDone => Sys2Proof.Machine.execCheckpointDone s
  | .halt slot => Sys2Proof.Machine.execHalt slot s
  | .resume slot => Sys2Proof.Machine.execResume slot s
  | .debugStop slot bench => Sys2Proof.Machine.execDebugStop slot bench s
  | .dump slot => Sys2Proof.Machine.execDump slot s
  | .sample bench sched => Sys2Proof.Machine.execSample bench sched s
  | .fwbaseWrite stack win v => Sys2Proof.Machine.execFwbaseWrite stack win v s
  | .fwctlWrite stack win v => Sys2Proof.Machine.execFwctlWrite stack win v s
  | .pmapWrite part v => Sys2Proof.Machine.execPmapWrite part v s
  | .sdropWrite bench v => Sys2Proof.Machine.execSdropWrite bench v s
  | .qstatWrite queue v => Sys2Proof.Machine.execQstatWrite queue v s
  | .msumWrite stack v => Sys2Proof.Machine.execMsumWrite stack v s
  | .mderrWrite stack dist v => Sys2Proof.Machine.execMderrWrite stack dist v s
  | .brerrWrite bench v => Sys2Proof.Machine.execBrerrWrite bench v s
  | .memerrWrite stack v => Sys2Proof.Machine.execMemerrWrite stack v s
  | .memaddrWrite stack v => Sys2Proof.Machine.execMemaddrWrite stack v s
  | .lhealthWrite loom v => Sys2Proof.Machine.execLhealthWrite loom v s
  | .lkstatWrite link v => Sys2Proof.Machine.execLkstatWrite link v s
  | .prstatWrite part v => Sys2Proof.Machine.execPrstatWrite part v s
  | .walkerrWrite v => Sys2Proof.Machine.execWalkerrWrite v s
  | .smpheadWrite v => Sys2Proof.Machine.execSmpheadWrite v s
  | .eligWrite bench sched bin v => Sys2Proof.Machine.execEligWrite bench sched bin v s
  | .stallWrite bench sched reason v => Sys2Proof.Machine.execStallWrite bench sched reason v s
  | .registerWrite off v => Sys2Proof.Machine.execRegisterWrite off v s
  | .illegalInstruction word => Sys2Proof.Machine.execIllegalInstruction word s
  | .resultArrival uid id => Sys2Proof.Machine.execResultArrival uid id s
  | .schedulerCycle => Sys2Proof.Machine.execSchedulerCycle s
  | .flitResend link delivered => Sys2Proof.Machine.execFlitResend link delivered s
  | .ucieModuleRetirement module => Sys2Proof.Machine.execUcieModuleRetirement module s
  | .completionRecordWaitLimit lid => Sys2Proof.Machine.execCompletionRecordWaitLimit lid s
  | .communicatorCommandDone => Sys2Proof.Machine.execCommunicatorCommandDone s
  | .ownershipReloadDone => Sys2Proof.Machine.execOwnershipReloadDone s

end Sys2Proof.Machine
end

