-- ==== Sys2Proof/Machine/Step.lean ====
section
/-! DEFINITION. One step of the machine: the next event of the agenda, the next picked cut's instruction, the next event that is due,
or the next cycle of the schedulers (DESIGN CHOICE, log 1). -/

namespace Sys2Proof.Machine

/-! ## What is not eligible (R32) -/

/-- The wait that an instruction has entered, where that is all that it did to a state. -/
def pureWait (s : State) (o : Host.Outcome State Fault Refusal) : Option Wait :=
  match o, s.executing with
  | .next t, some c => match t.cutOf c.uid with
    | some k => if k.wait != .none && decide (t = s.hold c k.wait) then some k.wait else none
    | none => none
  | _, _ => none

/-- The wait that the next instruction of a cut would only enter: what R32 names for it is not there, so that the cut is not eligible.
A cut that stands before a breakpoint takes its turn (R392). -/
def Cut.blocked (s : State) (c : Cut) : Option Wait :=
  if !c.place.resident || c.wait != .none || c.halted s || (c.breakpoint s).isSome || !c.operandsReady s then none
  else match c.fetch s with
    | .word w => (decodeWord w).bind fun i =>
        let t : State := { s with cur := c.uid, fetched := w }
        pureWait t (exec i t)
    | .stops _ => none

/-- The waits of the cuts that are not eligible in the next cycle are entered: they take no issue slot (R32). -/
def State.waitsEntered (s : State) : State :=
  s.cuts.foldl (fun (s : State) (d : Cut) =>
    match s.cutOf d.uid with
    | some c => match c.blocked s with
      | some w => s.hold c w
      | none => s
    | none => s) s

/-- The outcome of a picked cut's turn in the state `t` that the issue made of `s`: where the instruction has only entered a wait, the cut
has not issued, and neither its age nor the record of the cycle counts it (R31). -/
def turnOutcome (s t : State) (i : Instr) : Host.Outcome State Fault Refusal :=
  let o := exec i t
  match pureWait t o, t.executing.bind fun c => s.cutOf c.uid with
  | some w, some b => .next (({ t with cuts := s.cuts, issued := s.issued } : State).hold b w)
  | _, _ => noted t (some i) o

/-! ## The step -/

/-- One step. -/
def step (s : State) : Host.Outcome State Fault Refusal :=
  match s.agenda with
  | i :: rest =>
    let t : State := { s with agenda := rest }
    let t := if i = .schedulerCycle then t.waitsEntered else t
    if heldBehind t i then .next (t.holdHost (.event i)) else noted t (some i) (exec i t)
  | [] => match s.issue with
    | uid :: rest => match ({ s with issue := rest } : State).turn uid with
      | .over t => .next t
      | .run i t => turnOutcome { s with issue := rest } t i
      | .illegal w t => noted t none (execIllegalInstruction w t)
    | [] => match s.heldTurn with
      | some (some i, t) => noted t (some i) (exec i t)
      | some (none, t) => .next (followed s t)
      | none => match s.due with
        | some t => .next (followed s t)
        | none => execSchedulerCycle s.waitsEntered

/-- A state whose next step fetches and runs an instruction (DESIGN CHOICE, log 8): its word lies where the picked cut fetches, with a cut of its own
where none is picked. -/
def State.withFetchWord (s : State) (nbits w : Nat) : State :=
  let t : State := if s.fetchesNext then { s with agenda := [] } else s.withLaneCut
  t.placeBytes (bytesOfWord (BitVec.ofNat 32 (w % 2 ^ nbits)))

end Sys2Proof.Machine
end

