-- ==== Sys2Proof/WellFormed.lean ====
section
/-! DEFINITION. Well-formed instructions: a word whose operand specifiers, selectors and coordinates are legal (R74, R75, R84, R86),
and an event that names units the device has (R5, R6, R322). -/

namespace Sys2Proof

/-- The numbers an event gives for units, within what the device has. -/
def unitsOk (i : Instr) : Bool :=
  match i with
  | .cutQueueIssue bench quad | .cutResume _ bench quad => decide (bench < Config.benches ∧ quad < 4)
  | .crewMove _ bench | .sdropWrite bench _ | .brerrWrite bench _ => decide (bench < Config.benches)
  | .sample bench sched => decide (bench < Config.benches ∧ sched < 5)
  | .eligWrite bench sched bin _ => decide (bench < Config.benches ∧ sched < 5 ∧ bin < 17)
  | .stallWrite bench sched reason _ => decide (bench < Config.benches ∧ sched < 5 ∧ reason < 16)
  | .loomStep loom | .loomDrain loom | .selfTest loom _ _ | .lhealthWrite loom _ => decide (loom < 4 * Config.benches)
  | .millCutStart mill | .refreshStart mill | .refreshEnd mill => decide (mill < 32 * Config.stackCount)
  | .assayCommit stack | .flushedAttemptStart stack | .msumWrite stack _ | .memerrWrite stack _ | .memaddrWrite stack _ =>
    decide (stack < Config.stackCount)
  | .mderrWrite stack dist _ => decide (stack < Config.stackCount ∧ dist < 4)
  | .fwbaseWrite stack win _ | .fwctlWrite stack win _ => decide (stack < Config.stackCount ∧ win < 16)
  | .linkDown link | .retrain link _ | .flitResend link _ | .lkstatWrite link _ => decide (link < Config.links)
  | .ucieModuleRetirement module => decide (module < Config.ucieModules)
  | .halt slot | .resume slot | .debugStop slot _ | .dump slot => decide (slot < 4)
  | .sliceEnd part | .drainDeadline part | .preemptionDeadline part | .preemptionReport part | .replayAll part | .pmapWrite part _
  | .prstatWrite part _ => decide (part < 40)
  | .qtailWrite queue _ | .entryTake queue | .admission queue | .admissionWaitLimit queue | .qstatWrite queue _ => decide (queue < 2048)
  | _ => true

/-- Whether an instruction is well formed. -/
def Instr.wellFormed (i : Instr) : Bool := Machine.staticOk i && unitsOk i

end Sys2Proof
end

