-- ==== Sys2Proof/Claims.lean ====
section
/-! DEFINITION. The terms in which the statements speak: when an instruction goes on to its own meaning, the inputs it reads, and
the results that the spec's tables give item by item. -/

namespace Sys2Proof.Machine

/-! ## Running an instruction -/

/-- A cut is executing an instruction and the checks that every instruction shares let it go on (R74, R77, R80, R87, R171,
R220, R264). -/
def Runs (s : State) (c : Cut) (i : Instr) : Prop := s.executing = some c ∧ gate s c i = none

/-- The values of operands read in turn (R74, R220). -/
def Cut.inputsAfter (s : State) (c : Cut) (before : List Opnd) : List Opnd → List RegVal
  | [] => []
  | o :: os => c.read s o before :: c.inputsAfter s (before ++ [o]) os

def Cut.inputs (s : State) (c : Cut) (os : List Opnd) : List RegVal := c.inputsAfter s [] os

/-- The inputs of the item at a position. -/
def Cut.inputsAt (s : State) (c : Cut) (os : List Opnd) (p : Nat) : List W64 := (c.inputs s os).map fun x => c.valAt x p

/-- Whether every input is U (R18). -/
def Cut.inputsU (s : State) (c : Cut) (os : List Opnd) : Bool := (c.inputs s os).all RegVal.isU

/-! ## Results by item -/

/-- What an instruction computes by item: its destination, the operands it reads in order, and the result at a position of a cut
from the inputs there. -/
structure ItemOp where
  dst : Opnd
  srcs : List Opnd
  val : Cut → Nat → List W64 → W64

/-- A result of one, two and three inputs under ET. -/
def item1 (d a : Opnd) (f : Nat → W64 → W64) : ItemOp :=
  ⟨d, [a], fun c _ xs => match xs with | [x] => f c.et x | _ => 0⟩
def item2 (d a b : Opnd) (f : Nat → W64 → W64 → W64) : ItemOp :=
  ⟨d, [a, b], fun c _ xs => match xs with | [x, y] => f c.et x y | _ => 0⟩
def item3 (d a b e : Opnd) (f : Nat → W64 → W64 → W64 → W64) : ItemOp :=
  ⟨d, [a, b, e], fun c _ xs => match xs with | [x, y, z] => f c.et x y z | _ => 0⟩

/-- The integer instructions that the affine rule closes (R111), by item: R112, R113, R116. -/
def affineOp (i : Instr) : Option ItemOp :=
  match i with
  | .add d a b => some (item2 d a b fun et x y => wrapTo et (intValue et x + intValue et y))
  | .sub d a b => some (item2 d a b fun et x y => wrapTo et (intValue et x - intValue et y))
  | .neg d a => some (item1 d a fun et x => wrapTo et (-intValue et x))
  | .mul d a b => some (item2 d a b fun et x y => wrapTo et (intValue et x * intValue et y))
  | .shl d a b => some (item2 d a b fun et x y =>
      if width et ≤ fld y 0 8 then 0 else wrapTo et (intValue et x * (2 ^ fld y 0 8 : Nat)))
  | .addi d a n => some (item1 d a fun et x => wrapTo et (intValue et x + n.toInt))
  | .muli d a n => some (item1 d a fun et x => wrapTo et (intValue et x * n.toInt))
  | .shli d a n => some (item1 d a fun et x => if width et ≤ n.toNat then 0 else wrapTo et (intValue et x * (2 ^ n.toNat : Nat)))
  | _ => none

/-- The other integer instructions by item: R112 to R117, R119. -/
def integerOp (i : Instr) : Option ItemOp :=
  match i with
  | .and d a b => some (item2 d a b fun et x y => extend et (x &&& y).toNat)
  | .or d a b => some (item2 d a b fun et x y => extend et (x ||| y).toNat)
  | .xor d a b => some (item2 d a b fun et x y => extend et (x ^^^ y).toNat)
  | .andn d a b => some (item2 d a b fun et x y => extend et (x &&& ~~~y).toNat)
  | .shr d a b => some (item2 d a b fun et x y => if width et ≤ fld y 0 8 then 0 else extend et (lowBits et x / 2 ^ fld y 0 8))
  | .sar d a b => some (item2 d a b fun et x y => sarBy et x (fld y 0 8))
  | .rol d a b => some (item2 d a b fun et x y =>
      let k := fld y 0 8 % width et
      extend et ((lowBits et x <<< k) ||| (lowBits et x >>> (width et - k))))
  | .min d a b => some (item2 d a b fun et x y => wrapTo et (min (intValue (iw et) x) (intValue (iw et) y)))
  | .max d a b => some (item2 d a b fun et x y => wrapTo et (max (intValue (iw et) x) (intValue (iw et) y)))
  | .minu d a b => some (item2 d a b fun et x y => extend et (min (lowBits et x) (lowBits et y)))
  | .maxu d a b => some (item2 d a b fun et x y => extend et (max (lowBits et x) (lowBits et y)))
  | .absd d a b => some (item2 d a b fun et x y => wrapTo (nw et) ((intValue et x - intValue et y).natAbs : Nat))
  | .mulhi d a b => some (item2 d a b fun et x y => highHalf et (intValue (iw et) x * intValue (iw et) y))
  | .mulhiu d a b => some (item2 d a b fun et x y => highHalf et ((lowBits et x * lowBits et y : Nat) : Int))
  | .mulw d a b => some (item2 d a b fun et x y => wrapTo (wide et true) (intValue (iw et) x * intValue (iw et) y))
  | .mulwu d a b => some (item2 d a b fun et x y => wrapTo (wide et false) ((lowBits et x * lowBits et y : Nat) : Int))
  | .clz d a => some (item1 d a fun et x => extend et (width et - bitLen (lowBits et x)))
  | .ctz d a => some (item1 d a opCtz)
  | .popc d a => some (item1 d a fun et x => extend et ((List.range (width et)).filter fun n => (lowBits et x).testBit n).length)
  | .brev d a => some (item1 d a opBrev)
  | .bswap d a => some (item1 d a fun et x => extend et (natLE (bytesLE (width et / 8) (lowBits et x)).reverse))
  | .bfe d a b => some (item2 d a b opBfe)
  | .bfeu d a b => some (item2 d a b fun et x y => extend et (lowBits et x / 2 ^ fieldPos y % 2 ^ fieldLen et y))
  | .bfi d a b => some (item3 d a b d opBfi)
  | .addw d a b => some (item2 d a b fun et x y => wrapTo (wide et true) (intValue (iw et) x + intValue (iw et) y))
  | .addwu d a b => some (item2 d a b fun et x y => wrapTo (wide et false) ((lowBits et x + lowBits et y : Nat) : Int))
  | .subw d a b => some (item2 d a b fun et x y => wrapTo (wide et true) (intValue et x - intValue et y))
  | .accw d a b => some (item2 d a b fun et x y => wrapTo (wide et true) (intValue (wide et true) x + intValue (iw et) y))
  | .accwu d a b => some (item2 d a b fun et x y => wrapTo (wide et false) (intValue (wide et false) x + intValue (nw et) y))
  | .satadd d a b => some (item2 d a b fun et x y => wrapTo et (saturate et (intValue et x + intValue et y)))
  | .satsub d a b => some (item2 d a b fun et x y => wrapTo et (saturate et (intValue et x - intValue et y)))
  | .narrow d a => some ⟨d, [a], fun c _ xs => match xs with
      | [x] =>
        let v := intValue (wide c.et (isSigned c.et)) x
        wrapTo c.et (if modeSAT c.ctx.mode then saturate c.et v else v)
      | _ => 0⟩
  | .sext d a => some (item1 d a fun et x => ofInt (intValue (iw et) x))
  | .zext d a => some (item1 d a fun et x => BitVec.ofNat 64 (lowBits et x))
  | .mov d a => some (item1 d a fun _ x => x)
  | .sel d a b => some ⟨d, [a, b], fun c p xs => match xs with
      | [x, y] => if c.predAt (modeFP c.ctx.mode) p then x else y
      | _ => 0⟩
  | .andi d a n => some (item1 d a fun et x => extend et (x &&& n.signExtend 64).toNat)
  | .ori d a n => some (item1 d a fun et x => extend et (x ||| n.signExtend 64).toNat)
  | .xori d a n => some (item1 d a fun et x => extend et (x ^^^ n.signExtend 64).toNat)
  | .shri d a n => some (item1 d a fun et x => if width et ≤ n.toNat then 0 else extend et (lowBits et x / 2 ^ n.toNat))
  | .sari d a n => some (item1 d a fun et x => sarBy et x n.toNat)
  | .movx d n => some ⟨d, [d], fun _ _ xs => match xs with | [x] => x <<< 18 + n.setWidth 64 | _ => 0⟩
  | .movi d n => some ⟨d, [], fun _ _ _ => n.signExtend 64⟩
  | .madw d a b e => some (item3 d a b e fun et x y z =>
      wrapTo (wide et (isSigned et)) (intValue et x * intValue et y + intValue (wide et (isSigned et)) z))
  | .madl d a b e => some (item3 d a b e fun et x y z => wrapTo et (intValue et x * intValue et y + intValue et z))
  | .fabs d a => some (item1 d a fun et x => extend et (lowBits et x % 2 ^ (width et - 1)))
  | .fneg d a => some (item1 d a fun et x => extend et (lowBits et x ^^^ 2 ^ (width et - 1)))
  | .fcpsgn d a b => some (item2 d a b opFcpsgn)
  | .fclass d a => some ⟨d, [a], fun c _ xs => match xs with
      | [x] => BitVec.ofNat 64 (2 ^ classBit (modeFTZ c.ctx.mode) c.et x)
      | _ => 0⟩
  | _ => none

/-! ## Rounded results by item (R148) -/

/-- What a rounding instruction computes by item: from the rounding and the inputs there, the encoding and its flags. -/
structure RoundOp where
  dst : Opnd
  srcs : List Opnd
  val : Nat → Rnd → List W64 → W64 × Nat

def round1 (d a : Opnd) (f : Nat → Rnd → W64 → W64 × Nat) : RoundOp :=
  ⟨d, [a], fun et r xs => match xs with | [x] => f et r x | _ => (0, 0)⟩
def round2 (d a b : Opnd) (f : Nat → Rnd → W64 → W64 → W64 × Nat) : RoundOp :=
  ⟨d, [a, b], fun et r xs => match xs with | [x, y] => f et r x y | _ => (0, 0)⟩
def round3 (d a b e : Opnd) (f : Nat → Rnd → W64 → W64 → W64 → W64 × Nat) : RoundOp :=
  ⟨d, [a, b, e], fun et r xs => match xs with | [x, y, z] => f et r x y z | _ => (0, 0)⟩

/-- The rounding instructions of short latency: R151, R152, R154 to R156. -/
def roundOp (i : Instr) : Option RoundOp :=
  match i with
  | .fadd d a b => some (round2 d a b opFadd)
  | .fsub d a b => some (round2 d a b opFsub)
  | .fmul d a b => some (round2 d a b opFmul)
  | .fmin d a b => some (round2 d a b (opMinMax false false))
  | .fmax d a b => some (round2 d a b (opMinMax true false))
  | .fminn d a b => some (round2 d a b (opMinMax false true))
  | .fmaxn d a b => some (round2 d a b (opMinMax true true))
  | .frnd d a => some (round1 d a opFrnd)
  | .ffrac d a => some (round1 d a opFfrac)
  | .fscale d a b => some (round2 d a b opFscale)
  | .fexpo d a => some (round1 d a opFexpo)
  | .fcvt t d a => some (round1 d a fun et r x => convert t.toNat et r x)
  | .f2i d a => some (round1 d a fun et r x => convert et 6 r x)
  | .f2u d a => some (round1 d a fun et r x => convert et 7 r x)
  | .i2f d a => some (round1 d a fun et r x => convert 6 et r x)
  | .u2f d a => some (round1 d a fun et r x => convert 7 et r x)
  | .fma d a b e => some (round3 d a b e opFma)
  | .fnma d a b e => some (round3 d a b e opFnma)
  | _ => none

/-- The rounding instructions of long latency, with their la4 (R157). -/
def specialOp (i : Instr) : Option (RoundOp × Nat) :=
  match i with
  | .frcp l d a => some (round1 d a (opSpecial fnRcp), l.toNat)
  | .frsq l d a => some (round1 d a (opSpecial fnRsq), l.toNat)
  | .fsqrt l d a => some (round1 d a (opSpecial fnSqrt), l.toNat)
  | .fexp2 l d a => some (round1 d a (opSpecial fnExp2), l.toNat)
  | .flog2 l d a => some (round1 d a (opSpecial fnLog2), l.toNat)
  | .fsin l d a => some (round1 d a (opSpecial fnSin), l.toNat)
  | .fcos l d a => some (round1 d a (opSpecial fnCos), l.toNat)
  | .fdiv l d a b => some (round2 d a b opFdiv, l.toNat)
  | _ => none

/-- The flags of a rounded result at a position: a uniform one has one value's (R64). -/
def Rounded.flagsAt (r : Rounded) (p : Nat) : Nat := match r.fl with | [f] => f | fls => fls.getD p 0

/-- The rounding at a position: the item index is 0 where every input is U (R63). -/
def Cut.rndAt (s : State) (c : Cut) (srcs : List Opnd) (p : Nat) : Rnd := c.rnd s (if c.inputsU s srcs then 0 else c.ilAt s p) 0

/-! ## Predicates by item -/

/-- What a predicate instruction computes at each item: the predicate it writes, the operands it reads, and the outcome at a
position from the inputs there (R104, R167). -/
structure PredOp where
  dst : BitVec 3
  srcs : List Opnd
  val : State → Cut → Nat → List W64 → Bool

/-- A source predicate with its inversion bit, at a position. -/
def Cut.srcAt (c : Cut) (t : BitVec 1) (a : BitVec 3) (p : Nat) : Bool := c.predAt a.toNat p != (t == 1#1)

/-- The predicate instructions that the guard governs (R104, R167). -/
def predOp (i : Instr) : Option PredOp :=
  match i with
  | .pand d t a u b => some ⟨d, [], fun _ c p _ => c.srcAt t a p && c.srcAt u b p⟩
  | .por d t a u b => some ⟨d, [], fun _ c p _ => c.srcAt t a p || c.srcAt u b p⟩
  | .pxor d t a u b => some ⟨d, [], fun _ c p _ => c.srcAt t a p != c.srcAt u b p⟩
  | .pandn d t a u b => some ⟨d, [], fun _ c p _ => c.srcAt t a p && !c.srcAt u b p⟩
  | .pnot d t a => some ⟨d, [], fun _ c p _ => !c.srcAt t a p⟩
  | .pmov d t a => some ⟨d, [], fun _ c p _ => c.srcAt t a p⟩
  | .pfrom d a => some ⟨d, [a], fun _ _ p xs => match xs with | [x] => x.toNat.testBit p | _ => false⟩
  | .pmake k d a b => some ⟨d, [a, b], fun s c p xs => match xs with
      | [x, y] => decide (x.toInt ≤ (c.index s k.toNat (c.item p) : Int) ∧ (c.index s k.toNat (c.item p) : Int) < y.toInt)
      | _ => false⟩
  | _ => none

/-! ## Lane moves (R160) -/

/-- The value of a lane, zero where it is not active (R159). -/
def Cut.lane (c : Cut) (v : RegVal) (j : Nat) : W64 := if inMask c.ctx.active j then c.valAt v j else 0

/-- What a lane move writes at a lane, from the registers it reads. -/
def laneOp (i : Instr) : Option (Opnd × List Opnd × (Cut → Nat → List RegVal → W64)) :=
  match i with
  | .shfl d a b => some (d, [a, b], fun c p xs => match xs with
      | [x, y] => c.lane x (fld (c.valAt y p) 0 5) | _ => 0)
  | .shflx d a b => some (d, [a, b], fun c p xs => match xs with
      | [x, y] => c.lane x (p ^^^ fld (c.valAt y p) 0 5) | _ => 0)
  | .shflu d a b => some (d, [a, b], fun c p xs => match xs with
      | [x, y] => if (c.valAt y p).toNat ≤ p then c.lane x (p - (c.valAt y p).toNat) else c.lane x p | _ => 0)
  | .shfld d a b => some (d, [a, b], fun c p xs => match xs with
      | [x, y] => if p + (c.valAt y p).toNat ≤ 31 then c.lane x (p + (c.valAt y p).toNat) else c.lane x p | _ => 0)
  | .lidx d => some (d, [], fun _ p _ => BitVec.ofNat 64 p)
  | .matl d a => some (d, [a], fun c p xs => match xs with | [x] => c.valAt x p | _ => 0)
  | _ => none

/-! ## Transfers (R90) -/

/-- The offset of BR and JMP, and the condition under which an item takes the transfer (R90). -/
def transferOp (i : Instr) : Option (BitVec 21 × (Cut → Nat → Bool)) :=
  match i with
  | .br x n o => some (o, fun c p => c.guard p && (c.predAt n.toNat p != (x == 1#1)))
  | .jmp o => some (o, fun c p => c.guard p)
  | _ => none

/-! ## Memory (R129 to R134, R139, R230) -/

/-- What the loads of R129, R132 and R133 ask for, and where each item reads. -/
def loadOp (s : State) (c : Cut) (i : Instr) : Option (LoadOp × (Nat → W64)) :=
  let n := elemBytes c.et
  let one := fun (l : BitVec 4) (d a b : Opnd) (l1 acquire : Bool) =>
    let x := c.read s a []
    let y := c.read s b [a]
    ((⟨[a, b], d, l.toNat, ⟨n, 1, .read⟩, l1, acquire, x.isU && y.isU⟩ : LoadOp), fun p => c.valAt x p + c.valAt y p)
  match i with
  | .ld l d a b => some (one l d a b true false)
  | .ldb l d a b => some (one l d a b false false)
  | .lda l d a b => some (one l d a b (decide (modeSC c.ctx.mode ≤ 1)) true)
  | .ldt l d a b => some ({ (one l d a b true false).1 with uniform := false },
      fun p => c.valAt (c.read s a []) p + BitVec.ofNat 64 p * c.valAt (c.read s b [a]) p)
  | .ldm l d a b => some (⟨[a], d, l.toNat, ⟨n, constOf b, .read⟩, true, false, (c.read s a []).isU⟩, fun p => c.valAt (c.read s a []) p)
  | _ => none

/-- What the stores of R134 write: their sources, how many elements an item stores, the registers, whether they release, and where
each item writes. -/
structure StoreOp where
  srcs : List Opnd
  elems : Nat
  vals : List RegVal
  release : Bool
  addr : Nat → W64

def storeOp (s : State) (c : Cut) (i : Instr) : Option StoreOp :=
  let one := fun (d a b : Opnd) (release : Bool) =>
    (⟨[a, b, d], 1, [c.read s d [a, b]], release, fun p => c.valAt (c.read s a []) p + c.valAt (c.read s b [a]) p⟩ : StoreOp)
  match i with
  | .st d a b => some (one d a b false)
  | .stl d a b => some (one d a b true)
  | .stm d a b => some ⟨a :: spanOf d (constOf b), constOf b, (spanOf d (constOf b)).map fun r => c.read s r [], false,
      fun p => c.valAt (c.read s a []) p⟩
  | _ => none

/-- What the atomics of R139 and R230 perform, and where each item does. -/
def atomOp (s : State) (c : Cut) (i : Instr) : Option (AtomOp × (Nat → W64)) :=
  let aop := modeAOP c.ctx.mode
  match i with
  | .atom l d a b => some (⟨if aop = 9 then [a, b, d] else [a, b], d, l.toNat, true, false, c.et, aop, c.read s b [a],
      if aop = 9 then c.read s d [a, b] else uVal 0⟩, fun p => c.valAt (c.read s a []) p)
  | .ared a b => some (⟨[a, b], 0x4A#7, 0, false, false, c.et, aop, c.read s b [a], uVal 0⟩, fun p => c.valAt (c.read s a []) p)
  | .cadd a b => some (⟨[a, b], 0x4A#7, 0, false, true, 7, 0, c.read s b [a], uVal 0⟩, fun p => c.valAt (c.read s a []) p)
  | _ => none

/-! ## The Loom (R233 to R257) -/

/-- The accumulator instructions that queue an operation (R242, R247 to R249). -/
def loomUse (i : Instr) : Option LoomUse :=
  match i with
  | .mld d a b => some ⟨0, constOf d, [a, b], 0, 0⟩
  | .mma d a b => some ⟨1, constOf d, [a, b], 0, 0⟩
  | .mmap a m => some ⟨2, 0, spanOf a 3, m, 0⟩
  | .mzero d => some ⟨3, constOf d, [], 0, 0⟩
  | .mdrn d a b => some ⟨4, constOf d, [a], 0, constOf b⟩
  | _ => none

/-- When an accumulator instruction may act, and on which Looms: for items that it governs, with operands equal in every lane, on Benches
of its partition, no load to the scales it needs outstanding, its earlier accesses done, no claim of it on its way out, and its claims on
Looms in service (R8, R84, R234, R235, R244, R245). -/
def LoomReady (s : State) (c : Cut) (u : LoomUse) (ns : List Nat) : Prop :=
  let keys := c.loomItems.map (c.claimKey s)
  c.issuing = [] ∧ c.isPart = false ∧ c.loomItems ≠ [] ∧ (c.isPattern = false → c.mixedGuard = false)
    ∧ (∀ j, j < u.srcs.length → c.isPattern = true ∨ (c.uniformOf (c.read s (u.srcs.getD j 0x4A) (u.srcs.take j))).isSome = true)
    ∧ (c.isPattern = true → keys.length ≤ 4 * (placement s (s.launchOf c.lid).part).length)
    ∧ (∀ i ∈ c.loomItems, u.scalesWait s c i = false ∧ claimEnding s (c.claimKey s i) = false)
    ∧ (u.op = 2 → ∀ q, q < 4 → (coordMask u.coord).testBit q = true →
        quadOwner s (4 * coordBench u.coord + q) = some (s.launchOf c.lid).part)
    ∧ (u.op = 4 → storeMayIssue s c = true) ∧ (u.op ≤ 2 → readMayIssue s c = true)
    ∧ (c.isPattern = false → loomWorks s c.quadLoom = true) ∧ c.loomsFor s keys = some ns ∧ ns.length = keys.length ∧ ns.Nodup

/-- The instructions over handles, with what they compute in a launch from their inputs, where they do not raise ILL (R240). -/
def handleOp (i : Instr) : Option (Opnd × List Opnd × (Launch → List W64 → Option W64)) :=
  match i with
  | .thmake d a b => some (d, [a, b], fun l xs => match xs with | [x, y] => makeHandle l x y | _ => none)
  | .thoff d a => some (d, [a], fun l xs => match xs with | [h] => handlePtr l h | _ => none)
  | .thshape d a => some (d, [a], fun l xs => match xs with | [h] => handleShape l h | _ => none)
  | _ => none

/-- Every access passes the checks of R124 and finds its pages present, and no watchpoint matches it, on a Bench. -/
def Clean (s : State) (c : Cut) (q : Ask) (load store : Bool) (as : List ItemAcc) : Prop :=
  c.onMill = false ∧ (∀ a ∈ as, a.cause s c q = 0 ∧ (a.locs s c q).isSome = true)
    ∧ c.watchpoint s load store (as.map fun a => (a.ptr, q.size * q.elems)) = none

/-- What an event or an engine leaves of memory: every byte of the device and of the host (R190). -/
def KeepsMemory (s t : State) : Prop := t.mem = s.mem ∧ t.host = s.host

/-- The canonical form of what a state lists: memory (R190), and the registers of the control window by rising offsets (R322). -/
def Canonical (s : State) : Prop :=
  Memory.wf s.mem = true ∧ Memory.wf s.host = true ∧ s.win.Pairwise fun a b => a.1 < b.1

/-- The bytes that a write puts at an address: the last that names it prevails (R135). -/
def wrote (base : Nat) (bs : List (Nat × Byte)) (a : Nat) : Option Byte :=
  ((bs.filter fun x => base + x.1 == a).getLast?).map (·.2)

end Sys2Proof.Machine
end

