-- ==== Sys2Proof/Safety.lean ====
section
/-! DEFINITION. What a safe run is: it never stops at a fault or a refusal. -/

namespace Sys2Proof

/-- A run of `n` steps is safe where each of its steps gives a next state. -/
def SafeFor (n : Nat) (s : Machine.State) : Prop := ∃ t, core.run n s = .next t

/-- A state is safe where every run from it is. -/
def Safe (s : Machine.State) : Prop := ∀ n, SafeFor n s

end Sys2Proof
end

