-- ==== Sys2Proof/Certificates/Slice0/Obligations.lean ====
section
/-! DEFINITION. The statements about the machine, for the provers. -/

open Sys2Proof Sys2Proof.Machine

/-! ## Words and steps -/

/-- Decoding what encoding gives returns the instruction, every operand at every value its field holds (R72, R73, R85). Encoding what
decoding gives returns the word: no bit of a word is dropped, and no two words name one instruction (R72, R73, R85). -/
def Obligations.EncodingsAgree : Prop :=
  (∀ (i : Instr) (w : W32), encodeWord i = some w → decodeWord w = some i)
  ∧ (∀ (w : W32) (i : Instr), decodeWord w = some i → encodeWord i = some w)

/-- Words written out from the layouts of the spec decode to what they stand for, one of each format and of most families; op7 0x0F, 0x2F
and 0x5F name nothing. -/
def Obligations.WrittenWordsDecode : Prop :=
  decodeWord 0x3E22_8409#32 = some (.divu 1 0x0A 0x08 0x09)
  ∧ decodeWord 0x0000_0000#32 = some .nop
  ∧ decodeWord 0x0040_0000#32 = some .exit
  ∧ decodeWord (0x10#7 ++ 0#4 ++ 0x0B#7 ++ 0x01#7 ++ 0x02#7) = some (.add 0x0B 0x01 0x02)
  ∧ decodeWord (0x0F#7 ++ 0#25) = none ∧ decodeWord (0x2F#7 ++ 0#25) = none ∧ decodeWord (0x5F#7 ++ 0#25) = none

/-- When the word that a picked cut fetches decodes to an instruction, the step is that instruction of the state in which the cut has
issued: the model's own bookkeeping (the issue list, the executing cut and its word, its age, what leases count) stands around it. Where the
instruction only enters a wait, the cut has not issued: the step enters that wait alone, and neither the ages nor the record of the cycle
count it (R31, R32). The event at the head of the agenda is what the next step executes, or it joins the host's writes that wait in their
order (R322; log 1, log 58). -/
def Obligations.StepRunsDecodedInstruction : Prop :=
  (∀ (s : State) (uid : Nat) (rest : List Nat) (c : Cut) (w : W32) (i : Instr),
    s.agenda = [] → s.issue = uid :: rest → s.cutOf uid = some c → c.mayIssue { s with issue := rest } = true →
    c.breakpoint { s with issue := rest } = none → c.fetch { s with issue := rest } = .word w → decodeWord w = some i →
    let t := ({ s with issue := rest } : State).issues c w
    (pureWait t (exec i t) = none → step s = noted t (some i) (exec i t) ∧ (s.leases = [] → step s = exec i t))
    ∧ (∀ v, pureWait t (exec i t) = some v →
        step s = .next (({ t with cuts := s.cuts, issued := s.issued } : State).hold c v))
    ∧ t.cur = c.uid ∧ t.fetched = w ∧ t.mem = s.mem ∧ t.host = s.host)
  ∧ ∀ (s : State) (i : Instr) (rest : List Instr), s.agenda = i :: rest →
    let t : State := if i = .schedulerCycle then ({ s with agenda := rest } : State).waitsEntered else { s with agenda := rest }
    (heldBehind t i = true → step s = .next (t.holdHost (.event i)))
    ∧ (heldBehind t i = false → step s = noted t (some i) (exec i t) ∧ (s.leases = [] → step s = exec i t))

/-! ## What every instruction checks -/

/-- An instruction with a word executes only when its cut passes the shared checks; otherwise their outcome is the next state (R74, R77,
R87, R171, R220, R264). With no executing cut there is nothing to execute, and the machine stops. A word that is not legal, or names no
instruction, raises ILL exactly: it performs nothing, and neither advances nor shifts (R87). -/
def Obligations.SharedChecksDecide : Prop :=
  (∀ (i : Instr) (s : State), (encodeWord i).isSome = true →
    (s.executing = none → exec i s = .fault .noCut)
    ∧ (∀ (c : Cut) (t : State), s.executing = some c → gate s c i = some t → exec i s = .next t)
    ∧ ∀ c : Cut, s.executing = some c → c.legal i (c.usesOf i) = false → exec i s = .next (s.ill c))
  ∧ ∀ (w : W32) (s : State) (c : Cut), s.executing = some c → (decodeWord w).any staticOk = false →
    exec (.illegalInstruction w) s = .next (s.ill c)

/-! ## Operands and results (R18, R74, R76, R78, R80) -/

/-- What reading a specifier gives (R74): `z` uniform zero, `ix`, `iy`, `iz` the components of the item and `il` its linear index, an inline
constant its two's-complement value, a register its own value, in every item alike or item by item. -/
def Obligations.OperandSpecifiersRead : Prop :=
  ∀ (s : State) (c : Cut) (o : Opnd) (before : List Opnd) (p : Nat),
    let v := c.valAt (c.read s o before) p
    (o = 0x4A#7 → v = 0)
    ∧ (o = 0x4B#7 → v = BitVec.ofNat 64 (c.item p).x)
    ∧ (o = 0x4C#7 → v = if c.mill then 0 else BitVec.ofNat 64 (c.item p).y)
    ∧ (o = 0x4D#7 → v = if c.mill then 0 else BitVec.ofNat 64 (c.item p).z)
    ∧ (o = 0x4E#7 → c.mill = false → (p ∈ c.positions) → p < c.span → v = BitVec.ofNat 64 (c.ilAt s p))
    ∧ (0x60 ≤ o.toNat → v = BitVec.ofInt 64 ((o.toNat : Int) - 0x70))
    ∧ (o.toNat < 0x40 → v = c.valAt (c.ctx.v.getD o.toNat (uVal 0)) p)
    ∧ (0x40 ≤ o.toNat → o.toNat < 0x48 → v = c.valAt (c.ctx.o.getD (o.toNat - 0x40) (uVal 0)) p)

/-- A governed register result of an instruction without `q` operands (R76, R78, R80): in the lanes where the guard is true the destination
and `l0` receive the result, elsewhere the destination keeps its value and `l0` is zero, and `l1` becomes what `l0` was; with destination
`z` nothing shifts, and with destination `l0` only the last-result file changes. The cut then goes on. -/
def Obligations.GovernedResult : Prop :=
  ∀ (s : State) (c : Cut) (srcs : List Opnd) (d : Opnd) (v : RegVal),
    srcs.any isQ = false → isQ d = false → writable d = true → c.needsLanes c.gov v = false →
    ∃ k : Cut, s.write c srcs c.gov d v = s.advance k
      ∧ k = { c with ctx := { c.ctx with v := k.ctx.v, o := k.ctx.o, l0 := k.ctx.l0, l1 := k.ctx.l1 } }
      ∧ (d = 0x4A#7 → k = c)
      ∧ (d ≠ 0x4A#7 → k.ctx.l1 = c.ctx.l0 ∧ ∃ r : RegVal, k.ctx.l0 = .val r
          ∧ ∀ p ∈ c.positions, p < c.span → c.valAt r p = if c.guard p then c.valAt v p else 0)
      ∧ (∀ n, n ≠ d.toNat → k.ctx.v.getD n (uVal 0) = c.ctx.v.getD n (uVal 0))
      ∧ (∀ n, n + 0x40 ≠ d.toNat → k.ctx.o.getD n (uVal 0) = c.ctx.o.getD n (uVal 0))
      ∧ (d.toNat < 0x40 → c.ctx.v.length = 64 → ∀ p ∈ c.positions, p < c.span →
          c.valAt (k.ctx.v.getD d.toNat (uVal 0)) p
            = if c.guard p then c.valAt v p else c.valAt (c.ctx.v.getD d.toNat (uVal 0)) p)
      ∧ (0x40 ≤ d.toNat → d.toNat < 0x48 → c.ctx.o.length = 8 → ∀ p ∈ c.positions, p < c.span →
          c.valAt (k.ctx.o.getD (d.toNat - 0x40) (uVal 0)) p
            = if c.guard p then c.valAt v p else c.valAt (c.ctx.o.getD (d.toNat - 0x40) (uVal 0)) p)

/-- What retiring a word leaves of the machine (R81, R107): nothing but the cut changes, and of the cut only its pc and loop stack, the
windows of its outstanding instructions, and the model's bookkeeping of waits, replays and quanta; registers, predicates, MODE, flags,
fences, trap CSRs, memory, the control window and every other cut stand. -/
def Obligations.RetirementFrame : Prop :=
  ∀ (s : State) (c : Cut), ∃ k : Cut, s.advance c = s.putCut k
    ∧ k = { c with
        ctx := { c.ctx with pc := k.ctx.pc, loops := k.ctx.loops }
        outst := c.outst.map fun o => { o with la := o.la - 1 }
        retired := c.retired + 1, wait := k.wait, replay := 0, part := k.part, issuing := [], haltPc := false }
    ∧ (∀ u, u ≠ c.uid → (s.advance c).cutOf u = s.cutOf u)
    ∧ s.advance c = { s with cuts := (s.advance c).cuts }

/-! ## Integer arithmetic (R109 to R119) -/

/-- The integer instructions, the copies and the sign operations of R151 and R152 compute item by item what their tables give, U of U
inputs; a result that a pattern cut cannot hold materializes it (R19, R112 to R117, R119). ADD, SUB, NEG, MUL, SHL, ADDI, MULI and SHLI by
item: whichever form the affine rule gives the result, its value at each item is the one that their tables give from the inputs there (R111
to R113, R116). A sum or difference of inputs in P or U form, not both U, under a 64-bit ET has the bases and strides added or subtracted
modulo 2^64, in P form where every stride fits a signed 32-bit field (R111). -/
def Obligations.IntegerResults : Prop :=
  (∀ (i : Instr) (op : ItemOp) (s : State) (c : Cut), integerOp i = some op → Runs s c i →
    ∃ v : RegVal, exec i s = .next (s.write c op.srcs c.gov op.dst v)
      ∧ (c.needsLanes c.gov v = false → ∀ p ∈ c.governed, p < c.span → c.valAt v p = op.val c p (c.inputsAt s op.srcs p)))
  ∧ ((∀ (i : Instr) (op : ItemOp) (s : State) (c : Cut), affineOp i = some op → Runs s c i →
    ∃ v : RegVal, exec i s = .next (s.write c op.srcs c.gov op.dst v)
      ∧ (c.needsLanes c.gov v = false → ∀ p ∈ c.governed, p < c.span →
          c.valAt v p = op.val c p (c.inputsAt s op.srcs p)))
  ∧ ∀ (s : State) (c : Cut) (d a b : Opnd) (sub : Bool) (x y : W64) (xx xy xz yx yy yz : W32),
    let i : Instr := if sub then .sub d a b else .add d a b
    let f := fun (m n : W64) => if sub then m - n else m + n
    let st := fun (m n : W32) => f (m.signExtend 64) (n.signExtend 64)
    Runs s c i → width c.et = 64 → c.read s a [] = .pat x xx xy xz → c.read s b [a] = .pat y yx yy yz →
    ((c.read s a []).isU && (c.read s b [a]).isU) = false →
    fits32 (st xx yx).toInt = true → fits32 (st xy yy).toInt = true → fits32 (st xz yz).toInt = true →
    exec i s = .next (s.write c [a, b] c.gov d
      (.pat (f x y) ((st xx yx).setWidth 32) ((st xy yy).setWidth 32) ((st xz yz).setWidth 32))))

/-- DIV and DIVU (R76, R77, R118): where some lane performs, the quotient becomes outstanding for d and `l0` and the remainder for `l1`,
two slots of the last-result file reserved and the cut gone on; item by item they are what R118 gives, in U form of two U inputs and L form
otherwise, and DZ is set in exactly the items whose divisor is zero, where the quotient is all ones and the remainder the dividend. A pattern
cut that cannot hold the result materializes; with the guard false everywhere nothing is outstanding and two zeros shift in. The result
arrives in the slots that are still reserved for it, and ASF receives the flags of the governed lanes alone. -/
def Obligations.DivisionResults : Prop :=
  (∀ (signed : Bool) (l : BitVec 4) (d a b : Opnd) (s : State) (c : Cut),
    let i : Instr := if signed then .div l d a b else .divu l d a b
    let u := (c.read s a []).isU && (c.read s b [a]).isU
    Runs s c i →
    ∃ q r : RegVal, ∃ fls : List Nat, q.isU = u ∧ r.isU = u ∧ q.isL = !u ∧ r.isL = !u
      ∧ (c.gov = .none → exec i s = .next (s.complete c [a, b]
          (if isResult d then (c.shift (.val (uVal 0))).shift (.val (uVal 0)) else c)))
      ∧ (c.gov ≠ .none → c.needsLanes c.gov q = true → exec i s = .next (s.lanesOnly c))
      ∧ (c.gov ≠ .none → c.needsLanes c.gov q = false → exec i s = .next (s.await c [a, b] c.gov
          { Outst.of d c.et l.toNat (.value q (some r)) with second := true, flags := fls, uniform := u }))
      ∧ (c.needsLanes c.gov q = false → ∀ p ∈ c.governed,
          let x := c.valAt (c.read s a []) p
          let y := c.valAt (c.read s b [a]) p
          c.valAt q p = opQuot signed c.et x y ∧ c.valAt r p = opRem signed c.et x y
          ∧ (if u then fls.getD 0 0 else fls.getD p 0) = (if lowBits c.et y = 0 then flagDZ else 0)
          ∧ (lowBits c.et y = 0 → c.valAt q p = wrapTo c.et (if signed then -1 else ((2 ^ width c.et : Nat) : Int) - 1)
              ∧ c.valAt r p = extend c.et (lowBits c.et x))))
  ∧ (∀ (s : State) (c : Cut) (srcs : List Opnd) (o : Outst), isResult o.dst = true → o.second = true → srcs.any isQ = false →
    let n := if o.id = 0 then s.nextId else o.id
    ∃ k : Cut, s.await c srcs c.gov o = ({ s with nextId := s.nextId + 1, nextSeq := s.nextSeq + 1 } : State).advance k
      ∧ k = { c with outst := k.outst, ctx := { c.ctx with l0 := .rsv n false, l1 := .rsv n true } }
      ∧ k.outst = c.outst ++ [{ o with
          id := n, seq := s.nextSeq, pc := c.ctx.pc, gov := c.gov.mask c, whole := c.gov == .all, la := o.la + 1, scope := modeSC c.ctx.mode }])
  ∧ ∀ (s : State) (c : Cut) (o : Outst) (v r : RegVal), s.cutOf c.uid = some c → (∀ x ∈ s.cuts, x.uid = c.uid → x = c) →
    c.halted s = false → c.leaving = false → c.ctx.fences.all (·.isNone) = true → c.outst.find? (·.id == o.id) = some o →
    o.what = .value v (some r) →
    isQ o.dst = false → o.piece = false → o.flagPred = none →
    let g := o.govIn c
    ∃ t k, exec (.resultArrival c.uid o.id) s = .next t ∧ KeepsMemory s t ∧ t.cutOf c.uid = some k
      ∧ k.ctx.l0 = c.ctx.l0.fill o.id (c.merge g v (uVal 0)) (c.merge g r (uVal 0))
      ∧ k.ctx.l1 = c.ctx.l1.fill o.id (c.merge g v (uVal 0)) (c.merge g r (uVal 0))
      ∧ k.ctx.asf = (c.ctx.asf ||| BitVec.ofNat 64 (c.flagsOf g o.flags))
      ∧ k.outst = c.outst.filter (·.id != o.id)

/-! ## Floating point (R147 to R158) -/

/-- The rounding instructions of short latency compute item by item what their tables give under the item's own rounding, and raise in ASF
the flags of every governed lane together; ASF never loses one (R63, R64, R148 to R152, R154 to R156). -/
def Obligations.FloatResults : Prop :=
  (∀ (i : Instr) (op : RoundOp) (s : State) (c : Cut), roundOp i = some op → Runs s c i →
    ∃ r : Rounded,
      exec i s = .next (if c.needsLanes c.gov r.v then s.lanesOnly c
        else s.write (c.raiseFlags (c.flagsOf c.gov r.fl)) op.srcs c.gov op.dst r.v)
      ∧ (c.needsLanes c.gov r.v = false → ∀ p ∈ c.governed, p < c.span →
          (c.valAt r.v p, r.flagsAt p) = op.val c.et (c.rndAt s op.srcs p) (c.inputsAt s op.srcs p)))
  ∧ ∀ (c : Cut) (fls : List Nat),
    let k := c.raiseFlags (c.flagsOf c.gov fls)
    k = { c with ctx := { c.ctx with asf := c.ctx.asf ||| BitVec.ofNat 64 (c.flagsOf c.gov fls) } }
    ∧ (fls.length ≠ 1 → c.flagsOf c.gov fls = c.governed.foldl (fun m p => m ||| fls.getD p 0) 0)

/-- The special functions and FDIV become outstanding with the results that their tables give, rounded once, item by item (R77, R157, R158);
with the guard false everywhere nothing is outstanding and `l0` shifts zero in. TWOSUM writes the rounded sum to d and `l0` and the exact
error to `l1`, the earlier last results lost (R76, R153). An error that ET does not hold is the free value of log 3, and the statement holds
for every one. -/
def Obligations.SpecialFunctionResults : Prop :=
  (∀ (i : Instr) (op : RoundOp) (la : Nat) (s : State) (c : Cut), specialOp i = some (op, la) → Runs s c i →
    ∃ r : Rounded, exec i s = .next (s.writeLong c op.srcs op.dst la r.v none r.fl)
      ∧ (c.needsLanes c.gov r.v = false → ∀ p ∈ c.governed, p < c.span →
          (c.valAt r.v p, r.flagsAt p) = op.val c.et (c.rndAt s op.srcs p) (c.inputsAt s op.srcs p))
      ∧ (c.needsLanes c.gov r.v = false → c.gov ≠ .none →
          exec i s = .next (s.await c op.srcs c.gov
            { Outst.of op.dst c.et la (.value r.v none) with flags := r.fl, uniform := r.v.isU }))
      ∧ (c.gov = .none → isResult op.dst = true → exec i s = .next (s.complete c op.srcs (c.shift (.val (uVal 0))))))
  ∧ (∀ (d a b : Opnd) (s : State) (c : Cut), Runs s c (.twosum d a b) → isResult d = true →
    ∃ r : Rounded, ∃ e : RegVal,
      exec (.twosum d a b) s = .next (if c.needsLanes c.gov r.v then s.lanesOnly c
        else s.write ((c.shift (.val (c.merge c.gov e (uVal 0)))).raiseFlags (c.flagsOf c.gov r.fl)) [a, b] c.gov d r.v)
      ∧ (c.needsLanes c.gov r.v = false → ∀ p ∈ c.governed, p < c.span →
          let x := c.valAt (c.read s a []) p
          let y := c.valAt (c.read s b [a]) p
          let rn := c.rndAt s [a, b] p
          (c.valAt r.v p, r.flagsAt p) = opFadd c.et rn x y ∧ c.valAt e p = sumError c.et rn c.ctx.mode x y (opFadd c.et rn x y).1))

/-! ## Predicates (R20, R75, R101 to R104, R167) -/

/-- PAND, POR, PXOR, PANDN, PNOT, PMOV, PFROM and PMAKE write their predicate in the items where the guard is true and keep it elsewhere,
item by item as their tables give it; only a pattern cut may have to materialize for the result (R20, R103, R104, R167). A destination of
`p0` discards the result, a source of `p0` reads true, and a write of any other predicate changes it alone (R75). PANY and PALL write a
uniform predicate whatever the guard, true when the source holds in some, or in every, governed item; PCNT writes their number and PMASK
their lanes, uniformly (R104). CMP and CMPI compare item by item under the guard, as R101 and R102 give the outcome; a signalling NaN in a
governed item of a floating comparison raises IV (R101 to R103, R149). -/
def Obligations.PredicateResults : Prop :=
  (((∀ (i : Instr) (op : PredOp) (s : State) (c : Cut), predOp i = some op → Runs s c i →
    ∃ r : Option PredVal, exec i s = .next (s.writePred c op.srcs op.dst.toNat r)
      ∧ (c.isPattern = false → r.isSome = true)
      ∧ ∀ q, r = some q → ∀ p ∈ c.positions,
          q.at (c.item p) p = if c.guard p then op.val s c p (c.inputsAt s op.srcs p) else c.predAt op.dst.toNat p)
  ∧ ∀ (c : Cut) (q : PredVal) (n m p : Nat),
    c.setPred 0 q = c ∧ c.predAt 0 p = true
    ∧ (n ≠ m → (c.setPred n q).pred m = c.pred m)
    ∧ (n ≠ 0 → n < c.ctx.preds.length → (c.setPred n q).pred n = q)
    ∧ (c.setPred n q) = { c with ctx := { c.ctx with preds := (c.setPred n q).ctx.preds } })
  ∧ (∀ (s : State) (c : Cut) (d : BitVec 3) (r : Opnd) (t : BitVec 1) (a : BitVec 3),
    let on := c.governed.filter (c.srcAt t a)
    (Runs s c (.pany d t a) → exec (.pany d t a) s = .next (s.advance (c.setPred d.toNat (.uni (decide (on ≠ []))))))
    ∧ (Runs s c (.pall d t a) → exec (.pall d t a) s = .next (s.advance (c.setPred d.toNat (.uni (decide (on = c.governed))))))
    ∧ (Runs s c (.pcnt r t a) → exec (.pcnt r t a) s = .next (s.write c [] .all r (uVal (BitVec.ofNat 64 on.length))))
    ∧ (Runs s c (.pmask r t a) → exec (.pmask r t a) s = .next (s.write c [] .all r (uVal (lanesWord on))))))
  ∧ (∀ (s : State) (c : Cut) (k : BitVec 4) (d : BitVec 3) (a b : Opnd) (n : BitVec 11) (imm : Bool),
    let i : Instr := if imm then .cmpi k d a n else .cmp k d a b
    let srcs := if imm then [a] else [a, b]
    let out := fun (p : Nat) =>
      let x := c.valAt (c.read s a []) p
      if imm then outcomeImm k.toNat c.et (modeFTZ c.ctx.mode) n.toInt x
      else outcome k.toNat c.et (modeFTZ c.ctx.mode) x (c.valAt (c.read s b [a]) p)
    Runs s c i →
    ∃ r : Option PredVal, (c.isPattern = false → r.isSome = true)
      ∧ (r = none → exec i s = .next (s.lanesOnly c))
      ∧ ∀ q, r = some q →
        exec i s = .next (s.writePred
          (c.raiseFlags (if !isInt c.et && c.governed.any (fun p => (out p).2) then flagIV else 0)) srcs d.toNat (some q))
        ∧ ∀ p ∈ c.positions, q.at (c.item p) p = if c.guard p then (out p).1 else c.predAt d.toNat p)

/-! ## Forms and identity (R163 to R169, R22) -/

/-- FORM writes a's values to d in the governed items and changes no other item's (R164): in a pattern cut as MOV; in any other cut d then
holds the merged values, in U form where all of them are equal, and the last results shift, zero in the items that are not governed;
a `q` destination receives the entry, and `z` nothing. KILL
sets every register from a to b to uniform zero and every predicate of its mask to uniform false, in every item whatever the guard, and
nothing else changes; `z` in both fields names no register (R168). -/
def Obligations.FormAndKill : Prop :=
  (∀ (s : State) (c : Cut) (d a : Opnd), Runs s c (.form d a) → c.ctx.v.length = 64 → c.ctx.o.length = 8 →
    let x := c.read s a []
    let r := fun (k : Cut) => k.oldReg d
    (c.isPattern = true → exec (.form d a) s = .next (s.write c [a] c.gov d x))
    ∧ (c.isPattern = false → ∃ k : Cut,
        let t := s.popAll c [a]
        let t := if isQ d && c.gov.anyLane then t.pushQ c d (c.entry c.gov x) c.ctx.pc else t
        exec (.form d a) s = .next (t.advance k)
        ∧ k = { c with
            ctx := { c.ctx with v := k.ctx.v, o := k.ctx.o, l0 := k.ctx.l0, l1 := k.ctx.l1 }
            effects := c.effects || isQ a || (isQ d && c.gov.anyLane) }
        ∧ (d = 0x4A#7 → k.ctx.l0 = c.ctx.l0 ∧ k.ctx.l1 = c.ctx.l1)
        ∧ (d ≠ 0x4A#7 → k.ctx.l1 = c.ctx.l0 ∧ ∃ y : RegVal, k.ctx.l0 = .val y
            ∧ ∀ p ∈ c.positions, c.valAt y p = if c.guard p then c.valAt x p else 0)
        ∧ (d.toNat < 0x48 →
            (∀ p ∈ c.positions, c.valAt (r k) p = if c.guard p then c.valAt x p else c.valAt (r c) p)
            ∧ (c.positions ≠ [] → (∀ p ∈ c.positions, ∀ q ∈ c.positions, c.valAt (r k) p = c.valAt (r k) q) → (r k).isU = true))
        ∧ (∀ n, n ≠ d.toNat → k.ctx.v.getD n (uVal 0) = c.ctx.v.getD n (uVal 0))
        ∧ (∀ n, n + 0x40 ≠ d.toNat → k.ctx.o.getD n (uVal 0) = c.ctx.o.getD n (uVal 0))))
  ∧ (∀ (s : State) (c : Cut) (m a b : Opnd), Runs s c (.kill m a b) →
    ∃ k : Cut, exec (.kill m a b) s = .next (s.advance k)
      ∧ k = { c with ctx := { c.ctx with v := k.ctx.v, o := k.ctx.o, preds := k.ctx.preds } }
      ∧ (∀ n, n < c.ctx.v.length → n < 0x40 → k.ctx.v.getD n (uVal 0)
          = if a.toNat ≤ n ∧ n ≤ b.toNat then uVal 0 else c.ctx.v.getD n (uVal 0))
      ∧ (∀ n, n < c.ctx.o.length → n < 8 → k.ctx.o.getD n (uVal 0)
          = if a ≠ 0x4A#7 ∧ a.toNat ≤ n + 0x40 ∧ n + 0x40 ≤ b.toNat then uVal 0 else c.ctx.o.getD n (uVal 0))
      ∧ (∀ n, 0 < n → n < 8 → n < c.ctx.preds.length → k.pred n = if m.toNat.testBit (n - 1) then .uni false else c.pred n))

/-- PGET describes the stored form of a (R166): the base, the strides sign-extended, and 0, 1 or 2 for U, P and L. -/
def Obligations.PgetDescribesForm : Prop :=
  ∀ (s : State) (c : Cut) (d a b : Opnd),
    (s.executing = some c → b ∉ [0x70#7, 0x71#7, 0x72#7, 0x73#7, 0x74#7] → exec (.pget d a b) s = .next (s.ill c))
    ∧ (Runs s c (.pget d a b) → ∃ r : W64, exec (.pget d a b) s = .next (s.write c [a] c.gov d (uVal r))
      ∧ (∀ x sx sy sz, c.read s a [] = .pat x sx sy sz →
          (b = 0x70#7 → r = x) ∧ (b = 0x71#7 → r = sx.signExtend 64) ∧ (b = 0x72#7 → r = sy.signExtend 64)
          ∧ (b = 0x73#7 → r = sz.signExtend 64)
          ∧ (b = 0x74#7 → r = if sx = 0 ∧ sy = 0 ∧ sz = 0 then 0 else 1))
      ∧ (∀ xs, c.read s a [] = .lanes xs → r = if b = 0x74#7 then 2 else 0)
      ∧ (isQ a = true → ∃ xs, c.read s a [] = .lanes xs))

/-- CUTID, PARID and CUTBOX write uniform values (R22, R169): the identifier in its layout, the parent lane cut's for a fragment or stray,
and what the active items' box is. -/
def Obligations.NamingResults : Prop :=
  ∀ (s : State) (c : Cut) (d b : Opnd),
    (Runs s c (.cutid d) → exec (.cutid d) s = .next (s.write c [] c.gov d (uVal c.cutid)))
    ∧ (Runs s c (.parid d) → exec (.parid d) s = .next (s.write c [] c.gov d (uVal (c.parid s))))
    ∧ (Runs s c (.cutbox d b) → ∃ n : Nat, exec (.cutbox d b) s = .next (s.write c [] c.gov d (uVal (BitVec.ofNat 64 n)))
        ∧ (b = 0x70#7 → n = c.ilLow s) ∧ (b = 0x71#7 → n = c.positions.length)
        ∧ (b = 0x72#7 → n = c.theBox.lo.x) ∧ (b = 0x73#7 → n = c.theBox.lo.y) ∧ (b = 0x74#7 → n = c.theBox.lo.z)
        ∧ (b = 0x75#7 → n = c.theBox.nx) ∧ (b = 0x76#7 → n = c.theBox.ny) ∧ (b = 0x77#7 → n = c.theBox.nz))
    ∧ (c.frag < 8 →
        fld c.cutid 62 2 = (match c.kind with | .pattern => 0 | .lane => 1 | .fragment => 2 | .stray => 3)
        ∧ fld c.cutid 59 3 = (if c.kind = .fragment then c.frag else 0) ∧ fld c.cutid 58 1 = (if c.mill then 1 else 0)
        ∧ fld c.cutid 40 18 = 0 ∧ fld c.cutid 0 40 = c.first % 2 ^ 40)

/-! ## Lanes (R159 to R162) -/

/-- SHFL, SHFLX, SHFLU, SHFLD, LIDX and MATL write, in each governed lane, the value of the lane that R160 names, zero from a lane that is
not active (R159, R160, R165). BCAST gives every governed lane the value of one lane, and raises ILL where b is not U; VOTE writes the mask
of the governed lanes whose element is not zero, and COMPACT the governed lanes' values in ascending lanes and then zeros, both whatever the
guard (R160). -/
def Obligations.LaneMoves : Prop :=
  (∀ (i : Instr) (d : Opnd) (srcs : List Opnd) (f : Cut → Nat → List RegVal → W64) (s : State) (c : Cut),
    laneOp i = some (d, srcs, f) → Runs s c i →
    ∃ v : RegVal, v.isL = true ∧ exec i s = .next (s.write c srcs c.gov d v)
      ∧ ∀ p ∈ c.positions, c.valAt v p = f c p (c.inputs s srcs))
  ∧ (∀ (s : State) (c : Cut) (d a b : Opnd),
    let x := c.read s a []
    let y := c.read s b [a]
    (Runs s c (.bcast d a b) → exec (.bcast d a b) s = .next
      (if y.isU then s.write c [a, b] c.gov d (uVal (c.lane x (fld y.base 0 5))) else s.ill c))
    ∧ (Runs s c (.vote d a) → ∃ m : W64, exec (.vote d a) s = .next (s.write c [a] .all d (uVal m))
        ∧ ∀ n, n < 32 → (m.getLsbD n = (decide (n ∈ c.governed) && (lowBits c.et (c.valAt x n) != 0))))
    ∧ (Runs s c (.compact d a) → ∃ v : RegVal, exec (.compact d a) s = .next (s.write c [a] .all d v)
        ∧ ∀ p ∈ c.positions, c.valAt v p = (c.governed.map (c.valAt x)).getD p 0))

/-- RED and SCAN become outstanding with the pairings of R70 and R71 over the lanes' inputs, a lane outside the guard giving the identity, and
the cut goes on; with the guard false everywhere nothing is outstanding and zero shifts in. RED gives one value, SCAN each lane the pairing
up to its own lane, or for an exclusive scan up to the lane below it and the identity in lane 0; the flags of every pairing are raised. The
integer sum, without SAT, is the wrapped sum of the governed lanes, and of those up to its own for a scan (R70, R71, R161). DP4, DP4U and DP2
write each lane the sum of the products of its group's governed lanes: exact and wrapped to 64 bits for integers, exact and rounded once for
floats, with the flags of the products, of the sum and of a signalling input raised in the governed lanes (R162). -/
def Obligations.LaneReductions : Prop :=
  (∀ (s : State) (c : Cut) (l : BitVec 4) (d a b : Opnd),
    let x := c.read s a []
    let op := constOf b
    let sum := fun (lo hi : Nat) => (c.governed.filter fun p => decide (lo ≤ p ∧ p < hi)).foldl
      (fun (n : Int) p => n + intValue c.et (c.valAt x p)) 0
    let nothing := s.complete c [a] (if isResult d then c.shift (.val (uVal 0)) else c)
    (Runs s c (.red l d a b) → ∃ (v : W64) (fl : Nat),
      (c.gov = .none → exec (.red l d a b) s = .next nothing)
      ∧ (c.gov ≠ .none → exec (.red l d a b) s = .next (s.await c [a] c.gov
          { Outst.of d c.et l.toNat (.value (uVal v) none) with flags := [fl], uniform := true }))
      ∧ (let r := tree s c op c.et [16, 8, 4, 2, 1] 0 (c.laneInputs op c.et x) 0; v = extend c.et r.1.toNat ∧ fl = r.2)
      ∧ (op = 0 → isInt c.et = true → modeSAT c.ctx.mode = false → v = wrapTo c.et (sum 0 32)))
    ∧ (Runs s c (.scan l d a b) → ∃ (v : RegVal) (fl : Nat), v.isL = true
      ∧ (c.gov = .none → exec (.scan l d a b) s = .next nothing)
      ∧ (c.gov ≠ .none → exec (.scan l d a b) s = .next (s.await c [a] c.gov
          { Outst.of d c.et l.toNat (.value v none) with flags := [fl] }))
      ∧ (let r := koggeStone s c (op % 8) c.et [1, 2, 4, 8, 16] 0 (c.laneInputs (op % 8) c.et x) 0;
          fl = r.2 ∧ ∀ p ∈ c.positions, c.valAt v p = asResult (modeFTZ c.ctx.mode) c.et
            (if op < 8 then r.1.getD p 0 else if p = 0 then identity (op % 8) c.et else r.1.getD (p - 1) 0))
      ∧ (op % 8 = 0 → isInt c.et = true → modeSAT c.ctx.mode = false → ∀ p ∈ c.positions,
          c.valAt v p = wrapTo c.et (sum 0 (if op < 8 then p + 1 else p)))))
  ∧ (∀ (c : Cut) (op : Nat) (v : RegVal), (c.laneInputs op c.et v).length = 32
    ∧ (c.isPattern = false → ∀ p, p < 32 → (c.laneInputs op c.et v)[p]? = some (if p ∈ c.governed then c.valAt v p else identity op c.et)))
  ∧ (∀ (i : Instr) (s : State) (c : Cut) (d a b : Opnd) (size t out : Nat),
    (i, size, t, out) ∈ [(Instr.dp4 d a b, 4, iw c.et, 6), (Instr.dp4u d a b, 4, nw c.et, 7), (Instr.dp2 d a b, 2, iw c.et, 6)] →
    Runs s c i →
    let x := c.read s a []
    let y := c.read s b [a]
    let group := fun (p : Nat) => c.governed.filter fun q => q / size == p / size
    (c.et < 8 → ∃ v : RegVal, v.isL = true ∧ exec i s = .next (s.write c [a, b] c.gov d v)
      ∧ ∀ p ∈ c.positions, c.valAt v p = wrapTo out ((group p).foldl
          (fun (n : Int) q => n + intValue t (c.valAt x q) * intValue t (c.valAt y q)) 0))
    ∧ (8 ≤ c.et → ∃ r : Rounded, r.v.isL = true
      ∧ exec i s = .next (s.write (c.raiseFlags (c.flagsOf c.gov r.fl)) [a, b] c.gov d r.v)
      ∧ ∀ p ∈ c.positions,
        let m := c.rnd s (c.ilAt s p) 0
        let ins := (group p).map fun q => (readNum m.ftz c.et (c.valAt x q), readNum m.ftz c.et (c.valAt y q))
        let ps := ins.map fun n => numMul n.1 n.2
        let sum := numSum m.rm (ps.map (·.1))
        (c.valAt r.v p, r.flagsAt p) = finish m c.et (sum.1, ps.foldl (fun f n => f ||| n.2) sum.2)
          (sigFlag (ins.flatMap fun n => [n.1, n.2]))))

/-! ## Control (R89 to R100, R105 to R108) -/

/-- NOP retires and does nothing else; YIELD retires and leaves its cut ineligible until another cut of its scheduler issues or for 16
cycles, which on a Mill acts as NOP; the wait's end makes it eligible again (R94, R265). EXIT (R95): after outstanding results the governed
items end. With none governed it acts as NOP; a cut with no item left is gone; a lane cut whose other lanes remain keeps its identifier and
goes on with them; a pattern cut goes on over the box that remains, or materializes where none does. -/
def Obligations.EndingInstructions : Prop :=
  (∀ (s : State) (c : Cut),
    (Runs s c .nop → exec .nop s = .next (s.advance c))
    ∧ (Runs s c .yield → c.onMill = false → exec .yield s = .next (s.retired { c.advance with wait := .yield (s.cycle + 16) }))
    ∧ (Runs s c .yield → c.onMill = true → exec .yield s = .next (s.retired c.advance))
    ∧ (∀ till, s.cutOf c.uid = some c → c.wait = .yield till → till ≤ s.cycle →
        exec (.yieldExpiry c.uid) s = .next (s.putCut { c with wait := .none })))
  ∧ (∀ (s : State) (c : Cut), Runs s c .exit →
    let rest := c.positions.filter fun p => !c.guard p
    (c.outst ≠ [] → exec .exit s = .next (s.hold c .results))
    ∧ (c.outst = [] → c.governed = [] → exec .exit s = .next (s.advance c))
    ∧ (c.outst = [] → c.governed ≠ [] → rest = [] → c.mill = false → c.sec.state = .out →
        ∃ t, exec .exit s = .next t ∧ t.cutOf c.uid = none ∧ ∀ u, u ≠ c.uid → (t.cutOf u).isSome = (s.cutOf u).isSome)
    ∧ (c.outst = [] → c.governed ≠ [] → rest ≠ [] → c.isPattern = false →
        ∃ t k, exec .exit s = .next t ∧ t.cutOf c.uid = some k ∧ k.ctx.active = maskOf 32 (fun p => decide (p ∈ rest))
          ∧ k.ctx.pc = c.advance.ctx.pc ∧ k.cutid = c.cutid ∧ k.ctx.v = c.ctx.v ∧ k.ctx.preds = c.ctx.preds)
    ∧ (c.outst = [] → c.governed ≠ [] → rest ≠ [] → c.isPattern = true →
        let its := rest.map c.item
        exec .exit s = .next (if (boundingBox its).size = its.length then s.exitBox c (boundingBox its) else s.lanesOnly c)))

/-- MODEI sets MODE[17:0] and leaves MODE[31:18], or raises MOD with MODE unchanged where that sets a reserved value of LF, SC or RM; the
guard does not govern it, and its word is 0x0400_0000 | n (R99). -/
def Obligations.ModeiSetsLowBits : Prop :=
  ∀ (n : BitVec 18), encodeWord (.modei n) = some (0x0400_0000#32 ||| n.setWidth 32)
    ∧ ∀ (s : State) (c : Cut), Runs s c (.modei n) →
      let m : W32 := (c.ctx.mode &&& 0xFFFC_0000#32) ||| n.setWidth 32
      (modeLegal m = true → exec (.modei n) s = .next (s.advance { c with ctx := { c.ctx with mode := m } }))
      ∧ (modeLegal m = false → exec (.modei n) s = .next (s.raiseAll c causeMOD 0))

/-- MODE writes the low 32 bits of a register whose value is the same in every active item, where they are a legal mode; a guard false
everywhere leaves MODE as it is, and a mixed guard, values that differ in any of their 64 bits, or a reserved value raise MOD (R80, R98). -/
def Obligations.ModeSetsMode : Prop :=
  ∀ (s : State) (c : Cut) (a : Opnd), Runs s c (.mode a) → c.positions ≠ [] →
    let v := c.read s a []
    (c.governed = [] → exec (.mode a) s = .next (s.complete c [a] c))
    ∧ (c.governed ≠ [] → c.governed ≠ c.positions → exec (.mode a) s = .next (s.raiseAll c causeMOD 0))
    ∧ (∀ x : W64, c.governed = c.positions → (∀ p ∈ c.positions, c.valAt v p = x) →
        let m : W32 := x.setWidth 32
        (modeLegal m = true → exec (.mode a) s = .next (s.complete c [a] { c with ctx := { c.ctx with mode := m } }))
        ∧ (modeLegal m = false → exec (.mode a) s = .next (s.raiseAll c causeMOD 0)))
    ∧ (∀ p ∈ c.positions, ∀ q ∈ c.positions, c.governed = c.positions → c.valAt v p ≠ c.valAt v q →
        exec (.mode a) s = .next (s.raiseAll c causeMOD 0))

/-- BR and JMP (R90, R91, R93): where no active item takes the transfer the cut goes on at the next word; where every one does, and the
target may be executed, the whole cut goes on at pc + 4·off21 with the loop levels it leaves unwound; a target outside the executable part
of the code object raises BND at the items that would take it, and none goes. A BR or JMP that some active lanes of a lane cut take and
others do not splits it (R25, R91): the others keep the cut's index and go on at the next word, and the taken lanes leave as a new fragment at the
target; both keep every register, predicate and MODE. CALL, CALLR, JMPR and RET whose every active item goes to one target that may be
executed (R90, R92, R108): the cut goes on there; the calls write pc + 4 to `o7` as a register result and keep the loop stack, the others
unwind it. A register target that is no multiple of 4 raises ALN, one outside the launch's code object or its executable part BND, and no
lane transfers (R93). -/
def Obligations.BranchesTransfer : Prop :=
  ((∀ (i : Instr) (off : BitVec 21) (cond : Cut → Nat → Bool) (s : State) (c : Cut),
    transferOp i = some (off, cond) → Runs s c i →
    let t := c.ctx.pc + BitVec.ofInt 64 (4 * off.toInt)
    let taken := c.positions.filter (cond c)
    (taken = [] → exec i s = .next (s.advance c))
    ∧ (taken ≠ [] → taken = c.positions → targetCause s c false t = 0 → exec i s = .next (s.retired (c.goTo t (unwind c.ctx.pc t c.ctx.loops))))
    ∧ (taken ≠ [] → targetCause s c false t ≠ 0 → targetCause s c false t = causeBND ∧ exec i s = .next (s.raiseAt c causeBND t taken)))
  ∧ (∀ (i : Instr) (off : BitVec 21) (cond : Cut → Nat → Bool) (s : State) (c : Cut) (f : Nat),
    transferOp i = some (off, cond) → Runs s c i → c.isPattern = false →
    (∀ d ∈ s.cuts, d.uid < s.nextUid ∧ (d.uid = c.uid → d = c)) →
    let t := c.ctx.pc + BitVec.ofInt 64 (4 * off.toInt)
    let m := maskOf 32 fun p => inMask c.ctx.active p && cond c p
    m ≠ 0 → m ≠ c.ctx.active → targetCause s c false t = 0 → lowestFree 0 8 (c.frag :: fragsUsed s c) = some f →
    ∃ (u : State) (k d : Cut), exec i s = .next u ∧ u.cutOf k.uid = some k ∧ u.cutOf d.uid = some d
      ∧ (c.onMill = false → k.uid = s.nextUid ∧ d.uid = s.nextUid + 1) ∧ (c.onMill = true → k.uid = c.uid ∧ d.uid = s.nextUid)
      ∧ k.ctx.active = c.ctx.active &&& ~~~m ∧ k.ctx.pc = c.advance.ctx.pc ∧ k.kind ≠ .lane
      ∧ d.ctx.active = m ∧ d.ctx.pc = t ∧ d.kind = .fragment ∧ d.frag = f ∧ d.parent = c.parent ∧ c.uid ∈ d.anc
      ∧ k.ctx.v = c.ctx.v ∧ k.ctx.o = c.ctx.o ∧ k.ctx.preds = c.ctx.preds ∧ k.ctx.mode = c.ctx.mode
      ∧ d.ctx.v = c.ctx.v ∧ d.ctx.o = c.ctx.o ∧ d.ctx.preds = c.ctx.preds ∧ d.ctx.mode = c.ctx.mode
      ∧ u.mem = s.mem ∧ u.win = s.win))
  ∧ ((∀ (s : State) (c : Cut) (t : W64), c.positions ≠ [] → c.governed = c.positions →
    let linked := fun (k : Cut) => k.result .all 0x47#7 (uVal (c.ctx.pc + 4))
    (∀ off : BitVec 21, Runs s c (.call off) → t = c.ctx.pc + BitVec.ofInt 64 (4 * off.toInt) → c.atEnd = false →
        targetCause s c false t = 0 → exec (.call off) s = .next (s.retired ((linked c).goTo t c.ctx.loops)))
    ∧ ∀ a : Opnd, (∀ p ∈ c.positions, c.valAt (c.read s a []) p = t) → (c.isPattern = true → (c.read s a []).isU = true) →
        targetCause s c true t = 0 →
        (Runs s c (.callr a) → c.atEnd = false →
          exec (.callr a) s = .next ((s.popAll c [a]).retired ((linked (c.popped [a])).goTo t c.ctx.loops)))
        ∧ (Runs s c (.jmpr a) → exec (.jmpr a) s
            = .next ((s.popAll c [a]).retired ((c.popped [a]).goTo t (unwind c.ctx.pc t c.ctx.loops))))
        ∧ (a = 0x47#7 → Runs s c .ret → exec .ret s = .next (s.retired (c.goTo t (unwind c.ctx.pc t c.ctx.loops)))))
  ∧ ∀ (s : State) (c : Cut) (t : W64),
    (t.toNat % 4 ≠ 0 → targetCause s c true t = causeALN)
    ∧ (t.toNat % 4 = 0 → objOf t ≠ objOf (s.launchOf c.lid).kcode → targetCause s c true t = causeBND)
    ∧ (t.toNat % 4 = 0 → accessCause s c.unit (c.asid s) t 4 1 .exec ≠ 0 → targetCause s c true t = causeBND)
    ∧ ∀ a : Opnd, Runs s c (.jmpr a) → c.isPattern = false → c.governed ≠ [] → (∀ p ∈ c.governed, c.valAt (c.read s a []) p = t) →
        targetCause s c true t ≠ 0 → exec (.jmpr a) s = .next (s.stop c (c.cause (targetCause s c true t) t (lanesWord c.governed))))

/-- LOOP and LOOPI (R106): a count of 0 or less goes on after the body; a positive one opens a level over the body, or with four levels live
raises LOV; a LEND beyond that of the innermost level that holds the instruction, or a LOOP count that differs between items, raises ILL. A
taken BR, JMP, JMPR or RET whose own address lies within a level's body and whose target lies outside it unwinds that level and every level
inside it, and no other; LBRK leaves the innermost level as though its count had run out, and raises ILL with none live (R108). -/
def Obligations.LoopInstructions : Prop :=
  (∀ (s : State) (c : Cut) (e : Opnd) (n : BitVec 14) (imm : BitVec 11) (reg : Bool) (count : Int),
    let i : Instr := if reg then .loop e n else .loopi imm n
    let srcs := if reg then [e] else []
    let stop := c.ctx.pc + BitVec.ofNat 64 (4 * n.toNat)
    let go := fun (t : W64) (ls : List Level) => (s.popAll c srcs).retired ((c.popped srcs).goTo t ls)
    let at_ := fun (p : Nat) => ((c.valAt (c.read s e []) p).setWidth 32).toInt
    Runs s c i → c.positions ≠ [] →
    (reg = true → (c.read s e []).isU = false → (∃ p ∈ c.positions, ∃ q ∈ c.positions, at_ p ≠ at_ q) → exec i s = .next (s.ill c))
    ∧ ((∃ l, c.ctx.loops.find? (·.body c.ctx.pc) = some l ∧ l.stop.toNat < stop.toNat) → exec i s = .next (s.ill c))
    ∧ (c.atEnd = false → ((reg = true ∧ ∀ p ∈ c.positions, at_ p = count) ∨ (reg = false ∧ imm.toInt = count)) →
      (∀ l, c.ctx.loops.find? (·.body c.ctx.pc) = some l → stop.toNat ≤ l.stop.toNat) →
      (count ≤ 0 → exec i s = .next (go (stop + 4) c.ctx.loops))
      ∧ (0 < count → c.ctx.loops.length < 4 →
          exec i s = .next (go (c.ctx.pc + 4) (⟨c.ctx.pc + 4, stop, BitVec.ofInt 64 count⟩ :: c.ctx.loops)))
      ∧ (0 < count → 4 ≤ c.ctx.loops.length → exec i s = .next (s.raiseAll c causeLOV 0))))
  ∧ ((∀ (src dst : W64) (ls : List Level), ∃ gone, ls = gone ++ unwind src dst ls
    ∧ (∀ l ∈ unwind src dst ls, l.body src = true → l.body dst = true)
    ∧ (gone = [] ∨ ∃ l, gone.getLast? = some l ∧ l.body src = true ∧ l.body dst = false))
  ∧ ∀ (s : State) (c : Cut), Runs s c .lbrk →
    (c.ctx.loops = [] → exec .lbrk s = .next (s.ill c))
    ∧ ∀ l rest, c.ctx.loops = l :: rest →
        let k : Cut := { c with ctx := { c.ctx with pc := l.stop, loops := rest } }
        exec .lbrk s = .next (s.retired (c.goTo k.advance.ctx.pc k.advance.ctx.loops)))

/-- The end of a word at the innermost live level's LEND (R107): the level counts down and loops back, or leaves and the next level with the
same LEND is taken in turn; elsewhere the next word follows. A taken branch skips it, the loop-back does not retire, and CALL, CALLR, LOOP
and LOOPI raise ILL at a LEND. -/
def Obligations.EndProcessing : Prop :=
  ∀ (s : State) (c : Cut),
    (c.ctx.loops = [] → c.advance.ctx.pc = c.ctx.pc + 4 ∧ c.advance.ctx.loops = [])
    ∧ (∀ l rest, c.ctx.loops = l :: rest → l.stop ≠ c.ctx.pc → c.advance.ctx.pc = c.ctx.pc + 4 ∧ c.advance.ctx.loops = l :: rest)
    ∧ (∀ l rest, c.ctx.loops = l :: rest → l.stop = c.ctx.pc → l.cnt ≠ 1 →
        c.advance.ctx.pc = l.start ∧ c.advance.ctx.loops = { l with cnt := l.cnt - 1 } :: rest)
    ∧ (∀ l rest, c.ctx.loops = l :: rest → l.stop = c.ctx.pc → l.cnt = 1 →
        let k : Cut := { c with ctx := { c.ctx with loops := rest } }
        c.advance.ctx.pc = k.advance.ctx.pc ∧ c.advance.ctx.loops = k.advance.ctx.loops)
    ∧ c.advance.retired = c.retired + 1
    ∧ (∀ t, (c.jump t).ctx.pc = t ∧ (c.jump t).ctx.loops = unwind c.ctx.pc t c.ctx.loops)
    ∧ (c.atEnd = true → ∀ i, (∃ off, i = Instr.call off) ∨ (∃ a, i = Instr.callr a) ∨ (∃ e n, i = Instr.loop e n) ∨ (∃ m n, i = Instr.loopi m n) →
        Runs s c i → exec i s = .next (s.ill c))

/-- SEAM (R26 to R28, R173, R174): after outstanding results a fragment or stray waits for its siblings, a seamable cut for partners, and
any other cut goes on with `l0` and `l1` zero. 64 cycles after the first arrival, or once every live cut of the launch waits there, no cut
of the launch waits there any more; a group that covers a box becomes one pattern cut over it, with its first cut's registers, predicates,
MODE and loop stack and `l0` and `l1` zero. When every sibling has exited, stands at a SEAM or has trapped, no part of the family waits for
siblings any more: parts that stand together rejoin into one cut with all their lanes, which is the lane cut again where no other part
lives, and each lane keeps its own value of every register and predicate. -/
def Obligations.SeamWaits : Prop :=
  (∀ (s : State) (c : Cut), Runs s c .seam →
    (c.outst ≠ [] → exec .seam s = .next (s.hold c .results))
    ∧ (c.outst = [] → c.kind = .fragment ∨ c.kind = .stray → exec .seam s = .next (s.hold c (.seam c.ctx.pc s.cycle false)))
    ∧ (c.outst = [] → c.kind ≠ .fragment → c.kind ≠ .stray → c.seamable s = true →
        ∃ since, since ≤ s.cycle ∧ exec .seam s = .next (s.hold c (.seam c.ctx.pc since true)))
    ∧ (c.outst = [] → c.kind ≠ .fragment → c.kind ≠ .stray → c.seamable s = false →
        exec .seam s = .next (s.advance { c with wait := .none, ctx := { c.ctx with l0 := .val (uVal 0), l1 := .val (uVal 0) } })))
  ∧ (∀ (s : State) (lid : Nat) (pc : W64),
    (s.launchOf lid).qm = false → seamHalted s lid pc = false →
    (∀ n, seamSince s lid pc = some n → n + 64 ≤ s.cycle →
      ∃ t, exec (.seamWaitLimit lid pc) s = .next t ∧ KeepsMemory s t ∧ ∀ c ∈ t.cuts, c.lid = lid → c.seaming pc = none)
    ∧ ((seamSince s lid pc).isSome = true → (∀ c ∈ s.cuts, c.lid = lid → (c.seaming pc).isSome = true) →
      ∃ t, exec (.seamWaitEnd lid pc) s = .next t ∧ KeepsMemory s t ∧ ∀ c ∈ t.cuts, c.lid = lid → c.seaming pc = none)
    ∧ (∀ c : Cut, s.cutOf c.uid = some c → mayRejoin (familyOf s c) = true → (∀ d ∈ familyOf s c, d.halted s = false) →
      ∃ t, exec (.rejoin c.uid) s = .next t ∧ KeepsMemory s t
        ∧ ∀ d ∈ t.cuts, d.parent = c.parent → d.lid = c.lid → d.isPattern = false → d.rejoining = false))
  ∧ (∀ (s : State) (g : List Cut) (b : Box) (k : Cut), groupBox g = some b → seamed s g b = some k →
    b.size = (g.flatMap Cut.activeItems).length
    ∧ ∃ p rest, g = p :: rest ∧ k.kind = .pattern ∧ k.box = b ∧ k.uid = p.uid ∧ k.lid = p.lid ∧ k.ctx.pc = p.ctx.pc
      ∧ k.ctx.v = p.ctx.v ∧ k.ctx.o = p.ctx.o ∧ k.ctx.preds = p.ctx.preds ∧ k.ctx.mode = p.ctx.mode ∧ k.ctx.loops = p.ctx.loops
      ∧ k.ctx.l0 = .val (uVal 0) ∧ k.ctx.l1 = .val (uVal 0))
  ∧ ∀ (s : State) (parts : List Cut) (j : Cut), rejoined s parts = some j →
    (∀ q ∈ parts, ∀ r ∈ parts, q.items = r.items ∧ q.isPattern = false) →
    (∀ q ∈ parts, ∀ r ∈ parts, ∀ i, inMask q.ctx.active i = true → inMask r.ctx.active i = true → q = r) →
    (∃ p ∈ parts, j.uid = p.uid ∧ j.parent = p.parent ∧ j.ctx.pc = p.ctx.pc ∧ j.ctx.mode = p.ctx.mode ∧ j.ctx.loops = p.ctx.loops
      ∧ ((∀ q ∈ siblings s p, ∃ r ∈ parts, r.uid = q.uid) → j.kind = .lane ∧ j.frag = 0)
      ∧ ((∃ q ∈ siblings s p, ∀ r ∈ parts, r.uid ≠ q.uid) → j.kind = .fragment))
    ∧ j.ctx.l0 = .val (uVal 0) ∧ j.ctx.l1 = .val (uVal 0)
    ∧ (∀ i, inMask j.ctx.active i = true ↔ ∃ q ∈ parts, inMask q.ctx.active i = true)
    ∧ ∀ q ∈ parts, ∀ i, i < 32 → inMask q.ctx.active i = true →
      (∀ n, n < 64 → j.valAt (j.ctx.v.getD n (uVal 0)) i = q.valAt (q.ctx.v.getD n (uVal 0)) i)
      ∧ (∀ n, n < 8 → j.valAt (j.ctx.o.getD n (uVal 0)) i = q.valAt (q.ctx.o.getD n (uVal 0)) i)
      ∧ ∀ n, n < 8 → j.predAt n i = q.predAt n i

/-! ## Traps (R87, R96, R97, R336 to R340, R348) -/

/-- TFENCE, BKPT, TRAP and HALTD (R96, R97): the cut stops with the cause, lanes and TDONE that the rules give, so that TRET resumes after
it; TFENCE without an enabled flag, TRAP with no governed lane, and HALTD with no debugger act as NOP. TRET (R348): in the handler, with a
saved loop stack and a TPC that can be resumed, `l0`, `l1` and the loop stack are restored and INH is cleared; where TDONE covers every item
execution resumes after the word at TPC, with end processing, else the word executes again for the items that TDONE does not name. Outside
the handler, or where they cannot be resumed, it raises ILL. No register, predicate, MODE, flag or memory changes. -/
def Obligations.TrapInstructions : Prop :=
  (∀ (s : State) (c : Cut) (n : BitVec 18),
    let e := fun (causes : Nat) (addr lanes : W64) => (⟨BitVec.ofNat 64 causes, c.ctx.pc, addr, lanes, c.allLanes, 0⟩ : TrapPend)
    (Runs s c .tfence → c.outst.any Outst.mayFlag = false →
      exec .tfence s = .next (if c.ctx.asf &&& c.ctx.tenable ≠ 0 then s.stop c (e causeARI 0 c.allLanes) else s.advance c))
    ∧ (Runs s c .bkpt → exec .bkpt s = .next (s.stop c (e causeBKP 0 c.allLanes)))
    ∧ (Runs s c (.trap n) → c.governed = [] → exec (.trap n) s = .next (s.advance c))
    ∧ (Runs s c (.trap n) → c.governed ≠ [] → c.isPattern = false →
        exec (.trap n) s = .next (s.stop c (e causeTRP (n.setWidth 64) (lanesWord c.governed))))
    ∧ (Runs s c (.trap n) → c.governed ≠ [] → c.isPattern = true →
        exec (.trap n) s = .next (if c.governed = c.positions then s.stop c (e causeTRP (n.setWidth 64) c.allLanes) else s.lanesOnly c))
    ∧ (Runs s c .haltd → c.armed s = none → exec .haltd s = .next (s.advance c))
    ∧ (Runs s c .haltd → ∀ slot, c.armed s = some slot → exec .haltd s = .next (s.triggerAt c slot 3 0)))
  ∧ (∀ (s : State) (c : Cut), Runs s c .tret →
    let ok := savedLoopsOk c.trap.sloops = true ∧ targetCause s c true c.trap.tpc = 0
    let back : Cut := { c with ctx := { c.ctx with pc := c.trap.tpc, loops := (liveLevels c.trap.sloops).reverse } }
    (c.trap.inh = false ∨ ¬ ok → exec .tret s = .next (s.ill c))
    ∧ (c.trap.inh = true → ok → ∃ k : Cut, exec .tret s = .next (s.retired k)
      ∧ k = { c with
          trap := { c.trap with inh := false }
          ctx := { c.ctx with pc := k.ctx.pc, loops := k.ctx.loops, l0 := .val c.trap.sl0, l1 := .val c.trap.sl1 }
          retired := c.retired + 1, outst := k.outst, wait := .none, replay := k.replay, part := k.part, issuing := [], haltPc := false }
      ∧ (c.allDone = true → k.ctx.pc = back.advance.ctx.pc ∧ k.ctx.loops = back.advance.ctx.loops ∧ k.replay = 0)
      ∧ (c.allDone = false → k.ctx.pc = c.trap.tpc ∧ k.ctx.loops = back.ctx.loops
          ∧ k.replay = if c.isPattern then 0 else c.trap.tdone &&& c.ctx.active.setWidth 64)))

/-- Taking an exception (R338, R340): a cut of a Bench with a handler, outside it and with nothing outstanding, enters it; TCAUSE gathers
the causes, TPC, TADDR, TLANES, TDONE and TLSPC are the event's, TPARENT and TSIBS name the parent and the live siblings' lanes, `l0`, `l1`
and the loop stack are saved and the live stack is empty, INH is set, and the next word is KCODE plus the handler's offset. Nothing else of
the cut changes but the model's wait and replay, and nothing outside it. A cut with outstanding results first waits for them; once they have
arrived the waiting trap is entered. -/
def Obligations.TrapEntrySaves : Prop :=
  (∀ (s : State) (c : Cut) (e : TrapPend), c.onMill = false → c.trap.hv = true → c.trap.inh = false → c.outst = [] →
    ∃ k : Cut, s.stop c e = s.putCut k
      ∧ k.trap.tcause = c.trap.tcause ||| e.causes ∧ k.trap.tpc = e.pc ∧ k.trap.taddr = e.addr ∧ k.trap.tlanes = e.lanes
      ∧ k.trap.tdone = e.done ∧ k.trap.tlspc = e.lspc ∧ k.trap.tparent = c.parid s
      ∧ k.trap.tsibs = ((siblings s c).foldl (fun m d => m ||| d.ctx.active) 0#32).setWidth 64
      ∧ k.trap.inh = true ∧ k.trap.hv = true ∧ k.trap.off = c.trap.off
      ∧ (∀ v, c.ctx.l0 = .val v → k.trap.sl0 = v) ∧ (∀ v, c.ctx.l1 = .val v → k.trap.sl1 = v)
      ∧ k.trap.sloops = c.ctx.loops.reverse ++ List.replicate (4 - c.ctx.loops.length) ⟨0, 0, 0⟩
      ∧ k.ctx.pc = (s.launchOf c.lid).kcode + c.trap.off.setWidth 64
      ∧ k = { c with trap := k.trap, ctx := { c.ctx with pc := k.ctx.pc, loops := [] }, pend := none, wait := .none, replay := 0 })
  ∧ ∀ (s : State) (c : Cut) (e : TrapPend),
    (c.onMill = false → c.outst ≠ [] → s.stop c e = s.putCut { c with pend := some e, wait := .trap })
    ∧ (s.cutOf c.uid = some c → c.pend = some e → c.outst = [] → c.halted s = false → c.place.resident = true →
        exec (.trapEntry c.uid) s = .next (s.enterTrap c e))

/-! ## Memory (R122 to R145, R190) -/

/-- LD, LDB, LDA, LDT and LDM (R124, R126, R129 to R133, R136): where every governed item's access passes the checks and finds its pages,
the load becomes outstanding with one read for each item and element, at the addresses that the operands give, once for the cut where the
address is U; nothing in memory changes. An access that fails a check raises the failing items' causes with the lowest item's address. An
outstanding result arrives (R77, R81, R129, R133): the destination registers receive it in the governed lanes and keep theirs elsewhere, and
nothing of memory changes: a load that bypasses L1 returns each element as its home holds it, extended under ET, and a computed result its
value. -/
def Obligations.LoadsReturn : Prop :=
  (∀ (i : Instr) (op : LoadOp) (addr : Nat → W64) (s : State) (c : Cut), loadOp s c i = some (op, addr) → Runs s c i →
    c.onMill = false → c.replay = 0 →
    let as := if op.uniform then (c.accesses addr).take 1 else c.accesses addr
    let t := s.translated c op.ask as
    let reads := readsOf t c op.ask as
    (c.gov = .none → exec i s = .next (s.write c op.srcs .none op.dst (uVal 0)))
    ∧ (c.gov ≠ .none → c.needsLanes c.gov (if op.uniform then uVal 0 else .lanes []) = false → Clean s c op.ask true false as →
        (modeLF c.ctx.mode = 1 ∨ eccOn t (c.asid t) = false) → awaitsReply reads = false →
        exec i s = .next (t.await c op.srcs c.gov
          { Outst.of op.dst c.et op.la (.load op.l1 op.acquire op.ask.size op.ask.elems reads) with
            uniform := op.uniform, flagPred := c.flagPred }))
    ∧ KeepsMemory s t
    ∧ (c.gov ≠ .none → c.isPattern = false → ∀ a rest, (as.filter fun x => x.cause s c op.ask != 0) = a :: rest →
        ∃ causes lanes, exec i s = .next (t.stop c (c.cause causes a.ptr lanes))
          ∧ causes = (a :: rest).foldl (fun m x => m ||| x.cause s c op.ask) 0))
  ∧ (∀ (s : State) (c : Cut) (o : Outst), s.cutOf c.uid = some c → (∀ x ∈ s.cuts, x.uid = c.uid → x = c) → c.halted s = false →
    c.leaving = false → c.onMill = false → c.isPattern = false → c.ctx.fences.all (·.isNone) = true → c.outst.find? (·.id == o.id) = some o → o.piece = false → c.ctx.v.length = 64 →
    let at_ := fun (k : Cut) (r p : Nat) => c.valAt (k.ctx.v.getD r (uVal 0)) p
    let on := fun (p : Nat) => inMask c.ctx.active p && (o.whole || inMask o.gov p)
    (∀ v second, o.what = .value v second → o.dst.toNat < 0x40 →
      ∃ t k, exec (.resultArrival c.uid o.id) s = .next t ∧ KeepsMemory s t ∧ t.cutOf c.uid = some k
        ∧ k.outst = c.outst.filter (·.id != o.id)
        ∧ (∀ p ∈ c.positions, p < 32 → at_ k o.dst.toNat p = if on p then c.valAt v p else at_ c o.dst.toNat p)
        ∧ ∀ r, r ≠ o.dst.toNat → k.ctx.v.getD r (uVal 0) = c.ctx.v.getD r (uVal 0))
    ∧ (∀ size elems reads, o.what = .load false false size elems reads → 0 < size → o.dst.toNat + elems ≤ 0x40 → o.uniform = false →
      s.storeQ = [] → s.qeff = [] → s.flaws = [] → mayArrive s c o = true →
      (∀ r ∈ reads, r.got = none ∧ ∃ q, r.loc = .dev q ∧ viewAt s q = none ∧ errored s q = false) →
      ∃ t k, exec (.resultArrival c.uid o.id) s = .next t ∧ KeepsMemory s t ∧ t.cutOf c.uid = some k
        ∧ k.outst = c.outst.filter (·.id != o.id)
        ∧ (∀ j, j < elems → ∀ p ∈ c.positions, p < 32 → ∀ r q, reads.find? (fun r => r.elem == j && r.lane == p) = some r → r.loc = .dev q →
            at_ k (o.dst.toNat + j) p = if on p then extend o.et (homeWord s q size) else at_ c (o.dst.toNat + j) p)
        ∧ ∀ r, (r < o.dst.toNat ∨ o.dst.toNat + elems ≤ r) → k.ctx.v.getD r (uVal 0) = c.ctx.v.getD r (uVal 0)))

/-- ST, STL and STM (R124, R134, R135): the bytes of each governed item's registers go to the translations of its addresses, one write for
each 128-byte sector, into the store queue of the Bench; memory is as before until they perform at their homes. An access that fails a check
stores nothing. A store performs at its home (R135, R190): its bytes are in memory, the last named prevailing, and every other byte of the
device and of the host reads as before. A write whose page has gone is dropped: a late fault of the cut that holds its item, and no byte
changes (R128, R341, R365). -/
def Obligations.StoresPerform : Prop :=
  ((∀ (i : Instr) (op : StoreOp) (s : State) (c : Cut), storeOp s c i = some op → Runs s c i →
    (if op.release then releaseMayIssue s c else storeMayIssue s c) = true →
    let q : Ask := ⟨elemBytes c.et, op.elems, .write⟩
    let as := c.accesses op.addr
    let t := s.translated c q as
    let bs := storedBytes t c q op.vals as
    (Clean s c q false true as → exec i s = .next (if bs = [] then t.complete c op.srcs c
        else (t.issueWrites c (gather bs) op.release none).complete c op.srcs c.effect))
    ∧ KeepsMemory s t
    ∧ (c.onMill = false → c.isPattern = false → ∀ a rest, (as.filter fun x => x.cause s c q != 0) = a :: rest →
        ∃ causes lanes, exec i s = .next (t.stop c (c.cause causes a.ptr lanes))
          ∧ causes = (a :: rest).foldl (fun m x => m ||| x.cause s c q) 0))
  ∧ (∀ (s : State) (c : Cut) (ws : List Write) (release : Bool) (outst : Option Nat),
    let t := s.issueWrites c ws release outst
    KeepsMemory s t ∧ t.cuts = s.cuts
    ∧ (c.quantum s = false → ∃ new, t.storeQ = s.storeQ ++ new ∧ (new.map fun w => (w.loc, w.op)) = (ws.map fun w => (w.loc, w.op)))
    ∧ (c.quantum s = true → t.storeQ = s.storeQ))
  ∧ ∀ (bs : List StoredByte), ∀ w ∈ gather bs, ∃ xs, w.op = .bytes xs
    ∧ ∀ x, (x ∈ xs ↔ ∃ b ∈ bs, sectorLoc b.loc = w.loc ∧ x = (locOff b.loc % 128, b.val)))
  ∧ ((∀ (s : State) (w : Store) (bs : List (Nat × Byte)), s.storeQ.find? (·.id == w.id) = some w → mayPerform s w = true →
    w.op = .bytes bs → Memory.wf s.mem = true → Memory.wf s.host = true →
    ∃ t, exec (.homeWrite w.id) s = .next t ∧ t.storeQ = s.storeQ.filter (·.id != w.id)
      ∧ (∀ p, w.loc = .dev p → (∀ x ∈ bs, viewAt s (p + x.1) = none ∧ ∀ v ∈ s.views, v.1 ≠ sectorOf (p + x.1)) → t.host = s.host
          ∧ (∀ a, cellGet t.mem a = (wrote p bs a).getD (cellGet s.mem a))
          ∧ ∀ a, viewAt s a = none → (∀ v ∈ s.views, v.1 ≠ sectorOf a) → homeByte t a = (wrote p bs a).getD (homeByte s a))
      ∧ (∀ p, w.loc = .host p → t.mem = s.mem ∧ ∀ a, cellGet t.host a = (wrote p bs a).getD (cellGet s.host a))
      ∧ (∀ f r o n, w.loc = .remote f r o n → KeepsMemory s t))
  ∧ ∀ (s : State) (w : Store) (bs : List (Nat × Byte)) (c : Cut), s.storeQ.find? (·.id == w.id) = some w → storeMoved s w = true →
    w.op = .bytes bs → w.job = none →
    s.cuts.find? (fun d => d.lid == w.lid && d.isOf w.uid && d.positions.any fun p => d.ilAt s p == w.il) = some c →
    ∃ t f, exec (.lateStoreFault w.id) s = .next t ∧ KeepsMemory s t ∧ t.storeQ = s.storeQ.filter (·.id != w.id)
      ∧ t.cutOf c.uid = some { c with late := c.late ++ [f] }
      ∧ f.causes = BitVec.ofNat 64 causeLSF ∧ f.uid = w.uid ∧ f.seq = w.seq ∧ f.il = w.il ∧ f.addr = w.ptr ∧ f.pc = w.pc ∧ f.what = 0)

/-- ATOM, ARED and CADD (R137 to R140, R230): with every access sound, each element's lanes go in ascending order as one request to its
home; an ATOM awaits its old values. At the home the lanes take effect in turn, each returns the value it found, and no other byte changes.
-/
def Obligations.AtomicsIssueAndPerform : Prop :=
  (∀ (i : Instr) (op : AtomOp) (addr : Nat → W64) (s : State) (c : Cut), atomOp s c i = some (op, addr) → Runs s c i →
    (if op.release then releaseMayIssue s c else storeMayIssue s c) = true → c.replay = 0 →
    let q : Ask := ⟨elemBytes op.et, 1, .both⟩
    let as := c.accesses addr
    let t := s.translated c q as
    let ws := combine op.aop op.et (op.lanesOf t c q as)
    let reads := readsOf t c q as
    Clean s c q true true as → as ≠ [] → (∀ r ∈ reads, atomErrored t c r.loc = false) → ¬ (op.ret = true ∧ c.gov = .none) →
    (op.ret = false → exec i s = .next
        (((t.issueWrites c ws op.release none).countUp (regBrerr c.bench) 48 16 0).complete c.effect op.srcs c.effect))
    ∧ (op.ret = true → (modeLF c.ctx.mode = 1 ∨ eccOn t (c.asid t) = false) → awaitsReply reads = false →
        let u : State := { t with nextId := t.nextId + 1 }
        exec i s = .next (((u.issueWrites c ws op.release (some t.nextId)).await c.effect op.srcs c.gov
          { Outst.of op.dst op.et op.la (.atomic q.size reads) with id := t.nextId, flagPred := c.flagPred }).endQuantum c.uid))
    ∧ KeepsMemory s t)
  ∧ ∀ (s : State) (w : Store) (p aop et : Nat) (ls : List AtomLane), s.storeQ.find? (·.id == w.id) = some w → mayPerform s w = true →
    w.loc = .dev p → w.op = .atomic aop et ls → s.flaws = [] → errored s p = false → viewAt s p = none → Memory.wf s.mem = true →
    let n := elemBytes et
    let r := atomLanes aop et ls (extend et (homeWord s p n))
    ∃ t, exec (.homeWrite w.id) s = .next t ∧ t.host = s.host ∧ t.storeQ = s.storeQ.filter (·.id != w.id)
      ∧ (∀ a, cellGet t.mem a = if p ≤ a ∧ a < p + n then (bytesLE n (lowBits et r.2)).getD (a - p) 0 else cellGet s.mem a)
      ∧ ∀ id, w.outst = some id → ∀ c ∈ t.cuts, ∀ o ∈ c.outst, o.id = id → ∀ x ∈ o.what.reads, x.loc = w.loc →
          ∀ m, r.1.find? (·.1 == x.lane) = some (x.lane, m) → x.got = some (bytesLE n m.toNat)

/-- PREF, PGREQ, PGWAIT and PGTEST (R142 to R145), on pages of objects that exist: PREF changes no memory and no cut but its own; PGREQ
gives each item a status of 0, 1 or 2 and the cut the partition's replay-all count; PGTEST and a PGWAIT that is over write 1 where the page
is resident and 0 elsewhere; PGWAIT waits otherwise, until its limit passes. -/
def Obligations.PageInstructions : Prop :=
  ∀ (s : State) (c : Cut) (l : BitVec 4) (d a b : Opnd),
    let v := c.read s a []
    let sound := c.needsLanes c.gov (if v.isU then uVal 0 else .lanes []) = false
      ∧ ∀ p ∈ c.governed, accessCause s c.unit (c.asid s) (c.valAt v p) 1 1 .none = 0
    let tested := fun (r : RegVal) => ∀ p ∈ c.governed, p < c.span →
      c.valAt r p = if pageResident s c.unit (c.asid s) (c.valAt v p) then 1 else 0
    (Runs s c (.pref a b) → ∃ t, exec (.pref a b) s = .next (t.complete c [a, b] c) ∧ KeepsMemory s t ∧ t.cuts = s.cuts ∧ t.win = s.win)
    ∧ (Runs s c (.pgreq l d a) → sound → ∃ (t : State) (r : RegVal), exec (.pgreq l d a) s
          = .next (t.writeLong { c with rgen := replayGen s (s.launchOf c.lid).part } [a] d l.toNat r none [])
        ∧ ∀ p ∈ c.governed, p < c.span → (c.valAt r p).toNat ≤ 2
            ∧ (v.isU = true → pageResident s c.unit (c.asid s) (c.valAt v p) = true → c.valAt r p = 0))
    ∧ (Runs s c (.pgtest d a) → sound → ∃ r, exec (.pgtest d a) s = .next (s.write c [a] c.gov d r) ∧ tested r)
    ∧ (Runs s c (.pgwait d a) → sound → (c.pageWaitOver s v = true → ∃ r, exec (.pgwait d a) s = .next (s.write c [a] c.gov d r) ∧ tested r)
        ∧ (c.pageWaitOver s v = false → c.wait = .none → exec (.pgwait d a) s = .next (s.hold c (.page s.cycle))))
    ∧ (∀ since, s.cutOf c.uid = some c → c.wait = .page since → c.instrAt s = some (.pgwait d a) →
        since + waitLimit s (s.launchOf c.lid).part ≤ s.cycle → c.place.resident = true → sound →
        ∃ r, exec (.pageWaitLimit c.uid) s = .next (s.write c [a] c.gov d r) ∧ tested r)

/-! ## Scratchpad (R197 to R210) -/

/-- LDS and STS on a Bench (R203 to R206): with every page in, LDS has the bytes of the space at each governed item's offset, extended under
ET; STS writes its bytes to the frames, the last named prevailing, and no other byte of the space, nor of memory, changes; in quantum mode
it awaits the commit, as does what an LDS touches of pages that its cut has freed in the quantum. An offset out of range or unaligned raises BND or ALN; a page that is not in makes the cut wait for the pager. -/
def Obligations.ScratchAccesses : Prop :=
  ∀ (s : State) (c : Cut) (l : BitVec 4) (d a b : Opnd) (k : Crew), c.crewIn s = some k → c.onMill = false → c.replay = 0 →
    let x := c.read s a []
    let y := c.read s b [a]
    let size := elemBytes c.et
    let as := c.accesses fun p => c.valAt x p + c.valAt y p
    let one := if x.isU && y.isU then as.take 1 else as
    let sound := ∀ m ∈ as, scratchCause k.length size m.ptr = 0
    let bs := scratchBytes c size (c.read s d [a, b]) as
    let t := if c.quantum s then s.queueEffect c (c.ilLow s) (.scratch k.key bs) else s.spaceWrite k.key bs
    (Runs s c (.lds l d a b) → readMayIssue s c = true → c.gov ≠ .none → c.needsLanes c.gov (if x.isU && y.isU then uVal 0 else .lanes []) = false →
      sound →
      let u := if c.quantum s then s.touches c k.key (distinct (one.map fun m => m.ptr.toNat / 2048)) else s
      (scratchIn s c one = true → (∀ m ∈ one, (k.page (m.ptr.toNat / 2048)).bad = []) →
        ∃ v, exec (.lds l d a b) s = .next (u.writeLong c [a, b] d l.toNat v none [])
        ∧ ∀ p ∈ c.governed, p < c.span →
          c.valAt v p = extend c.et (natLE ((List.range size).map fun n => scratchByte s c k ((c.valAt x p + c.valAt y p).toNat + n))))
      ∧ (scratchIn s c one = false → exec (.lds l d a b) s = .next (s.scratchFault c (x.isU && y.isU) one)))
    ∧ (Runs s c (.sts d a b) → effectMayIssue s c = true → sound → as ≠ [] →
      (scratchIn s c as = true → exec (.sts d a b) s = .next (t.complete c [a, b, d] c.effect))
      ∧ (scratchIn s c as = false → exec (.sts d a b) s = .next (s.scratchFault c false as)))
    ∧ (c.quantum s = false → scratchIn s c as = true → sound → (∀ p ∈ k.pages, Memory.wf p.data = true) →
      KeepsMemory s t ∧ ∀ off, off < k.length → (k.page (off / 2048)).state = .res →
        (t.crewOf k.key).map (fun j => cellGet (j.page (off / 2048)).data (off % 2048))
          = some ((wrote 0 bs off).getD (cellGet (k.page (off / 2048)).data (off % 2048))))
    ∧ (Runs s c (.sts d a b) → effectMayIssue s c = true → c.isPattern = false →
      ∀ m rest, (as.filter fun m => scratchCause k.length size m.ptr != 0) = m :: rest →
        ∃ causes lanes, exec (.sts d a b) s = .next (s.stop c (c.cause causes m.ptr lanes)))

/-- SALLOC, SFREE, SPIN, SUNPIN and SPGQ (R207, R208), with the guard true in every item and a range within the space: SALLOC returns how
many of the pages are RES; SFREE makes them ZERO; SPIN pins pages that are in, or returns 0 where it may not; SUNPIN unpins, both at the commit in quantum mode; SPGQ returns
the handle, the length, the number of RES pages, or a page's word. A range beyond the space raises BND, and a mixed guard ILL. -/
def Obligations.ScratchPages : Prop :=
  ∀ (s : State) (c : Cut) (d a b : Opnd) (k : Crew) (x y : W64), c.crewIn s = some k → c.onMill = false → c.governed ≠ [] →
    c.governedOf (c.read s a []) = some x → c.governedOf (c.read s b [a]) = some y →
    let r := rangePages x.toNat y.toNat
    let inside := c.governed = c.positions ∧ x.toNat + y.toNat ≤ k.length
    let at_ := fun (t : State) => (t.crewOf k.key).getD k
    let isIn := fun (n : Nat) => decide (r.1 ≤ n ∧ n < r.1 + r.2)
    (Runs s c (.salloc d a b) → inside → ∃ t : State, exec (.salloc d a b) s
      = .next (t.write c.effect [a, b] .all d (uVal (BitVec.ofNat 64 ((pagesFrom r.1 r.2).filter fun n => ((at_ t).page n).state == .res).length))))
    ∧ (Runs s c (.sfree a b) → inside → x.toNat % 2048 = 0 → y.toNat % 2048 = 0 → effectMayIssue s c = true →
      (c.quantum s = true → exec (.sfree a b) s = .next ((s.queueEffect c (c.ilLow s) (.sfree k.key r.1 r.2)).complete c [a, b] c.effect))
      ∧ (c.quantum s = false → ∃ t : State, exec (.sfree a b) s = .next (t.complete c [a, b] c.effect) ∧ KeepsMemory s t ∧ t.cuts = s.cuts
        ∧ ∀ n, n < k.pages.length → (at_ t).page n = if isIn n then ⟨.zero, 0, 0, false, false, [], []⟩ else k.page n))
    ∧ (Runs s c (.spin d a b) → inside →
      (mayPin s c k (pagesFrom r.1 r.2) = false → exec (.spin d a b) s = .next (s.write c [a, b] .all d (uVal 0)))
      ∧ (mayPin s c k (pagesFrom r.1 r.2) = true → c.quantum s = true → (∀ n, isIn n = true → (k.page n).state = .res) → exec (.spin d a b) s
        = .next ((s.queueEffect c (c.ilLow s) (.pin k.key r.1 r.2 true)).write c.effect [a, b] .all d (uVal 1)))
      ∧ (mayPin s c k (pagesFrom r.1 r.2) = true → c.quantum s = false → (∀ n, isIn n = true → (k.page n).state = .res) →
        ∃ t : State, exec (.spin d a b) s = .next (t.write c.effect [a, b] .all d (uVal 1)) ∧ KeepsMemory s t
          ∧ ∀ n, n < k.pages.length → (at_ t).page n = { k.page n with pins := (k.page n).pins + if isIn n then 1 else 0 }))
    ∧ (Runs s c (.sunpin a b) → inside → c.quantum s = true → exec (.sunpin a b) s
      = .next ((s.queueEffect c (c.ilLow s) (.pin k.key r.1 r.2 false)).complete c [a, b] c.effect))
    ∧ (Runs s c (.sunpin a b) → inside → c.quantum s = false →
      ∃ t : State, exec (.sunpin a b) s = .next (t.complete c [a, b] c.effect) ∧ KeepsMemory s t
      ∧ ∀ n, n < k.pages.length → (at_ t).page n = { k.page n with pins := (k.page n).pins - if isIn n then 1 else 0 })
    ∧ (∀ e : Opnd, Runs s c (.spgq d a e) →
      (constOf e = 1 → exec (.spgq d a e) s = .next (s.write c [a] c.gov d (uVal k.handle)))
      ∧ (constOf e = 2 → exec (.spgq d a e) s = .next (s.write c [a] c.gov d (uVal (BitVec.ofNat 64 (2048 * k.pages.length)))))
      ∧ (constOf e = 3 → exec (.spgq d a e) s
          = .next (s.write c [a] c.gov d (uVal (BitVec.ofNat 64 (k.pages.filter (·.state == .res)).length))))
      ∧ (constOf e = 0 → (c.read s a []).isU = true → c.needsLanes c.gov (uVal 0) = false → (c.read s a []).base.toNat < k.length →
          exec (.spgq d a e) s = .next (s.write c [a] c.gov d (uVal (pageWord s c k ((c.read s a []).base.toNat / 2048))))))
    ∧ (c.governed = c.positions → y ≠ 0 → k.length < x.toNat + y.toNat → (Runs s c (.sunpin a b) → exec (.sunpin a b) s = .next (s.raiseAll c causeBND x))
      ∧ (Runs s c (.salloc d a b) → exec (.salloc d a b) s = .next (s.raiseAll c causeBND x)))
    ∧ (c.governed ≠ c.positions → (Runs s c (.spin d a b) → exec (.spin d a b) s = .next (s.ill c))
      ∧ (Runs s c (.sunpin a b) → exec (.sunpin a b) s = .next (s.ill c)))

/-- The pager, a move and a delivery (R204, R209, R210, R211): a ZERO page that a waiting instruction touches becomes RES with zeros where a
frame is free, and is counted; where the backing of a page cannot be read the instruction raises SPF at the lanes of those pages, with the
lowest of their offsets. A crew that moves takes its members and its space to the new Bench, every pin count kept. An engine's write reaches
the bytes of its space wherever it lives, waits while the space moves, and where the space has gone is dropped and counted with the
generation and slot it named. -/
def Obligations.ScratchEvents : Prop :=
  (∀ (s : State) (c : Cut) (k : Crew) (accs : List (Nat × Nat)), s.cutOf c.uid = some c → c.wait = .scratchPage accs →
    c.place.resident = true → c.crewIn s = some k →
    (∀ p off n f, accs = [(p, off)] → n = off / 2048 → n < k.pages.length → (k.page n).state = .zero →
      (benchFrames s (k.part s) k.bench).find? (fun f => !decide (f ∈ usedFrames s k.bench)) = some f →
      ∃ t, exec (.pageIn c.uid) s = .next t ∧ KeepsMemory s t ∧ t.cuts = s.cuts
        ∧ (t.crewOf k.key).map (fun j => j.page n) = some { k.page n with state := .res, frame := f, dirty := false, fresh := true, data := [] }
        ∧ (Canonical s → t.reg (regPagein k.bench) = s.reg (regPagein k.bench) + 1))
    ∧ (c.isPattern = false →
      let bad := accs.filter fun a => (k.bytesOf s (a.2 / 2048)).isNone
      bad ≠ [] → ∃ (t : State) (off : Nat), KeepsMemory s t ∧ t.cuts = s.cuts
        ∧ (∃ a ∈ bad, off = a.2 ∧ ∀ b ∈ bad, a.2 ≤ b.2)
        ∧ exec (.pageIn c.uid) s
          = .next (t.stop c (c.cause causeSPF (BitVec.ofNat 64 off) (lanesWord (bad.map fun a => a.1))))))
  ∧ (∀ (s : State) (k : Crew) (b : Nat) (t : State), s.crewOf k.key = some k → k.moving = false → k.bench ≠ b → roomFor s k b = true →
    (s.evictAll k).settleSpace k.key b = some t →
    ∃ u j, exec (.crewMove k.key b) s = .next u ∧ u.crewOf k.key = some j ∧ j.bench = b ∧ j.moving = false
      ∧ (j.pages.map fun p => p.pins) = (k.pages.map fun p => p.pins)
      ∧ ∀ c ∈ u.cuts, c.crew = some k.key → c.place.bench = b)
  ∧ ∀ (s : State) (w : ScratchWrite), s.scratchW.find? (·.id == w.id) = some w → (s.launchOf w.lid).qm = false →
    let left : State := { s with scratchW := s.scratchW.filter (·.id != w.id) }
    let r := regSdrop w.deliver
    (∀ k, spaceOf s w.lid w.handle = some k → k.moving = false → exec (.scratchWriteDelivery w.id) s
      = .next (left.spaceWrite k.key ((List.range w.bytes.length).map fun n => (w.off + n, w.bytes.getD n 0))))
    ∧ (∀ k, spaceOf s w.lid w.handle = some k → k.moving = true → exec (.scratchWriteDelivery w.id) s = .next s)
    ∧ (spaceOf s w.lid w.handle = none → exec (.scratchWriteDelivery w.id) s = .next (left.setReg r
        (BitVec.ofNat 64 (fld w.handle 48 16 * 2 ^ 48 + fld w.handle 0 24 * 2 ^ 24 + min 0xFFFFFF (fld (s.reg r) 0 24 + 1)))))

/-! ## Fences, barriers, crews and bindings (R181 to R186, R212 to R222) -/

/-- FENCE, FWAIT and FTEST (R181 to R185, R341): each first records which fences of the cut have completed. FENCE then takes a slot and
returns its token, or waits for one; FWAIT waits until the fence
that its token names is complete and frees the slot, FTEST returns whether it is; a stale token counts as complete; the late fault that a
completed fence covers is delivered there, with its address, its lanes and the pc of its instruction. -/
def Obligations.FenceInstructions : Prop :=
  ∀ (s : State) (c : Cut) (e m : BitVec 1) (kind : BitVec 2) (d a : Opnd),
    let t := s.settleFences c
    let k := (t.cutOf c.uid).getD c
    let free := fun (slot : Nat) => ({ k with ctx := { k.ctx with fences := k.ctx.fences.set slot none } } : Cut)
    (Runs s c (.fence e m kind d) →
      (k.fenceSlot t = none → exec (.fence e m kind d) s = .next (t.hold k .fenceSlot))
      ∧ ∀ slot, k.fenceSlot t = some slot → ∃ (j : Cut) (f : Fence) (v : W64),
        exec (.fence e m kind d) s = .next (t.write j [] .all d (uVal v))
        ∧ fld v 0 8 = slot ∧ fld v 8 24 = c.ctx.fseq % 2 ^ 24 ∧ fld v 32 32 = 0
        ∧ j = { k with ctx := { k.ctx with fences := j.ctx.fences, fseq := c.ctx.fseq + 1 }, effects := j.effects }
        ∧ j.ctx.fences.getD slot none = some f ∧ f.seq = c.ctx.fseq ∧ f.kind = kind.toNat ∧ f.scope = modeSC c.ctx.mode
        ∧ f.jobs = (e == 1#1) ∧ f.mills = (m == 1#1) ∧ f.cover = c.lineage ∧ f.lid = c.lid ∧ f.upto = s.nextSeq ∧ f.done = c.onMill
        ∧ ∀ n, n ≠ slot → j.ctx.fences.getD n none = k.ctx.fences.getD n none)
    ∧ (s.cutOf c.uid = some c → ∀ n f, c.ctx.fences.getD n none = some f →
        k.ctx.fences.getD n none = some { f with done := fenceDone s f })
    ∧ (Runs s c (.fwait a) →
      let tok := k.tokenOf (k.read t a [])
      (tok = .illegal → exec (.fwait a) s = .next (t.ill k))
      ∧ (tok = .stale → exec (.fwait a) s = .next (t.complete k [a] k))
      ∧ (∀ slot f, tok = .current slot f → f.done = false → exec (.fwait a) s = .next (t.hold k (.fence slot f.seq)))
      ∧ (∀ slot f, tok = .current slot f → f.done = true → k.late.filter f.delivers = [] →
          exec (.fwait a) s = .next (t.complete (free slot) [a] (free slot)))
      ∧ (∀ slot f x, tok = .current slot f → f.done = true → k.late.filter f.delivers = [x] →
          exec (.fwait a) s = .next (t.stop { free slot with late := k.late.filter fun y => !f.delivers y }
            ⟨x.causes, k.ctx.pc, x.addr, x.lanes, k.allLanes, x.pc⟩)))
    ∧ (Runs s c (.ftest d a) →
      let tok := k.tokenOf (k.read t a [])
      (tok = .illegal → exec (.ftest d a) s = .next (t.ill k))
      ∧ (tok = .stale → exec (.ftest d a) s = .next (t.write k [a] k.gov d (uVal 1)))
      ∧ (∀ slot f, tok = .current slot f → f.done = false → exec (.ftest d a) s = .next (t.write k [a] k.gov d (uVal 0)))
      ∧ (∀ slot f, tok = .current slot f → f.done = true → k.late.filter f.delivers = [] → k.gov.anyLane = true →
          k.needsLanes k.gov (uVal 1) = false →
          exec (.ftest d a) s = .next (t.write (free slot) [a] k.gov d (uVal 1))))

/-- BAR, BARA and BARW (R216, R217): BARA returns the barrier and the phase in which its items arrived, and never waits; BAR arrives and goes
on once that phase has completed, and BARW once a token's has. A cut in no crew has phases of its own, and its arrival completes the present
one. A phase of a crew completes when every live member item has arrived in it, and arrivals beyond it count in the next. -/
def Obligations.Barriers : Prop :=
  (∀ (s : State) (c : Cut) (d a : Opnd),
    let n := constOf a
    let r := s.arriving c n
    (Runs s c (.bara d a) → exec (.bara d a) s = .next (r.2.1.write r.2.2 [] .all d (uVal (BitVec.ofNat 64 (r.1 * 2 ^ 8 + n)))))
    ∧ (Runs s c (.bar a) → c.arrived = none → exec (.bar a) s = .next (if phaseDone r.2.1 r.2.2 n r.1 then r.2.1.advance r.2.2
        else r.2.1.hold { r.2.2 with arrived := some (n, r.1) } (.barrier (c.crew.getD 0) n r.1)))
    ∧ (Runs s c (.bar a) → ∀ m p, c.arrived = some (m, p) → exec (.bar a) s = .next (if phaseDone s c m p then s.advance { c with arrived := none }
        else s.hold c (.barrier (c.crew.getD 0) m p)))
    ∧ (∀ v, Runs s c (.barw a) → c.uniformOf (c.read s a []) = some v → exec (.barw a) s = .next
        (if fld v 32 32 ≠ 0 ∨ fld v 3 5 ≠ 0 then s.ill c
         else if phaseDone s c (fld v 0 3) (fld v 8 24) then s.complete c [a] c
         else s.hold c (.barrier (c.crew.getD 0) (fld v 0 3) (fld v 8 24))))
    ∧ (c.crew = none → n < 8 → r.2.1 = s ∧ r.1 = c.solo.getD n 0 ∧ phaseDone s r.2.2 n r.1 = true ∧ r.2.2.solo.getD n 0 = (r.1 + 1) % 2 ^ 24
        ∧ ∀ p, phaseDone s c n p = (p != r.1 && p != (r.1 + 1) % 2 ^ 24))
    ∧ (∀ k, c.crewIn s = some k → (r.1 = (k.barrier n).phase ∨ r.1 = ((k.barrier n).phase + 1) % 2 ^ 24)
        ∧ ∀ p, phaseDone s c n p = (p != (k.barrier n).phase && p != ((k.barrier n).phase + 1) % 2 ^ 24)))
  ∧ ∀ (s : State) (k : Crew) (n : Nat) (items : List (Nat × Nat)), s.crewOf k.key = some k → (s.launchOf k.lid).qm = false → n < k.barriers.length →
    crewItems s k.key ≠ [] → items ≠ [] → items.Nodup → (∀ x ∈ items, x ∉ (k.barrier n).here) → (k.barrier n).next = [] → (k.barrier n).conds = [] →
    ((s.arriveAt k.key n [] items).crewOf k.key).map (fun j => (j.barrier n).phase)
      = some (if ∀ x ∈ crewItems s k.key, x ∈ (k.barrier n).here ∨ x ∈ items then ((k.barrier n).phase + 1) % 2 ^ 24 else (k.barrier n).phase)

/-- CNEW, CJOIN, CLEAVE, CSIZE and CRANK (R29, R213 to R215): CNEW makes a crew of the wanted capacity with a space of ZERO pages and
returns its handle, or returns 0 where there is no room; CJOIN returns 1 to a member, 0 where the crew is full and 2 where there is none;
CLEAVE leaves it; CSIZE counts the live member items, and CRANK those below each item. ROLE (R218): the cut takes the declared role: its
registers beyond the allotment, and `l0` and `l1`, read zero; it goes on at the role's entry with an empty loop stack, and every other
register and predicate stands. -/
def Obligations.CrewsAndRoles : Prop :=
  (∀ (s : State) (c : Cut) (d a : Opnd) (v : W64), c.isPart = false →
    let l := s.launchOf c.lid
    let fits := 1 ≤ v.toNat ∧ v.toNat ≤ 1024 ∧ c.counts ≤ v.toNat ∧ (s.crewsOn c.bench).length < 32
      ∧ mayReserve s l.part c.bench (ceilDiv v.toNat 32) c.parent = true
    (Runs s c (.cnew d a) → c.crew = none → c.uniformOf (c.read s a []) = some v →
      (¬ fits → exec (.cnew d a) s = .next (s.write c [a] .all d (uVal 0)))
      ∧ (∀ slot, fits → freeSlot s l false l.nslot = some slot → ∃ (k : Crew) (t : State),
          exec (.cnew d a) s = .next (t.write { c.effect with crew := some k.key } [a] .all d (uVal k.handle))
          ∧ t = { s with crews := s.crews ++ [k], nextId := s.nextId + 1 }
          ∧ k.lid = c.lid ∧ k.slot = slot ∧ k.gen = slotGen l slot ∧ k.bench = c.bench ∧ k.capacity = v.toNat ∧ k.ret = false
          ∧ k.pages = List.replicate (l.space / 2048) ⟨.zero, 0, 0, false, false, [], []⟩))
    ∧ (Runs s c (.cjoin d a) → c.crew = none → c.uniformOf (c.read s a []) = some v →
      (spaceOf s c.lid v = none → exec (.cjoin d a) s = .next (s.write c [a] .all d (uVal 2)))
      ∧ (∀ k, spaceOf s c.lid v = some k → k.capacity < crewCount s k.key + c.counts →
          exec (.cjoin d a) s = .next (s.write c [a] .all d (uVal 0)))
      ∧ (∀ k, spaceOf s c.lid v = some k → crewCount s k.key + c.counts ≤ k.capacity → k.moving = false → c.bench = k.bench →
          exec (.cjoin d a) s = .next (s.write { c.effect with crew := some k.key } [a] .all d (uVal 1))))
    ∧ (∀ key, Runs s c .cleave → c.crew = some key →
      exec .cleave s = .next ((s.advance { c.effect with crew := none }).leftCrew c key))
    ∧ (∀ key, Runs s c (.csize d) → c.crew = some key →
      exec (.csize d) s = .next (s.write c [] c.gov d (uVal (BitVec.ofNat 64 (crewItems s key).length))))
    ∧ (∀ key, Runs s c (.crank d) → c.crew = some key → ∃ r, exec (.crank d) s = .next (s.write c [] c.gov d r)
      ∧ (c.isPattern = false → ∀ p ∈ c.positions,
          c.valAt r p = BitVec.ofNat 64 ((crewItems s key).filter fun x => decide (x.2 < c.ilAt s p)).length)))
  ∧ (∀ (s : State) (c : Cut) (a : Opnd) (n : W64) (r : Role), Runs s c (.role a) → c.uniformOf (c.read s a []) = some n → n.toNat < 16 →
    (s.launchOf c.lid).roles[n.toNat]? = some r → c.isPart = false →
    (c.outst ≠ [] → exec (.role a) s = .next (s.hold c .results))
    ∧ (c.outst = [] → ∃ k : Cut, exec (.role a) s = .next ((s.popAll c [a]).retired k)
      ∧ k.role = n.toNat ∧ k.cls = r.cls ∧ k.allot = r.allot ∧ k.ctx.pc = (s.launchOf c.lid).kcode + BitVec.ofNat 64 r.entry
      ∧ k.ctx.loops = [] ∧ k.ctx.l0 = .val (uVal 0) ∧ k.ctx.l1 = .val (uVal 0)
      ∧ (∀ i, i < 64 → k.ctx.v.getD i (uVal 0) = if i < r.allot then c.ctx.v.getD i (uVal 0) else uVal 0)
      ∧ k.ctx.o = c.ctx.o ∧ k.ctx.preds = c.ctx.preds ∧ k.ctx.mode = c.ctx.mode ∧ k.crew = c.crew ∧ k.binds = c.binds))

/-- QBIND, QUNBIND, QCNT, QCLOSE, SBIND, SREL and SCNT (R219, R220, R222): a pop end of the cut's own crew or any push end of a live crew is
bound, and unbound; QCNT counts the entries; QCLOSE closes the chute, from the pop end with its entries; a stream of the crew is bound, its
credits come back, and SCNT counts its ready entries. A chute of a crew that has ended raises CHC. -/
def Obligations.BindingInstructions : Prop :=
  ∀ (s : State) (c : Cut) (d a b : Opnd) (v : W64), c.isPart = false → isQ d = true →
    let n := fld v 24 6
    let own := s.crews.find? fun k => k.lid == c.lid && !k.ret && k.slot == fld v 0 24 && k.gen == fld v 48 16
    let bound := fun (x : Option Binding) => ({ c with binds := (List.range 16).map fun i => if i = qNum d then x else c.binds.getD i none } : Cut)
    (Runs s c (.qbind d a b) → c.uniformOf (c.read s a []) = some v → fld v 30 18 = 0 → (s.launchOf c.lid).chutes.getD n 0 ≠ 0 →
      (own = none → exec (.qbind d a b) s = .next (s.raiseAll c causeCHC 0))
      ∧ (∀ k, own = some k → constOf b ≠ 0 → exec (.qbind d a b) s = .next (s.complete c [a] (bound (some (.push k.key n)))))
      ∧ (∀ k, own = some k → constOf b = 0 → exec (.qbind d a b) s
          = .next (if c.crew = some k.key then s.complete c [a] (bound (some (.pop k.key n))) else s.ill c)))
    ∧ (Runs s c (.qunbind d) → exec (.qunbind d) s = .next (if (c.bindOf d).isSome then s.advance (bound none) else s.ill c))
    ∧ (∀ key m k, isQ a = true → Runs s c (.qcnt d a) → (c.bindOf a = some (.pop key m) ∨ c.bindOf a = some (.push key m)) → s.crewOf key = some k →
      exec (.qcnt d a) s = .next (s.write c [] .all d (uVal (BitVec.ofNat 64 (seenEntries s c k m).length))))
    ∧ (∀ key m k popEnd, Runs s c (.qclose d) → c.bindOf d = some (if popEnd then .pop key m else .push key m) → s.crewOf key = some k →
      (c.quantum s = true → exec (.qclose d) s = .next ((s.queueEffect c (c.ilLow s) (.close key m popEnd)).advance c.effect))
      ∧ (c.quantum s = false → m < k.chutes.length → ∃ t, exec (.qclose d) s = .next (t.advance c.effect) ∧ KeepsMemory s t
        ∧ (t.crewOf key).map (fun j => ((j.chute m).closed, (j.chute m).entries))
            = some (true, if popEnd then [] else (k.chute m).entries)))
    ∧ (∀ key, Runs s c (.sbind d a) → c.uniformOf (c.read s a []) = some v → c.crew = some key → v.toNat < 16 →
      exec (.sbind d a) s = .next (s.complete c [a] (bound (some (.stream key v.toNat)))))
    ∧ (∀ key m k, Runs s c (.srel d a) → c.uniformOf (c.read s a []) = some v → c.bindOf d = some (.stream key m) → s.crewOf key = some k →
      v ≠ 0 → v.toNat ≤ 16 → v.toNat ≤ (k.stream m).popped → m < k.streams.length →
      ∃ t, exec (.srel d a) s = .next (t.complete c [a] c.effect) ∧ KeepsMemory s t
        ∧ (t.crewOf key).map (fun j => ((j.stream m).popped, (j.stream m).taken))
            = some ((k.stream m).popped - v.toNat, (k.stream m).taken - v.toNat))
    ∧ (∀ key m k, Runs s c (.scnt d a) → c.bindOf a = some (.stream key m) → s.crewOf key = some k →
      exec (.scnt d a) s = .next (s.write c [] .all d (uVal (BitVec.ofNat 64 (k.stream m).ready.length))))

/-! ## System registers (R345 to R350) -/

/-- CSRR, CLOCK and PERF (R346, R350): CSRR gives every item the register that its number names, ASF and TENABLE once every flag-setting
instruction has completed, the loop stack level by level, outermost first; CLOCK the cycles since reset; PERF the count of a counter under
the lease, and UNAVAIL outside it. -/
def Obligations.SystemReads : Prop :=
  ∀ (s : State) (c : Cut) (d a : Opnd),
    let l := s.launchOf c.lid
    let reads := fun (i : Instr) (v : W64) => Runs s c i → exec i s = .next (s.write c [] .all d (uVal v))
    let csr := fun (n : Nat) (v : W64) => reads (.csrr d (BitVec.ofNat 11 n)) v
    csr 0 (c.ctx.mode.setWidth 64)
    ∧ (c.outst.any Outst.mayFlag = false → csr 1 c.ctx.asf ∧ csr 2 c.ctx.tenable)
    ∧ csr 0x10 c.trap.tcause ∧ csr 0x11 c.trap.tpc ∧ csr 0x12 c.trap.taddr ∧ csr 0x13 c.trap.tlanes ∧ csr 0x14 c.trap.tdone
    ∧ csr 0x15 c.trap.tparent ∧ csr 0x16 c.trap.tsibs ∧ csr 0x17 c.trap.tlspc
    ∧ (∃ v, csr 0x18 v ∧ fld v 63 1 = (if c.trap.inh then 1 else 0) ∧ fld v 32 1 = (if c.trap.hv then 1 else 0)
        ∧ fld v 33 30 = 0 ∧ fld v 0 32 = c.trap.off.toNat)
    ∧ csr 0x30 c.cutid ∧ csr 0x31 l.boltId ∧ csr 0x32 l.launchId ∧ csr 0x34 (BitVec.ofNat 64 c.role)
    ∧ (c.crewIn s = none → csr 0x33 0) ∧ (∀ k, c.crewIn s = some k → csr 0x33 k.handle)
    ∧ csr 0x40 (BitVec.ofNat 64 c.sec.replays)
    ∧ (c.mill = false → csr 0x50 (BitVec.ofNat 64 l.extx) ∧ csr 0x51 (BitVec.ofNat 64 l.exty) ∧ csr 0x52 (BitVec.ofNat 64 l.extz))
    ∧ (∀ j, j < 4 → ∀ v : Level, v.cnt ≠ 0 → (if c.trap.inh then c.trap.sloops else c.ctx.loops.reverse)[j]? = some v →
        csr (0x20 + 3 * j) v.start ∧ csr (0x21 + 3 * j) v.stop ∧ csr (0x22 + 3 * j) v.cnt)
    ∧ (∀ j, j < 4 → c.trap.inh = false → c.ctx.loops.length ≤ j →
        csr (0x20 + 3 * j) 0 ∧ csr (0x21 + 3 * j) 0 ∧ csr (0x22 + 3 * j) 0)
    ∧ reads (.clock d) (BitVec.ofNat 64 s.cycle)
    ∧ (∀ n : W64, Runs s c (.perf d a) → c.uniformOf (c.read s a []) = some n → n.toNat ≤ 63 →
        ∃ v, exec (.perf d a) s = .next (s.write c [a] .all d (uVal v))
          ∧ (c.lease s = none → v = 1#64 <<< 63)
          ∧ ∀ x, c.lease s = some x → (x.eff.testBit (n.toNat / 8) = false → v = 1#64 <<< 63)
              ∧ (x.eff.testBit (n.toNat / 8) = true → bit v 63 = false)
              ∧ (x.eff.testBit (n.toNat / 8) = true → n.toNat = 63 → v = 0))

/-- CSRW, FLAGS and FLAGC (R346, R347): a value the same in every item goes to the register: MODE where it is legal, else MOD; the flag bits
of ASF and TENABLE; in the handler TPC, clearing TDONE, then TDONE and the saved loop stack; any other register, and these outside the
handler, raise ILL. FLAGS sets bits of TCAUSE and FLAGC clears them, each returning TCAUSE as it was. -/
def Obligations.SystemWrites : Prop :=
  ∀ (s : State) (c : Cut) (d a : Opnd) (v : W64), c.uniformOf (c.read s a []) = some v →
    let puts := fun (n : Nat) (k : Cut) => Runs s c (.csrw a (BitVec.ofNat 11 n)) → exec (.csrw a (BitVec.ofNat 11 n)) s = .next (s.complete c [a] k)
    let ills := fun (n : Nat) => Runs s c (.csrw a (BitVec.ofNat 11 n)) → exec (.csrw a (BitVec.ofNat 11 n)) s = .next (s.ill c)
    let m : W32 := v.setWidth 32
    (modeLegal m = true → puts 0 { c with ctx := { c.ctx with mode := m } })
    ∧ (modeLegal m = false → Runs s c (.csrw a 0#11) → exec (.csrw a 0#11) s = .next (s.raiseAll c causeMOD 0))
    ∧ (c.outst.any Outst.mayFlag = false → puts 1 { c with ctx := { c.ctx with asf := v &&& 0x1F } }
        ∧ puts 2 { c with ctx := { c.ctx with tenable := v &&& 0x1F } })
    ∧ (c.trap.inh = true → puts 0x11 { c with trap := { c.trap with tpc := v, tdone := 0 }, part := [] })
    ∧ (c.trap.inh = true → fld v 32 31 = 0 → puts 0x14 { c with trap := { c.trap with tdone := v } })
    ∧ (c.trap.inh = true → fld v 32 31 ≠ 0 → ills 0x14)
    ∧ (c.trap.inh = true → ∀ j, j < 4 → ∀ x, c.trap.sloops[j]? = some x →
        puts (0x20 + 3 * j) { c with trap := { c.trap with sloops := c.trap.sloops.set j { x with start := v } } }
        ∧ puts (0x21 + 3 * j) { c with trap := { c.trap with sloops := c.trap.sloops.set j { x with stop := v } } }
        ∧ puts (0x22 + 3 * j) { c with trap := { c.trap with sloops := c.trap.sloops.set j { x with cnt := v } } })
    ∧ (c.trap.inh = false → ∀ n, (n = 0x11 ∨ n = 0x14 ∨ (0x20 ≤ n ∧ n < 0x2C)) → ills n)
    ∧ (s.executing = some c → ∀ n ∈ [0x10, 0x12, 0x13, 0x15, 0x16, 0x17, 0x18, 0x30, 0x31, 0x32, 0x33, 0x34, 0x40, 0x50, 0x51, 0x52],
        exec (.csrw a (BitVec.ofNat 11 n)) s = .next (s.ill c))
    ∧ (Runs s c (.flags d a) → exec (.flags d a) s = .next (if v &&& ~~~causeBits ≠ 0 then s.ill c
        else s.write { c with trap := { c.trap with tcause := c.trap.tcause ||| v } } [a] .all d (uVal c.trap.tcause)))
    ∧ (Runs s c (.flagc d a) → exec (.flagc d a) s
        = .next (s.write { c with trap := { c.trap with tcause := c.trap.tcause &&& ~~~v } } [a] .all d (uVal c.trap.tcause)))

/-- TLBINV and SCRINV (R349): firmware's contexts alone may execute them, any other raises ILL. TLBINV drops the translations it names at
once, and completes when no access that used one is still to perform; SCRINV writes back the frames of the spaces it names. -/
def Obligations.InvalidationsComplete : Prop :=
  ∀ (s : State) (c : Cut) (a b : Opnd) (x p : W64), c.uniformOf (c.read s a []) = some x → c.uniformOf (c.read s b [a]) = some p →
    (privileged s c = false → (Runs s c (.tlbinv a b) → exec (.tlbinv a b) s = .next (s.ill c))
      ∧ (Runs s c (.scrinv a b) → exec (.scrinv a b) s = .next (s.ill c)))
    ∧ (privileged s c = true → x.toNat ≤ 8191 → Runs s c (.tlbinv a b) →
      let t : State := { s with tlb := s.tlb.filter fun e => !dropsEntry x.toNat p e }
      exec (.tlbinv a b) s = .next (if tlbPending s x.toNat p then t.hold c .tlbinv else t.complete c [a, b] c))
    ∧ (privileged s c = true → x.toNat ≤ 8191 → p.toNat < 256 → Runs s c (.scrinv a b) →
      ((∀ k ∈ s.crews, (s.launchOf k.lid).asid = x.toNat → k.bench ≠ p.toNat) → exec (.scrinv a b) s = .next (s.complete c [a, b] c))
      ∧ ∀ k, (s.crews.filter fun k => (s.launchOf k.lid).asid == x.toNat && k.bench == p.toNat) = [k] →
          exec (.scrinv a b) s = .next ((s.scrInvalidate k.key).complete c [a, b] c))
    ∧ ∀ k n, s.crewOf k.key = some k → k.pages.length = n + 1 → (∀ j, j < n → (k.page j).state ≠ .res) → (k.page n).state = .res →
        (k.page n).pins = 0 → (k.page n).dirty = false → k.ret = false →
        ((s.scrInvalidate k.key).crewOf k.key).map (fun j => ((j.page n).state, (j.page n).data)) = some (.backed, [])
          ∧ KeepsMemory s (s.scrInvalidate k.key)

/-! ## Engine jobs, counters and collectives (R223 to R231, R287 to R302) -/

/-- CPY, CPYT and CPYM (R84, R225, R226): where no item is governed nothing is issued and the instruction completes. A card that passes its
checks becomes a job of the cut's die, with the card's words, in program order, nothing of memory changes until it runs, and the instruction
completes; in quantum mode its issue joins the effects that await the commit. A card that fails raises its cause at the lanes that name it,
with the address that failed, and a rejected one is recorded with its REASON; a CPYM to quadrants of another partition raises RGT once its
card is sound. A job that may start reads the rows of its source and sends them on, one write for each sector of its destination, zeros in
the clipped part; one that has written everything leaves, with its event record where its card asks for one; one whose pages stay absent
until the page-wait limit fails with a late fault and its writes are dropped; a post that waited enters once the queue has room (R227 to
R229). -/
def Obligations.JobsRun : Prop :=
  (∀ (i : Instr) (op : Nat) (coord : BitVec 14) (l : BitVec 4) (a : Opnd) (s : State) (c : Cut),
    (i, op, coord) ∈ [(Instr.cpy l a, 0, 0), (Instr.cpyt l a, 1, 0), (Instr.cpym l a coord, 2, coord)] → Runs s c i → c.issuing = [] →
    let v := c.read s a []
    let copies := if op = 2 then (lanesOf (BitVec.ofNat 32 (coordMask coord))).length else 1
    (c.governed = [] → exec i s = .next (s.complete c [a] c))
    ∧ ∀ (p : Nat) (ptr : W64), c.onMill = false → effectMayIssue s c = true → c.cardsClear s v = true → c.cardItems v = [(p, ptr)] →
      c.jobRoom s ≠ 0 →
      let chk := jobCheck s c op copies coord ptr
      (chk.cause = 0 → c.quantum s = false → ∃ (u : State) (j : Job), exec i s = .next (u.complete c.effect [a] c.effect)
        ∧ KeepsMemory s u ∧ u.cuts = s.cuts ∧ u.jobs = s.jobs ++ [j] ∧ j.id = s.nextId ∧ j.op = op ∧ j.card = chk.card ∧ j.copies = copies
        ∧ j.uid = c.uid ∧ j.lid = c.lid ∧ j.asid = c.asid s ∧ j.seq = s.nextSeq ∧ j.il = c.ilAt s p ∧ j.pc = c.ctx.pc ∧ j.crew = c.crew
        ∧ j.bench = c.bench ∧ j.die = dieOfBench c.bench ∧ j.state = .issued ∧ j.status = 0)
      ∧ (chk.cause = 0 → c.quantum s = true → ∃ u : State, exec i s = .next (u.complete c.effect [a] c.effect)
        ∧ KeepsMemory s u ∧ u.cuts = s.cuts ∧ u.jobs = s.jobs ∧ u.qeff = s.qeff
          ++ [⟨c.lid, c.uid, c.cutid, s.nextSeq, c.ilAt s p, c.ctx.pc, c.bench, c.asid s, .job op chk.card coord c.crew⟩])
      ∧ (chk.cause ≠ 0 → c.isPattern = false → ∃ u : State, KeepsMemory s u ∧ u.cuts = s.cuts ∧ u.jobs = s.jobs
        ∧ exec i s = .next (u.stop c (c.cause chk.cause chk.addr
            (lanesWord (c.governed.filter fun i => !c.performed i && c.valAt v i == ptr))))
        ∧ (Canonical s → chk.reason ≠ 0 → u.reg (regCrej c.bench) = BitVec.ofNat 64 (chk.reason * 2 ^ 56 + fld ptr 0 44)))
      ∧ (∀ w q, op = 2 → readCard s c ptr = .words w → cardReason op copies c.crew.isSome w = 0 → q < 4 → (coordMask coord).testBit q = true →
          quadOwner s (4 * coordBench coord + q) ≠ some (s.launchOf c.lid).part → chk.cause = causeRGT ∧ chk.addr = 0))
  ∧ ∀ (s : State) (j : Job), s.jobs.find? (·.id == j.id) = some j → (s.launchOf j.lid).qm = false → j.copy.strm = false →
    let x := j.copy
    let first := (sortBy id (outstanding s j.lid j.die)).take 256
    let t := j.touched.foldl (fun (s : State) p => s.xlatted j.unit j.asid p.1) s
    (∀ rows : List (List Byte), j.state = .issued → j.status = 0 → j.id ∈ first → edgesHold s j.lid j.id (x.reads j.handle) x.writes = false →
      j.missing s = [] → s.flaws = [] → x.sscr = false → x.dscr = false → x.sourceRows.map (readRow t j) = rows.map .bytes →
      let sent := x.destRows.flatMap fun d => (segments d.2 x.writeRow).flatMap fun q => match (xlat t j.unit j.asid q.1).loc with
        | none => []
        | some l => (List.range q.2).map fun n => (⟨locAt l (locOff l + n),
            (fitBytes x.writeRow (rows.getD d.1 [])).getD (q.1.toNat - d.2.toNat + n) 0, j.il, ptrAdd q.1 n⟩ : StoredByte)
      ∃ (u : State) (new : List Store), exec (.jobStart j.id) s = .next u ∧ KeepsMemory s u ∧ u.storeQ = s.storeQ ++ new
        ∧ (new.map fun w => (w.loc, w.op)) = ((gather sent).map fun w => (w.loc, w.op))
        ∧ (∀ w ∈ new, w.job = some j.id ∧ w.seq = j.seq ∧ w.scope = x.scope) ∧ ∀ k ∈ u.jobs, k.id = j.id → k = { j with state := .writing })
    ∧ (j.state = .writing → jobWrites s j.id = false → x.cnt = 0 → j.status ≤ 2 →
      (x.evt = false → exec (.jobCompletion j.id) s = .next { s with jobs := s.jobs.filter (·.id != j.id) })
      ∧ (∀ k, x.evt = true → j.crew.bind s.crewOf = some k → k.postWait = [] → k.events.length < 64 →
        ∃ (u : State) (rec : W64), exec (.jobCompletion j.id) s = .next u ∧ KeepsMemory s u ∧ u.jobs = s.jobs.filter (·.id != j.id)
          ∧ (u.crewOf k.key).map (·.events) = some (k.events ++ [(rec, x.scope)])
          ∧ fld rec 0 32 = x.tag ∧ bit rec 63 = true ∧ fld rec 56 7 = j.status))
    ∧ (∀ p rest, j.state = .waiting → j.missing s = p :: rest → j.since + waitLimit s (s.launchOf j.lid).part ≤ s.cycle → j.status = 0 →
      exec (.jobFailure j.id) s = .next (({ s with
          jobs := s.jobs.map fun (k : Job) => if k.id = j.id then { k with status := 1 } else k
          storeQ := s.storeQ.filter (·.job != some j.id)
          scratchW := s.scratchW.filter (·.job != j.id) } : State).holdLate j.lid j.cutid
        ⟨j.uid, j.seq, j.il, BitVec.ofNat 64 causeLSF, p, itemLanes s j.lid j.il, j.pc, 2⟩))
    ∧ (∀ k rest, s.crewOf k.key = some k → (s.launchOf k.lid).qm = false → k.postWait = j.id :: rest → k.events.length < 64 → x.cnt = 0 →
      ∃ (u : State) (rec : W64), exec (.eventPost k.key) s = .next u ∧ KeepsMemory s u ∧ u.jobs = s.jobs.filter (·.id != j.id)
        ∧ (u.crewOf k.key).map (fun c => (c.events, c.postWait)) = some (k.events ++ [(rec, x.scope)], rest) ∧ fld rec 0 32 = x.tag)

/-- CWAIT, EVWAIT and EVPEEK (R230, R231): CWAIT reads each item's counter and completes with the values once every one has reached its
bound, and waits otherwise; EVWAIT takes the oldest record of the crew's queue, and waits while there is none; EVPEEK returns it, or 0, and
takes nothing. -/
def Obligations.WaitsForEvents : Prop :=
  ∀ (s : State) (c : Cut) (l : BitVec 4) (d a b : Opnd), c.isPart = false → readMayIssue s c = true →
    (∀ ls, Runs s c (.cwait l d a b) → c.gov ≠ .none → s.flaws = [] → (∀ r ∈ s.remotes, r.uid = c.uid → r.kind < 7) →
      let u := (c.read s a []).isU && (c.read s b [a]).isU
      let as := c.counterItems s a b
      let t := s.translated c ⟨8, 1, .read⟩ as
      let k := (t.cutOf c.uid).getD c
      c.needsLanes c.gov (if u then uVal 0 else .lanes []) = false → Clean s c ⟨8, 1, .read⟩ true false as → counterLocs s c as = some ls →
      KeepsMemory s t
      ∧ (countersMet t k (c.read s b [a]) ls = false → exec (.cwait l d a b) s = .next ((t.askCounters k ls).hold k .counter))
      ∧ (countersMet t k (c.read s b [a]) ls = true → exec (.cwait l d a b) s = .next (t.counterDone k l.toNat d a b ls u)))
    ∧ (∀ k, Runs s c (.evwait d) → c.crewIn s = some k → s.crewOf k.key = some k →
      (k.events = [] → exec (.evwait d) s = .next (s.hold c (.event k.key)))
      ∧ (∀ rec scope rest, k.events = (rec, scope) :: rest → ∃ t : State, exec (.evwait d) s = .next (t.write c [] .all d (uVal rec))
        ∧ KeepsMemory s t ∧ t.cuts = s.cuts ∧ (t.crewOf k.key).map (·.events) = some rest))
    ∧ (∀ k, Runs s c (.evpeek d) → c.crewIn s = some k →
      (k.events = [] → exec (.evpeek d) s = .next (s.write c [] .all d (uVal 0)))
      ∧ (∀ e rest, k.events = e :: rest → exec (.evpeek d) s = .next (s.write c [] .all d (uVal e.1))))

/-- COLL, CSTAT and CABORT (R290, R293, R294, R297, R300, R301): a card that passes takes the slot's next sequence number and becomes an
operation that has not started, with the card's words and the member's rank, its ticket names generation, slot and number, and a barrier's
issue is told to every other member; CSTAT returns a ticket's status word, or waits for it; CABORT makes the member report CANCEL naming
itself, in quantum mode at the quantum's end, and does nothing to an operation that has ended. -/
def Obligations.CollectiveInstructions : Prop :=
  ∀ (s : State) (c : Cut) (l : BitVec 4) (d a b : Opnd) (x y : W64), c.isPart = false → c.uniformOf (c.read s a []) = some x →
    let k := s.commOf (fld y 0 8)
    (Runs s c (.coll l d a b) → c.uniformOf (c.read s b [a]) = some y → c.mixedGuard = false → c.governed ≠ [] →
      effectMayIssue s c = true → c.cardsClear s (c.read s a []) = true → (collCheck s c x y).cause = 0 → collsHeld s (fld y 0 8) < 8 →
      c.jobRoom s ≠ 0 → c.quantum s = false → k.live = true → fld y 48 16 = k.gen → k.broken = none → k.settling = [] → k.inbox = [] →
      k.next < 2 ^ 24 →
      ∃ (t : State) (v : W64) (o : CollOp), exec (.coll l d a b) s = .next (t.writeLong c.effect [a, b] d l.toNat (uVal v) none [])
        ∧ KeepsMemory s t ∧ fld v 48 16 = fld y 48 16 ∧ fld v 24 8 = fld y 0 8 ∧ fld v 0 24 = k.next ∧ bit v 47 = false
        ∧ t.commOf (fld y 0 8) = { k with next := (k.next + 1) % 2 ^ 24, ops := k.ops ++ [o] }
        ∧ o.id = s.nextId ∧ o.seq = k.next ∧ o.gen = k.gen ∧ o.card = (collCheck s c x y).card ∧ o.rank = k.rank ∧ o.size = k.size
        ∧ o.uid = c.uid ∧ o.since = s.cycle ∧ o.started = false ∧ o.stopped = false ∧ o.stale = false ∧ o.word = none ∧ o.reports = []
        ∧ (Canonical s → t.fabric = if o.card_.op = 5 then (o.others.foldl (fun (s : State) r => s.tell k o.seq r 3 [] []) s).fabric
            else s.fabric))
    ∧ (Runs s c (.cstat d a b) → readMayIssue s c = true →
      let r := (ticketStatus s x).1
      (fld r 62 2 = 0 → constOf b = 1 → exec (.cstat d a b) s = .next (s.hold c (.coll (fld x 24 8) (fld x 48 16) (fld x 0 24))))
      ∧ (fld r 62 2 ≠ 0 ∨ constOf b ≠ 1 → ∃ t : State, exec (.cstat d a b) s = .next (t.write c [a] .all d (uVal r))
          ∧ t = { s with l1 := t.l1, wbuf := t.wbuf }))
    ∧ (Runs s c (.cabort a) → effectMayIssue s c = true →
      (pendingOp s x = none → exec (.cabort a) s = .next (s.complete c [a] c))
      ∧ (∀ cid o, pendingOp s x = some (cid, o) → exec (.cabort a) s
          = .next ((if c.quantum s then s.queueEffect c (c.ilLow s) (.cabort o.id) else s.cancelOp o.id).complete c [a] c.effect)))
    ∧ ∀ (m : Comm) (o : CollOp), s.commWith o.id = some m → s.commOf m.cid = m → m.op o.id = some o → o.word = none → o.rank ≠ 0 →
        ⟨o.rank, 3, o.rank⟩ ∉ o.reports → (s.cancelOp o.id).commOf m.cid = { m with ops := m.ops.map fun p => if p.id = o.id then
            { o with own := some (o.own.getD ⟨o.rank, 3, o.rank⟩), reports := o.reports ++ [⟨o.rank, 3, o.rank⟩], stopped := true
                     firstAt := if o.stopped then o.firstAt else s.cycle }
          else p }

/-- What arrives for a started operation of a collective (R292, R295, R298, R299): a chunk of a broadcast that the schedule awaits is noted
and its bytes go to DST; ROOT's notice is noted; at rank 0 a member's fields are noted where they agree; a report stops the schedule, with
the member's own "none" beside it at the first receipt; the arbiter's word ends the operation, and that of an abort breaks the generation. A
deadline makes the member report TIMEOUT naming the rank it waits for; the agreement window's end makes rank 0 decide with the least report,
and any other member end ISOLATED with its own report, or the least it received. -/
def Obligations.CollectiveMessages : Prop :=
  ∀ (s : State) (k : Comm) (o : CollOp) (seq : Nat), s.commOf k.cid = k → k.live = true → k.opSeq seq = some o → k.op o.id = some o →
    let now := fun (t : State) => (t.commOf k.cid).op o.id
    (∀ rank off bs, o.started = true → o.stopped = false → o.card_.op = 3 → o.takes rank off bs.length = true →
      let dst := ptrAdd o.card_.dst off
      (∀ q ∈ segments dst bs.length, (xlat s o.unit o.asid q.1).loc ≠ none) →
      let sent := (segments dst bs.length).flatMap fun q => match (xlat s o.unit o.asid q.1).loc with
        | none => []
        | some l => (List.range q.2).map fun n =>
          (⟨locAt l (locOff l + n), bs.getD (q.1.toNat - dst.toNat + n) 0, o.il, ptrAdd q.1 n⟩ : StoredByte)
      ∃ (t : State) (new : List Store), exec (.chunkArrival k.cid seq rank off bs) s = .next t ∧ KeepsMemory s t
        ∧ now t = some { o with got := o.got ++ [(rank, off, bs.length)] } ∧ t.storeQ = s.storeQ ++ new
        ∧ (new.map fun w => (w.loc, w.op)) = ((gather sent).map fun w => (w.loc, w.op))
        ∧ ∀ w ∈ new, w.job = some o.id ∧ w.scope = o.card_.scope)
    ∧ (o.started = true → o.stopped = false → o.card_.op = 4 → o.rank ≠ o.card_.root →
      ∃ t, exec (.completionNotice k.cid seq) s = .next t ∧ KeepsMemory s t ∧ now t = some { o with noticed := true })
    ∧ (∀ rank, o.rank = 0 → o.word = none → rank < o.size →
      ∃ t, exec (.controlFlit k.cid seq rank o.fieldsOf) s = .next t ∧ KeepsMemory s t
        ∧ now t = some { o with fields := o.fields.filter (·.1 != rank) ++ [(rank, o.fieldsOf)] })
    ∧ (∀ rank reason failrank, k.rank ≠ 0 → o.word = none → ⟨rank, reason, failrank⟩ ∉ o.reports →
      ∃ t, exec (.abortReport k.cid seq rank reason failrank) s = .next t ∧ KeepsMemory s t
        ∧ (o.stopped = true → now t = some { o with reports := o.reports ++ [⟨rank, reason, failrank⟩] })
        ∧ (o.stopped = false → now t = some { o with
            reports := o.reports ++ [⟨rank, reason, failrank⟩] ++ [⟨o.rank, 0, 0⟩], stopped := true, firstAt := s.cycle }))
    ∧ (∀ w, k.rank ≠ 0 → o.word = none → ∃ t, exec (.arbiterWord k.cid seq w) s = .next t ∧ KeepsMemory s t
        ∧ now t = some { o with word := some w, stopped := true }
        ∧ (t.commOf k.cid).broken = if breaks w then some (k.broken.getD (o.seq, fld w 32 16)) else k.broken)
    ∧ (∀ r, o.stopped = false → opDeadline k o ≤ s.cycle → o.waitsOn k = some r → o.rank ≠ 0 → o.word = none →
      ⟨o.rank, 1, r⟩ ∉ o.reports →
      ∃ t, exec (.collectiveDeadline k.cid seq) s = .next t ∧ KeepsMemory s t
        ∧ now t = some { o with own := some (o.own.getD ⟨o.rank, 1, r⟩), reports := o.reports ++ [⟨o.rank, 1, r⟩], stopped := true
                                firstAt := s.cycle })
    ∧ (o.stopped = true → o.word = none → windowOver s k o.firstAt = true →
      (∀ r, k.rank = 0 → leastReport o.reports = some r → ∃ t, exec (.agreementWindowExpiry k.cid seq) s = .next t ∧ KeepsMemory s t
        ∧ now t = some { o with word := some (statusWord 2 r.reason false r.failrank seq) })
      ∧ (∀ r, k.rank ≠ 0 → (if o.own.isSome then o.own else leastReport o.reports) = some r →
        ∃ t, exec (.isolatedEnding k.cid seq) s = .next t ∧ KeepsMemory s t
          ∧ now t = some { o with word := some (statusWord 2 r.reason true r.failrank seq) }))

/-! ## Other devices and links (R296, R363, R381, R383) -/

/-- Remote accesses and links (R296, R363, R381, R383): a reply gives an outstanding load its bytes, and a refusal zeros that are errored; a
refused write is a late fault; at the deadline a load's read is overdue. A request of another device is translated and checked here and
answered, a load from the homes of its bytes, a store at them. A link counts its resends, goes down after 16 of one flit, and comes up again
when training succeeds; a module of the attach is retired. -/
def Obligations.RemoteAndLinks : Prop :=
  (∀ (s : State) (r : Remote), s.remotes.find? (·.id == r.id) = some r →
    let left := s.remotes.filter (·.id != r.id)
    let filled := fun (t : State) (id : Nat) (bs : List Byte) (bad : Bool) => ∀ c ∈ s.cuts, ∀ o ∈ c.outst, o.id = id →
      ∀ size elems l1 acq reads, o.what = .load l1 acq size elems reads → ∀ x ∈ reads, x.loc = r.loc → x.lane = r.lane → x.got = none →
        ∃ k ∈ t.cuts, ∃ p ∈ k.outst, p.id = id ∧ { x with got := some bs, errored := bad } ∈ p.what.reads
    (∀ performed data id, r.store = none → r.kind = 0 → r.outst = some id → ∃ t, exec (.remoteReply r.id performed data) s = .next t
      ∧ KeepsMemory s t ∧ t.remotes = left
      ∧ filled t id ((List.range r.data.length).map fun n => if performed then data.getD n 0 else 0) (!performed))
    ∧ (∀ w bs data, r.store = some w → w.op = .bytes bs → exec (.remoteReply r.id true data) s = .next { s with remotes := left })
    ∧ (∀ w bs data, r.store = some w → w.op = .bytes bs → w.job = none →
        exec (.remoteReply r.id false data) s = .next (({ s with remotes := left } : State).lateStore w causeLSF))
    ∧ (∀ id, r.store = none → r.kind = 0 → r.outst = some id → r.since + remoteDeadline s (s.launchOf (r.lid s)).part ≤ s.cycle →
      ∃ t, exec (.remoteDeadline r.id) s = .next t ∧ KeepsMemory s t ∧ t.remotes = left
        ∧ ∀ c ∈ t.cuts, ∀ o ∈ c.outst, o.id = id → ∀ x ∈ o.what.reads, x.loc = r.loc → x.lane = r.lane → x.got ≠ none))
  ∧ (∀ (s : State) (kind asid obj off et aop : Nat) (data : List Byte), s.flaws = [] → kind ≤ 1 →
    let ptr := BitVec.ofNat 64 (obj % 2 ^ 20 * 2 ^ 44 + off % 2 ^ 44)
    let size := if kind = 1 then data.length else elemBytes et
    let t := s.xlatted (.die 0) asid ptr
    let cause := accessCause t (.die 0) asid ptr size (if kind = 1 then 1 else size) (if kind = 0 then .read else .write)
    (cause ≠ 0 → exec (.remoteRequest kind asid obj off et aop data) s = .next (t.answer asid false []))
    ∧ (∀ ls, cause = 0 → accessLocs t (.die 0) asid ptr 1 size = some ls → beyondAt ls = false →
      (kind = 0 → erroredAt t ls = false → exec (.remoteRequest kind asid obj off et aop data) s = .next (t.answer asid true (readAt t ls)))
      ∧ (kind = 1 → (∀ p, Loc.dev p ∈ ls → flushHolds t (sectorOf p) = false) →
          exec (.remoteRequest kind asid obj off et aop data) s = .next ((t.putAt ls data).answer asid true []))))
  ∧ ∀ (s : State) (link : Nat), link < 16 →
    (bit (s.reg (regLkstat link)) 63 = true →
      exec (.flitResend link true) s = .next ((s.setResends link 0).countUp (regLkstat link) 0 32 1)
      ∧ (resendsOf s link < 16 → exec (.flitResend link false) s = .next (s.setResends link (resendsOf s link + 1)))
      ∧ exec (.linkDown link) s = .next (if 16 ≤ resendsOf s link then
          ((s.setResends link 0).setField (regLkstat link) 63 1 0).countUp (regLkstat link) 32 16 1 else s))
    ∧ (∀ ok, exec (.retrain link ok) s = .next ((s.setResends link 0).setField (regLkstat link) 63 1 (if ok then 1 else 0)))
    ∧ (link < 8 → link ∉ s.retiredUcie → exec (.ucieModuleRetirement link) s = .next { s with retiredUcie := s.retiredUcie ++ [link] })

/-! ## Firmware and host (R13, R322, R334, R335, R366 to R374, R383 to R387) -/

/-- Registers of the control window (R3, R13, R211, R322, R323, R367, R368, R370, R374, R383, R386, R387): a plain write changes the bits that
may be written, where a queue's LOGN of 13 to 15 leaves QCFG.EN at 0, and each register with a behaviour of its own does what its rule says; a write of CCMD that names no command only stands there
(R334); a write changes that register alone and nothing else of the device. -/
def Obligations.RegisterWrites : Prop :=
  (∀ (s : State) (off : Nat) (v : W64), (s.setReg off v) = { s with win := (s.setReg off v).win }
    ∧ (Canonical s → ∀ n, (s.setReg off v).reg n = if n = off then v else s.reg n))
  ∧ ∀ (s : State) (v : W64) (n m k : Nat),
    (n ≠ regCcmd → let x := (s.reg n &&& ~~~(regWritable n)) ||| (v &&& regWritable n)
      exec (.registerWrite n v) s = .next (s.setReg n
        (if 0x100000 ≤ n ∧ n < 0x200000 ∧ n % 0x200 = 0 ∧ 13 ≤ fld x 4 4 then putFld x 63 1 0 else x)))
    ∧ (bit (s.reg regCres) 63 = true → fld v 56 8 ∉ [1, 2, 3] →
        exec (.registerWrite regCcmd v) s = .next (s.setReg regCcmd (v &&& bits 63 16)))
    ∧ (n < 40 → exec (.pmapWrite n v) s = .next (s.setReg (regPmap n)
          (BitVec.ofNat 64 ((fld (s.reg (regPmap n)) 40 24 + 1) % 2 ^ 24 * 2 ^ 40) ||| (v &&& bits 39 6)))
        ∧ exec (.prstatWrite n v) s = .next (s.setReg (regPrstat n) (putFld (s.reg (regPrstat n)) 16 16 0)))
    ∧ (n < 256 → exec (.sdropWrite n v) s = .next (s.setReg (regSdrop n) (putFld (s.reg (regSdrop n)) 0 24 0))
        ∧ exec (.brerrWrite n v) s = .next (s.setReg (regBrerr n) 0)
        ∧ (m < 5 → k < 17 → exec (.eligWrite n m k v) s = .next (s.setReg (regElig n m k) 0))
        ∧ (m < 5 → k < 16 → exec (.stallWrite n m k v) s = .next (s.setReg (regStall n m k) 0)))
    ∧ (n < 12 → exec (.memerrWrite n v) s = .next (s.setReg (regMemerr n) 0)
        ∧ exec (.memaddrWrite n v) s = .next (if bit v 63 then s.setReg (regMemaddr n) (putFld (s.reg (regMemaddr n)) 63 1 0) else s)
        ∧ (m < 16 → exec (.fwbaseWrite n m v) s = .next ((s.setReg (regFwbase n m) (v &&& bits 59 22)).checkWindow n m)
          ∧ exec (.fwctlWrite n m v) s = .next ((s.setReg (regFwctl n m) (v &&& (bits 63 20 ||| bits 3 0))).checkWindow n m)))
    ∧ (n < 1024 → exec (.lhealthWrite n v) s = .next (s.setReg (regLhealth n) (putFld (s.reg (regLhealth n)) 48 16 0)))
    ∧ (n < 16 → exec (.lkstatWrite n v) s = .next (s.setReg (regLkstat n) (s.reg (regLkstat n) &&& bits 63 63)))
    ∧ exec (.walkerrWrite v) s = .next ((s.setField regWalkerr 60 4 0).setField regWalkerr 0 16 0)
    ∧ exec (.smpheadWrite v) s = .next (s.setReg regSmphead (v &&& bits 31 0))
    ∧ (∀ w : Window, windowOf s n m = w → s.checkWindow n m = if w.valid n then s else s.setField (regFwctl n m) 0 4 0)
    ∧ (∃ t, exec (.replayAll n) s = .next t ∧ t = { s with win := t.win }
        ∧ (Canonical s → n < 40 → (∀ j, j < 8 → t.reg (regPrent n j) = 0) ∧ fld (t.reg (regPrstat n)) 32 16 = (replayGen s n + 1) % 2 ^ 16
            ∧ fld (t.reg (regPrstat n)) 0 4 = 0 ∧ bit (t.reg (regPrstat n)) 63 = false))

/-- Firmware's commands (R334, R335, R371 to R373): CREATE on a free slot installs a generation from the list, RE_FORM the next one of a
live slot, whose pending operations end STALE, and DESTROY frees it; each error has its code; CRES.DONE reads 1 when the command has ended.
A reload reads the ownership table, and its end installs the copy once the cuts that it saves have their results, or leaves it where the table
breaks R372 and records that. -/
def Obligations.FirmwareCommands : Prop :=
  (∀ (s : State) (v : W64), mayCommand s = true →
    let cid := fld v 48 8
    let k := s.commOf cid
    let rank := fld v 32 16
    let size := fld v 16 16
    let times := s.reg regCtime
    let made := fun (t : State) (k : Comm) => t.commOf cid = { k with
      gen := (k.gen + 1) % 2 ^ 16, live := true, size := size, rank := rank, members := memberList s size, deadline := fld times 32 32
      agw := fld times 0 32, asid := s.field regCown 0 13, next := 0, broken := none, inbox := [], settling := [] }
    let staled := k.ops.map fun (o : CollOp) =>
      if o.word.isNone then { o with word := some (statusWord 2 7 false 0xFFFF o.seq), stopped := true } else o
    (k.live = false →
      (listInvalid s cid rank size = true → exec (.create v) s = .next (s.cmdResult v 2))
      ∧ (listInvalid s cid rank size = false → ownerWrong s k = true → exec (.create v) s = .next (s.cmdResult v 4))
      ∧ (listInvalid s cid rank size = false → ownerWrong s k = false → ∃ t : State, exec (.create v) s = .next (t.cmdResult v 0) ∧ made t k)
      ∧ exec (.reForm v) s = .next (s.cmdResult v 1) ∧ exec (.destroy v) s = .next (s.cmdResult v 1))
    ∧ (k.live = true → exec (.create v) s = .next (s.cmdResult v 1)
      ∧ (listInvalid s cid rank size = false → outOfOrder k.members (memberList s size) = true → exec (.reForm v) s = .next (s.cmdResult v 3))
      ∧ (listInvalid s cid rank size = false → outOfOrder k.members (memberList s size) = false → ownerWrong s k = false →
          (k.ops.map (·.id)).Nodup → ∃ t : State, exec (.reForm v) s = .next (t.cmdResult v 0) ∧ made t { k with ops := staled })
      ∧ ((k.ops.map (·.id)).Nodup → ∃ t : State, exec (.destroy v) s = .next (t.cmdResult v 0)
          ∧ t.commOf cid = { k with live := false, inbox := [], settling := [], ops := staled })))
  ∧ (∀ (s : State) (v : W64) (code : Nat), Canonical s → code < 8 →
    fld ((s.cmdResult v code).reg regCres) 56 7 = code ∧ bit ((s.cmdResult v code).reg regCres) 63 = false)
  ∧ (∀ s : State, exec .communicatorCommandDone s = .next (s.setField regCres 63 1 1))
  ∧ ∀ s : State,
    (bit (s.reg regOwnstat) 63 = true → s.flaws = [] → exec .ownershipReload s = .next { s.setField regOwnstat 63 1 0 with
        ownNew := some (homeRead s (fld (s.reg regOwnbase) 12 28 * 2 ^ 12) 1792) })
    ∧ (bit (s.reg regOwnstat) 63 = false → exec .ownershipReload s = .next s)
    ∧ ∀ table, s.ownNew = some table →
      (tableOk (s.owning table) = true →
        ((∀ c ∈ s.cuts, c.outst = [] ∧ c.leaving = false) →
          ∃ t, exec .ownershipReloadDone s = .next t ∧ t.own = table ∧ t.ownNew = none
            ∧ (Canonical s → bit (t.reg regOwnstat) 63 = true))
        ∧ ((s.leaveUnits (s.owning table)).cuts.any (·.leaving) = true →
          exec .ownershipReloadDone s = .next (s.leaveUnits (s.owning table))))
      ∧ (tableOk (s.owning table) = false → ∃ t, exec .ownershipReloadDone s = .next t ∧ t.own = s.own ∧ t.ownNew = none ∧ KeepsMemory s t
          ∧ t.cuts = s.cuts)

/-- The host and the checkpoint engine (R276, R322, R384, R385): a host write reaches the home of its byte; while the engine runs, or a
flushed attempt holds a sector of it, it waits, and behind it wait the later ones and the host's writes of the control window, which then
perform in the order in which they were made; a read returns the bytes and changes no memory; a device reset leaves the reset state with what
lies outside the device (the model's choice, log 59). The engine starts where nothing runs, else it is refused; its end and its abort say so
in its status, and the engine runs no longer. -/
def Obligations.HostEvents : Prop :=
  ∀ (s : State) (asid len : Nat) (ptr : W64) (bs : List Byte),
    (s.ckpt.isSome = true → hostBlocked s asid ptr bs.length = true)
    ∧ (s.heldHost ≠ [] ∨ hostBlocked s asid ptr bs.length = true →
        exec (.hostWrite asid ptr bs) s = .next { s with heldHost := s.heldHost ++ [.memory asid ptr bs] })
    ∧ (s.heldHost = [] → hostBlocked s asid ptr bs.length = false →
      (accessCause s ownUnit asid ptr bs.length 1 .write ≠ 0 → exec (.hostWrite asid ptr bs) s = .next s)
      ∧ ∀ b p, bs = [b] → accessCause s ownUnit asid ptr 1 1 .write = 0 → accessLocs s ownUnit asid ptr 1 1 = some [.dev p] →
        viewAt (s.xlatted ownUnit asid ptr) p = none → Memory.wf s.mem = true →
        ∃ t, exec (.hostWrite asid ptr bs) s = .next t ∧ t.host = s.host
          ∧ ∀ a, cellGet t.mem a = if a = p then b else cellGet s.mem a)
    ∧ (∀ i rest, s.heldHost ≠ [] → byHost i = true → s.agenda = i :: rest →
        step s = .next { s with agenda := rest, heldHost := s.heldHost ++ [.event i] })
    ∧ (s.agenda = [] → s.issue = [] → ∀ rest,
      let t : State := { s with heldHost := rest }
      (s.heldHost = .memory asid ptr bs :: rest → hostBlocked s asid ptr bs.length = false →
        step s = .next (followed s (t.hostPut asid ptr bs)))
      ∧ ∀ i, s.heldHost = .event i :: rest → step s = noted t (some i) (exec i t))
    ∧ (∃ t got, exec (.hostRead asid ptr len) s = .next t ∧ KeepsMemory s t ∧ t.hostReads = s.hostReads ++ [got]
      ∧ (accessCause s ownUnit asid ptr len 1 .read = 0 → 0 < len → ∀ x, readRange s ownUnit asid ptr len = some x → got = x))
    ∧ exec .deviceReset s = .next { State.reset with
        agenda := s.agenda, host := s.host, flaws := s.flaws, evict := s.evict, irqs := s.irqs, hostReads := s.hostReads, fabric := s.fabric }
    ∧ (∀ i ∈ [Instr.checkpointSave, Instr.checkpointRestore],
      (s.ckpt.isSome = true → exec i s = .next s)
      ∧ (s.ckpt = none → ckptRefusal s ≠ 0 → exec i s = .next (s.ckptStat 3 (ckptRefusal s) false 0 0))
      ∧ (s.ckpt = none → ckptRefusal s = 0 → ∃ t, exec i s = .next t ∧ t.ckpt.isSome = true ∧ t.cuts.length = s.cuts.length))
    ∧ (∀ op began, s.ckpt = some (op, began) →
      ∃ t u, exec .checkpointDone s = .next t ∧ t.ckpt = none ∧ t.heldHost = s.heldHost
        ∧ exec .checkpointAbort s = .next u ∧ u.ckpt = none ∧ u.heldHost = s.heldHost
        ∧ (Canonical s → fld (t.reg regCkptstat) 62 2 = 2 ∧ fld (u.reg regCkptstat) 62 2 = 3))

/-! ## Launch queues and launches (R16, R34, R323 to R333) -/

/-- LAUNCH and the registers of a queue (R323, R331): a driver's write of QTAIL counts unless it stands too far ahead of QHEAD, which sets
OVF; QSTAT's bits clear where 1 is written. LAUNCH reads its entry image, marks it as a child of its launch's account, enqueues it on a
queue of its launch's virtual function, and gives the status of R331's table, with the ring index where it is accepted. A guard that is
false in every lane leaves d unchanged, and a queue number above 7 raises ILL. -/
def Obligations.LaunchEnqueues : Prop :=
  (∀ (s : State) (q : Nat) (v : W64),
    let ahead := (fld v 0 32 + 2 ^ 32 - fld (s.reg (regQhead q)) 0 32) % 2 ^ 32
    let ring := 2 ^ (fld (s.reg (regQcfg q)) 4 4 + 4)
    exec (.qtailWrite q v) s = .next (if ring < ahead then s.setReg (regQstat q) (putFld (s.reg (regQstat q)) 63 1 1)
      else s.setReg (regQtail q) (BitVec.ofNat 64 (fld v 0 32)))
    ∧ exec (.qstatWrite q v) s = .next (s.setReg (regQstat q) (s.reg (regQstat q) &&& ~~~(v &&& bits 63 62))))
  ∧ (∀ (s : State) (c : Cut) (l : BitVec 4) (d a b : Opnd) (ptr n : W64), Runs s c (.launch l d a b) →
    (c.governed = [] → exec (.launch l d a b) s = .next (s.complete c [] c))
    ∧ (c.governed = c.positions → c.governed ≠ [] → c.uniformOf (c.read s a []) = some ptr → c.uniformOf (c.read s b [a]) = some n →
      (7 < n.toNat → exec (.launch l d a b) s = .next (s.ill c))
      ∧ (n.toNat ≤ 7 → c.quantum s = false → releaseMayIssue s c = true →
        fenceDone s (c.releasing s 3) = true →
        let cause := accessCause s c.unit (c.asid s) ptr 32 32 .read
        (cause ≠ 0 → exec (.launch l d a b) s = .next (s.raiseAll c cause ptr))
        ∧ (cause = 0 → imageAt s c ptr = none → exec (.launch l d a b) s = .next (s.raiseAll c causeABS ptr))
        ∧ (∀ e, cause = 0 → imageAt s c ptr = some e →
          let t := (s.xlatted c.unit (c.asid s) ptr).readPtr c.unit (c.asid s) ptr 32
          let r := t.enqueue (s.launchOf c.lid) (8 * (s.launchOf c.lid).vf + n.toNat) (if e = [] then [] else childEntry (s.launchOf c.lid) e)
          exec (.launch l d a b) s
            = .next (({ r.2 with nextSeq := r.2.nextSeq + 1 } : State).writeLong c.effect [a, b] d l.toNat (uVal r.1) none [])))))
  ∧ (∀ (k : Launch) (e : List W64), e.length = 4 → k.acct < 16 →
    let x := childEntry k e
    x.length = 4 ∧ bit (wordAt x 1) 55 = true ∧ fld (wordAt x 1) 51 4 = k.acct ∧ fld (wordAt x 1) 0 51 = fld (wordAt e 1) 0 51
      ∧ fld (wordAt x 1) 56 8 = fld (wordAt e 1) 56 8 ∧ wordAt x 0 = wordAt e 0 ∧ wordAt x 2 = wordAt e 2 ∧ wordAt x 3 = wordAt e 3)
  ∧ ∀ (s : State) (k : Launch) (q : Nat) (e : List W64),
    let bad := e = [] ∨ 2 ≤ fld (wordAt e 1) 56 8 ∨ fld (wordAt e 1) 32 18 ≠ 0
    let full := ringSize s q ≤ (queueTail s q + 2 ^ 32 - queueHead s q) % 2 ^ 32
    let status := fun (n : Nat) => s.enqueue k q e = (BitVec.ofNat 64 (n * 2 ^ 56), s)
    (bad → status 5) ∧ (¬ bad → served s q = none → status 3) ∧ (¬ bad → (served s q).isSome = true → k.depth = 15 → status 4)
    ∧ (¬ bad → (served s q).isSome = true → k.depth ≠ 15 → full → status 1)
    ∧ (¬ bad → (served s q).isSome = true → k.depth ≠ 15 → ¬ full → ∀ ls, accessLocs s ownUnit (queueAsid s q) (entryPtr s q (queueTail s q)) 1 32 = some ls →
      ∃ t : State, s.enqueue k q e = (BitVec.ofNat 64 (queueTail s q), t)
        ∧ t.mem = (s.putAt ls (e.flatMap fun (w : W64) => bytesLE 8 w.toNat)).mem
        ∧ t.children = s.children ++ [(q, queueTail s q, k.depth + 1)]
        ∧ (Canonical s → t.reg (regQtail q) = BitVec.ofNat 64 ((queueTail s q + 1) % 2 ^ 32)))

/-- The life of a launch (R16, R324, R326 to R330): the next entry of a served queue is taken, and QHEAD passes it; its record is admitted
as a launch, waits for a page, or is rejected with a reason, at once or at the page-wait limit; its resident pages may move to a near stack
before it is dispatched as one bolt in its entry state; a launch with nothing left is complete, and its record is written at DONE, or
dropped where its page stays absent. -/
def Obligations.LaunchLifecycle : Prop :=
  (∀ (s : State) (q part : Nat), served s q = some part → s.flaws = [] →
    (∀ bs, s.takenOf q = none → queueHead s q ≠ queueTail s q →
      readObj s (queueAsid s q) (entryPtr s q (queueHead s q)) 32 = .bytes bs →
      let e := words8 bs
      fld (wordAt e 1) 56 8 < 2 → bit (wordAt e 1) 55 = false → fld (wordAt e 1) 32 18 = 0 → wordAt e 2 = 0 →
      ∃ (u : State) (t : Taken), exec (.entryTake q) s = .next u ∧ KeepsMemory s u ∧ u.takenOf q = some t ∧ t.entered = true
        ∧ t.index = queueHead s q ∧ t.kind = fld (wordAt e 1) 56 8 ∧ t.irq = bit (wordAt e 1) 50 ∧ t.user = BitVec.ofNat 32 (fld (wordAt e 1) 0 32)
        ∧ t.ptr = wordAt e 0 ∧ t.doneP = wordAt e 3 ∧ t.recIdx = 0 ∧ t.bad = (if (wordAt e 3).toNat % 32 = 0 then none else some 2)
        ∧ (Canonical s → fld (u.reg (regQhead q)) 0 32 = (queueHead s q + 1) % 2 ^ 32))
    ∧ ∀ t, s.takenOf q = some t → t.entered = true →
      (∀ n, verdictOf s t part = .reject n → exec (.admission q) s = .next (s.rejectEntry t part n))
      ∧ (∀ p n, verdictOf s t part = .wait p n → exec (.admission q) s = .next (s.awaitPage t part p)
          ∧ (∀ since g, t.waiting = some (p, since, g) → since + waitLimit s part ≤ s.cycle → pageResident s ownUnit t.asid p = false →
              exec (.admissionWaitLimit q) s = .next (s.rejectEntry t part n)))
      ∧ ∀ r, verdictOf s t part = .ok r → quadsOwned s part ≠ 0 → mustFollow s t r = false → r.parmObj = 0 →
          exhausted s part (if t.child then t.acct else fld (wordAt r.w 4) 24 4) = false →
          ∃ u, exec (.admission q) s = .next u ∧ KeepsMemory s u ∧ u.launches = s.launches ++ [r.launch s t part none]
            ∧ u.cuts = s.cuts ∧ u.nextLid = s.nextLid + 1)
  ∧ (∀ (s : State) (t : Taken) (part n : Nat), t.entered = true →
    ∃ l, (s.rejectEntry t part n).launches.getLast? = some l ∧ l.state = .recording ∧ l.endState = 2 ∧ l.endReason = n ∧ l.user = t.user
      ∧ l.irq = t.irq ∧ l.doneP = t.doneP ∧ (s.rejectEntry t part n).cuts = s.cuts ∧ KeepsMemory s (s.rejectEntry t part n)
      ∧ (Canonical s → n < 256 → t.index < 2 ^ 32 → let r := (s.rejectEntry t part n).reg (regQstat t.queue)
          fld r 48 8 = n ∧ fld r 0 32 = t.index))
  ∧ (∀ (s : State) (t : Taken) (part : Nat) (r : Record) (slot : Option Nat),
    let l := r.launch s t part slot
    l.state = .admitted ∧ l.kcode = wordAt r.w 0 ∧ l.extx = fld (wordAt r.w 1) 0 40 ∧ l.exty = fld (wordAt r.w 2) 0 40
      ∧ l.extz = fld (wordAt r.w 3) 0 40 ∧ l.mode.toNat = fld (wordAt r.w 4) 32 32 ∧ l.seed = wordAt r.w 5 ∧ l.hv = bit (wordAt r.w 6) 63
      ∧ l.backing = wordAt r.w 8 ∧ (∀ k, slot = some k → l.launchId = BitVec.ofNat 64 (256 * k))
      ∧ (t.depth < 16 → t.recIdx < 256 → t.queue < 2048 → t.index < 2 ^ 32 →
          fld l.boltId 60 4 = t.depth ∧ fld l.boltId 43 8 = t.recIdx ∧ fld l.boltId 32 11 = t.queue ∧ fld l.boltId 0 32 = t.index))
  ∧ ∀ (s : State) (l : Launch), s.launches.find? (·.lid == l.lid) = some l →
    (∀ b, l.state = .admitted → freeForeman s l = some b →
      ∃ (t : State) (c : Cut), exec (.dispatch l.lid) s = .next t ∧ KeepsMemory s t ∧ t.cuts = s.cuts ++ [c] ∧ (t.launchOf l.lid).state = .running
        ∧ c.lid = l.lid ∧ c.uid = s.nextUid ∧ c.place = .foreman b ∧ c.isPattern = true ∧ c.theBox = ⟨⟨0, 0, 0⟩, l.extx, l.exty, l.extz⟩
        ∧ c.ctx.pc = l.kcode ∧ c.ctx.mode = l.mode ∧ c.ctx.v = List.replicate 64 (uVal 0) ∧ c.ctx.preds = List.replicate 8 (.uni false)
        ∧ c.ctx.loops = [] ∧ c.crew = none)
    ∧ (l.state = .running → launchDone s l.lid = true → exec (.launchCompletion l.lid) s = .next (s.finish l)
      ∧ (l.listPtr = none → (s.finish l).launchOf l.lid
          = { l with state := .recording, since := s.cycle, rgen := 0, endState := if l.endState = 0 then 1 else l.endState }))
    ∧ (l.state = .recording →
      (l.doneP = 0 → exec (.launchCompletion l.lid) s = .next (s.recorded l))
      ∧ (∀ ls, l.doneP ≠ 0 → recordLocs s l = some ls → (∀ p, Loc.dev p ∈ ls → flushHolds s (sectorOf p) = false) →
        erroredAt s ls = false → beyondAt ls = false →
        exec (.launchCompletion l.lid) s = .next (((s.xlatted ownUnit l.asid l.doneP).putAt ls l.recordBytes).recorded l))
      ∧ (l.doneP ≠ 0 → recordLocs s l = none → l.since + waitLimit s l.part ≤ s.cycle →
        ∃ t, exec (.completionRecordWaitLimit l.lid) s = .next t ∧ KeepsMemory s t ∧ t.launches = s.launches.filter (·.lid != l.lid)
          ∧ (Canonical s → bit (t.reg (regQstat l.queue)) 62 = true)
          ∧ (l.irq = false → t.irqs = s.irqs) ∧ (Canonical s → l.irq = true → t.irqs = s.irqs ++ [fld (s.reg (regQvec l.queue)) 0 16])))
    ∧ (s.recorded l).launches = s.launches.filter (·.lid != l.lid)
    ∧ (s.recorded l).irqs = s.irqs ++ (if l.irq then [fld (s.reg (regQvec l.queue)) 0 16] else [])
    ∧ (l.endState < 4 → l.endReason < 64 → l.recordBytes.length = 32
        ∧ natLE (l.recordBytes.take 8) = l.endState * 2 ^ 62 + l.endReason * 2 ^ 56 + l.user.toNat
        ∧ natLE ((l.recordBytes.drop 8).take 8) = l.launchId.toNat)
    ∧ (∀ range page frame p ptr e, l.state = .admitted → l.ranges[range]? = some p → (migratePages s l.asid p)[page]? = some ptr →
      objectOf s l.asid (objOf ptr) = some e → e.kind = 0 → (walk s ownUnit l.asid ptr).loc.isSome = true →
      let size := pageSize e.large
      let entry := e.plist + 8 * (offOf ptr / size)
      let word := BitVec.ofNat 64 (homeWord s entry 8)
      let old := fld word 16 24 * 2 ^ 16
      dieOfStack (stackOf old) ∉ placedDies s l → dieOfStack (stackOf frame) ∈ placedDies s l → frame % size = 0 → isDevice frame = true →
      districtOwner s (districtOf frame) = some l.part →
      ∃ t, exec (.preMigration l.lid range page frame) s = .next t ∧ t.host = s.host ∧ t.cuts.length = s.cuts.length
        ∧ t.mem = ((s.devPut frame (homeRead s old size)).devPut entry (bytesLE 8 (putFld word 16 24 (frame / 2 ^ 16)).toNat)).mem)

/-! ## Looms (R233 to R258) -/

/-- MLD, MMA, MMAP, MZERO, MDRN, MSTAT and MWB (R234, R242, R245, R247 to R251, R255): an accumulator instruction whose operands and rows
pass their checks claims a Loom for each item, with every accumulator at zero where the claim is new, queues its operation behind those of
the claim, and completes; MDRN does so once the operations on its pair have retired. With an operand that names nothing it raises ILL. MSTAT
reads the status of an accumulator once its operations have retired, and waits for them until then. MWB completes, and changes at most what
the weight buffers hold. -/
def Obligations.LoomInstructions : Prop :=
  (∀ (i : Instr) (u : LoomUse) (s : State) (c : Cut) (ns : List Nat), loomUse i = some u → Runs s c i → LoomReady s c u ns →
    let built := fun (j : Nat) => u.build s c (loomAs s (c.claimKey s j)) j
    let k := if u.op = 4 then c.effect else c
    ((∃ j ∈ c.loomItems, built j = none) → exec i s = .next (s.ill c))
    ∧ ((∀ j ∈ c.loomItems, ∃ o rows, built j = some (o, rows) ∧ ∀ r ∈ rows, rowCause s c r = 0) →
      (u.op = 4 → loomIdle s (ns.flatMap fun n => [(n, u.acc), (n, u.acc + 1)]) = false →
        exec i s = .next (s.hold c (.loomDrain (ns.flatMap fun n => [(n, u.acc), (n, u.acc + 1)]))))
      ∧ ((u.op = 4 → loomIdle s (ns.flatMap fun n => [(n, u.acc), (n, u.acc + 1)]) = true) →
        (∀ n ∈ ns, (s.loomOf n).ops.length + (if (s.loomOf n).slave then 1 else 0) < 4) →
        (u.op = 1 ∨ u.op = 2 → u.op * c.loomItems.length ≤ tokensFree s (s.launchOf c.lid).part) →
        ∃ t : State, exec i s = .next (t.complete k u.srcs k)
          ∧ t = { s with looms := t.looms, nextId := s.nextId + ns.length, nextSeq := s.nextSeq + 1 }
          ∧ ∀ j n p o rows, ns[j]? = some n → c.loomItems[j]? = some p → built p = some (o, rows) →
            let old := if (s.loomOf n).claim = some (c.claimKey s p) then s.loomOf n else { freshLoom n with slave := (s.loomOf n).slave }
            t.loomOf n = { old with
              claim := some (c.claimKey s p)
              ops := old.ops ++ [{ o with id := s.nextId + j, follower := if u.op = 2 then followerOf u.coord n else none }] }
            ∧ o.op = u.op ∧ o.uid = c.uid ∧ o.lid = c.lid ∧ o.il = c.ilAt s p ∧ o.seq = s.nextSeq ∧ o.et = modeET c.ctx.mode
            ∧ (u.op ≠ 2 → o.acc = u.acc))))
  ∧ (∀ (d a : Opnd) (s : State) (c : Cut) (k n : Nat), Runs s c (.mstat d a) → LoomReady s c ⟨5, constOf a, [], 0, 0⟩ [n] →
    c.loomItems = [k] → (c.isPattern = true → c.box.size = 1) →
    (loomIdle s [(n, constOf a)] = false → exec (.mstat d a) s = .next (s.hold c (.loomDrain [(n, constOf a)])))
    ∧ (loomIdle s [(n, constOf a)] = true → ∃ t : State, t = { s with looms := t.looms }
      ∧ exec (.mstat d a) s = .next (t.write c [] c.gov d
          (uVal (if (s.loomOf n).claim = some (c.claimKey s k) then ((s.loomOf n).acc (constOf a)).status else 0)))))
  ∧ (∀ x : Acc, let w := x.status
    bit w 4 = x.suspect ∧ bit w 3 = x.kindI ∧ bit w 2 = x.err ∧ bit w 1 = x.inf ∧ bit w 0 = x.nan ∧ fld w 5 59 = 0)
  ∧ ∀ (a b : Opnd) (s : State) (c : Cut), Runs s c (.mwb a b) →
    ∃ t : State, exec (.mwb a b) s = .next (t.complete c [a, b] c) ∧ KeepsMemory s t ∧ t.cuts = s.cuts ∧ t.looms = s.looms
      ∧ t.storeQ = s.storeQ ∧ (s.flaws = [] → t = { s with wbuf := t.wbuf })

/-- THMAKE, THOFF, THSHAPE, MTEST and MFENCED (R237, R238, R240, R258): a handle names its map or stream and its tile; its address and shape
follow from the map; in an item where the operands name none, it raises ILL. MFENCED reads the fenced sub-arrays; MTEST asks for a self-test
of an idle Loom, waits, and returns how many sub-arrays failed. -/
def Obligations.TileHandles : Prop :=
  (∀ (i : Instr) (d : Opnd) (srcs : List Opnd) (f : Launch → List W64 → Option W64) (s : State) (c : Cut),
    handleOp i = some (d, srcs, f) → Runs s c i → (c.isPattern = false ∨ c.inputsU s srcs = true) →
    (c.gov = .none → c.inputsU s srcs = true → exec i s = .next (s.write c srcs .none d (uVal 0)))
    ∧ (c.governed ≠ [] → (∀ p ∈ c.governed, (f (s.launchOf c.lid) (c.inputsAt s srcs p)).isSome = true ∧ p < c.span) →
      ∃ v, exec i s = .next (s.write c srcs c.gov d v)
        ∧ ∀ p ∈ c.governed, some (c.valAt v p) = f (s.launchOf c.lid) (c.inputsAt s srcs p))
    ∧ (∀ p ∈ c.governed, f (s.launchOf c.lid) (c.inputsAt s srcs p) = none → exec i s = .next (s.ill c)))
  ∧ (∀ (l : Launch) (a b : W64),
    (∀ h, makeHandle l a b = some h → fld h 56 8 = a.toNat ∧ (a ≠ 255 → fld h 28 28 = b.toNat ∧ fld h 0 28 = 0 ∧ (l.map a.toNat).isSome = true)
      ∧ (a = 255 → fld h 0 56 = b.toNat ∧ b.toNat ≤ 15))
    ∧ (254 < a.toNat → a ≠ 255 → makeHandle l a b = none)
    ∧ ∀ m, l.map (fld a 56 8) = some m → (m.kind = 1 → handlePtr l a
          = some (ptrAdd m.base (16 * fld a 0 28 * m.pitch + 32 * fld a 28 28 * width m.fmt / 8)))
        ∧ (m.kind ≠ 1 → handlePtr l a = some (ptrAdd m.base (16 * fld a 28 28 * m.pitch + 32 * fld a 0 28 * width m.fmt / 8))
          ∧ (16 * fld a 28 28 < m.rows → 32 * fld a 0 28 < m.cols → handleShape l a
              = some (BitVec.ofNat 64 (min 16 (m.rows - 16 * fld a 28 28) * 2 ^ 32 + min 32 (m.cols - 32 * fld a 0 28))))))
  ∧ ∀ (d : Opnd) (s : State) (c : Cut), c.isPattern = false →
    let n := c.quadLoom
    (Runs s c (.mfenced d) → exec (.mfenced d) s = .next (s.write c [] c.gov d (uVal (BitVec.ofNat 64 (fld (s.reg (regLhealth n)) 0 16)))))
    ∧ (Runs s c (.mtest d) → c.governed ≠ [] →
      (∀ k, (s.loomOf n).found = some k → (s.loomOf n).asked = some c.uid → ∃ t : State,
        exec (.mtest d) s = .next (t.write c [] c.gov d (uVal (BitVec.ofNat 64 k))) ∧ t = { s with looms := t.looms }
          ∧ t.loomOf n = { s.loomOf n with asked := none, found := none })
      ∧ ((s.loomOf n).found = none → (s.loomOf n).ops = [] → (s.loomOf n).slave = false → (s.loomOf n).test = [] → (s.loomOf n).asked = none →
        ∃ t : State, exec (.mtest d) s = .next (t.hold c (.loomDrain [(n, 4)])) ∧ t = { s with looms := t.looms }
          ∧ t.loomOf n = { s.loomOf n with asked := some c.uid }))

/-- The sequencer of a Loom (R68, R69, R243, R247 to R249, R251, R253, R257), where no phase of a crew awaits reads: its head operation runs
and retires in order: MZERO sets an accumulator to zero of a kind; MLD reads 16 rows; each step of MMA adds 32 products to every element, in
binary32 or modulo 2^32, its B tile through the weight buffer; a drain writes the rows of its tile as stores of its cut, whole numbers or
values rounded to the map's format, with the scale of a scaled row, and f zeroes the pair and releases the claim. A self-test counts the
sub-arrays that fail once, fences those that fail twice and marks what the Loom's products wrote as suspect. -/
def Obligations.LoomWork : Prop :=
  (∀ (s : State) (n : Nat) (o : LoomOp) (rest : List LoomOp), (∀ k ∈ s.crews, ∀ b ∈ k.barriers, b.conds = []) →
    (s.loomOf n).num = n → (s.loomOf n).ops = o :: rest → (s.loomOf n).slave = false → (s.loomOf n).test = [] → (s.loomOf n).asked = none → (s.loomOf n).accs.length = 4 → o.acc < 4 →
    haltedAt s o.asid (n / 4) = false → o.slaved = false →
    (o.op = 3 → ∃ t, exec (.loomStep n) s = .next t ∧ t = { s with looms := t.looms }
      ∧ t.loomOf n = { (s.loomOf n).setAcc o.acc ⟨List.replicate 256 0, o.et == 4, false, false, false, false⟩ with ops := rest })
    ∧ (o.op = 0 → let w := elemBytes o.et
      let rows := (List.range 16).map fun r => (⟨ptrAdd o.a (r * o.b.toNat), 16 * w, .read, w⟩ : Row)
      let q := s.askPieces n o rows
      (∀ r ∈ rows, ∃ bs, o.row q n r.ptr r.len = .got bs false ∧ bs.length = 16 * w) →
      ∃ t, exec (.loomStep n) s = .next t ∧ KeepsMemory s t ∧ (t.loomOf n).ops = rest
        ∧ ((t.loomOf n).acc o.acc).kindI = (o.et == 4) ∧ ((t.loomOf n).acc o.acc).err = false
        ∧ ∀ r j bs, r < 16 → j < 16 → o.row q n (ptrAdd o.a (r * o.b.toNat)) (16 * w) = .got bs false →
            let x := BitVec.ofNat 64 (natLE ((bs.drop (j * w)).take w))
            ((t.loomOf n).acc o.acc).elems[16 * r + j]? = some (if o.et = 4 then x.setWidth 32
              else BitVec.ofNat 32 (roundTo 10 (rne false) (value o.et x)).1))
    ∧ (∀ ma mb ta tb, o.op = 1 → o.stream = none → o.step < o.steps → (s.launchOf o.lid).mapOf o.b 1 = some mb →
      (s.launchOf o.lid).mapOf o.a 0 = some ma → let k := 32 * o.step
      let rows := ma.rowsOf (ma.line0 o.a) (ma.elem0 o.a + k) .read ++ mb.rowsOf (mb.line0 o.b) (mb.elem0 o.b + k) .read
      let q := (s.askPieces n o rows).bringTile n o mb (mb.line0 o.b) (mb.elem0 o.b + k)
      o.tile q n mb (mb.line0 o.b) (mb.elem0 o.b + k) = some tb → o.tile q n ma (ma.line0 o.a) (ma.elem0 o.a + k) = some ta →
      ∃ t, exec (.loomStep n) s = .next t ∧ KeepsMemory s t
        ∧ (t.loomOf n).acc o.acc = ((s.loomOf n).acc o.acc).step o.et mb.fmt ta tb
        ∧ (t.loomOf n).ops = if o.step + 1 < o.steps then { o with step := o.step + 1 } :: rest else rest)
    ∧ (∀ d, o.op = 4 → o.acc < 3 → (s.launchOf o.lid).mapOf o.a 2 = some d →
      let parts := (o.drainWrites s n d).flatMap fun p =>
        (sectorPieces p.1 p.2.length).map fun q => (q.1, (p.2.drop (q.1.toNat - p.1.toNat)).take q.2)
      let u := parts.foldl (fun (s : State) p => s.xlatted (.bench (n / 4)) o.asid p.1) s
      let sent := parts.flatMap fun p => match (xlat u (.bench (n / 4)) o.asid p.1).loc with
        | none => []
        | some l => (List.range p.2.length).map fun i => (⟨locAt l (locOff l + i), p.2.getD i 0, o.il, ptrAdd p.1 i⟩ : StoredByte)
      ∃ (t : State) (new : List Store), exec (.loomDrain n) s = .next t
      ∧ ((∃ c ∈ s.cuts, c.lid = o.lid ∧ c.isOf o.uid = true ∧ ∃ i ∈ c.positions, c.ilAt s i = o.il) → KeepsMemory s t)
      ∧ (t.loomOf n).ops = rest
      ∧ ((s.launchOf o.lid).qm = false → t.storeQ = s.storeQ ++ new
          ∧ (new.map fun w => (w.loc, w.op)) = ((gather sent).map fun w => (w.loc, w.op))
          ∧ ∀ w ∈ new, w.uid = o.uid ∧ w.seq = o.seq ∧ w.scope = o.scope ∧ w.order = o.order)
      ∧ (bit o.b 1 = true → (t.loomOf n).claim = none ∧ (t.loomOf n).accs = (freshLoom n).accs)
      ∧ (bit o.b 1 = false → (t.loomOf n).claim = (s.loomOf n).claim
        ∧ (bit o.b 0 = true → ∀ j, j < 2 → ((t.loomOf n).acc (o.acc + j)) = zeroAcc ((s.loomOf n).acc (o.acc + j)).kindI)
        ∧ (bit o.b 0 = false → (t.loomOf n).accs = (s.loomOf n).accs))))
  ∧ (∀ (x : Acc) (et fmt : Nat) (ta tb : Tile) (i j : Nat), i < 16 → j < 16 →
    let a := ta.el.getD i []
    let b := tb.el.getD j []
    let old := x.elems.getD (16 * i + j) 0
    ((x.step et fmt ta tb).elems[16 * i + j]? = some (if x.kindI
      then accI old ((List.range 32).map fun k => termI fmt (a.getD k none) (b.getD k none))
      else accF old ((List.range 32).map fun k => termF et fmt (ta.sc.getD i 127) (tb.sc.getD j 127) (a.getD k none) (b.getD k none)))
    ∧ (x.step et fmt ta tb).err = (x.err || ta.err || tb.err)))
  ∧ (∀ (s : State) (n : Nat) (o : LoomOp) (d : TileMap), ∀ i ∈ (d.window (d.line0 o.a) (d.elem0 o.a)).1,
    let m := s.loomOf n
    let x := m.acc o.acc
    let len := (d.window (d.line0 o.a) (d.elem0 o.a)).2
    let ptr := d.elemPtr (d.line0 o.a + i) (d.elem0 o.a)
    let raw := fun (j : Nat) => (if j < 16 then x else m.acc (o.acc + 1)).elems.getD (16 * i + j % 16) 0
    let fval := fun (j : Nat) => value 10 ((raw j).setWidth 64)
    (x.kindI = true → d.fmt = 4 → (ptr, (List.range len).flatMap fun j => bytesLE 4 (raw j).toNat) ∈ o.drainWrites s n d)
    ∧ (x.kindI = false → d.mx = false → width d.fmt ≠ 4 →
      (ptr, (List.range len).flatMap fun j => bytesLE (elemBytes d.fmt) (roundTo d.fmt
        ⟨o.rm, o.sat, false, if o.rm = 5 then dither (s.launchOf o.lid).seed o.off o.dil (32 * i + j) else 0⟩ (fval j)).1)
          ∈ o.drainWrites s n d)
    ∧ (x.kindI = false → d.mx = true →
      (d.scalePtr (d.line0 o.a + i) (d.elem0 o.a), [BitVec.ofNat 8 (drainScale d.fmt ((List.range len).map fval)).1]) ∈ o.drainWrites s n d))
  ∧ ∀ (s : State) (n : Nat) (first second : BitVec 16), n < 1024 → (s.loomOf n).num = n → Canonical s →
    ((s.loomOf n).test ≠ [] ∨ (s.loomOf n).asked.isSome = true) → (s.loomOf n).found = none →
    let fenced := fld (s.reg (regLhealth n)) 0 16
    let again := lanesOf ((first &&& second &&& ~~~(BitVec.ofNat 16 fenced)).setWidth 32)
    (lanesOf (BitVec.ofNat 32 fenced)).length + again.length ≤ 8 →
    ∃ t, exec (.selfTest n first second) s = .next t ∧ KeepsMemory s t ∧ (t.loomOf n).test = [] ∧ t.cuts = s.cuts
      ∧ (t.loomOf n).found = (if (s.loomOf n).asked.isSome
          then some (lanesOf ((first &&& ~~~(BitVec.ofNat 16 fenced)).setWidth 32)).length else none)
      ∧ fld (t.reg (regLhealth n)) 48 16 = min 65535 (fld (s.reg (regLhealth n)) 48 16
          + ((lanesOf ((first &&& ~~~(BitVec.ofNat 16 fenced)).setWidth 32)).length - again.length))
      ∧ (∀ i, i < 16 → (bit (t.reg (regLhealth n)) i = true ↔ bit (s.reg (regLhealth n)) i = true ∨ i ∈ again))
      ∧ (∀ key a, (s.loomOf n).claim = some key → (s.loomOf n).test = [(key, a)] → (s.loomOf n).accs.length = 4 → a < 4 → first &&& ~~~(BitVec.ofNat 16 fenced) ≠ 0 →
          ((t.loomOf n).acc a).suspect = true)

/-! ## Mills (R259 to R286) -/

/-- MSECT, MCOMMIT, MRCNT, MSIG, MSTATE and MESC (R272, R274, R278 to R282): MSECT opens a section of a width and a limit, on a Mill as an
attempt with empty signatures, flushed from the first where the limit is 0; on a Bench without atomicity. MCOMMIT offers the attempt to the
Assay unit, or on a Bench completes with 0 once everything has performed. The reads give their fields; MESC #1 ends an ordinary attempt as a
conflict with a flushed one to follow, #2 raises a return trap, and on a Bench both change nothing but the pc. -/
def Obligations.SectionInstructions : Prop :=
  ∀ (s : State) (c : Cut), c.isPart = false → c.isPattern = false →
    (∀ (w : BitVec 4) (a : Opnd) (n : W64), Runs s c (.msect w a) → c.read s a [] = uVal n →
      (15 < n.toNat → exec (.msect w a) s = .next (s.ill c))
      ∧ (n.toNat ≤ 15 → c.sec.state = .out →
        (c.onMill = false → ∃ k : Cut, exec (.msect w a) s = .next (s.advance k) ∧ k = { c with sec := k.sec } ∧ k.sec.state = .ordinary
          ∧ k.sec.pc = c.ctx.pc ∧ k.sec.width = w.toNat ∧ k.sec.limit = n.toNat ∧ k.sec.attempt = 1 ∧ k.sec.replays = 0 ∧ k.sec.onBench = true)
        ∧ (c.onMill = true → n ≠ 0 ∨ mayFlush s c = true → ∃ (t : State) (k : Cut), exec (.msect w a) s = .next (t.advance k)
          ∧ t = { s with cuts := t.cuts } ∧ k = { c with sec := k.sec } ∧ k.sec.state = (if n = 0 then .flushed else .ordinary)
          ∧ k.sec.pc = c.ctx.pc ∧ k.sec.width = w.toNat ∧ k.sec.limit = n.toNat ∧ k.sec.attempt = 1 ∧ k.sec.replays = 0 ∧ k.sec.rs = 0
          ∧ k.sec.ws = 0 ∧ k.sec.buffer = [] ∧ k.sec.undo = [] ∧ k.sec.restore = some c.ctx)
        ∧ (c.onMill = true → n = 0 → mayFlush s c = false → exec (.msect w a) s = .next (s.askFlush c))))
    ∧ (∀ (l : BitVec 4) (d : Opnd), Runs s c (.mcommit l d) →
      (c.sec.state = .out → exec (.mcommit l d) s = .next (s.ill c))
      ∧ (c.sec.state ≠ .out → c.outst = [] →
        (c.onMill = true → ∃ (t : State) (k : Cut), exec (.mcommit l d) s = .next t ∧ KeepsMemory s t ∧ t.cutOf c.uid = some k
          ∧ k = { c with wait := .commit, sec := { c.sec with commitDst := d, committing := true } }
          ∧ (t.assayOf c.stack).commits = (s.assayOf c.stack).commits ++ [c.uid])
        ∧ (c.onMill = false → benchCommitted s c = false → exec (.mcommit l d) s = .next (s.hold c .order))
        ∧ (c.onMill = false → benchCommitted s c = true → exec (.mcommit l d) s
            = .next (s.write { c with sec := { c.sec with state := .out, openSeq := 0, cause := 0 } } [] .all d (uVal 0)))))
    ∧ (∀ d, Runs s c (.mrcnt d) → ∃ v, exec (.mrcnt d) s = .next (s.write c [] .all d (uVal v))
      ∧ (c.sec.total < 2 ^ 32 → c.sec.limit < 16 → c.sec.replays < 256 → fld v 32 32 = c.sec.total ∧ bit v 16 = c.sec.ranFlushed
        ∧ fld v 8 4 = c.sec.limit ∧ fld v 0 8 = c.sec.replays ∧ fld v 12 4 = 0 ∧ fld v 17 15 = 0))
    ∧ (∀ d a b, Runs s c (.msig d a b) → ∃ v, exec (.msig d a b) s = .next (s.write c [] .all d (uVal v))
      ∧ ∀ j, j < 64 → v.getLsbD j = (match constOf a with | 0 => c.sec.rs | 1 => c.sec.ws | 2 => c.sec.lastCs | _ => c.sec.lastHit).getLsbD
          (64 * constOf b + j))
    ∧ (∀ d, Runs s c (.mstate d) → ∃ v, exec (.mstate d) s = .next (s.write c [] .all d (uVal v))
      ∧ ((bufSectors c.sec.buffer).length ≤ 512 → c.sec.cause < 16 → c.sec.attempt < 256 → c.sec.limit < 16 → c.sec.width < 4 →
        fld v 48 16 = (bufSectors c.sec.buffer).length ∧ fld v 36 4 = c.sec.cause ∧ bit v 16 = !c.onMill ∧ fld v 8 8 = c.sec.attempt
          ∧ fld v 4 4 = c.sec.limit ∧ fld v 2 2 = c.sec.width ∧ fld v 40 8 = 0 ∧ fld v 17 19 = 0
          ∧ fld v 0 2 = match c.sec.state with | .out => 0 | .ordinary => 1 | .flushed => 2))
    ∧ ∀ d a, Runs s c (.mesc d a) →
      (constOf a = 0 → ∃ v, exec (.mesc d a) s = .next (s.write c [] .all d (uVal v))
        ∧ (c.sec.flushedCount < 2 ^ 32 → c.sec.returnTraps < 2 ^ 32 → fld v 32 32 = c.sec.flushedCount ∧ fld v 0 32 = c.sec.returnTraps))
      ∧ (constOf a ≠ 0 → c.onMill = false → exec (.mesc d a) s = .next (s.advance c))
      ∧ (constOf a = 1 → c.onMill = true → c.sec.state = .out → exec (.mesc d a) s = .next (s.ill c))
      ∧ (constOf a = 1 → c.onMill = true → c.sec.state = .ordinary → exec (.mesc d a) s = .next (s.discard c (Section.replayed 5 true)))
      ∧ (c.onMill = true → constOf a = 2 ∨ (constOf a = 1 ∧ c.sec.state = .flushed) → exec (.mesc d a) s = .next (s.returnTrap c 5))

/-- Mill commands and Mill cuts (R261, R262, R266 to R268, R274 to R276): MSEND's card joins the Mill's queue; a free Mill starts a cut from
its next command, with ENTRY, MODE, LANES and six words of the card. A card that fails raises its cause at the lanes that name it, and RGT for a
Mill of another partition once it is sound; in quantum mode the issue awaits the commit. The Assay unit discards an attempt whose signatures
meet the cache-side one, and otherwise drains its buffer to DRAM, but for what lies in a view; one flushed attempt of a stack runs at a time, and 65536 cycles end it with a return trap. A
cut that a return trap moved becomes a crew of one on its Bench. Refresh freezes a Mill. A write of MSUM or MDERR clears what it names. -/
def Obligations.MillWork : Prop :=
  (∀ (s : State) (c : Cut) (l : BitVec 4) (a : Opnd) (m : BitVec 14) (p : Nat) (ptr : W64), Runs s c (.msend l a m) → c.issuing = [] →
    let mill := coordMill m
    let v := c.read s a []
    let chk := millCheck s c mill ptr
    (c.millCards v = [] → exec (.msend l a m) s = .next (s.complete c [a] c))
    ∧ (c.millCards v = [(p, ptr)] → effectMayIssue s c = true → c.cardsClear s v = true → c.onMill = false → millRoom s mill ≠ 0 →
      (chk.cause = 0 → c.quantum s = false → s.launchOf c.lid ∈ s.launches → (s.launchOf c.lid).lid = c.lid →
        ∃ (u : State) (cmd : MillCmd), exec (.msend l a m) s = .next (u.complete c.effect [a] c.effect) ∧ KeepsMemory s u ∧ u.cuts = s.cuts
          ∧ (u.millOf mill).queue = (s.millOf mill).queue ++ [cmd] ∧ (u.millOf mill).run = (s.millOf mill).run
          ∧ cmd.card = chk.card ∧ cmd.lid = c.lid ∧ cmd.uid = c.uid ∧ cmd.seq = (s.launchOf c.lid).millSeq
          ∧ (u.launchOf c.lid).cmds = (s.launchOf c.lid).cmds ++ [cmd] ∧ (u.launchOf c.lid).millSeq = ((s.launchOf c.lid).millSeq + 1) % 2 ^ 40)
      ∧ (chk.cause = 0 → c.quantum s = true → ∃ u : State, exec (.msend l a m) s = .next (u.complete c.effect [a] c.effect)
        ∧ KeepsMemory s u ∧ u.cuts = s.cuts ∧ u.mills = s.mills ∧ u.qeff = s.qeff
          ++ [⟨c.lid, c.uid, c.cutid, s.nextSeq, c.ilAt s p, c.ctx.pc, c.bench, c.asid s, .msend chk.card mill⟩])
      ∧ (chk.cause ≠ 0 → c.isPattern = false → ∃ u : State, KeepsMemory s u ∧ u.cuts = s.cuts ∧ u.mills = s.mills
        ∧ exec (.msend l a m) s = .next (u.stop c (c.cause chk.cause chk.addr
            (lanesWord (c.governed.filter fun i => !c.performed i && c.valAt v i == ptr)))))
      ∧ ∀ w, readCard s c ptr = .words w → millCardOk s c w = true → millOwner s mill ≠ some (s.launchOf c.lid).part →
          chk.cause = causeRGT ∧ chk.addr = 0))
  ∧ (∀ (s : State) (n : Nat) (cmd : MillCmd) (rest : List MillCmd), (s.millOf n).queue = cmd :: rest → (s.millOf n).run = none →
    millMayRun s (s.launchOf cmd.lid) = true → millOwner s n = some (s.launchOf cmd.lid).part → ∃ (t : State) (k : Cut),
      exec (.millCutStart n) s = .next t ∧ KeepsMemory s t ∧ t.cuts = s.cuts ++ [k] ∧ (t.millOf n).queue = rest
        ∧ (t.millOf n).run = some (s.nextUid, cmd) ∧ k.uid = s.nextUid ∧ k.lid = cmd.lid ∧ k.place = .mill n ∧ k.mill = true ∧ k.first = cmd.seq
        ∧ k.ctx.pc = (s.launchOf cmd.lid).kcode + cmd.card.getD 0 0 ∧ k.ctx.mode.toNat = fld (cmd.card.getD 1 0) 32 32
        ∧ k.items = (List.range (fld (cmd.card.getD 1 0) 0 4)).map (fun x => ⟨x, 0, 0⟩)
        ∧ (∀ j, j < 6 → k.ctx.o[j]? = some (uVal (cmd.card.getD (2 + j) 0))) ∧ k.sec.state = .out)
  ∧ (∀ (s : State) (stack : Nat) (c : Cut), (commitsAt s stack).find? (fun d => !d.quantum s && !heldByFlush s d) = some c →
    c.isPattern = false → c.sec.implicit = none →
    (c.sec.conflicts = true → ∀ x, c.sec.restore = some x → ∃ (t : State) (k : Cut), exec (.assayCommit stack) s = .next t ∧ KeepsMemory s t
      ∧ k ∈ t.cuts ∧ k.uid = c.parent ∧ k.ctx = x ∧ k.place = c.place ∧ k.wait = .none ∧ k.sec.buffer = [] ∧ k.sec.restore = none
      ∧ k.sec.replays = min 255 (c.sec.replays + 1) ∧ k.sec.prevSig = (c.sec.rs ||| c.sec.ws) ∧ k.localMem = undone c.localMem c.sec.undo)
    ∧ (c.sec.conflicts = false → c.exiting = false → c.sec.held = [] →
      let kept := c.sec.buffer.filter fun p => (viewAt s p.1).isNone
      ∃ (u : State) (k : Cut),
      exec (.assayCommit stack) s = .next (u.write { k with wait := .none } [] .all c.sec.commitDst (uVal 0))
        ∧ u.mem = kept.foldl (fun m p => cellPut p.1 p.2 m) s.mem ∧ u.host = s.host ∧ k.uid = c.uid ∧ k.sec.state = .out
        ∧ k.sec.buffer = [] ∧ k.localMem = c.localMem ∧ ∀ d ∈ u.stale, d.1 ∉ bufSectors kept))
  ∧ (∀ (s : State) (stack uid : Nat) (rest : List Nat) (c : Cut), (s.assayOf stack).running = none → (s.assayOf stack).waiting = uid :: rest →
    s.cutOf uid = some c → ∃ t, exec (.flushedAttemptStart stack) s = .next t ∧ KeepsMemory s t ∧ (t.assayOf stack).running = some uid
      ∧ (t.assayOf stack).waiting = rest ∧ t.cutOf uid = some { c with wait := .none }
      ∧ ∀ d ∈ t.stale, stackOf (d.1 * 128) = stack → c.sec.state ≠ .out → sigHit (sigWidth c.sec.width) c.sec.prevSig d.1 = false)
  ∧ (∀ (s : State) (c : Cut), s.cutOf c.uid = some c →
    (c.onMill = true → c.sec.state = .flushed → c.sec.restore.isSome = true → 65536 < c.sec.unfrozen →
      exec (.flushedLimit c.uid) s = .next (s.returnTrap c 3))
    ∧ (c.onMill = true → c.isPattern = false → ∃ k ∈ (s.returnTrap c 3).cuts, k.parent = c.parent ∧ k.place = .returned (homeBench s (c.millNum / 8)) ∧ k.wait = .none
        ∧ k.trap.tcause = c.trap.tcause ||| BitVec.ofNat 64 causeRTT ∧ k.sec.returnTraps = c.sec.returnTraps + 1 ∧ k.sec.cause = 3
        ∧ k.sec.replays = c.sec.replays ∧ KeepsMemory s (s.returnTrap c 3) ∧ ((s.mills.any (·.num == c.millNum)) = true → ((s.returnTrap c 3).millOf c.millNum).run = none))
    ∧ (∀ b slot, c.place = .returned b → c.isPattern = false → (s.crewsOn b).length < 32 →
      mayReserve s (s.launchOf c.lid).part b 1 c.parent = true → freeSlot s (s.launchOf c.lid) true 8192 = some slot →
      ∃ (t : State) (k : Crew) (d : Cut), exec (.returnedCutResume c.uid) s = .next t ∧ KeepsMemory s t ∧ t.crews = s.crews ++ [k]
        ∧ k.key = s.nextId ∧ k.bench = b ∧ k.capacity = 32 ∧ k.slot = slot ∧ k.ret = true ∧ k.pages.length = 16
        ∧ t.cutOf c.uid = some d ∧ d.place = .queue b ∧ d.crew = some s.nextId ∧ d.ctx = c.ctx))
  ∧ ∀ (s : State) (n k : Nat) (v : W64),
    (∃ t, exec (.refreshStart n) s = .next t ∧ t = { s with mills := t.mills } ∧ t.millOf n = { s.millOf n with frozen := true })
    ∧ (∃ t, exec (.refreshEnd n) s = .next t ∧ t = { s with mills := t.mills } ∧ t.millOf n = { s.millOf n with frozen := false })
    ∧ (n < 12 → exec (.msumWrite n v) s = .next (s.setReg (regMsum n) (s.reg (regMsum n) &&& ~~~(bits 63 48 ||| (v &&& bits 31 0)))))
    ∧ (n < 12 → k < 4 → let w := s.reg (regMderr n k) &&& bits 31 0 &&& ~~~v
      exec (.mderrWrite n k v) s = .next ((s.setReg (regMderr n k) w).setField (regMsum n) (32 + k) 1 (if w = 0 then 0 else 1)))

/-! ## Pre-emption, quanta, halting and profiling (R31, R34, R36 to R38, R351 to R355, R378, R380, R386 to R394) -/

/-- Slice ends and pre-emption (R36, R37, R351 to R353, R355, R378, R380): a slice end credits the accounts of its partition, finds the
exhausted ones and pre-empts; a cut is saved once its results have arrived, till then it issues nothing; a saved cut keeps its state, but for
a seam where it waited, and resumes with it, where an L1 that is new to it holds nothing older; a discarded one is replaced by a cut at the kernel's entry
point; a drain that passes half its deadline is saved, and an action that passes the deadline becomes a forced reset, which ends the
launches of its context with REASON 1 and leaves none of their cuts; the report is written once every action is over. -/
def Obligations.PreemptionWork : Prop :=
  (∀ (s : State) (part : Nat), part < 40 →
    (bit (s.reg (regPcfg part)) 63 = true → (s.sliceOf part).reporting = false → (s.sliceOf part).began + sliceLength s part ≤ s.cycle →
      let t := s.credit part
      let empty := emptyAccounts t part
      let ls := preempted t part (s.sliceOf part).began empty
      exec (.sliceEnd part) s = .next ((distinct (ls.map (·.asid))).foldl (fun u a => u.preemptContext part a (ls.filter (·.asid == a)))
        (t.putSlice ⟨part, s.cycle, empty, true⟩))
      ∧ (ls = [] → ∃ u, exec (.sliceEnd part) s = .next u ∧ u.sliceOf part = ⟨part, s.cycle, empty, true⟩ ∧ u.cuts = s.cuts ∧ KeepsMemory s u))
    ∧ (Canonical s → ∀ a, a < 16 → let cfg := s.reg (regAcctcfg part a)
      ((s.credit part).reg (regAcctbal part a)).toInt
        = min ((s.reg (regAcctbal part a)).toInt + (fld cfg 32 32 : Int)) (2 ^ 10 * fld cfg 0 32 : Nat)))
  ∧ (∀ (s : State) (part : Nat) (p : Preempt),
    let due := fun (n : Nat) (q : Preempt) => q.part == part && !q.finished && !q.ended s && decide (q.since + n ≤ s.cycle)
    (s.preempts.filter (fun q => q.action == 1 && due (deadlineOf s part / 2) q) = [p] →
      let took := s.cycle - p.since + saveCost s (p.affected.map (·.1)) p.cluster
      let changed : State := { s with preempts := s.preempts.map fun r =>
        if r.asid = p.asid ∧ r.cluster = p.cluster ∧ r.part = p.part ∧ r.finished = false then { r with action := 2, took := took } else r }
      exec (.drainDeadline part) s
        = .next (changed.saveCluster p.asid ((p.affected.map (·.1)).filter fun n => !(s.launchOf n).qm) p.cluster))
    ∧ (s.preempts.filter (due (deadlineOf s part)) = [p] → exec (.preemptionDeadline part) s = .next (s.forceReset p.asid))
    ∧ (s.preempts.filter (due (deadlineOf s part)) = [] → exec (.preemptionDeadline part) s = .next s))
  ∧ (∀ (s : State) (asid : Nat) (l : Launch), l ∈ s.launches → l.asid = asid → l.live = true →
    ∃ t, exec (.forcedContextReset asid) s = .next t ∧ (∀ c ∈ t.cuts, c.lid ≠ l.lid) ∧ (∀ j ∈ t.jobs, j.lid ≠ l.lid)
      ∧ (∃ k ∈ t.launches, k.lid = l.lid) ∧ ∀ k ∈ t.launches, k.lid = l.lid → k.endState = 3 ∧ k.endReason = 1)
  ∧ (∀ (s : State) (c : Cut), s.cutOf c.uid = some c → c.crew = none →
    (togetherWith s c = [c] → (c.outst = [] → (s.saveCut c).cutOf c.uid = some { c with
          place := .saved c.place.bench, born := s.cycle, leaving := false, wait := match c.wait with | .seam _ _ _ => .none | w => w }
        ∧ KeepsMemory s (s.saveCut c))
      ∧ (c.outst ≠ [] → s.saveCut c = s.putCut { c with leaving := true }))
    ∧ (c.isPattern = true → ∃ k : Cut, (s.discardCut c).cuts = s.cuts.filter (fun d => !decide (d.uid ∈ [c.uid])) ++ [k]
        ∧ k.uid = s.nextUid ∧ k.lid = (s.launchOf c.lid).lid ∧ k.place = .saved c.place.bench ∧ k.ctx.pc = (s.launchOf c.lid).kcode
        ∧ k.ctx.v = List.replicate 64 (uVal 0) ∧ KeepsMemory s (s.discardCut c))
    ∧ (∀ bench quad, c.isSaved = true → keptMill s c = none →
      (c.isPattern = true → mayResumeForeman s c bench = true →
        ∃ t : State, exec (.cutResume c.uid bench quad) s = .next (t.putCut { c with place := .foreman bench, born := s.cycle })
          ∧ t = { s with l1 := t.l1, wbuf := t.wbuf } ∧ (c.place.bench ≠ bench → ∀ x ∈ t.l1, x.bench ≠ bench))
      ∧ (c.isPattern = false → mayResume s c bench quad = true → ∃ t, exec (.cutResume c.uid bench quad) s = .next t
        ∧ t = { s with cuts := t.cuts, l1 := t.l1, wbuf := t.wbuf } ∧ (c.place.bench ≠ bench → ∀ x ∈ t.l1, x.bench ≠ bench)
        ∧ t.cutOf c.uid = some { c with place := .quad bench quad, born := s.cycle, age := s.cycle }))
    ∧ (∀ bench quad m, c.isSaved = true → c.isPattern = false → keptMill s c = some m → millMayRun s (s.launchOf c.lid) = true →
      millOwner s m = some (s.launchOf c.lid).part → ∃ t, exec (.cutResume c.uid bench quad) s = .next t
        ∧ t = { s with cuts := t.cuts } ∧ t.cutOf c.uid = some { c with place := .mill m, born := s.cycle, age := s.cycle }))
  ∧ ∀ (s : State) (part asid : Nat),
    (s.contextOf asid = none → exec (.contextReload asid) s = .next s)
    ∧ (s.contextOf asid ≠ none → ∃ t, exec (.contextReload asid) s = .next t ∧ KeepsMemory s t ∧ t.cuts = s.cuts
      ∧ t.contexts = s.contexts.map fun x => if x.asid = asid then readContext s asid else x)
    ∧ (part < 40 → let t := s.finishActions part
      let mine := t.preempts.filter (·.part == part)
      let ls := affectedLaunches t mine
      (t.sliceOf part).reporting = true → (∀ p ∈ mine, p.finished = true) → Canonical t → ∃ u, exec (.preemptionReport part) s = .next u
        ∧ u.mem = (t.devPut (fld (t.reg (regPrpt part)) 12 28 * 2 ^ 12)
            (((List.range 16).flatMap (clusterRecord mine) ++ (ls.take 240).flatMap fun p => [p.1.toNat, p.2 * 2 ^ 62]).flatMap (bytesLE 8))).mem
        ∧ u.preempts = t.preempts.filter (·.part != part) ∧ (u.sliceOf part).reporting = false
        ∧ let r := u.reg (regRptstat part)
          fld r 0 8 = min 240 ls.length ∧ bit r 31 = decide (240 < ls.length)
            ∧ fld r 32 32 = (fld (t.reg (regRptstat part)) 32 32 + 1) % 2 ^ 32)

/-- Quanta and cut queues (R34, R38, R196, R220): a quantum ends when each resident cut of the launch has retired its quota or is held, and
only then; the effects that its cuts made commit in ascending identifier order, the counts of retired instructions start again, and every L1
of the placement is invalidated. The cut of the lowest identifier takes a free slot of a quadrant, of equals the one that has waited longest
(R24). -/
def Obligations.QuantumCommits : Prop :=
  (∀ (s : State) (lid : Nat),
    (quantumEnds s (s.launchOf lid) = false → exec (.quantumEnd lid) s = .next s)
    ∧ (quantumEnds s (s.launchOf lid) = true → (∀ q ∈ s.qeff, q.lid ≠ lid) → (∀ j ∈ s.jobs, j.lid ≠ lid) →
      (∀ k ∈ s.comms, ∀ o ∈ k.ops, o.lid ≠ lid) → s.crews = [] → s.assays = [] → s.preempts = [] →
      (∀ c ∈ s.cuts, c.lid = lid → ∀ pc since r, c.wait ≠ .seam pc since r) →
      ∃ t, exec (.quantumEnd lid) s = .next t ∧ KeepsMemory s t
        ∧ t.cuts = s.cuts.map (fun c => if c.lid = lid then { c with retired := 0, wait := if c.wait = .quantum then .none else c.wait } else c)
        ∧ ∀ x ∈ t.l1, x.bench ∉ placement s (s.launchOf lid).part))
  ∧ (∀ (s : State) (lid : Nat) (a b : QEntry), s.qeff = [b, a] → a.lid = lid → b.lid = lid → a.cutid.toNat < b.cutid.toNat →
    a.seq < 2 ^ 128 → b.seq < 2 ^ 128 → s.commitEffects lid = ({ s with qeff := [] } : State).commitInOrder [] [a, b])
  ∧ (∀ (s : State) (q : QEntry) (ended : List Nat),
    (∀ w, q.eff = .store w → homeFails s { w with held := false } = true → s.commitEffect q ended = s.failStore { w with held := false })
    ∧ (∀ w p bs, q.eff = .store w → w.loc = .dev p → w.op = .bytes bs → flushHolds s (sectorOf p) = false →
      (∀ x ∈ s.storeQ, x.job.isNone = true → x.meets w = false) → s.commitEffect q ended = s.perform { w with held := false })
    ∧ (∀ k n e, q.eff = .push k.key n e → s.crewOf k.key = some k → (k.chute n).closed = false → n < k.chutes.length →
      ∃ j, (s.commitEffect q ended).crewOf k.key = some j ∧ (j.chute n).entries = (k.chute n).entries ++ [e] ∧ KeepsMemory s (s.commitEffect q ended))
    ∧ (∀ k n e, q.eff = .push k.key n e → s.crewOf k.key = some k → (k.chute n).closed = true →
      s.commitEffect q ended = s.holdLate q.lid q.cutid
        ⟨q.uid, q.seq, q.il, BitVec.ofNat 64 (causeCHC + causeLSF), 0, itemLanes s q.lid q.il, q.pc, 0⟩))
  ∧ ∀ (s : State) (bench quad : Nat),
    (nextQueued s bench quad = none → exec (.cutQueueIssue bench quad) s = .next s)
    ∧ ∀ c, nextQueued s bench quad = some c → s.cutOf c.uid = some c →
      mayEnter s c bench quad = true
        ∧ ((∀ d ∈ s.cuts, d.born < 2 ^ 64) → ∀ d ∈ s.cuts, mayEnter s d bench quad = true →
            (c.parid s).toNat ≤ (d.parid s).toNat ∧ (c.parid s = d.parid s → c.born ≤ d.born))
        ∧ (c.isPattern = false → ∃ t, exec (.cutQueueIssue bench quad) s = .next t ∧ t = { s with cuts := t.cuts }
          ∧ t.cutOf c.uid = some { c with place := .quad bench quad, born := s.cycle, age := s.cycle })

/-- Halting a context, and the cycle of the schedulers (R31, R386 to R388, R391, R393, R394): HALT begins to halt the context that a slot
holds; the trigger reaches unit after unit; once all have stopped, a record of each cut is written, or a buffer too small leaves SKEW all
ones; RESUME frees the slot. A cycle advances the clock, and picks only eligible cuts, those first that have not issued for 512 cycles, else
by class, a stray's being 3, and age, a declared pipeline's by its chutes, the fullest input first and then the emptiest output (R232); it
adds 1 to one bin, which saturates. A sample writes the scheduler's record to the ring, or counts it dropped. -/
def Obligations.HaltsAndCycles : Prop :=
  (∀ (s : State) (slot : Nat), slot < 4 →
    (bit (s.reg (regDbgctl slot)) 63 = true → s.halts.find? (·.slot == slot) = none → debugSlot s (fld (s.reg (regDbgctl slot)) 0 13) = some slot →
      ∃ t, exec (.halt slot) s = .next t ∧ t = { s with win := t.win, halts := t.halts }
        ∧ t.halts = s.halts ++ [⟨slot, fld (s.reg (regDbgctl slot)) 0 13, s.cycle, []⟩]
        ∧ (Canonical s → t.reg (regDbgstat slot) = BitVec.ofNat 64 (1 * 2 ^ 62 + 4 * 2 ^ 58)))
    ∧ (∀ h, s.halts.find? (·.slot == slot) = some h →
      (exec (.resume slot) s = .next { s.setReg (regDbgstat slot) 0 with halts := s.halts.filter (·.slot != slot) })
      ∧ (∀ unit, unit ∉ h.stopped → haltedWhole s slot = false → (∀ c ∈ s.cuts, c.onMill = false) → ∃ t,
        exec (.debugStop slot unit) s = .next t ∧ t = { s with win := t.win, halts := t.halts }
          ∧ (∃ g, t.halts.find? (·.slot == slot) = some g ∧ g = { h with stopped := h.stopped ++ [unit] })
          ∧ (Canonical s → fld (t.reg (regDbgstat slot)) 0 32 = min 0xFFFFFFFE (s.cycle - h.since)))
      ∧ (haltedWhole s slot = false → allStopped s h = true → (∀ c ∈ stoppedCuts s h.asid, s.cutOf c.uid = some c ∧ c.outst = []) →
        let bytes := (stoppedCuts s h.asid).flatMap fun c => dumpCut s c c
        let w := s.reg (regDump slot)
        exec (.dump slot) s = .next (if 4096 * fld w 40 24 < bytes.length then s.setField (regDbgstat slot) 0 32 0xFFFFFFFF
          else (s.devPut (fld w 6 34 * 64) bytes).setField (regDbgstat slot) 62 2 2))))
  ∧ (∀ s : State, ∃ t, exec .schedulerCycle s = .next t ∧ KeepsMemory s t ∧ t.cycle = s.cycle + 1 ∧ t.issued = [] ∧ t.sampled = []
    ∧ ∀ u ∈ t.issue, ∃ c ∈ t.cuts, c.uid = u ∧ c.eligible { t with issue := s.issue } = true)
  ∧ (∀ (s : State) (cs : List Cut) (c : Cut), (∀ d ∈ cs, d.uid < 2 ^ 64 ∧ d.age < 2 ^ 64) → choose s cs = some c →
    c ∈ cs ∧ ((∃ d ∈ cs, 512 ≤ d.waited s) → 512 ≤ c.waited s ∧ ∀ d ∈ cs, 512 ≤ d.waited s → c.age ≤ d.age)
      ∧ ((∀ d ∈ cs, d.waited s < 512) → ∀ d ∈ cs, c.issueClass ≤ d.issueClass
        ∧ (c.issueClass = d.issueClass → (c.stage s = none → c.age ≤ d.age)
          ∧ ∀ g h, c.stage s = some g → d.stage s = some h → c.lid = d.lid →
            (∀ k ∈ cs, ∀ n, k.fill s n < 2 ^ 16) → d.fill s h.inp ≤ c.fill s g.inp
              ∧ (d.fill s h.inp = c.fill s g.inp → c.fill s g.out ≤ d.fill s h.out))))
  ∧ (∀ c : Cut, c.issueClass = if c.kind = .stray then 3 else c.cls)
  ∧ (∀ (before s : State) (b k : Nat), Canonical s → b < 256 → k < 5 →
    let n := ((onSched before (b, k)).filter (Cut.eligible before)).length
    let off := regElig b k (min 16 n)
    n ≠ 0 → (State.countCycle before s (b, k)).reg off = if s.reg off = BitVec.allOnes 64 then BitVec.allOnes 64 else s.reg off + 1)
  ∧ ∀ (s : State) (b k : Nat) (ws : List W64), samples s b k = true → (b, k) ∉ s.sampled → sampleRecord s b k = some ws →
    let size := 2 ^ (fld (s.reg regSmpbase) 59 5 + 6)
    let head := fld (s.reg regSmphead) 0 32
    let used := (head + 2 ^ 32 - fld (s.reg regSmptail) 0 32) % 2 ^ 32
    ∃ t, exec (.sample b k) s = .next t ∧ t.sampled = s.sampled ++ [(b, k)] ∧ t.host = s.host
      ∧ (used = size → t.mem = s.mem ∧ (Canonical s → fld (t.reg regSmphead) 32 32 = min (2 ^ 32 - 1) (fld (s.reg regSmphead) 32 32 + 1)))
      ∧ (used ≠ size → t.mem = (s.devPut (fld (s.reg regSmpbase) 5 35 * 32 + 32 * (head % size)) (ws.flatMap fun w => bytesLE 8 w.toNat)).mem
        ∧ (Canonical s → fld (t.reg regSmphead) 0 32 = (head + 1) % 2 ^ 32))

/-! ## The whole machine -/

/-- Every step keeps the canonical form of what a state lists (R190, R322): device memory and host memory by rising addresses with no byte
at what an unlisted address reads as, the control window by rising offsets. -/
def Obligations.CanonicalKept : Prop := ∀ s t : State, Canonical s → step s = .next t → Canonical t

/-- The state after reset (R322, R334, R367, R371, R374): nothing runs, memory lists nothing, each register of the control window reads its
Reset column, OWNSTAT.DONE and CRES.DONE 1, WAITLIM and RDL 1000, PDL 2^20 and SLICE 100, and it is in canonical form. That what the spec
gives no reset value reads 0 is the model's choice (log 2, log 6). -/
def Obligations.ResetState : Prop :=
  let s := State.reset
  Canonical s ∧ s.cuts = [] ∧ s.launches = [] ∧ s.mem = [] ∧ s.cycle = 0
    ∧ s.reg regOwnstat = 1#64 <<< 63 ∧ s.reg regCres = 1#64 <<< 63
    ∧ (∀ p, p < 40 → fld (s.reg (regPrctl p)) 32 16 = 1000 ∧ fld (s.reg (regPtime p)) 44 20 = 1000
        ∧ fld (s.reg (regPtime p)) 16 25 = 2 ^ 20 ∧ fld (s.reg (regPtime p)) 0 16 = 100 ∧ bit (s.reg (regPcfg p)) 63 = false)
    ∧ (∀ q, q < 2048 → s.reg (regQcfg q) = 0 ∧ served s q = none)
    ∧ (∀ n, n < 1024 → quadOwner s n = none)
end

