-- ==== Sys2Proof/Laws/Memory.lean ====
section
/-! SUPPORT. Canonical lists: what `Memory.wf` says, that every operation on memory and on the control window keeps it, and what a
read finds after a write. -/

namespace Sys2Proof.Machine

/-! ## Canonical lists of bytes (R190) -/

theorem wf_cons_iff (a : Nat) (b : Byte) (m : List Host.Cell) :
    Memory.wf ((a, b) :: m) = true ↔ b ≠ Config.unwritten ∧ (∀ c ∈ m, a < c.1) ∧ Memory.wf m = true := by
  induction m generalizing a b with
  | nil => simp [Memory.wf]
  | cons c m ih =>
    obtain ⟨x, y⟩ := c
    have h := ih x y
    constructor
    · intro hw
      simp only [Memory.wf, Bool.and_eq_true, bne_iff_ne, decide_eq_true_eq] at hw
      obtain ⟨⟨hb, hax⟩, hm⟩ := hw
      refine ⟨hb, ?_, hm⟩
      intro d hd
      rcases List.mem_cons.mp hd with rfl | hd
      · exact hax
      · exact Nat.lt_trans hax ((h.mp hm).2.1 d hd)
    · rintro ⟨hb, hlt, hm⟩
      simp only [Memory.wf, Bool.and_eq_true, bne_iff_ne, decide_eq_true_eq]
      exact ⟨⟨hb, hlt _ (List.mem_cons_self ..)⟩, hm⟩

theorem cellPut_mem (a : Nat) (b : Byte) (m : List Host.Cell) :
    ∀ c ∈ cellPut a b m, c = (a, b) ∨ c ∈ m := by
  induction m with
  | nil =>
    intro c hc
    unfold cellPut at hc
    split at hc <;> simp_all
  | cons d m ih =>
    obtain ⟨x, y⟩ := d
    intro c hc
    unfold cellPut at hc
    split at hc
    · split at hc <;> simp_all
    · split at hc
      · split at hc
        · exact .inr (List.mem_cons_of_mem _ hc)
        · rcases List.mem_cons.mp hc with rfl | hc
          · exact .inl rfl
          · exact .inr (List.mem_cons_of_mem _ hc)
      · rcases List.mem_cons.mp hc with rfl | hc
        · exact .inr (List.mem_cons_self ..)
        · rcases ih c hc with h | h
          · exact .inl h
          · exact .inr (List.mem_cons_of_mem _ h)

/-- A write keeps the canonical form. -/
theorem cellPut_wf (a : Nat) (b : Byte) (m : List Host.Cell) (h : Memory.wf m = true) : Memory.wf (cellPut a b m) = true := by
  induction m with
  | nil =>
    unfold cellPut
    split
    · rfl
    · simp_all [Memory.wf]
  | cons d m ih =>
    obtain ⟨x, y⟩ := d
    have hd := (wf_cons_iff x y m).mp h
    unfold cellPut
    split
    · next hlt =>
      split
      · exact h
      · next hb =>
        refine (wf_cons_iff a b _).mpr ⟨hb, ?_, h⟩
        intro c hc
        rcases List.mem_cons.mp hc with rfl | hc
        · exact hlt
        · exact Nat.lt_trans hlt (hd.2.1 c hc)
    · split
      · next heq =>
        split
        · exact hd.2.2
        · next hb => exact (wf_cons_iff a b m).mpr ⟨hb, heq ▸ hd.2.1, hd.2.2⟩
      · next hlt hne =>
        refine (wf_cons_iff x y _).mpr ⟨hd.1, ?_, ih hd.2.2⟩
        intro c hc
        rcases cellPut_mem a b m c hc with rfl | hc
        · exact Nat.lt_of_le_of_ne (Nat.not_lt.mp hlt) (Ne.symm hne)
        · exact hd.2.1 c hc

theorem cellsPut_wf (m : List Host.Cell) (a : Nat) (bs : List Byte) (h : Memory.wf m = true) : Memory.wf (cellsPut m a bs) = true := by
  induction bs generalizing m a with
  | nil => exact h
  | cons b bs ih => exact ih _ _ (cellPut_wf a b m h)

theorem scatter_wf (m : List Host.Cell) (base : Nat) (bs : List (Nat × Byte)) (h : Memory.wf m = true) :
    Memory.wf (scatter m base bs) = true := by
  unfold scatter
  induction bs generalizing m with
  | nil => exact h
  | cons b bs ih => exact ih _ (cellPut_wf _ _ m h)

/-- Writing cells of any kind, one after another, keeps the canonical form. -/
theorem foldl_cellPut_wf {α : Type} (f : α → Nat) (g : α → Byte) (p : α → Bool) (xs : List α) (m : List Host.Cell)
    (h : Memory.wf m = true) : Memory.wf (xs.foldl (fun m x => if p x then cellPut (f x) (g x) m else m) m) = true := by
  induction xs generalizing m with
  | nil => exact h
  | cons x xs ih =>
    refine ih _ ?_
    dsimp only
    split
    · exact cellPut_wf _ _ m h
    · exact h

/-- Dropping cells keeps the canonical form. -/
theorem filter_wf (p : Host.Cell → Bool) (m : List Host.Cell) (h : Memory.wf m = true) : Memory.wf (m.filter p) = true := by
  induction m with
  | nil => rfl
  | cons d m ih =>
    obtain ⟨x, y⟩ := d
    have hd := (wf_cons_iff x y m).mp h
    rw [List.filter_cons]
    split
    · exact (wf_cons_iff x y _).mpr ⟨hd.1, fun c hc => hd.2.1 c (List.mem_filter.mp hc).1, ih hd.2.2⟩
    · exact ih hd.2.2

/-- A byte below every listed address reads as an unlisted one does. -/
theorem cellGet_of_lt (m : List Host.Cell) (a : Nat) (h : ∀ c ∈ m, a < c.1) : cellGet m a = Config.unwritten := by
  cases m with
  | nil => rfl
  | cons d m =>
    obtain ⟨x, y⟩ := d
    have hx : a < x := h _ (List.mem_cons_self ..)
    simp [cellGet, hx, Nat.ne_of_gt hx]

/-- A read after a write finds the byte written, and every other byte as before. -/
theorem cellGet_cellPut (a : Nat) (b : Byte) (m : List Host.Cell) (h : Memory.wf m = true) (p : Nat) :
    cellGet (cellPut a b m) p = if p = a then b else cellGet m p := by
  induction m with
  | nil =>
    unfold cellPut
    split
    · next hb => split <;> simp_all [cellGet]
    · simp only [cellGet]
      split
      · next hap => simp [hap]
      · next hap => rw [if_neg (Ne.symm hap)]; simp
  | cons d m ih =>
    obtain ⟨x, y⟩ := d
    have hd := (wf_cons_iff x y m).mp h
    unfold cellPut
    split
    · next hlt =>
      split
      · next hb =>
        split
        · next hp => subst hp; simp [cellGet, Nat.ne_of_gt hlt, hlt, hb]
        · rfl
      · by_cases hp : p = a
        · simp [cellGet, hp]
        · rw [if_neg hp]
          conv => lhs; unfold cellGet
          rw [if_neg (Ne.symm hp)]
          split
          · next hpa =>
            have : p < x := Nat.lt_trans hpa hlt
            simp [cellGet, Nat.ne_of_gt this, this]
          · rfl
    · split
      · next hlt heq =>
        subst heq
        split
        · next hb =>
          by_cases hp : p = a
          · rw [if_pos hp, hp, cellGet_of_lt m a hd.2.1, hb]
          · rw [if_neg hp]
            conv => rhs; unfold cellGet
            rw [if_neg (Ne.symm hp)]
            split
            · next hpa => exact cellGet_of_lt m p fun c hc => Nat.lt_trans hpa (hd.2.1 c hc)
            · rfl
        · by_cases hp : p = a
          · simp [cellGet, hp]
          · simp [cellGet, Ne.symm hp, hp]
      · next hlt hne =>
        by_cases hx : x = p
        · have : ¬ p = a := fun hpa => hne (hpa.symm.trans hx.symm)
          simp [cellGet, hx, this]
        · by_cases hpx : p < x
          · have : ¬ p = a := by omega
            simp [cellGet, hx, hpx, this]
          · simp only [cellGet, hx, hpx, if_false]
            exact ih hd.2.2

/-! ## The control window (R322) -/

theorem winPut_mem (off : Nat) (v : W64) (w : List (Nat × W64)) : ∀ c ∈ winPut off v w, c = (off, v) ∨ c ∈ w := by
  induction w with
  | nil =>
    intro c hc
    unfold winPut at hc
    split at hc <;> simp_all
  | cons d w ih =>
    obtain ⟨x, y⟩ := d
    intro c hc
    unfold winPut at hc
    split at hc
    · split at hc <;> simp_all
    · split at hc
      · split at hc
        · exact .inr (List.mem_cons_of_mem _ hc)
        · rcases List.mem_cons.mp hc with rfl | hc
          · exact .inl rfl
          · exact .inr (List.mem_cons_of_mem _ hc)
      · rcases List.mem_cons.mp hc with rfl | hc
        · exact .inr (List.mem_cons_self ..)
        · rcases ih c hc with h | h
          · exact .inl h
          · exact .inr (List.mem_cons_of_mem _ h)

/-- Setting a register keeps the offsets rising. -/
theorem winPut_rising (off : Nat) (v : W64) (w : List (Nat × W64)) (h : w.Pairwise fun a b => a.1 < b.1) :
    (winPut off v w).Pairwise fun a b => a.1 < b.1 := by
  induction w with
  | nil => unfold winPut; split <;> simp
  | cons d w ih =>
    obtain ⟨x, y⟩ := d
    obtain ⟨hx, hw⟩ := List.pairwise_cons.mp h
    unfold winPut
    split
    · next hlt =>
      split
      · exact h
      · refine List.pairwise_cons.mpr ⟨?_, h⟩
        intro c hc
        rcases List.mem_cons.mp hc with rfl | hc
        · exact hlt
        · exact Nat.lt_trans hlt (hx c hc)
    · split
      · next heq =>
        split
        · exact hw
        · exact List.pairwise_cons.mpr ⟨heq ▸ hx, hw⟩
      · next hlt hne =>
        refine List.pairwise_cons.mpr ⟨?_, ih hw⟩
        intro c hc
        rcases winPut_mem off v w c hc with rfl | hc
        · exact Nat.lt_of_le_of_ne (Nat.not_lt.mp hlt) hne
        · exact hx c hc

/-! ## The operations on memory -/

theorem reset_canonical : Canonical State.reset := ⟨rfl, rfl, List.Pairwise.nil⟩

/-- Storing a register keeps the canonical form, whatever is stored. -/
theorem setReg_canonical (s : State) (off : Nat) (v : W64) (h : Canonical s) : Canonical (s.setReg off v) :=
  ⟨h.1, h.2.1, winPut_rising off _ s.win h.2.2⟩

theorem setField_canonical (s : State) (off lo len v : Nat) (h : Canonical s) : Canonical (s.setField off lo len v) :=
  setReg_canonical s off _ h

theorem countUp_canonical (s : State) (off lo len n : Nat) (h : Canonical s) : Canonical (s.countUp off lo len n) :=
  setField_canonical s off lo len _ h

/-- An update that keeps both memories and the control window keeps the canonical form. -/
theorem canonical_of_eq (s t : State) (hm : t.mem = s.mem) (hh : t.host = s.host) (hw : t.win = s.win) (h : Canonical s) : Canonical t := by
  unfold Canonical
  rw [hm, hh, hw]
  exact h

/-- A list of updates, each of which keeps the canonical form, keeps it. -/
theorem foldl_canonical {α : Type} (f : State → α → State) (hf : ∀ s x, Canonical s → Canonical (f s x)) (xs : List α) (s : State)
    (h : Canonical s) : Canonical (xs.foldl f s) := by
  induction xs generalizing s with
  | nil => exact h
  | cons x xs ih => exact ih _ (hf s x h)

theorem dirty_canonical (s : State) (sec : Nat) (h : Canonical s) : Canonical (s.dirty sec) := by
  unfold State.dirty
  split
  · exact h
  · exact h

theorem noteWrite_canonical (s : State) (sec : Nat) (h : Canonical s) : Canonical (s.noteWrite sec) := h

theorem dropViews_canonical (s : State) (p : Nat) (h : Canonical s) : Canonical (s.dropViews p) := by
  unfold State.dropViews
  split
  · exact h
  · exact h

theorem adopt_canonical (s : State) (sec : Nat) (h : Canonical s) : Canonical (s.adopt sec) := by
  unfold State.adopt
  split
  · exact ⟨cellsPut_wf _ _ _ h.1, h.2.1, h.2.2⟩
  · exact h

theorem dropWrites_canonical (s : State) (ps : List Nat) (h : Canonical s) : Canonical (s.dropWrites ps) :=
  foldl_canonical _ (fun _ _ hs => countUp_canonical _ _ _ _ _ hs) _ _ h

/-- A write at its homes keeps the canonical form (R190). -/
theorem devWrite_canonical (s : State) (base : Nat) (bs : List (Nat × Byte)) (h : Canonical s) : Canonical (s.devWrite base bs) := by
  have h1 := foldl_canonical (fun (s : State) sec => ((s.dirty sec).adopt sec).noteWrite sec)
    (fun s x hs => noteWrite_canonical _ x (adopt_canonical _ x (dirty_canonical s x hs)))
    (sectorsOf ((bs.filter fun b => (viewAt s (base + b.1)).isNone).map (base + ·.1))) _
    (dropWrites_canonical s ((bs.filter fun b => (viewAt s (base + b.1)).isSome).map (base + ·.1)) h)
  exact foldl_canonical (fun (s : State) p => s.dropViews p) (fun s x hs => dropViews_canonical s x hs) _ _
    ⟨scatter_wf _ _ _ h1.1, h1.2.1, h1.2.2⟩

theorem devPut_canonical (s : State) (p : Nat) (bs : List Byte) (h : Canonical s) : Canonical (s.devPut p bs) :=
  devWrite_canonical s p _ h

theorem poisonSector_canonical (s : State) (sec : Nat) (h : Canonical s) : Canonical (s.poisonSector sec) := by
  unfold State.poisonSector
  refine setReg_canonical _ _ _ (countUp_canonical _ _ _ _ _ ?_)
  split
  · exact h
  · exact h

theorem readFlaw_canonical (s : State) (p : Nat) (h : Canonical s) : Canonical (s.readFlaw p) := by
  unfold State.readFlaw
  split
  · exact h
  · dsimp only
    split
    · exact h
    · split
      · exact poisonSector_canonical _ _ h
      · exact countUp_canonical _ _ _ _ _ h

theorem readAll_canonical (s : State) (l : Loc) (n : Nat) (h : Canonical s) : Canonical (s.readAll l n) := by
  unfold State.readAll
  split
  · split
    · exact h
    · exact foldl_canonical _ (fun s _ hs => readFlaw_canonical s _ hs) _ _ h
  · exact h

theorem putAt_canonical (s : State) (ls : List Loc) (bs : List Byte) (h : Canonical s) : Canonical (s.putAt ls bs) := by
  unfold State.putAt
  refine foldl_canonical _ (fun s _ hs => devWrite_canonical s _ _ hs) _ _ ⟨h.1, ?_, h.2.2⟩
  generalize ls.zip bs = ps
  have : ∀ m, Memory.wf m = true → Memory.wf (ps.foldl (fun h p => match p.1 with | .host a => cellPut a p.2 h | _ => h) m) = true := by
    induction ps with
    | nil => exact fun _ hm => hm
    | cons p ps ih =>
      intro m hm
      refine ih _ ?_
      dsimp only
      split
      · exact cellPut_wf _ _ m hm
      · exact hm
  exact this _ h.2.1

/-- What is copied in from an image keeps the canonical form (R385). -/
theorem copyIn_canonical (s : State) (mib : Nat) (h : Canonical s) : Canonical (s.copyIn mib) := by
  refine ⟨?_, h.2.1, h.2.2⟩
  have hr : Memory.wf (s.mem.filter fun c => !copied mib c.1) = true := filter_wf _ _ h.1
  have := foldl_cellPut_wf (α := Host.Cell) (fun c => c.1 - imageBase s) (fun c => c.2)
    (fun c => decide (imageBase s ≤ c.1 ∧ c.1 < imageBase s + deviceBytes ∧ copied mib (c.1 - imageBase s) = true)) s.host _ hr
  simpa [State.copyIn] using this

/-- The image that is copied out keeps it (R384). -/
theorem copyOut_canonical (s : State) (mib : Nat) (h : Canonical s) : Canonical (s.copyOut mib) := by
  refine ⟨h.1, ?_, h.2.2⟩
  have hr : Memory.wf (s.host.filter fun c => !(decide (imageBase s ≤ c.1 ∧ c.1 < imageBase s + deviceBytes) && copied mib (c.1 - imageBase s))) = true :=
    filter_wf _ _ h.2.1
  have := foldl_cellPut_wf (α := Host.Cell) (fun c => imageBase s + c.1) (fun c => c.2)
    (fun c => copied mib c.1 && !decide (sectorOf c.1 ∈ (poisoned s).filter fun n => copied mib (128 * n))) s.mem _ hr
  exact cellsPut_wf _ _ _ (by simpa [State.copyOut] using this)

end Sys2Proof.Machine
end

