-- ==== Sys2Proof/Laws/State.lean ====
section
/-! SUPPORT. One lemma for each field and each update of a state that changes one list: what the update leaves of every other field, so that
no proof unfolds a record update. -/

namespace Sys2Proof.Machine

/-! ## `State.putCut` -/

@[simp] theorem putCut_agenda (s : State) (c : Cut) : (s.putCut c).agenda = s.agenda := rfl
@[simp] theorem putCut_issue (s : State) (c : Cut) : (s.putCut c).issue = s.issue := rfl
@[simp] theorem putCut_cur (s : State) (c : Cut) : (s.putCut c).cur = s.cur := rfl
@[simp] theorem putCut_fetched (s : State) (c : Cut) : (s.putCut c).fetched = s.fetched := rfl
@[simp] theorem putCut_cycle (s : State) (c : Cut) : (s.putCut c).cycle = s.cycle := rfl
@[simp] theorem putCut_nextUid (s : State) (c : Cut) : (s.putCut c).nextUid = s.nextUid := rfl
@[simp] theorem putCut_nextSeq (s : State) (c : Cut) : (s.putCut c).nextSeq = s.nextSeq := rfl
@[simp] theorem putCut_nextId (s : State) (c : Cut) : (s.putCut c).nextId = s.nextId := rfl
@[simp] theorem putCut_nextLid (s : State) (c : Cut) : (s.putCut c).nextLid = s.nextLid := rfl
@[simp] theorem putCut_launches (s : State) (c : Cut) : (s.putCut c).launches = s.launches := rfl
@[simp] theorem putCut_taken (s : State) (c : Cut) : (s.putCut c).taken = s.taken := rfl
@[simp] theorem putCut_mem (s : State) (c : Cut) : (s.putCut c).mem = s.mem := rfl
@[simp] theorem putCut_stale (s : State) (c : Cut) : (s.putCut c).stale = s.stale := rfl
@[simp] theorem putCut_views (s : State) (c : Cut) : (s.putCut c).views = s.views := rfl
@[simp] theorem putCut_host (s : State) (c : Cut) : (s.putCut c).host = s.host := rfl
@[simp] theorem putCut_poison (s : State) (c : Cut) : (s.putCut c).poison = s.poison := rfl
@[simp] theorem putCut_flaws (s : State) (c : Cut) : (s.putCut c).flaws = s.flaws := rfl
@[simp] theorem putCut_l1 (s : State) (c : Cut) : (s.putCut c).l1 = s.l1 := rfl
@[simp] theorem putCut_wbuf (s : State) (c : Cut) : (s.putCut c).wbuf = s.wbuf := rfl
@[simp] theorem putCut_storeQ (s : State) (c : Cut) : (s.putCut c).storeQ = s.storeQ := rfl
@[simp] theorem putCut_qeff (s : State) (c : Cut) : (s.putCut c).qeff = s.qeff := rfl
@[simp] theorem putCut_tlb (s : State) (c : Cut) : (s.putCut c).tlb = s.tlb := rfl
@[simp] theorem putCut_evict (s : State) (c : Cut) : (s.putCut c).evict = s.evict := rfl
@[simp] theorem putCut_crews (s : State) (c : Cut) : (s.putCut c).crews = s.crews := rfl
@[simp] theorem putCut_scratchW (s : State) (c : Cut) : (s.putCut c).scratchW = s.scratchW := rfl
@[simp] theorem putCut_jobs (s : State) (c : Cut) : (s.putCut c).jobs = s.jobs := rfl
@[simp] theorem putCut_looms (s : State) (c : Cut) : (s.putCut c).looms = s.looms := rfl
@[simp] theorem putCut_savedClaims (s : State) (c : Cut) : (s.putCut c).savedClaims = s.savedClaims := rfl
@[simp] theorem putCut_mills (s : State) (c : Cut) : (s.putCut c).mills = s.mills := rfl
@[simp] theorem putCut_assays (s : State) (c : Cut) : (s.putCut c).assays = s.assays := rfl
@[simp] theorem putCut_comms (s : State) (c : Cut) : (s.putCut c).comms = s.comms := rfl
@[simp] theorem putCut_remotes (s : State) (c : Cut) : (s.putCut c).remotes = s.remotes := rfl
@[simp] theorem putCut_contexts (s : State) (c : Cut) : (s.putCut c).contexts = s.contexts := rfl
@[simp] theorem putCut_leases (s : State) (c : Cut) : (s.putCut c).leases = s.leases := rfl
@[simp] theorem putCut_preempts (s : State) (c : Cut) : (s.putCut c).preempts = s.preempts := rfl
@[simp] theorem putCut_halts (s : State) (c : Cut) : (s.putCut c).halts = s.halts := rfl
@[simp] theorem putCut_slices (s : State) (c : Cut) : (s.putCut c).slices = s.slices := rfl
@[simp] theorem putCut_issued (s : State) (c : Cut) : (s.putCut c).issued = s.issued := rfl
@[simp] theorem putCut_sampled (s : State) (c : Cut) : (s.putCut c).sampled = s.sampled := rfl
@[simp] theorem putCut_own (s : State) (c : Cut) : (s.putCut c).own = s.own := rfl
@[simp] theorem putCut_ownNew (s : State) (c : Cut) : (s.putCut c).ownNew = s.ownNew := rfl
@[simp] theorem putCut_win (s : State) (c : Cut) : (s.putCut c).win = s.win := rfl
@[simp] theorem putCut_ckpt (s : State) (c : Cut) : (s.putCut c).ckpt = s.ckpt := rfl
@[simp] theorem putCut_heldHost (s : State) (c : Cut) : (s.putCut c).heldHost = s.heldHost := rfl
@[simp] theorem putCut_retiredUcie (s : State) (c : Cut) : (s.putCut c).retiredUcie = s.retiredUcie := rfl
@[simp] theorem putCut_resends (s : State) (c : Cut) : (s.putCut c).resends = s.resends := rfl
@[simp] theorem putCut_parmSlots (s : State) (c : Cut) : (s.putCut c).parmSlots = s.parmSlots := rfl
@[simp] theorem putCut_children (s : State) (c : Cut) : (s.putCut c).children = s.children := rfl
@[simp] theorem putCut_launchNo (s : State) (c : Cut) : (s.putCut c).launchNo = s.launchNo := rfl
@[simp] theorem putCut_turns (s : State) (c : Cut) : (s.putCut c).turns = s.turns := rfl
@[simp] theorem putCut_irqs (s : State) (c : Cut) : (s.putCut c).irqs = s.irqs := rfl
@[simp] theorem putCut_hostReads (s : State) (c : Cut) : (s.putCut c).hostReads = s.hostReads := rfl
@[simp] theorem putCut_fabric (s : State) (c : Cut) : (s.putCut c).fabric = s.fabric := rfl

/-! ## `State.dropCut` -/

@[simp] theorem dropCut_agenda (s : State) (uid : Nat) : (s.dropCut uid).agenda = s.agenda := rfl
@[simp] theorem dropCut_issue (s : State) (uid : Nat) : (s.dropCut uid).issue = s.issue := rfl
@[simp] theorem dropCut_cur (s : State) (uid : Nat) : (s.dropCut uid).cur = s.cur := rfl
@[simp] theorem dropCut_fetched (s : State) (uid : Nat) : (s.dropCut uid).fetched = s.fetched := rfl
@[simp] theorem dropCut_cycle (s : State) (uid : Nat) : (s.dropCut uid).cycle = s.cycle := rfl
@[simp] theorem dropCut_nextUid (s : State) (uid : Nat) : (s.dropCut uid).nextUid = s.nextUid := rfl
@[simp] theorem dropCut_nextSeq (s : State) (uid : Nat) : (s.dropCut uid).nextSeq = s.nextSeq := rfl
@[simp] theorem dropCut_nextId (s : State) (uid : Nat) : (s.dropCut uid).nextId = s.nextId := rfl
@[simp] theorem dropCut_nextLid (s : State) (uid : Nat) : (s.dropCut uid).nextLid = s.nextLid := rfl
@[simp] theorem dropCut_launches (s : State) (uid : Nat) : (s.dropCut uid).launches = s.launches := rfl
@[simp] theorem dropCut_taken (s : State) (uid : Nat) : (s.dropCut uid).taken = s.taken := rfl
@[simp] theorem dropCut_mem (s : State) (uid : Nat) : (s.dropCut uid).mem = s.mem := rfl
@[simp] theorem dropCut_stale (s : State) (uid : Nat) : (s.dropCut uid).stale = s.stale := rfl
@[simp] theorem dropCut_views (s : State) (uid : Nat) : (s.dropCut uid).views = s.views := rfl
@[simp] theorem dropCut_host (s : State) (uid : Nat) : (s.dropCut uid).host = s.host := rfl
@[simp] theorem dropCut_poison (s : State) (uid : Nat) : (s.dropCut uid).poison = s.poison := rfl
@[simp] theorem dropCut_flaws (s : State) (uid : Nat) : (s.dropCut uid).flaws = s.flaws := rfl
@[simp] theorem dropCut_l1 (s : State) (uid : Nat) : (s.dropCut uid).l1 = s.l1 := rfl
@[simp] theorem dropCut_wbuf (s : State) (uid : Nat) : (s.dropCut uid).wbuf = s.wbuf := rfl
@[simp] theorem dropCut_storeQ (s : State) (uid : Nat) : (s.dropCut uid).storeQ = s.storeQ := rfl
@[simp] theorem dropCut_qeff (s : State) (uid : Nat) : (s.dropCut uid).qeff = s.qeff := rfl
@[simp] theorem dropCut_tlb (s : State) (uid : Nat) : (s.dropCut uid).tlb = s.tlb := rfl
@[simp] theorem dropCut_evict (s : State) (uid : Nat) : (s.dropCut uid).evict = s.evict := rfl
@[simp] theorem dropCut_crews (s : State) (uid : Nat) : (s.dropCut uid).crews = s.crews := rfl
@[simp] theorem dropCut_scratchW (s : State) (uid : Nat) : (s.dropCut uid).scratchW = s.scratchW := rfl
@[simp] theorem dropCut_jobs (s : State) (uid : Nat) : (s.dropCut uid).jobs = s.jobs := rfl
@[simp] theorem dropCut_looms (s : State) (uid : Nat) : (s.dropCut uid).looms = s.looms := rfl
@[simp] theorem dropCut_savedClaims (s : State) (uid : Nat) : (s.dropCut uid).savedClaims = s.savedClaims := rfl
@[simp] theorem dropCut_mills (s : State) (uid : Nat) : (s.dropCut uid).mills = s.mills := rfl
@[simp] theorem dropCut_assays (s : State) (uid : Nat) : (s.dropCut uid).assays = s.assays := rfl
@[simp] theorem dropCut_comms (s : State) (uid : Nat) : (s.dropCut uid).comms = s.comms := rfl
@[simp] theorem dropCut_remotes (s : State) (uid : Nat) : (s.dropCut uid).remotes = s.remotes := rfl
@[simp] theorem dropCut_contexts (s : State) (uid : Nat) : (s.dropCut uid).contexts = s.contexts := rfl
@[simp] theorem dropCut_leases (s : State) (uid : Nat) : (s.dropCut uid).leases = s.leases := rfl
@[simp] theorem dropCut_preempts (s : State) (uid : Nat) : (s.dropCut uid).preempts = s.preempts := rfl
@[simp] theorem dropCut_halts (s : State) (uid : Nat) : (s.dropCut uid).halts = s.halts := rfl
@[simp] theorem dropCut_slices (s : State) (uid : Nat) : (s.dropCut uid).slices = s.slices := rfl
@[simp] theorem dropCut_issued (s : State) (uid : Nat) : (s.dropCut uid).issued = s.issued := rfl
@[simp] theorem dropCut_sampled (s : State) (uid : Nat) : (s.dropCut uid).sampled = s.sampled := rfl
@[simp] theorem dropCut_own (s : State) (uid : Nat) : (s.dropCut uid).own = s.own := rfl
@[simp] theorem dropCut_ownNew (s : State) (uid : Nat) : (s.dropCut uid).ownNew = s.ownNew := rfl
@[simp] theorem dropCut_win (s : State) (uid : Nat) : (s.dropCut uid).win = s.win := rfl
@[simp] theorem dropCut_ckpt (s : State) (uid : Nat) : (s.dropCut uid).ckpt = s.ckpt := rfl
@[simp] theorem dropCut_heldHost (s : State) (uid : Nat) : (s.dropCut uid).heldHost = s.heldHost := rfl
@[simp] theorem dropCut_retiredUcie (s : State) (uid : Nat) : (s.dropCut uid).retiredUcie = s.retiredUcie := rfl
@[simp] theorem dropCut_resends (s : State) (uid : Nat) : (s.dropCut uid).resends = s.resends := rfl
@[simp] theorem dropCut_parmSlots (s : State) (uid : Nat) : (s.dropCut uid).parmSlots = s.parmSlots := rfl
@[simp] theorem dropCut_children (s : State) (uid : Nat) : (s.dropCut uid).children = s.children := rfl
@[simp] theorem dropCut_launchNo (s : State) (uid : Nat) : (s.dropCut uid).launchNo = s.launchNo := rfl
@[simp] theorem dropCut_turns (s : State) (uid : Nat) : (s.dropCut uid).turns = s.turns := rfl
@[simp] theorem dropCut_irqs (s : State) (uid : Nat) : (s.dropCut uid).irqs = s.irqs := rfl
@[simp] theorem dropCut_hostReads (s : State) (uid : Nat) : (s.dropCut uid).hostReads = s.hostReads := rfl
@[simp] theorem dropCut_fabric (s : State) (uid : Nat) : (s.dropCut uid).fabric = s.fabric := rfl

/-! ## `State.hold` -/

@[simp] theorem hold_agenda (s : State) (c : Cut) (w : Wait) : (s.hold c w).agenda = s.agenda := rfl
@[simp] theorem hold_issue (s : State) (c : Cut) (w : Wait) : (s.hold c w).issue = s.issue := rfl
@[simp] theorem hold_cur (s : State) (c : Cut) (w : Wait) : (s.hold c w).cur = s.cur := rfl
@[simp] theorem hold_fetched (s : State) (c : Cut) (w : Wait) : (s.hold c w).fetched = s.fetched := rfl
@[simp] theorem hold_cycle (s : State) (c : Cut) (w : Wait) : (s.hold c w).cycle = s.cycle := rfl
@[simp] theorem hold_nextUid (s : State) (c : Cut) (w : Wait) : (s.hold c w).nextUid = s.nextUid := rfl
@[simp] theorem hold_nextSeq (s : State) (c : Cut) (w : Wait) : (s.hold c w).nextSeq = s.nextSeq := rfl
@[simp] theorem hold_nextId (s : State) (c : Cut) (w : Wait) : (s.hold c w).nextId = s.nextId := rfl
@[simp] theorem hold_nextLid (s : State) (c : Cut) (w : Wait) : (s.hold c w).nextLid = s.nextLid := rfl
@[simp] theorem hold_launches (s : State) (c : Cut) (w : Wait) : (s.hold c w).launches = s.launches := rfl
@[simp] theorem hold_taken (s : State) (c : Cut) (w : Wait) : (s.hold c w).taken = s.taken := rfl
@[simp] theorem hold_mem (s : State) (c : Cut) (w : Wait) : (s.hold c w).mem = s.mem := rfl
@[simp] theorem hold_stale (s : State) (c : Cut) (w : Wait) : (s.hold c w).stale = s.stale := rfl
@[simp] theorem hold_views (s : State) (c : Cut) (w : Wait) : (s.hold c w).views = s.views := rfl
@[simp] theorem hold_host (s : State) (c : Cut) (w : Wait) : (s.hold c w).host = s.host := rfl
@[simp] theorem hold_poison (s : State) (c : Cut) (w : Wait) : (s.hold c w).poison = s.poison := rfl
@[simp] theorem hold_flaws (s : State) (c : Cut) (w : Wait) : (s.hold c w).flaws = s.flaws := rfl
@[simp] theorem hold_l1 (s : State) (c : Cut) (w : Wait) : (s.hold c w).l1 = s.l1 := rfl
@[simp] theorem hold_wbuf (s : State) (c : Cut) (w : Wait) : (s.hold c w).wbuf = s.wbuf := rfl
@[simp] theorem hold_storeQ (s : State) (c : Cut) (w : Wait) : (s.hold c w).storeQ = s.storeQ := rfl
@[simp] theorem hold_qeff (s : State) (c : Cut) (w : Wait) : (s.hold c w).qeff = s.qeff := rfl
@[simp] theorem hold_tlb (s : State) (c : Cut) (w : Wait) : (s.hold c w).tlb = s.tlb := rfl
@[simp] theorem hold_evict (s : State) (c : Cut) (w : Wait) : (s.hold c w).evict = s.evict := rfl
@[simp] theorem hold_crews (s : State) (c : Cut) (w : Wait) : (s.hold c w).crews = s.crews := rfl
@[simp] theorem hold_scratchW (s : State) (c : Cut) (w : Wait) : (s.hold c w).scratchW = s.scratchW := rfl
@[simp] theorem hold_jobs (s : State) (c : Cut) (w : Wait) : (s.hold c w).jobs = s.jobs := rfl
@[simp] theorem hold_looms (s : State) (c : Cut) (w : Wait) : (s.hold c w).looms = s.looms := rfl
@[simp] theorem hold_savedClaims (s : State) (c : Cut) (w : Wait) : (s.hold c w).savedClaims = s.savedClaims := rfl
@[simp] theorem hold_mills (s : State) (c : Cut) (w : Wait) : (s.hold c w).mills = s.mills := rfl
@[simp] theorem hold_assays (s : State) (c : Cut) (w : Wait) : (s.hold c w).assays = s.assays := rfl
@[simp] theorem hold_comms (s : State) (c : Cut) (w : Wait) : (s.hold c w).comms = s.comms := rfl
@[simp] theorem hold_remotes (s : State) (c : Cut) (w : Wait) : (s.hold c w).remotes = s.remotes := rfl
@[simp] theorem hold_contexts (s : State) (c : Cut) (w : Wait) : (s.hold c w).contexts = s.contexts := rfl
@[simp] theorem hold_leases (s : State) (c : Cut) (w : Wait) : (s.hold c w).leases = s.leases := rfl
@[simp] theorem hold_preempts (s : State) (c : Cut) (w : Wait) : (s.hold c w).preempts = s.preempts := rfl
@[simp] theorem hold_halts (s : State) (c : Cut) (w : Wait) : (s.hold c w).halts = s.halts := rfl
@[simp] theorem hold_slices (s : State) (c : Cut) (w : Wait) : (s.hold c w).slices = s.slices := rfl
@[simp] theorem hold_issued (s : State) (c : Cut) (w : Wait) : (s.hold c w).issued = s.issued := rfl
@[simp] theorem hold_sampled (s : State) (c : Cut) (w : Wait) : (s.hold c w).sampled = s.sampled := rfl
@[simp] theorem hold_own (s : State) (c : Cut) (w : Wait) : (s.hold c w).own = s.own := rfl
@[simp] theorem hold_ownNew (s : State) (c : Cut) (w : Wait) : (s.hold c w).ownNew = s.ownNew := rfl
@[simp] theorem hold_win (s : State) (c : Cut) (w : Wait) : (s.hold c w).win = s.win := rfl
@[simp] theorem hold_ckpt (s : State) (c : Cut) (w : Wait) : (s.hold c w).ckpt = s.ckpt := rfl
@[simp] theorem hold_heldHost (s : State) (c : Cut) (w : Wait) : (s.hold c w).heldHost = s.heldHost := rfl
@[simp] theorem hold_retiredUcie (s : State) (c : Cut) (w : Wait) : (s.hold c w).retiredUcie = s.retiredUcie := rfl
@[simp] theorem hold_resends (s : State) (c : Cut) (w : Wait) : (s.hold c w).resends = s.resends := rfl
@[simp] theorem hold_parmSlots (s : State) (c : Cut) (w : Wait) : (s.hold c w).parmSlots = s.parmSlots := rfl
@[simp] theorem hold_children (s : State) (c : Cut) (w : Wait) : (s.hold c w).children = s.children := rfl
@[simp] theorem hold_launchNo (s : State) (c : Cut) (w : Wait) : (s.hold c w).launchNo = s.launchNo := rfl
@[simp] theorem hold_turns (s : State) (c : Cut) (w : Wait) : (s.hold c w).turns = s.turns := rfl
@[simp] theorem hold_irqs (s : State) (c : Cut) (w : Wait) : (s.hold c w).irqs = s.irqs := rfl
@[simp] theorem hold_hostReads (s : State) (c : Cut) (w : Wait) : (s.hold c w).hostReads = s.hostReads := rfl
@[simp] theorem hold_fabric (s : State) (c : Cut) (w : Wait) : (s.hold c w).fabric = s.fabric := rfl

/-! ## `State.advance` -/

@[simp] theorem advance_agenda (s : State) (c : Cut) : (s.advance c).agenda = s.agenda := rfl
@[simp] theorem advance_issue (s : State) (c : Cut) : (s.advance c).issue = s.issue := rfl
@[simp] theorem advance_cur (s : State) (c : Cut) : (s.advance c).cur = s.cur := rfl
@[simp] theorem advance_fetched (s : State) (c : Cut) : (s.advance c).fetched = s.fetched := rfl
@[simp] theorem advance_cycle (s : State) (c : Cut) : (s.advance c).cycle = s.cycle := rfl
@[simp] theorem advance_nextUid (s : State) (c : Cut) : (s.advance c).nextUid = s.nextUid := rfl
@[simp] theorem advance_nextSeq (s : State) (c : Cut) : (s.advance c).nextSeq = s.nextSeq := rfl
@[simp] theorem advance_nextId (s : State) (c : Cut) : (s.advance c).nextId = s.nextId := rfl
@[simp] theorem advance_nextLid (s : State) (c : Cut) : (s.advance c).nextLid = s.nextLid := rfl
@[simp] theorem advance_launches (s : State) (c : Cut) : (s.advance c).launches = s.launches := rfl
@[simp] theorem advance_taken (s : State) (c : Cut) : (s.advance c).taken = s.taken := rfl
@[simp] theorem advance_mem (s : State) (c : Cut) : (s.advance c).mem = s.mem := rfl
@[simp] theorem advance_stale (s : State) (c : Cut) : (s.advance c).stale = s.stale := rfl
@[simp] theorem advance_views (s : State) (c : Cut) : (s.advance c).views = s.views := rfl
@[simp] theorem advance_host (s : State) (c : Cut) : (s.advance c).host = s.host := rfl
@[simp] theorem advance_poison (s : State) (c : Cut) : (s.advance c).poison = s.poison := rfl
@[simp] theorem advance_flaws (s : State) (c : Cut) : (s.advance c).flaws = s.flaws := rfl
@[simp] theorem advance_l1 (s : State) (c : Cut) : (s.advance c).l1 = s.l1 := rfl
@[simp] theorem advance_wbuf (s : State) (c : Cut) : (s.advance c).wbuf = s.wbuf := rfl
@[simp] theorem advance_storeQ (s : State) (c : Cut) : (s.advance c).storeQ = s.storeQ := rfl
@[simp] theorem advance_qeff (s : State) (c : Cut) : (s.advance c).qeff = s.qeff := rfl
@[simp] theorem advance_tlb (s : State) (c : Cut) : (s.advance c).tlb = s.tlb := rfl
@[simp] theorem advance_evict (s : State) (c : Cut) : (s.advance c).evict = s.evict := rfl
@[simp] theorem advance_crews (s : State) (c : Cut) : (s.advance c).crews = s.crews := rfl
@[simp] theorem advance_scratchW (s : State) (c : Cut) : (s.advance c).scratchW = s.scratchW := rfl
@[simp] theorem advance_jobs (s : State) (c : Cut) : (s.advance c).jobs = s.jobs := rfl
@[simp] theorem advance_looms (s : State) (c : Cut) : (s.advance c).looms = s.looms := rfl
@[simp] theorem advance_savedClaims (s : State) (c : Cut) : (s.advance c).savedClaims = s.savedClaims := rfl
@[simp] theorem advance_mills (s : State) (c : Cut) : (s.advance c).mills = s.mills := rfl
@[simp] theorem advance_assays (s : State) (c : Cut) : (s.advance c).assays = s.assays := rfl
@[simp] theorem advance_comms (s : State) (c : Cut) : (s.advance c).comms = s.comms := rfl
@[simp] theorem advance_remotes (s : State) (c : Cut) : (s.advance c).remotes = s.remotes := rfl
@[simp] theorem advance_contexts (s : State) (c : Cut) : (s.advance c).contexts = s.contexts := rfl
@[simp] theorem advance_leases (s : State) (c : Cut) : (s.advance c).leases = s.leases := rfl
@[simp] theorem advance_preempts (s : State) (c : Cut) : (s.advance c).preempts = s.preempts := rfl
@[simp] theorem advance_halts (s : State) (c : Cut) : (s.advance c).halts = s.halts := rfl
@[simp] theorem advance_slices (s : State) (c : Cut) : (s.advance c).slices = s.slices := rfl
@[simp] theorem advance_issued (s : State) (c : Cut) : (s.advance c).issued = s.issued := rfl
@[simp] theorem advance_sampled (s : State) (c : Cut) : (s.advance c).sampled = s.sampled := rfl
@[simp] theorem advance_own (s : State) (c : Cut) : (s.advance c).own = s.own := rfl
@[simp] theorem advance_ownNew (s : State) (c : Cut) : (s.advance c).ownNew = s.ownNew := rfl
@[simp] theorem advance_win (s : State) (c : Cut) : (s.advance c).win = s.win := rfl
@[simp] theorem advance_ckpt (s : State) (c : Cut) : (s.advance c).ckpt = s.ckpt := rfl
@[simp] theorem advance_heldHost (s : State) (c : Cut) : (s.advance c).heldHost = s.heldHost := rfl
@[simp] theorem advance_retiredUcie (s : State) (c : Cut) : (s.advance c).retiredUcie = s.retiredUcie := rfl
@[simp] theorem advance_resends (s : State) (c : Cut) : (s.advance c).resends = s.resends := rfl
@[simp] theorem advance_parmSlots (s : State) (c : Cut) : (s.advance c).parmSlots = s.parmSlots := rfl
@[simp] theorem advance_children (s : State) (c : Cut) : (s.advance c).children = s.children := rfl
@[simp] theorem advance_launchNo (s : State) (c : Cut) : (s.advance c).launchNo = s.launchNo := rfl
@[simp] theorem advance_turns (s : State) (c : Cut) : (s.advance c).turns = s.turns := rfl
@[simp] theorem advance_irqs (s : State) (c : Cut) : (s.advance c).irqs = s.irqs := rfl
@[simp] theorem advance_hostReads (s : State) (c : Cut) : (s.advance c).hostReads = s.hostReads := rfl
@[simp] theorem advance_fabric (s : State) (c : Cut) : (s.advance c).fabric = s.fabric := rfl

/-! ## `State.putLaunch` -/

@[simp] theorem putLaunch_agenda (s : State) (l : Launch) : (s.putLaunch l).agenda = s.agenda := rfl
@[simp] theorem putLaunch_issue (s : State) (l : Launch) : (s.putLaunch l).issue = s.issue := rfl
@[simp] theorem putLaunch_cur (s : State) (l : Launch) : (s.putLaunch l).cur = s.cur := rfl
@[simp] theorem putLaunch_fetched (s : State) (l : Launch) : (s.putLaunch l).fetched = s.fetched := rfl
@[simp] theorem putLaunch_cycle (s : State) (l : Launch) : (s.putLaunch l).cycle = s.cycle := rfl
@[simp] theorem putLaunch_nextUid (s : State) (l : Launch) : (s.putLaunch l).nextUid = s.nextUid := rfl
@[simp] theorem putLaunch_nextSeq (s : State) (l : Launch) : (s.putLaunch l).nextSeq = s.nextSeq := rfl
@[simp] theorem putLaunch_nextId (s : State) (l : Launch) : (s.putLaunch l).nextId = s.nextId := rfl
@[simp] theorem putLaunch_nextLid (s : State) (l : Launch) : (s.putLaunch l).nextLid = s.nextLid := rfl
@[simp] theorem putLaunch_cuts (s : State) (l : Launch) : (s.putLaunch l).cuts = s.cuts := rfl
@[simp] theorem putLaunch_taken (s : State) (l : Launch) : (s.putLaunch l).taken = s.taken := rfl
@[simp] theorem putLaunch_mem (s : State) (l : Launch) : (s.putLaunch l).mem = s.mem := rfl
@[simp] theorem putLaunch_stale (s : State) (l : Launch) : (s.putLaunch l).stale = s.stale := rfl
@[simp] theorem putLaunch_views (s : State) (l : Launch) : (s.putLaunch l).views = s.views := rfl
@[simp] theorem putLaunch_host (s : State) (l : Launch) : (s.putLaunch l).host = s.host := rfl
@[simp] theorem putLaunch_poison (s : State) (l : Launch) : (s.putLaunch l).poison = s.poison := rfl
@[simp] theorem putLaunch_flaws (s : State) (l : Launch) : (s.putLaunch l).flaws = s.flaws := rfl
@[simp] theorem putLaunch_l1 (s : State) (l : Launch) : (s.putLaunch l).l1 = s.l1 := rfl
@[simp] theorem putLaunch_wbuf (s : State) (l : Launch) : (s.putLaunch l).wbuf = s.wbuf := rfl
@[simp] theorem putLaunch_storeQ (s : State) (l : Launch) : (s.putLaunch l).storeQ = s.storeQ := rfl
@[simp] theorem putLaunch_qeff (s : State) (l : Launch) : (s.putLaunch l).qeff = s.qeff := rfl
@[simp] theorem putLaunch_tlb (s : State) (l : Launch) : (s.putLaunch l).tlb = s.tlb := rfl
@[simp] theorem putLaunch_evict (s : State) (l : Launch) : (s.putLaunch l).evict = s.evict := rfl
@[simp] theorem putLaunch_crews (s : State) (l : Launch) : (s.putLaunch l).crews = s.crews := rfl
@[simp] theorem putLaunch_scratchW (s : State) (l : Launch) : (s.putLaunch l).scratchW = s.scratchW := rfl
@[simp] theorem putLaunch_jobs (s : State) (l : Launch) : (s.putLaunch l).jobs = s.jobs := rfl
@[simp] theorem putLaunch_looms (s : State) (l : Launch) : (s.putLaunch l).looms = s.looms := rfl
@[simp] theorem putLaunch_savedClaims (s : State) (l : Launch) : (s.putLaunch l).savedClaims = s.savedClaims := rfl
@[simp] theorem putLaunch_mills (s : State) (l : Launch) : (s.putLaunch l).mills = s.mills := rfl
@[simp] theorem putLaunch_assays (s : State) (l : Launch) : (s.putLaunch l).assays = s.assays := rfl
@[simp] theorem putLaunch_comms (s : State) (l : Launch) : (s.putLaunch l).comms = s.comms := rfl
@[simp] theorem putLaunch_remotes (s : State) (l : Launch) : (s.putLaunch l).remotes = s.remotes := rfl
@[simp] theorem putLaunch_contexts (s : State) (l : Launch) : (s.putLaunch l).contexts = s.contexts := rfl
@[simp] theorem putLaunch_leases (s : State) (l : Launch) : (s.putLaunch l).leases = s.leases := rfl
@[simp] theorem putLaunch_preempts (s : State) (l : Launch) : (s.putLaunch l).preempts = s.preempts := rfl
@[simp] theorem putLaunch_halts (s : State) (l : Launch) : (s.putLaunch l).halts = s.halts := rfl
@[simp] theorem putLaunch_slices (s : State) (l : Launch) : (s.putLaunch l).slices = s.slices := rfl
@[simp] theorem putLaunch_issued (s : State) (l : Launch) : (s.putLaunch l).issued = s.issued := rfl
@[simp] theorem putLaunch_sampled (s : State) (l : Launch) : (s.putLaunch l).sampled = s.sampled := rfl
@[simp] theorem putLaunch_own (s : State) (l : Launch) : (s.putLaunch l).own = s.own := rfl
@[simp] theorem putLaunch_ownNew (s : State) (l : Launch) : (s.putLaunch l).ownNew = s.ownNew := rfl
@[simp] theorem putLaunch_win (s : State) (l : Launch) : (s.putLaunch l).win = s.win := rfl
@[simp] theorem putLaunch_ckpt (s : State) (l : Launch) : (s.putLaunch l).ckpt = s.ckpt := rfl
@[simp] theorem putLaunch_heldHost (s : State) (l : Launch) : (s.putLaunch l).heldHost = s.heldHost := rfl
@[simp] theorem putLaunch_retiredUcie (s : State) (l : Launch) : (s.putLaunch l).retiredUcie = s.retiredUcie := rfl
@[simp] theorem putLaunch_resends (s : State) (l : Launch) : (s.putLaunch l).resends = s.resends := rfl
@[simp] theorem putLaunch_parmSlots (s : State) (l : Launch) : (s.putLaunch l).parmSlots = s.parmSlots := rfl
@[simp] theorem putLaunch_children (s : State) (l : Launch) : (s.putLaunch l).children = s.children := rfl
@[simp] theorem putLaunch_launchNo (s : State) (l : Launch) : (s.putLaunch l).launchNo = s.launchNo := rfl
@[simp] theorem putLaunch_turns (s : State) (l : Launch) : (s.putLaunch l).turns = s.turns := rfl
@[simp] theorem putLaunch_irqs (s : State) (l : Launch) : (s.putLaunch l).irqs = s.irqs := rfl
@[simp] theorem putLaunch_hostReads (s : State) (l : Launch) : (s.putLaunch l).hostReads = s.hostReads := rfl
@[simp] theorem putLaunch_fabric (s : State) (l : Launch) : (s.putLaunch l).fabric = s.fabric := rfl

/-! ## `State.putCrew` -/

@[simp] theorem putCrew_agenda (s : State) (k : Crew) : (s.putCrew k).agenda = s.agenda := rfl
@[simp] theorem putCrew_issue (s : State) (k : Crew) : (s.putCrew k).issue = s.issue := rfl
@[simp] theorem putCrew_cur (s : State) (k : Crew) : (s.putCrew k).cur = s.cur := rfl
@[simp] theorem putCrew_fetched (s : State) (k : Crew) : (s.putCrew k).fetched = s.fetched := rfl
@[simp] theorem putCrew_cycle (s : State) (k : Crew) : (s.putCrew k).cycle = s.cycle := rfl
@[simp] theorem putCrew_nextUid (s : State) (k : Crew) : (s.putCrew k).nextUid = s.nextUid := rfl
@[simp] theorem putCrew_nextSeq (s : State) (k : Crew) : (s.putCrew k).nextSeq = s.nextSeq := rfl
@[simp] theorem putCrew_nextId (s : State) (k : Crew) : (s.putCrew k).nextId = s.nextId := rfl
@[simp] theorem putCrew_nextLid (s : State) (k : Crew) : (s.putCrew k).nextLid = s.nextLid := rfl
@[simp] theorem putCrew_cuts (s : State) (k : Crew) : (s.putCrew k).cuts = s.cuts := rfl
@[simp] theorem putCrew_launches (s : State) (k : Crew) : (s.putCrew k).launches = s.launches := rfl
@[simp] theorem putCrew_taken (s : State) (k : Crew) : (s.putCrew k).taken = s.taken := rfl
@[simp] theorem putCrew_mem (s : State) (k : Crew) : (s.putCrew k).mem = s.mem := rfl
@[simp] theorem putCrew_stale (s : State) (k : Crew) : (s.putCrew k).stale = s.stale := rfl
@[simp] theorem putCrew_views (s : State) (k : Crew) : (s.putCrew k).views = s.views := rfl
@[simp] theorem putCrew_host (s : State) (k : Crew) : (s.putCrew k).host = s.host := rfl
@[simp] theorem putCrew_poison (s : State) (k : Crew) : (s.putCrew k).poison = s.poison := rfl
@[simp] theorem putCrew_flaws (s : State) (k : Crew) : (s.putCrew k).flaws = s.flaws := rfl
@[simp] theorem putCrew_l1 (s : State) (k : Crew) : (s.putCrew k).l1 = s.l1 := rfl
@[simp] theorem putCrew_wbuf (s : State) (k : Crew) : (s.putCrew k).wbuf = s.wbuf := rfl
@[simp] theorem putCrew_storeQ (s : State) (k : Crew) : (s.putCrew k).storeQ = s.storeQ := rfl
@[simp] theorem putCrew_qeff (s : State) (k : Crew) : (s.putCrew k).qeff = s.qeff := rfl
@[simp] theorem putCrew_tlb (s : State) (k : Crew) : (s.putCrew k).tlb = s.tlb := rfl
@[simp] theorem putCrew_evict (s : State) (k : Crew) : (s.putCrew k).evict = s.evict := rfl
@[simp] theorem putCrew_scratchW (s : State) (k : Crew) : (s.putCrew k).scratchW = s.scratchW := rfl
@[simp] theorem putCrew_jobs (s : State) (k : Crew) : (s.putCrew k).jobs = s.jobs := rfl
@[simp] theorem putCrew_looms (s : State) (k : Crew) : (s.putCrew k).looms = s.looms := rfl
@[simp] theorem putCrew_savedClaims (s : State) (k : Crew) : (s.putCrew k).savedClaims = s.savedClaims := rfl
@[simp] theorem putCrew_mills (s : State) (k : Crew) : (s.putCrew k).mills = s.mills := rfl
@[simp] theorem putCrew_assays (s : State) (k : Crew) : (s.putCrew k).assays = s.assays := rfl
@[simp] theorem putCrew_comms (s : State) (k : Crew) : (s.putCrew k).comms = s.comms := rfl
@[simp] theorem putCrew_remotes (s : State) (k : Crew) : (s.putCrew k).remotes = s.remotes := rfl
@[simp] theorem putCrew_contexts (s : State) (k : Crew) : (s.putCrew k).contexts = s.contexts := rfl
@[simp] theorem putCrew_leases (s : State) (k : Crew) : (s.putCrew k).leases = s.leases := rfl
@[simp] theorem putCrew_preempts (s : State) (k : Crew) : (s.putCrew k).preempts = s.preempts := rfl
@[simp] theorem putCrew_halts (s : State) (k : Crew) : (s.putCrew k).halts = s.halts := rfl
@[simp] theorem putCrew_slices (s : State) (k : Crew) : (s.putCrew k).slices = s.slices := rfl
@[simp] theorem putCrew_issued (s : State) (k : Crew) : (s.putCrew k).issued = s.issued := rfl
@[simp] theorem putCrew_sampled (s : State) (k : Crew) : (s.putCrew k).sampled = s.sampled := rfl
@[simp] theorem putCrew_own (s : State) (k : Crew) : (s.putCrew k).own = s.own := rfl
@[simp] theorem putCrew_ownNew (s : State) (k : Crew) : (s.putCrew k).ownNew = s.ownNew := rfl
@[simp] theorem putCrew_win (s : State) (k : Crew) : (s.putCrew k).win = s.win := rfl
@[simp] theorem putCrew_ckpt (s : State) (k : Crew) : (s.putCrew k).ckpt = s.ckpt := rfl
@[simp] theorem putCrew_heldHost (s : State) (k : Crew) : (s.putCrew k).heldHost = s.heldHost := rfl
@[simp] theorem putCrew_retiredUcie (s : State) (k : Crew) : (s.putCrew k).retiredUcie = s.retiredUcie := rfl
@[simp] theorem putCrew_resends (s : State) (k : Crew) : (s.putCrew k).resends = s.resends := rfl
@[simp] theorem putCrew_parmSlots (s : State) (k : Crew) : (s.putCrew k).parmSlots = s.parmSlots := rfl
@[simp] theorem putCrew_children (s : State) (k : Crew) : (s.putCrew k).children = s.children := rfl
@[simp] theorem putCrew_launchNo (s : State) (k : Crew) : (s.putCrew k).launchNo = s.launchNo := rfl
@[simp] theorem putCrew_turns (s : State) (k : Crew) : (s.putCrew k).turns = s.turns := rfl
@[simp] theorem putCrew_irqs (s : State) (k : Crew) : (s.putCrew k).irqs = s.irqs := rfl
@[simp] theorem putCrew_hostReads (s : State) (k : Crew) : (s.putCrew k).hostReads = s.hostReads := rfl
@[simp] theorem putCrew_fabric (s : State) (k : Crew) : (s.putCrew k).fabric = s.fabric := rfl

/-! ## `State.putComm` -/

@[simp] theorem putComm_agenda (s : State) (k : Comm) : (s.putComm k).agenda = s.agenda := rfl
@[simp] theorem putComm_issue (s : State) (k : Comm) : (s.putComm k).issue = s.issue := rfl
@[simp] theorem putComm_cur (s : State) (k : Comm) : (s.putComm k).cur = s.cur := rfl
@[simp] theorem putComm_fetched (s : State) (k : Comm) : (s.putComm k).fetched = s.fetched := rfl
@[simp] theorem putComm_cycle (s : State) (k : Comm) : (s.putComm k).cycle = s.cycle := rfl
@[simp] theorem putComm_nextUid (s : State) (k : Comm) : (s.putComm k).nextUid = s.nextUid := rfl
@[simp] theorem putComm_nextSeq (s : State) (k : Comm) : (s.putComm k).nextSeq = s.nextSeq := rfl
@[simp] theorem putComm_nextId (s : State) (k : Comm) : (s.putComm k).nextId = s.nextId := rfl
@[simp] theorem putComm_nextLid (s : State) (k : Comm) : (s.putComm k).nextLid = s.nextLid := rfl
@[simp] theorem putComm_cuts (s : State) (k : Comm) : (s.putComm k).cuts = s.cuts := rfl
@[simp] theorem putComm_launches (s : State) (k : Comm) : (s.putComm k).launches = s.launches := rfl
@[simp] theorem putComm_taken (s : State) (k : Comm) : (s.putComm k).taken = s.taken := rfl
@[simp] theorem putComm_mem (s : State) (k : Comm) : (s.putComm k).mem = s.mem := rfl
@[simp] theorem putComm_stale (s : State) (k : Comm) : (s.putComm k).stale = s.stale := rfl
@[simp] theorem putComm_views (s : State) (k : Comm) : (s.putComm k).views = s.views := rfl
@[simp] theorem putComm_host (s : State) (k : Comm) : (s.putComm k).host = s.host := rfl
@[simp] theorem putComm_poison (s : State) (k : Comm) : (s.putComm k).poison = s.poison := rfl
@[simp] theorem putComm_flaws (s : State) (k : Comm) : (s.putComm k).flaws = s.flaws := rfl
@[simp] theorem putComm_l1 (s : State) (k : Comm) : (s.putComm k).l1 = s.l1 := rfl
@[simp] theorem putComm_wbuf (s : State) (k : Comm) : (s.putComm k).wbuf = s.wbuf := rfl
@[simp] theorem putComm_storeQ (s : State) (k : Comm) : (s.putComm k).storeQ = s.storeQ := rfl
@[simp] theorem putComm_qeff (s : State) (k : Comm) : (s.putComm k).qeff = s.qeff := rfl
@[simp] theorem putComm_tlb (s : State) (k : Comm) : (s.putComm k).tlb = s.tlb := rfl
@[simp] theorem putComm_evict (s : State) (k : Comm) : (s.putComm k).evict = s.evict := rfl
@[simp] theorem putComm_crews (s : State) (k : Comm) : (s.putComm k).crews = s.crews := rfl
@[simp] theorem putComm_scratchW (s : State) (k : Comm) : (s.putComm k).scratchW = s.scratchW := rfl
@[simp] theorem putComm_jobs (s : State) (k : Comm) : (s.putComm k).jobs = s.jobs := rfl
@[simp] theorem putComm_looms (s : State) (k : Comm) : (s.putComm k).looms = s.looms := rfl
@[simp] theorem putComm_savedClaims (s : State) (k : Comm) : (s.putComm k).savedClaims = s.savedClaims := rfl
@[simp] theorem putComm_mills (s : State) (k : Comm) : (s.putComm k).mills = s.mills := rfl
@[simp] theorem putComm_assays (s : State) (k : Comm) : (s.putComm k).assays = s.assays := rfl
@[simp] theorem putComm_remotes (s : State) (k : Comm) : (s.putComm k).remotes = s.remotes := rfl
@[simp] theorem putComm_contexts (s : State) (k : Comm) : (s.putComm k).contexts = s.contexts := rfl
@[simp] theorem putComm_leases (s : State) (k : Comm) : (s.putComm k).leases = s.leases := rfl
@[simp] theorem putComm_preempts (s : State) (k : Comm) : (s.putComm k).preempts = s.preempts := rfl
@[simp] theorem putComm_halts (s : State) (k : Comm) : (s.putComm k).halts = s.halts := rfl
@[simp] theorem putComm_slices (s : State) (k : Comm) : (s.putComm k).slices = s.slices := rfl
@[simp] theorem putComm_issued (s : State) (k : Comm) : (s.putComm k).issued = s.issued := rfl
@[simp] theorem putComm_sampled (s : State) (k : Comm) : (s.putComm k).sampled = s.sampled := rfl
@[simp] theorem putComm_own (s : State) (k : Comm) : (s.putComm k).own = s.own := rfl
@[simp] theorem putComm_ownNew (s : State) (k : Comm) : (s.putComm k).ownNew = s.ownNew := rfl
@[simp] theorem putComm_win (s : State) (k : Comm) : (s.putComm k).win = s.win := rfl
@[simp] theorem putComm_ckpt (s : State) (k : Comm) : (s.putComm k).ckpt = s.ckpt := rfl
@[simp] theorem putComm_heldHost (s : State) (k : Comm) : (s.putComm k).heldHost = s.heldHost := rfl
@[simp] theorem putComm_retiredUcie (s : State) (k : Comm) : (s.putComm k).retiredUcie = s.retiredUcie := rfl
@[simp] theorem putComm_resends (s : State) (k : Comm) : (s.putComm k).resends = s.resends := rfl
@[simp] theorem putComm_parmSlots (s : State) (k : Comm) : (s.putComm k).parmSlots = s.parmSlots := rfl
@[simp] theorem putComm_children (s : State) (k : Comm) : (s.putComm k).children = s.children := rfl
@[simp] theorem putComm_launchNo (s : State) (k : Comm) : (s.putComm k).launchNo = s.launchNo := rfl
@[simp] theorem putComm_turns (s : State) (k : Comm) : (s.putComm k).turns = s.turns := rfl
@[simp] theorem putComm_irqs (s : State) (k : Comm) : (s.putComm k).irqs = s.irqs := rfl
@[simp] theorem putComm_hostReads (s : State) (k : Comm) : (s.putComm k).hostReads = s.hostReads := rfl
@[simp] theorem putComm_fabric (s : State) (k : Comm) : (s.putComm k).fabric = s.fabric := rfl

/-! ## `State.putLoom` -/

@[simp] theorem putLoom_agenda (s : State) (m : Loom) : (s.putLoom m).agenda = s.agenda := rfl
@[simp] theorem putLoom_issue (s : State) (m : Loom) : (s.putLoom m).issue = s.issue := rfl
@[simp] theorem putLoom_cur (s : State) (m : Loom) : (s.putLoom m).cur = s.cur := rfl
@[simp] theorem putLoom_fetched (s : State) (m : Loom) : (s.putLoom m).fetched = s.fetched := rfl
@[simp] theorem putLoom_cycle (s : State) (m : Loom) : (s.putLoom m).cycle = s.cycle := rfl
@[simp] theorem putLoom_nextUid (s : State) (m : Loom) : (s.putLoom m).nextUid = s.nextUid := rfl
@[simp] theorem putLoom_nextSeq (s : State) (m : Loom) : (s.putLoom m).nextSeq = s.nextSeq := rfl
@[simp] theorem putLoom_nextId (s : State) (m : Loom) : (s.putLoom m).nextId = s.nextId := rfl
@[simp] theorem putLoom_nextLid (s : State) (m : Loom) : (s.putLoom m).nextLid = s.nextLid := rfl
@[simp] theorem putLoom_cuts (s : State) (m : Loom) : (s.putLoom m).cuts = s.cuts := rfl
@[simp] theorem putLoom_launches (s : State) (m : Loom) : (s.putLoom m).launches = s.launches := rfl
@[simp] theorem putLoom_taken (s : State) (m : Loom) : (s.putLoom m).taken = s.taken := rfl
@[simp] theorem putLoom_mem (s : State) (m : Loom) : (s.putLoom m).mem = s.mem := rfl
@[simp] theorem putLoom_stale (s : State) (m : Loom) : (s.putLoom m).stale = s.stale := rfl
@[simp] theorem putLoom_views (s : State) (m : Loom) : (s.putLoom m).views = s.views := rfl
@[simp] theorem putLoom_host (s : State) (m : Loom) : (s.putLoom m).host = s.host := rfl
@[simp] theorem putLoom_poison (s : State) (m : Loom) : (s.putLoom m).poison = s.poison := rfl
@[simp] theorem putLoom_flaws (s : State) (m : Loom) : (s.putLoom m).flaws = s.flaws := rfl
@[simp] theorem putLoom_l1 (s : State) (m : Loom) : (s.putLoom m).l1 = s.l1 := rfl
@[simp] theorem putLoom_wbuf (s : State) (m : Loom) : (s.putLoom m).wbuf = s.wbuf := rfl
@[simp] theorem putLoom_storeQ (s : State) (m : Loom) : (s.putLoom m).storeQ = s.storeQ := rfl
@[simp] theorem putLoom_qeff (s : State) (m : Loom) : (s.putLoom m).qeff = s.qeff := rfl
@[simp] theorem putLoom_tlb (s : State) (m : Loom) : (s.putLoom m).tlb = s.tlb := rfl
@[simp] theorem putLoom_evict (s : State) (m : Loom) : (s.putLoom m).evict = s.evict := rfl
@[simp] theorem putLoom_crews (s : State) (m : Loom) : (s.putLoom m).crews = s.crews := rfl
@[simp] theorem putLoom_scratchW (s : State) (m : Loom) : (s.putLoom m).scratchW = s.scratchW := rfl
@[simp] theorem putLoom_jobs (s : State) (m : Loom) : (s.putLoom m).jobs = s.jobs := rfl
@[simp] theorem putLoom_savedClaims (s : State) (m : Loom) : (s.putLoom m).savedClaims = s.savedClaims := rfl
@[simp] theorem putLoom_mills (s : State) (m : Loom) : (s.putLoom m).mills = s.mills := rfl
@[simp] theorem putLoom_assays (s : State) (m : Loom) : (s.putLoom m).assays = s.assays := rfl
@[simp] theorem putLoom_comms (s : State) (m : Loom) : (s.putLoom m).comms = s.comms := rfl
@[simp] theorem putLoom_remotes (s : State) (m : Loom) : (s.putLoom m).remotes = s.remotes := rfl
@[simp] theorem putLoom_contexts (s : State) (m : Loom) : (s.putLoom m).contexts = s.contexts := rfl
@[simp] theorem putLoom_leases (s : State) (m : Loom) : (s.putLoom m).leases = s.leases := rfl
@[simp] theorem putLoom_preempts (s : State) (m : Loom) : (s.putLoom m).preempts = s.preempts := rfl
@[simp] theorem putLoom_halts (s : State) (m : Loom) : (s.putLoom m).halts = s.halts := rfl
@[simp] theorem putLoom_slices (s : State) (m : Loom) : (s.putLoom m).slices = s.slices := rfl
@[simp] theorem putLoom_issued (s : State) (m : Loom) : (s.putLoom m).issued = s.issued := rfl
@[simp] theorem putLoom_sampled (s : State) (m : Loom) : (s.putLoom m).sampled = s.sampled := rfl
@[simp] theorem putLoom_own (s : State) (m : Loom) : (s.putLoom m).own = s.own := rfl
@[simp] theorem putLoom_ownNew (s : State) (m : Loom) : (s.putLoom m).ownNew = s.ownNew := rfl
@[simp] theorem putLoom_win (s : State) (m : Loom) : (s.putLoom m).win = s.win := rfl
@[simp] theorem putLoom_ckpt (s : State) (m : Loom) : (s.putLoom m).ckpt = s.ckpt := rfl
@[simp] theorem putLoom_heldHost (s : State) (m : Loom) : (s.putLoom m).heldHost = s.heldHost := rfl
@[simp] theorem putLoom_retiredUcie (s : State) (m : Loom) : (s.putLoom m).retiredUcie = s.retiredUcie := rfl
@[simp] theorem putLoom_resends (s : State) (m : Loom) : (s.putLoom m).resends = s.resends := rfl
@[simp] theorem putLoom_parmSlots (s : State) (m : Loom) : (s.putLoom m).parmSlots = s.parmSlots := rfl
@[simp] theorem putLoom_children (s : State) (m : Loom) : (s.putLoom m).children = s.children := rfl
@[simp] theorem putLoom_launchNo (s : State) (m : Loom) : (s.putLoom m).launchNo = s.launchNo := rfl
@[simp] theorem putLoom_turns (s : State) (m : Loom) : (s.putLoom m).turns = s.turns := rfl
@[simp] theorem putLoom_irqs (s : State) (m : Loom) : (s.putLoom m).irqs = s.irqs := rfl
@[simp] theorem putLoom_hostReads (s : State) (m : Loom) : (s.putLoom m).hostReads = s.hostReads := rfl
@[simp] theorem putLoom_fabric (s : State) (m : Loom) : (s.putLoom m).fabric = s.fabric := rfl

/-! ## `State.putMill` -/

@[simp] theorem putMill_agenda (s : State) (m : Mill) : (s.putMill m).agenda = s.agenda := rfl
@[simp] theorem putMill_issue (s : State) (m : Mill) : (s.putMill m).issue = s.issue := rfl
@[simp] theorem putMill_cur (s : State) (m : Mill) : (s.putMill m).cur = s.cur := rfl
@[simp] theorem putMill_fetched (s : State) (m : Mill) : (s.putMill m).fetched = s.fetched := rfl
@[simp] theorem putMill_cycle (s : State) (m : Mill) : (s.putMill m).cycle = s.cycle := rfl
@[simp] theorem putMill_nextUid (s : State) (m : Mill) : (s.putMill m).nextUid = s.nextUid := rfl
@[simp] theorem putMill_nextSeq (s : State) (m : Mill) : (s.putMill m).nextSeq = s.nextSeq := rfl
@[simp] theorem putMill_nextId (s : State) (m : Mill) : (s.putMill m).nextId = s.nextId := rfl
@[simp] theorem putMill_nextLid (s : State) (m : Mill) : (s.putMill m).nextLid = s.nextLid := rfl
@[simp] theorem putMill_cuts (s : State) (m : Mill) : (s.putMill m).cuts = s.cuts := rfl
@[simp] theorem putMill_launches (s : State) (m : Mill) : (s.putMill m).launches = s.launches := rfl
@[simp] theorem putMill_taken (s : State) (m : Mill) : (s.putMill m).taken = s.taken := rfl
@[simp] theorem putMill_mem (s : State) (m : Mill) : (s.putMill m).mem = s.mem := rfl
@[simp] theorem putMill_stale (s : State) (m : Mill) : (s.putMill m).stale = s.stale := rfl
@[simp] theorem putMill_views (s : State) (m : Mill) : (s.putMill m).views = s.views := rfl
@[simp] theorem putMill_host (s : State) (m : Mill) : (s.putMill m).host = s.host := rfl
@[simp] theorem putMill_poison (s : State) (m : Mill) : (s.putMill m).poison = s.poison := rfl
@[simp] theorem putMill_flaws (s : State) (m : Mill) : (s.putMill m).flaws = s.flaws := rfl
@[simp] theorem putMill_l1 (s : State) (m : Mill) : (s.putMill m).l1 = s.l1 := rfl
@[simp] theorem putMill_wbuf (s : State) (m : Mill) : (s.putMill m).wbuf = s.wbuf := rfl
@[simp] theorem putMill_storeQ (s : State) (m : Mill) : (s.putMill m).storeQ = s.storeQ := rfl
@[simp] theorem putMill_qeff (s : State) (m : Mill) : (s.putMill m).qeff = s.qeff := rfl
@[simp] theorem putMill_tlb (s : State) (m : Mill) : (s.putMill m).tlb = s.tlb := rfl
@[simp] theorem putMill_evict (s : State) (m : Mill) : (s.putMill m).evict = s.evict := rfl
@[simp] theorem putMill_crews (s : State) (m : Mill) : (s.putMill m).crews = s.crews := rfl
@[simp] theorem putMill_scratchW (s : State) (m : Mill) : (s.putMill m).scratchW = s.scratchW := rfl
@[simp] theorem putMill_jobs (s : State) (m : Mill) : (s.putMill m).jobs = s.jobs := rfl
@[simp] theorem putMill_looms (s : State) (m : Mill) : (s.putMill m).looms = s.looms := rfl
@[simp] theorem putMill_savedClaims (s : State) (m : Mill) : (s.putMill m).savedClaims = s.savedClaims := rfl
@[simp] theorem putMill_assays (s : State) (m : Mill) : (s.putMill m).assays = s.assays := rfl
@[simp] theorem putMill_comms (s : State) (m : Mill) : (s.putMill m).comms = s.comms := rfl
@[simp] theorem putMill_remotes (s : State) (m : Mill) : (s.putMill m).remotes = s.remotes := rfl
@[simp] theorem putMill_contexts (s : State) (m : Mill) : (s.putMill m).contexts = s.contexts := rfl
@[simp] theorem putMill_leases (s : State) (m : Mill) : (s.putMill m).leases = s.leases := rfl
@[simp] theorem putMill_preempts (s : State) (m : Mill) : (s.putMill m).preempts = s.preempts := rfl
@[simp] theorem putMill_halts (s : State) (m : Mill) : (s.putMill m).halts = s.halts := rfl
@[simp] theorem putMill_slices (s : State) (m : Mill) : (s.putMill m).slices = s.slices := rfl
@[simp] theorem putMill_issued (s : State) (m : Mill) : (s.putMill m).issued = s.issued := rfl
@[simp] theorem putMill_sampled (s : State) (m : Mill) : (s.putMill m).sampled = s.sampled := rfl
@[simp] theorem putMill_own (s : State) (m : Mill) : (s.putMill m).own = s.own := rfl
@[simp] theorem putMill_ownNew (s : State) (m : Mill) : (s.putMill m).ownNew = s.ownNew := rfl
@[simp] theorem putMill_win (s : State) (m : Mill) : (s.putMill m).win = s.win := rfl
@[simp] theorem putMill_ckpt (s : State) (m : Mill) : (s.putMill m).ckpt = s.ckpt := rfl
@[simp] theorem putMill_heldHost (s : State) (m : Mill) : (s.putMill m).heldHost = s.heldHost := rfl
@[simp] theorem putMill_retiredUcie (s : State) (m : Mill) : (s.putMill m).retiredUcie = s.retiredUcie := rfl
@[simp] theorem putMill_resends (s : State) (m : Mill) : (s.putMill m).resends = s.resends := rfl
@[simp] theorem putMill_parmSlots (s : State) (m : Mill) : (s.putMill m).parmSlots = s.parmSlots := rfl
@[simp] theorem putMill_children (s : State) (m : Mill) : (s.putMill m).children = s.children := rfl
@[simp] theorem putMill_launchNo (s : State) (m : Mill) : (s.putMill m).launchNo = s.launchNo := rfl
@[simp] theorem putMill_turns (s : State) (m : Mill) : (s.putMill m).turns = s.turns := rfl
@[simp] theorem putMill_irqs (s : State) (m : Mill) : (s.putMill m).irqs = s.irqs := rfl
@[simp] theorem putMill_hostReads (s : State) (m : Mill) : (s.putMill m).hostReads = s.hostReads := rfl
@[simp] theorem putMill_fabric (s : State) (m : Mill) : (s.putMill m).fabric = s.fabric := rfl

/-! ## `State.putAssay` -/

@[simp] theorem putAssay_agenda (s : State) (a : Assay) : (s.putAssay a).agenda = s.agenda := rfl
@[simp] theorem putAssay_issue (s : State) (a : Assay) : (s.putAssay a).issue = s.issue := rfl
@[simp] theorem putAssay_cur (s : State) (a : Assay) : (s.putAssay a).cur = s.cur := rfl
@[simp] theorem putAssay_fetched (s : State) (a : Assay) : (s.putAssay a).fetched = s.fetched := rfl
@[simp] theorem putAssay_cycle (s : State) (a : Assay) : (s.putAssay a).cycle = s.cycle := rfl
@[simp] theorem putAssay_nextUid (s : State) (a : Assay) : (s.putAssay a).nextUid = s.nextUid := rfl
@[simp] theorem putAssay_nextSeq (s : State) (a : Assay) : (s.putAssay a).nextSeq = s.nextSeq := rfl
@[simp] theorem putAssay_nextId (s : State) (a : Assay) : (s.putAssay a).nextId = s.nextId := rfl
@[simp] theorem putAssay_nextLid (s : State) (a : Assay) : (s.putAssay a).nextLid = s.nextLid := rfl
@[simp] theorem putAssay_cuts (s : State) (a : Assay) : (s.putAssay a).cuts = s.cuts := rfl
@[simp] theorem putAssay_launches (s : State) (a : Assay) : (s.putAssay a).launches = s.launches := rfl
@[simp] theorem putAssay_taken (s : State) (a : Assay) : (s.putAssay a).taken = s.taken := rfl
@[simp] theorem putAssay_mem (s : State) (a : Assay) : (s.putAssay a).mem = s.mem := rfl
@[simp] theorem putAssay_stale (s : State) (a : Assay) : (s.putAssay a).stale = s.stale := rfl
@[simp] theorem putAssay_views (s : State) (a : Assay) : (s.putAssay a).views = s.views := rfl
@[simp] theorem putAssay_host (s : State) (a : Assay) : (s.putAssay a).host = s.host := rfl
@[simp] theorem putAssay_poison (s : State) (a : Assay) : (s.putAssay a).poison = s.poison := rfl
@[simp] theorem putAssay_flaws (s : State) (a : Assay) : (s.putAssay a).flaws = s.flaws := rfl
@[simp] theorem putAssay_l1 (s : State) (a : Assay) : (s.putAssay a).l1 = s.l1 := rfl
@[simp] theorem putAssay_wbuf (s : State) (a : Assay) : (s.putAssay a).wbuf = s.wbuf := rfl
@[simp] theorem putAssay_storeQ (s : State) (a : Assay) : (s.putAssay a).storeQ = s.storeQ := rfl
@[simp] theorem putAssay_qeff (s : State) (a : Assay) : (s.putAssay a).qeff = s.qeff := rfl
@[simp] theorem putAssay_tlb (s : State) (a : Assay) : (s.putAssay a).tlb = s.tlb := rfl
@[simp] theorem putAssay_evict (s : State) (a : Assay) : (s.putAssay a).evict = s.evict := rfl
@[simp] theorem putAssay_crews (s : State) (a : Assay) : (s.putAssay a).crews = s.crews := rfl
@[simp] theorem putAssay_scratchW (s : State) (a : Assay) : (s.putAssay a).scratchW = s.scratchW := rfl
@[simp] theorem putAssay_jobs (s : State) (a : Assay) : (s.putAssay a).jobs = s.jobs := rfl
@[simp] theorem putAssay_looms (s : State) (a : Assay) : (s.putAssay a).looms = s.looms := rfl
@[simp] theorem putAssay_savedClaims (s : State) (a : Assay) : (s.putAssay a).savedClaims = s.savedClaims := rfl
@[simp] theorem putAssay_mills (s : State) (a : Assay) : (s.putAssay a).mills = s.mills := rfl
@[simp] theorem putAssay_comms (s : State) (a : Assay) : (s.putAssay a).comms = s.comms := rfl
@[simp] theorem putAssay_remotes (s : State) (a : Assay) : (s.putAssay a).remotes = s.remotes := rfl
@[simp] theorem putAssay_contexts (s : State) (a : Assay) : (s.putAssay a).contexts = s.contexts := rfl
@[simp] theorem putAssay_leases (s : State) (a : Assay) : (s.putAssay a).leases = s.leases := rfl
@[simp] theorem putAssay_preempts (s : State) (a : Assay) : (s.putAssay a).preempts = s.preempts := rfl
@[simp] theorem putAssay_halts (s : State) (a : Assay) : (s.putAssay a).halts = s.halts := rfl
@[simp] theorem putAssay_slices (s : State) (a : Assay) : (s.putAssay a).slices = s.slices := rfl
@[simp] theorem putAssay_issued (s : State) (a : Assay) : (s.putAssay a).issued = s.issued := rfl
@[simp] theorem putAssay_sampled (s : State) (a : Assay) : (s.putAssay a).sampled = s.sampled := rfl
@[simp] theorem putAssay_own (s : State) (a : Assay) : (s.putAssay a).own = s.own := rfl
@[simp] theorem putAssay_ownNew (s : State) (a : Assay) : (s.putAssay a).ownNew = s.ownNew := rfl
@[simp] theorem putAssay_win (s : State) (a : Assay) : (s.putAssay a).win = s.win := rfl
@[simp] theorem putAssay_ckpt (s : State) (a : Assay) : (s.putAssay a).ckpt = s.ckpt := rfl
@[simp] theorem putAssay_heldHost (s : State) (a : Assay) : (s.putAssay a).heldHost = s.heldHost := rfl
@[simp] theorem putAssay_retiredUcie (s : State) (a : Assay) : (s.putAssay a).retiredUcie = s.retiredUcie := rfl
@[simp] theorem putAssay_resends (s : State) (a : Assay) : (s.putAssay a).resends = s.resends := rfl
@[simp] theorem putAssay_parmSlots (s : State) (a : Assay) : (s.putAssay a).parmSlots = s.parmSlots := rfl
@[simp] theorem putAssay_children (s : State) (a : Assay) : (s.putAssay a).children = s.children := rfl
@[simp] theorem putAssay_launchNo (s : State) (a : Assay) : (s.putAssay a).launchNo = s.launchNo := rfl
@[simp] theorem putAssay_turns (s : State) (a : Assay) : (s.putAssay a).turns = s.turns := rfl
@[simp] theorem putAssay_irqs (s : State) (a : Assay) : (s.putAssay a).irqs = s.irqs := rfl
@[simp] theorem putAssay_hostReads (s : State) (a : Assay) : (s.putAssay a).hostReads = s.hostReads := rfl
@[simp] theorem putAssay_fabric (s : State) (a : Assay) : (s.putAssay a).fabric = s.fabric := rfl

/-! ## `State.setReg` -/

@[simp] theorem setReg_agenda (s : State) (off : Nat) (v : W64) : (s.setReg off v).agenda = s.agenda := rfl
@[simp] theorem setReg_issue (s : State) (off : Nat) (v : W64) : (s.setReg off v).issue = s.issue := rfl
@[simp] theorem setReg_cur (s : State) (off : Nat) (v : W64) : (s.setReg off v).cur = s.cur := rfl
@[simp] theorem setReg_fetched (s : State) (off : Nat) (v : W64) : (s.setReg off v).fetched = s.fetched := rfl
@[simp] theorem setReg_cycle (s : State) (off : Nat) (v : W64) : (s.setReg off v).cycle = s.cycle := rfl
@[simp] theorem setReg_nextUid (s : State) (off : Nat) (v : W64) : (s.setReg off v).nextUid = s.nextUid := rfl
@[simp] theorem setReg_nextSeq (s : State) (off : Nat) (v : W64) : (s.setReg off v).nextSeq = s.nextSeq := rfl
@[simp] theorem setReg_nextId (s : State) (off : Nat) (v : W64) : (s.setReg off v).nextId = s.nextId := rfl
@[simp] theorem setReg_nextLid (s : State) (off : Nat) (v : W64) : (s.setReg off v).nextLid = s.nextLid := rfl
@[simp] theorem setReg_cuts (s : State) (off : Nat) (v : W64) : (s.setReg off v).cuts = s.cuts := rfl
@[simp] theorem setReg_launches (s : State) (off : Nat) (v : W64) : (s.setReg off v).launches = s.launches := rfl
@[simp] theorem setReg_taken (s : State) (off : Nat) (v : W64) : (s.setReg off v).taken = s.taken := rfl
@[simp] theorem setReg_mem (s : State) (off : Nat) (v : W64) : (s.setReg off v).mem = s.mem := rfl
@[simp] theorem setReg_stale (s : State) (off : Nat) (v : W64) : (s.setReg off v).stale = s.stale := rfl
@[simp] theorem setReg_views (s : State) (off : Nat) (v : W64) : (s.setReg off v).views = s.views := rfl
@[simp] theorem setReg_host (s : State) (off : Nat) (v : W64) : (s.setReg off v).host = s.host := rfl
@[simp] theorem setReg_poison (s : State) (off : Nat) (v : W64) : (s.setReg off v).poison = s.poison := rfl
@[simp] theorem setReg_flaws (s : State) (off : Nat) (v : W64) : (s.setReg off v).flaws = s.flaws := rfl
@[simp] theorem setReg_l1 (s : State) (off : Nat) (v : W64) : (s.setReg off v).l1 = s.l1 := rfl
@[simp] theorem setReg_wbuf (s : State) (off : Nat) (v : W64) : (s.setReg off v).wbuf = s.wbuf := rfl
@[simp] theorem setReg_storeQ (s : State) (off : Nat) (v : W64) : (s.setReg off v).storeQ = s.storeQ := rfl
@[simp] theorem setReg_qeff (s : State) (off : Nat) (v : W64) : (s.setReg off v).qeff = s.qeff := rfl
@[simp] theorem setReg_tlb (s : State) (off : Nat) (v : W64) : (s.setReg off v).tlb = s.tlb := rfl
@[simp] theorem setReg_evict (s : State) (off : Nat) (v : W64) : (s.setReg off v).evict = s.evict := rfl
@[simp] theorem setReg_crews (s : State) (off : Nat) (v : W64) : (s.setReg off v).crews = s.crews := rfl
@[simp] theorem setReg_scratchW (s : State) (off : Nat) (v : W64) : (s.setReg off v).scratchW = s.scratchW := rfl
@[simp] theorem setReg_jobs (s : State) (off : Nat) (v : W64) : (s.setReg off v).jobs = s.jobs := rfl
@[simp] theorem setReg_looms (s : State) (off : Nat) (v : W64) : (s.setReg off v).looms = s.looms := rfl
@[simp] theorem setReg_savedClaims (s : State) (off : Nat) (v : W64) : (s.setReg off v).savedClaims = s.savedClaims := rfl
@[simp] theorem setReg_mills (s : State) (off : Nat) (v : W64) : (s.setReg off v).mills = s.mills := rfl
@[simp] theorem setReg_assays (s : State) (off : Nat) (v : W64) : (s.setReg off v).assays = s.assays := rfl
@[simp] theorem setReg_comms (s : State) (off : Nat) (v : W64) : (s.setReg off v).comms = s.comms := rfl
@[simp] theorem setReg_remotes (s : State) (off : Nat) (v : W64) : (s.setReg off v).remotes = s.remotes := rfl
@[simp] theorem setReg_contexts (s : State) (off : Nat) (v : W64) : (s.setReg off v).contexts = s.contexts := rfl
@[simp] theorem setReg_leases (s : State) (off : Nat) (v : W64) : (s.setReg off v).leases = s.leases := rfl
@[simp] theorem setReg_preempts (s : State) (off : Nat) (v : W64) : (s.setReg off v).preempts = s.preempts := rfl
@[simp] theorem setReg_halts (s : State) (off : Nat) (v : W64) : (s.setReg off v).halts = s.halts := rfl
@[simp] theorem setReg_slices (s : State) (off : Nat) (v : W64) : (s.setReg off v).slices = s.slices := rfl
@[simp] theorem setReg_issued (s : State) (off : Nat) (v : W64) : (s.setReg off v).issued = s.issued := rfl
@[simp] theorem setReg_sampled (s : State) (off : Nat) (v : W64) : (s.setReg off v).sampled = s.sampled := rfl
@[simp] theorem setReg_own (s : State) (off : Nat) (v : W64) : (s.setReg off v).own = s.own := rfl
@[simp] theorem setReg_ownNew (s : State) (off : Nat) (v : W64) : (s.setReg off v).ownNew = s.ownNew := rfl
@[simp] theorem setReg_ckpt (s : State) (off : Nat) (v : W64) : (s.setReg off v).ckpt = s.ckpt := rfl
@[simp] theorem setReg_heldHost (s : State) (off : Nat) (v : W64) : (s.setReg off v).heldHost = s.heldHost := rfl
@[simp] theorem setReg_retiredUcie (s : State) (off : Nat) (v : W64) : (s.setReg off v).retiredUcie = s.retiredUcie := rfl
@[simp] theorem setReg_resends (s : State) (off : Nat) (v : W64) : (s.setReg off v).resends = s.resends := rfl
@[simp] theorem setReg_parmSlots (s : State) (off : Nat) (v : W64) : (s.setReg off v).parmSlots = s.parmSlots := rfl
@[simp] theorem setReg_children (s : State) (off : Nat) (v : W64) : (s.setReg off v).children = s.children := rfl
@[simp] theorem setReg_launchNo (s : State) (off : Nat) (v : W64) : (s.setReg off v).launchNo = s.launchNo := rfl
@[simp] theorem setReg_turns (s : State) (off : Nat) (v : W64) : (s.setReg off v).turns = s.turns := rfl
@[simp] theorem setReg_irqs (s : State) (off : Nat) (v : W64) : (s.setReg off v).irqs = s.irqs := rfl
@[simp] theorem setReg_hostReads (s : State) (off : Nat) (v : W64) : (s.setReg off v).hostReads = s.hostReads := rfl
@[simp] theorem setReg_fabric (s : State) (off : Nat) (v : W64) : (s.setReg off v).fabric = s.fabric := rfl

/-! ## `State.interrupt` -/

@[simp] theorem interrupt_agenda (s : State) (vec : Nat) : (s.interrupt vec).agenda = s.agenda := rfl
@[simp] theorem interrupt_issue (s : State) (vec : Nat) : (s.interrupt vec).issue = s.issue := rfl
@[simp] theorem interrupt_cur (s : State) (vec : Nat) : (s.interrupt vec).cur = s.cur := rfl
@[simp] theorem interrupt_fetched (s : State) (vec : Nat) : (s.interrupt vec).fetched = s.fetched := rfl
@[simp] theorem interrupt_cycle (s : State) (vec : Nat) : (s.interrupt vec).cycle = s.cycle := rfl
@[simp] theorem interrupt_nextUid (s : State) (vec : Nat) : (s.interrupt vec).nextUid = s.nextUid := rfl
@[simp] theorem interrupt_nextSeq (s : State) (vec : Nat) : (s.interrupt vec).nextSeq = s.nextSeq := rfl
@[simp] theorem interrupt_nextId (s : State) (vec : Nat) : (s.interrupt vec).nextId = s.nextId := rfl
@[simp] theorem interrupt_nextLid (s : State) (vec : Nat) : (s.interrupt vec).nextLid = s.nextLid := rfl
@[simp] theorem interrupt_cuts (s : State) (vec : Nat) : (s.interrupt vec).cuts = s.cuts := rfl
@[simp] theorem interrupt_launches (s : State) (vec : Nat) : (s.interrupt vec).launches = s.launches := rfl
@[simp] theorem interrupt_taken (s : State) (vec : Nat) : (s.interrupt vec).taken = s.taken := rfl
@[simp] theorem interrupt_mem (s : State) (vec : Nat) : (s.interrupt vec).mem = s.mem := rfl
@[simp] theorem interrupt_stale (s : State) (vec : Nat) : (s.interrupt vec).stale = s.stale := rfl
@[simp] theorem interrupt_views (s : State) (vec : Nat) : (s.interrupt vec).views = s.views := rfl
@[simp] theorem interrupt_host (s : State) (vec : Nat) : (s.interrupt vec).host = s.host := rfl
@[simp] theorem interrupt_poison (s : State) (vec : Nat) : (s.interrupt vec).poison = s.poison := rfl
@[simp] theorem interrupt_flaws (s : State) (vec : Nat) : (s.interrupt vec).flaws = s.flaws := rfl
@[simp] theorem interrupt_l1 (s : State) (vec : Nat) : (s.interrupt vec).l1 = s.l1 := rfl
@[simp] theorem interrupt_wbuf (s : State) (vec : Nat) : (s.interrupt vec).wbuf = s.wbuf := rfl
@[simp] theorem interrupt_storeQ (s : State) (vec : Nat) : (s.interrupt vec).storeQ = s.storeQ := rfl
@[simp] theorem interrupt_qeff (s : State) (vec : Nat) : (s.interrupt vec).qeff = s.qeff := rfl
@[simp] theorem interrupt_tlb (s : State) (vec : Nat) : (s.interrupt vec).tlb = s.tlb := rfl
@[simp] theorem interrupt_evict (s : State) (vec : Nat) : (s.interrupt vec).evict = s.evict := rfl
@[simp] theorem interrupt_crews (s : State) (vec : Nat) : (s.interrupt vec).crews = s.crews := rfl
@[simp] theorem interrupt_scratchW (s : State) (vec : Nat) : (s.interrupt vec).scratchW = s.scratchW := rfl
@[simp] theorem interrupt_jobs (s : State) (vec : Nat) : (s.interrupt vec).jobs = s.jobs := rfl
@[simp] theorem interrupt_looms (s : State) (vec : Nat) : (s.interrupt vec).looms = s.looms := rfl
@[simp] theorem interrupt_savedClaims (s : State) (vec : Nat) : (s.interrupt vec).savedClaims = s.savedClaims := rfl
@[simp] theorem interrupt_mills (s : State) (vec : Nat) : (s.interrupt vec).mills = s.mills := rfl
@[simp] theorem interrupt_assays (s : State) (vec : Nat) : (s.interrupt vec).assays = s.assays := rfl
@[simp] theorem interrupt_comms (s : State) (vec : Nat) : (s.interrupt vec).comms = s.comms := rfl
@[simp] theorem interrupt_remotes (s : State) (vec : Nat) : (s.interrupt vec).remotes = s.remotes := rfl
@[simp] theorem interrupt_contexts (s : State) (vec : Nat) : (s.interrupt vec).contexts = s.contexts := rfl
@[simp] theorem interrupt_leases (s : State) (vec : Nat) : (s.interrupt vec).leases = s.leases := rfl
@[simp] theorem interrupt_preempts (s : State) (vec : Nat) : (s.interrupt vec).preempts = s.preempts := rfl
@[simp] theorem interrupt_halts (s : State) (vec : Nat) : (s.interrupt vec).halts = s.halts := rfl
@[simp] theorem interrupt_slices (s : State) (vec : Nat) : (s.interrupt vec).slices = s.slices := rfl
@[simp] theorem interrupt_issued (s : State) (vec : Nat) : (s.interrupt vec).issued = s.issued := rfl
@[simp] theorem interrupt_sampled (s : State) (vec : Nat) : (s.interrupt vec).sampled = s.sampled := rfl
@[simp] theorem interrupt_own (s : State) (vec : Nat) : (s.interrupt vec).own = s.own := rfl
@[simp] theorem interrupt_ownNew (s : State) (vec : Nat) : (s.interrupt vec).ownNew = s.ownNew := rfl
@[simp] theorem interrupt_win (s : State) (vec : Nat) : (s.interrupt vec).win = s.win := rfl
@[simp] theorem interrupt_ckpt (s : State) (vec : Nat) : (s.interrupt vec).ckpt = s.ckpt := rfl
@[simp] theorem interrupt_heldHost (s : State) (vec : Nat) : (s.interrupt vec).heldHost = s.heldHost := rfl
@[simp] theorem interrupt_retiredUcie (s : State) (vec : Nat) : (s.interrupt vec).retiredUcie = s.retiredUcie := rfl
@[simp] theorem interrupt_resends (s : State) (vec : Nat) : (s.interrupt vec).resends = s.resends := rfl
@[simp] theorem interrupt_parmSlots (s : State) (vec : Nat) : (s.interrupt vec).parmSlots = s.parmSlots := rfl
@[simp] theorem interrupt_children (s : State) (vec : Nat) : (s.interrupt vec).children = s.children := rfl
@[simp] theorem interrupt_launchNo (s : State) (vec : Nat) : (s.interrupt vec).launchNo = s.launchNo := rfl
@[simp] theorem interrupt_turns (s : State) (vec : Nat) : (s.interrupt vec).turns = s.turns := rfl
@[simp] theorem interrupt_hostReads (s : State) (vec : Nat) : (s.interrupt vec).hostReads = s.hostReads := rfl
@[simp] theorem interrupt_fabric (s : State) (vec : Nat) : (s.interrupt vec).fabric = s.fabric := rfl

end Sys2Proof.Machine
end

