-- ==== Sys2Proof/Laws/Ops.lean ====
section
/-! SUPPORT. What each shared operation of the instructions can do: one lemma for each, to be cited in place of its definition. -/

namespace Sys2Proof.Machine

/-! ## Running an instruction -/

theorem operate_noCut (i : Instr) (s : State) (body : Cut → State) (h : s.executing = none) : operate i s body = .fault .noCut := by
  simp [operate, h]

theorem operate_gate (i : Instr) (s : State) (body : Cut → State) (c : Cut) (t : State) (h : s.executing = some c)
    (hg : gate s c i = some t) : operate i s body = .next t := by
  simp [operate, h, hg]

/-- An instruction that runs has the effect of its own meaning. -/
theorem operate_runs (i : Instr) (s : State) (body : Cut → State) (c : Cut) (h : Runs s c i) : operate i s body = .next (body c) := by
  simp [operate, h.1, h.2]

/-- All that an instruction can come to. -/
theorem operate_cases (i : Instr) (s : State) (body : Cut → State) :
    (s.executing = none ∧ operate i s body = .fault .noCut)
    ∨ ∃ c, s.executing = some c ∧ ((∃ t, gate s c i = some t ∧ operate i s body = .next t)
        ∨ (gate s c i = none ∧ operate i s body = .next (body c))) := by
  cases hc : s.executing with
  | none => exact .inl ⟨rfl, operate_noCut i s body hc⟩
  | some c =>
    cases hg : gate s c i with
    | some t => exact .inr ⟨c, rfl, .inl ⟨t, hg, operate_gate i s body c t hc hg⟩⟩
    | none => exact .inr ⟨c, rfl, .inr ⟨hg, operate_runs i s body c ⟨hc, hg⟩⟩⟩

/-- An instruction gives a next state whenever some cut executes. -/
theorem operate_next (i : Instr) (s : State) (body : Cut → State) (c : Cut) (h : s.executing = some c) :
    ∃ t, operate i s body = .next t := by
  rcases operate_cases i s body with ⟨hn, -⟩ | ⟨d, -, ⟨t, -, ht⟩ | ⟨-, ht⟩⟩
  · rw [h] at hn; cases hn
  · exact ⟨t, ht⟩
  · exact ⟨_, ht⟩

/-! ## Completing -/

/-- Without `q` sources nothing is popped. -/
theorem popAll_none (s : State) (c : Cut) (srcs : List Opnd) (h : srcs.any isQ = false) : s.popAll c srcs = s := by
  have : srcs.filter isQ = [] := by
    rw [List.filter_eq_nil_iff]
    intro o ho hq
    have := List.any_eq_false.mp h o ho
    exact this hq
  simp [State.popAll, this]

theorem popped_none (c : Cut) (srcs : List Opnd) (h : srcs.any isQ = false) : c.popped srcs = c := by
  simp [Cut.popped, h]

/-- Completing without `q` sources only retires the word. -/
theorem complete_noQ (s : State) (c : Cut) (srcs : List Opnd) (k : Cut) (h : srcs.any isQ = false) :
    s.complete c srcs k = s.advance k := by
  simp [State.complete, popAll_none s c srcs h, popped_none k srcs h]

/-- A governed result: a pattern cut that cannot hold it materializes, and otherwise it is written and the cut goes on. -/
theorem write_cases (s : State) (c : Cut) (srcs : List Opnd) (g : Gov) (d : Opnd) (v : RegVal) :
    (c.needsLanes g v = true ∧ s.write c srcs g d v = s.lanesOnly c)
    ∨ (c.needsLanes g v = false ∧ ∃ (t : State) (k : Cut), s.write c srcs g d v = t.advance k
        ∧ (k = (c.popped srcs).result g d v ∨ k = ((c.popped srcs).result g d v).effect)
        ∧ (isQ d = false → t = s.popAll c srcs ∧ k = (c.popped srcs).result g d v)) := by
  cases hn : c.needsLanes g v with
  | true => exact .inl ⟨rfl, by simp [State.write, hn]⟩
  | false =>
    refine .inr ⟨rfl, ?_⟩
    cases hq : isQ d with
    | false => exact ⟨s.popAll c srcs, (c.popped srcs).result g d v, by simp [State.write, hn, hq], .inl rfl, fun _ => ⟨rfl, rfl⟩⟩
    | true =>
      by_cases ha : g.anyLane = true
      · exact ⟨_, _, by simp only [State.write, hn, hq, ha]; rfl, .inr rfl, fun h => by cases h⟩
      · exact ⟨s.popAll c srcs, (c.popped srcs).result g d v, by simp [State.write, hn, hq, ha], .inl rfl, fun h => by cases h⟩

/-- Without a `q` operand a result that the cut can hold only changes the cut and retires the word. -/
theorem write_noQ (s : State) (c : Cut) (srcs : List Opnd) (g : Gov) (d : Opnd) (v : RegVal) (hs : srcs.any isQ = false)
    (hd : isQ d = false) (hn : c.needsLanes g v = false) : s.write c srcs g d v = s.advance (c.result g d v) := by
  simp [State.write, hn, hd, popAll_none s c srcs hs, popped_none c srcs hs]

/-- A predicate result: a pattern cut materializes for lanes, and otherwise it is written and the cut goes on. -/
theorem writePred_none (s : State) (c : Cut) (srcs : List Opnd) (d : Nat) : s.writePred c srcs d none = s.lanesOnly c := rfl

/-! ## Stopping -/

/-- Raising causes: the trap is entered at once, or waits for the outstanding results (R338). -/
theorem raisePend_cases (s : State) (c : Cut) (e : TrapPend) :
    (c.outst = [] ∧ s.raisePend c e = s.enterTrap c e)
    ∨ (c.outst ≠ [] ∧ s.raisePend c e = s.putCut { c with pend := some e, wait := .trap }) := by
  cases h : c.outst with
  | nil => exact .inl ⟨rfl, by simp [State.raisePend, h]⟩
  | cons o os => exact .inr ⟨by simp, by simp [State.raisePend, h]⟩

/-- Taking an exception: the cut enters its handler, or its launch ends (R338, R339). -/
theorem enterTrap_cases (s : State) (c : Cut) (e : TrapPend) :
    (c.trap.hv = true ∧ c.trap.inh = false ∧ s.enterTrap c e = s.putCut (c.enter s (s.launchOf c.lid) e))
    ∨ (c.trap.hv = false ∧ s.enterTrap c e = s.endLaunch c 2 e)
    ∨ (c.trap.hv = true ∧ c.trap.inh = true ∧ s.enterTrap c e = s.endLaunch c 3 e) := by
  unfold State.enterTrap
  cases c.trap.hv <;> cases c.trap.inh <;> simp

/-- The one way to stop: on a Bench a trap, on a Mill a return trap or an illegal word (R88, R264, R338). -/
theorem stop_cases (s : State) (c : Cut) (e : TrapPend) :
    (c.onMill = false ∧ s.stop c e = s.raisePend c e)
    ∨ (c.onMill = true ∧ bit e.causes 0 = true ∧ s.stop c e = s.millIll c e)
    ∨ (c.onMill = true ∧ bit e.causes 0 = false ∧ s.stop c e = s.returnTrap c 4) := by
  unfold State.stop
  cases c.onMill <;> cases bit e.causes 0 <;> simp

/-- Lanes only: a pattern cut with a claim raises ILL, and any other materializes (R24, R235). -/
theorem lanesOnly_cases (s : State) (c : Cut) :
    (c.claims s = true ∧ s.lanesOnly c = s.ill c) ∨ (c.claims s = false ∧ s.lanesOnly c = s.materialize c) := by
  unfold State.lanesOnly
  cases c.claims s <;> simp

/-- Materialization waits for outstanding results, and then replaces the cut by lane cuts over its items (R24). -/
theorem materialize_cases (s : State) (c : Cut) :
    (c.outst ≠ [] ∧ s.materialize c = s.hold c .results)
    ∨ (c.outst = [] ∧ ∃ kids n, s.materialize c = { s with cuts := s.cuts.filter (·.uid != c.uid) ++ kids, nextUid := n }) := by
  cases h : c.outst with
  | nil => exact .inr ⟨rfl, _, _, by simp only [State.materialize, h]; rfl⟩
  | cons o os => exact .inl ⟨by simp, by simp [State.materialize, h]⟩

/-! ## Cuts and their places in a state -/

/-- A cut that is found by its number has that number. -/
theorem cutOf_uid (s : State) (uid : Nat) (c : Cut) (h : s.cutOf uid = some c) : c.uid = uid := by
  have := List.find?_some h
  simpa using this

/-- Storing a cut over the one of its number stores it. -/
theorem cutOf_putCut (s : State) (c d : Cut) (h : s.cutOf c.uid = some d) : (s.putCut c).cutOf c.uid = some c := by
  have hm : ∀ cs : List Cut, cs.find? (·.uid == c.uid) = some d →
      (cs.map fun x => if x.uid = c.uid then c else x).find? (·.uid == c.uid) = some c := by
    intro cs
    induction cs with
    | nil => intro h; cases h
    | cons x cs ih =>
      intro h
      by_cases hx : x.uid = c.uid
      · simp [hx]
      · have hb : (x.uid == c.uid) = false := by simp [hx]
        rw [List.find?_cons, hb] at h
        simp [hx, ih h]
  exact hm s.cuts h

theorem cutOf_putCut_ne (s : State) (c : Cut) (uid : Nat) (h : uid ≠ c.uid) : (s.putCut c).cutOf uid = s.cutOf uid := by
  have hm : ∀ cs : List Cut, (cs.map fun x => if x.uid = c.uid then c else x).find? (·.uid == uid) = cs.find? (·.uid == uid) := by
    intro cs
    induction cs with
    | nil => rfl
    | cons x cs ih =>
      by_cases hx : x.uid = c.uid
      · have h1 : (c.uid == uid) = false := by simp [Ne.symm h]
        have h2 : (x.uid == uid) = false := by simp [hx, Ne.symm h]
        simp [hx, h1, ih]
      · simp [List.find?_cons, hx, ih]
  exact hm s.cuts

end Sys2Proof.Machine
end

