-- ==== Sys2Proof/Laws/PerInstr.lean ====
section
/-! SUPPORT. The round trip of every constructor: the word an instruction is encoded as decodes to that instruction (R72, R73,
R85). First the fields of a word in each layout, then how each layout's words reach its decoder, then one lemma per
constructor. -/

namespace Sys2Proof

/-! ## Fields of joined bit vectors -/

theorem cut_low {n m : Nat} (x : BitVec n) (y : BitVec m) (lo len : Nat) (h : lo + len ≤ m) :
    (x ++ y).extractLsb' lo len = y.extractLsb' lo len := by
  ext j hj
  simp only [BitVec.getElem_extractLsb', BitVec.getLsbD_append]
  rw [if_pos (by omega)]

theorem cut_high {n m : Nat} (x : BitVec n) (y : BitVec m) (lo len : Nat) (h : m ≤ lo) :
    (x ++ y).extractLsb' lo len = x.extractLsb' (lo - m) len := by
  ext j hj
  simp only [BitVec.getElem_extractLsb', BitVec.getLsbD_append]
  rw [if_neg (by omega)]
  congr 1; omega

theorem cut_whole {n : Nat} (x : BitVec n) : x.extractLsb' 0 n = x := by
  simp

/-! ## The fields of a word in each layout -/

theorem wordR_op (op : BitVec 7) (f : BitVec 4) (d : BitVec 7) (a : BitVec 7) (b : BitVec 7) : bitsOf (wordR op f d a b) 25 7 = op := by
  simp (disch := decide) only [bitsOf, wordR, cut_high, Nat.reduceSub, cut_whole]

theorem wordR_f (op : BitVec 7) (f : BitVec 4) (d : BitVec 7) (a : BitVec 7) (b : BitVec 7) : bitsOf (wordR op f d a b) 21 4 = f := by
  simp (disch := decide) only [bitsOf, wordR, cut_low, cut_high, Nat.reduceSub, cut_whole]

theorem wordR_d (op : BitVec 7) (f : BitVec 4) (d : BitVec 7) (a : BitVec 7) (b : BitVec 7) : bitsOf (wordR op f d a b) 14 7 = d := by
  simp (disch := decide) only [bitsOf, wordR, cut_low, cut_high, Nat.reduceSub, cut_whole]

theorem wordR_a (op : BitVec 7) (f : BitVec 4) (d : BitVec 7) (a : BitVec 7) (b : BitVec 7) : bitsOf (wordR op f d a b) 7 7 = a := by
  simp (disch := decide) only [bitsOf, wordR, cut_low, cut_high, Nat.reduceSub, cut_whole]

theorem wordR_b (op : BitVec 7) (f : BitVec 4) (d : BitVec 7) (a : BitVec 7) (b : BitVec 7) : bitsOf (wordR op f d a b) 0 7 = b := by
  simp (disch := decide) only [bitsOf, wordR, cut_low, cut_whole]

theorem wordR_top (op : BitVec 7) (f : BitVec 4) (d : BitVec 7) (a : BitVec 7) (b : BitVec 7) : bitsOf (wordR op f d a b) 30 2 = op.extractLsb' 5 2 := by
  simp (disch := decide) only [bitsOf, wordR, cut_high, Nat.reduceSub]

theorem wordI_op (op : BitVec 7) (d : BitVec 7) (a : BitVec 7) (i : BitVec 11) : bitsOf (wordI op d a i) 25 7 = op := by
  simp (disch := decide) only [bitsOf, wordI, cut_high, Nat.reduceSub, cut_whole]

theorem wordI_d (op : BitVec 7) (d : BitVec 7) (a : BitVec 7) (i : BitVec 11) : bitsOf (wordI op d a i) 18 7 = d := by
  simp (disch := decide) only [bitsOf, wordI, cut_low, cut_high, Nat.reduceSub, cut_whole]

theorem wordI_a (op : BitVec 7) (d : BitVec 7) (a : BitVec 7) (i : BitVec 11) : bitsOf (wordI op d a i) 11 7 = a := by
  simp (disch := decide) only [bitsOf, wordI, cut_low, cut_high, Nat.reduceSub, cut_whole]

theorem wordI_i (op : BitVec 7) (d : BitVec 7) (a : BitVec 7) (i : BitVec 11) : bitsOf (wordI op d a i) 0 11 = i := by
  simp (disch := decide) only [bitsOf, wordI, cut_low, cut_whole]

theorem wordI_top (op : BitVec 7) (d : BitVec 7) (a : BitVec 7) (i : BitVec 11) : bitsOf (wordI op d a i) 30 2 = op.extractLsb' 5 2 := by
  simp (disch := decide) only [bitsOf, wordI, cut_high, Nat.reduceSub]

theorem wordW_op (op : BitVec 7) (d : BitVec 7) (i : BitVec 18) : bitsOf (wordW op d i) 25 7 = op := by
  simp (disch := decide) only [bitsOf, wordW, cut_high, Nat.reduceSub, cut_whole]

theorem wordW_d (op : BitVec 7) (d : BitVec 7) (i : BitVec 18) : bitsOf (wordW op d i) 18 7 = d := by
  simp (disch := decide) only [bitsOf, wordW, cut_low, cut_high, Nat.reduceSub, cut_whole]

theorem wordW_i (op : BitVec 7) (d : BitVec 7) (i : BitVec 18) : bitsOf (wordW op d i) 0 18 = i := by
  simp (disch := decide) only [bitsOf, wordW, cut_low, cut_whole]

theorem wordW_top (op : BitVec 7) (d : BitVec 7) (i : BitVec 18) : bitsOf (wordW op d i) 30 2 = op.extractLsb' 5 2 := by
  simp (disch := decide) only [bitsOf, wordW, cut_high, Nat.reduceSub]

theorem wordJ_op (op : BitVec 7) (f : BitVec 4) (o : BitVec 21) : bitsOf (wordJ op f o) 25 7 = op := by
  simp (disch := decide) only [bitsOf, wordJ, cut_high, Nat.reduceSub, cut_whole]

theorem wordJ_f (op : BitVec 7) (f : BitVec 4) (o : BitVec 21) : bitsOf (wordJ op f o) 21 4 = f := by
  simp (disch := decide) only [bitsOf, wordJ, cut_low, cut_high, Nat.reduceSub, cut_whole]

theorem wordJ_o (op : BitVec 7) (f : BitVec 4) (o : BitVec 21) : bitsOf (wordJ op f o) 0 21 = o := by
  simp (disch := decide) only [bitsOf, wordJ, cut_low, cut_whole]

theorem wordJ_top (op : BitVec 7) (f : BitVec 4) (o : BitVec 21) : bitsOf (wordJ op f o) 30 2 = op.extractLsb' 5 2 := by
  simp (disch := decide) only [bitsOf, wordJ, cut_high, Nat.reduceSub]

theorem wordK_op (op : BitVec 7) (c : BitVec 7) (n : BitVec 14) (r : BitVec 4) : bitsOf (wordK op c n r) 25 7 = op := by
  simp (disch := decide) only [bitsOf, wordK, cut_high, Nat.reduceSub, cut_whole]

theorem wordK_c (op : BitVec 7) (c : BitVec 7) (n : BitVec 14) (r : BitVec 4) : bitsOf (wordK op c n r) 18 7 = c := by
  simp (disch := decide) only [bitsOf, wordK, cut_low, cut_high, Nat.reduceSub, cut_whole]

theorem wordK_n (op : BitVec 7) (c : BitVec 7) (n : BitVec 14) (r : BitVec 4) : bitsOf (wordK op c n r) 4 14 = n := by
  simp (disch := decide) only [bitsOf, wordK, cut_low, cut_high, Nat.reduceSub, cut_whole]

theorem wordK_r (op : BitVec 7) (c : BitVec 7) (n : BitVec 14) (r : BitVec 4) : bitsOf (wordK op c n r) 0 4 = r := by
  simp (disch := decide) only [bitsOf, wordK, cut_low, cut_whole]

theorem wordK_top (op : BitVec 7) (c : BitVec 7) (n : BitVec 14) (r : BitVec 4) : bitsOf (wordK op c n r) 30 2 = op.extractLsb' 5 2 := by
  simp (disch := decide) only [bitsOf, wordK, cut_high, Nat.reduceSub]

theorem wordP_op (op : BitVec 7) (i : BitVec 11) (n : BitVec 14) : bitsOf (wordP op i n) 25 7 = op := by
  simp (disch := decide) only [bitsOf, wordP, cut_high, Nat.reduceSub, cut_whole]

theorem wordP_i (op : BitVec 7) (i : BitVec 11) (n : BitVec 14) : bitsOf (wordP op i n) 14 11 = i := by
  simp (disch := decide) only [bitsOf, wordP, cut_low, cut_high, Nat.reduceSub, cut_whole]

theorem wordP_n (op : BitVec 7) (i : BitVec 11) (n : BitVec 14) : bitsOf (wordP op i n) 0 14 = n := by
  simp (disch := decide) only [bitsOf, wordP, cut_low, cut_whole]

theorem wordP_top (op : BitVec 7) (i : BitVec 11) (n : BitVec 14) : bitsOf (wordP op i n) 30 2 = op.extractLsb' 5 2 := by
  simp (disch := decide) only [bitsOf, wordP, cut_high, Nat.reduceSub]

theorem wordC_op (op : BitVec 7) (f : BitVec 4) (a : BitVec 7) (m : BitVec 14) : bitsOf (wordC op f a m) 25 7 = op := by
  simp (disch := decide) only [bitsOf, wordC, cut_high, Nat.reduceSub, cut_whole]

theorem wordC_f (op : BitVec 7) (f : BitVec 4) (a : BitVec 7) (m : BitVec 14) : bitsOf (wordC op f a m) 21 4 = f := by
  simp (disch := decide) only [bitsOf, wordC, cut_low, cut_high, Nat.reduceSub, cut_whole]

theorem wordC_a (op : BitVec 7) (f : BitVec 4) (a : BitVec 7) (m : BitVec 14) : bitsOf (wordC op f a m) 14 7 = a := by
  simp (disch := decide) only [bitsOf, wordC, cut_low, cut_high, Nat.reduceSub, cut_whole]

theorem wordC_m (op : BitVec 7) (f : BitVec 4) (a : BitVec 7) (m : BitVec 14) : bitsOf (wordC op f a m) 0 14 = m := by
  simp (disch := decide) only [bitsOf, wordC, cut_low, cut_whole]

theorem wordC_top (op : BitVec 7) (f : BitVec 4) (a : BitVec 7) (m : BitVec 14) : bitsOf (wordC op f a m) 30 2 = op.extractLsb' 5 2 := by
  simp (disch := decide) only [bitsOf, wordC, cut_high, Nat.reduceSub]

theorem wordQ_q (q : BitVec 2) (k : BitVec 2) (d : BitVec 7) (a : BitVec 7) (b : BitVec 7) (c : BitVec 7) : bitsOf (wordQ q k d a b c) 30 2 = q := by
  simp (disch := decide) only [bitsOf, wordQ, cut_high, Nat.reduceSub, cut_whole]

theorem wordQ_k (q : BitVec 2) (k : BitVec 2) (d : BitVec 7) (a : BitVec 7) (b : BitVec 7) (c : BitVec 7) : bitsOf (wordQ q k d a b c) 28 2 = k := by
  simp (disch := decide) only [bitsOf, wordQ, cut_low, cut_high, Nat.reduceSub, cut_whole]

theorem wordQ_d (q : BitVec 2) (k : BitVec 2) (d : BitVec 7) (a : BitVec 7) (b : BitVec 7) (c : BitVec 7) : bitsOf (wordQ q k d a b c) 21 7 = d := by
  simp (disch := decide) only [bitsOf, wordQ, cut_low, cut_high, Nat.reduceSub, cut_whole]

theorem wordQ_a (q : BitVec 2) (k : BitVec 2) (d : BitVec 7) (a : BitVec 7) (b : BitVec 7) (c : BitVec 7) : bitsOf (wordQ q k d a b c) 14 7 = a := by
  simp (disch := decide) only [bitsOf, wordQ, cut_low, cut_high, Nat.reduceSub, cut_whole]

theorem wordQ_b (q : BitVec 2) (k : BitVec 2) (d : BitVec 7) (a : BitVec 7) (b : BitVec 7) (c : BitVec 7) : bitsOf (wordQ q k d a b c) 7 7 = b := by
  simp (disch := decide) only [bitsOf, wordQ, cut_low, cut_high, Nat.reduceSub, cut_whole]

theorem wordQ_c (q : BitVec 2) (k : BitVec 2) (d : BitVec 7) (a : BitVec 7) (b : BitVec 7) (c : BitVec 7) : bitsOf (wordQ q k d a b c) 0 7 = c := by
  simp (disch := decide) only [bitsOf, wordQ, cut_low, cut_whole]

/-! ## Fields inside a field -/

theorem pair_high (t : BitVec 1) (p : BitVec 3) : (0#3 ++ t ++ p : BitVec 7).extractLsb' 4 3 = 0#3 := by
  simp (disch := decide) only [cut_high, Nat.reduceSub, cut_whole]

theorem pair_flip (t : BitVec 1) (p : BitVec 3) : (0#3 ++ t ++ p : BitVec 7).extractLsb' 3 1 = t := by
  simp (disch := decide) only [cut_low, cut_high, Nat.reduceSub, cut_whole]

theorem pair_pred (t : BitVec 1) (p : BitVec 3) : (0#3 ++ t ++ p : BitVec 7).extractLsb' 0 3 = p := by
  simp (disch := decide) only [cut_low, cut_whole]

theorem pred_high (p : BitVec 3) : (0#4 ++ p : BitVec 7).extractLsb' 3 4 = 0#4 := by
  simp (disch := decide) only [cut_high, Nat.reduceSub, cut_whole]

theorem pred_low (p : BitVec 3) : (0#4 ++ p : BitVec 7).extractLsb' 0 3 = p := by
  simp (disch := decide) only [cut_low, cut_whole]

theorem kind_high (k : BitVec 2) (p : BitVec 3) : (0#2 ++ k ++ p : BitVec 7).extractLsb' 5 2 = 0#2 := by
  simp (disch := decide) only [cut_high, Nat.reduceSub, cut_whole]

theorem kind_kind (k : BitVec 2) (p : BitVec 3) : (0#2 ++ k ++ p : BitVec 7).extractLsb' 3 2 = k := by
  simp (disch := decide) only [cut_low, cut_high, Nat.reduceSub, cut_whole]

theorem kind_pred (k : BitVec 2) (p : BitVec 3) : (0#2 ++ k ++ p : BitVec 7).extractLsb' 0 3 = p := by
  simp (disch := decide) only [cut_low, cut_whole]

theorem cond_cond (k : BitVec 4) (p : BitVec 3) : (k ++ p : BitVec 7).extractLsb' 3 4 = k := by
  simp (disch := decide) only [cut_high, Nat.reduceSub, cut_whole]

theorem cond_pred (k : BitVec 4) (p : BitVec 3) : (k ++ p : BitVec 7).extractLsb' 0 3 = p := by
  simp (disch := decide) only [cut_low, cut_whole]

theorem sense_sense (s : BitVec 1) (p : BitVec 3) : (s ++ p : BitVec 4).extractLsb' 3 1 = s := by
  simp (disch := decide) only [cut_high, Nat.reduceSub, cut_whole]

theorem sense_pred (s : BitVec 1) (p : BitVec 3) : (s ++ p : BitVec 4).extractLsb' 0 3 = p := by
  simp (disch := decide) only [cut_low, cut_whole]

theorem fence_first (e f : BitVec 1) (k : BitVec 2) : (e ++ f ++ k : BitVec 4).extractLsb' 3 1 = e := by
  simp (disch := decide) only [cut_high, Nat.reduceSub, cut_whole]

theorem fence_second (e f : BitVec 1) (k : BitVec 2) : (e ++ f ++ k : BitVec 4).extractLsb' 2 1 = f := by
  simp (disch := decide) only [cut_low, cut_high, Nat.reduceSub, cut_whole]

theorem fence_kind (e f : BitVec 1) (k : BitVec 2) : (e ++ f ++ k : BitVec 4).extractLsb' 0 2 = k := by
  simp (disch := decide) only [cut_low, cut_whole]

/-! ## Each layout's words reach its decoder -/

/-- The opcodes whose words are not of the R layout. -/
def otherOps : List (BitVec 7) :=
  [0x02#7, 0x0A#7, 0x1C#7, 0x1D#7, 0x03#7, 0x04#7, 0x05#7, 0x07#7, 0x08#7, 0x0D#7, 0x14#7, 0x15#7, 0x16#7, 0x17#7,
   0x18#7, 0x19#7, 0x1A#7, 0x1B#7, 0x5C#7, 0x5D#7, 0x49#7, 0x53#7, 0x5A#7]

theorem viaR {op : BitVec 7} {f : BitVec 4} {d a b : BitVec 7} {i : Instr} (ht : op.extractLsb' 5 2 ≠ 3#2)
    (ho : op ∉ otherOps) (h : decR op f d a b = some i) : decodeWord (wordR op f d a b) = some i := by
  simp only [otherOps, List.mem_cons, not_or] at ho
  simp only [decodeWord, wordR_top, wordR_op, wordR_f, wordR_d, wordR_a, wordR_b, if_neg ht]
  split <;> simp_all

theorem viaI {op : BitVec 7} {d : BitVec 7} {a : BitVec 7} {i : BitVec 11} {out : Instr}
    (ho : op ∈ [0x0D#7, 0x14#7, 0x15#7, 0x16#7, 0x17#7, 0x18#7, 0x19#7, 0x1A#7, 0x1B#7, 0x5C#7, 0x5D#7])
    (h : decI op d a i = some out) : decodeWord (wordI op d a i) = some out := by
  have ht : op.extractLsb' 5 2 ≠ 3#2 := by
    simp only [List.mem_cons, List.not_mem_nil, or_false] at ho
    rcases ho with rfl | rfl | rfl | rfl | rfl | rfl | rfl | rfl | rfl | rfl | rfl <;> decide
  simp only [decodeWord, wordI_top, wordI_op, wordI_d, wordI_a, wordI_i, if_neg ht]
  simp only [List.mem_cons, List.not_mem_nil, or_false] at ho
  rcases ho with rfl | rfl | rfl | rfl | rfl | rfl | rfl | rfl | rfl | rfl | rfl <;> exact h

theorem viaW {op : BitVec 7} {d : BitVec 7} {i : BitVec 18} {out : Instr}
    (ho : op ∈ [0x02#7, 0x0A#7, 0x1C#7, 0x1D#7])
    (h : decW op d i = some out) : decodeWord (wordW op d i) = some out := by
  have ht : op.extractLsb' 5 2 ≠ 3#2 := by
    simp only [List.mem_cons, List.not_mem_nil, or_false] at ho
    rcases ho with rfl | rfl | rfl | rfl <;> decide
  simp only [decodeWord, wordW_top, wordW_op, wordW_d, wordW_i, if_neg ht]
  simp only [List.mem_cons, List.not_mem_nil, or_false] at ho
  rcases ho with rfl | rfl | rfl | rfl <;> exact h

theorem viaJ {op : BitVec 7} {f : BitVec 4} {o : BitVec 21} {out : Instr}
    (ho : op ∈ [0x03#7, 0x04#7, 0x05#7])
    (h : decJ op f o = some out) : decodeWord (wordJ op f o) = some out := by
  have ht : op.extractLsb' 5 2 ≠ 3#2 := by
    simp only [List.mem_cons, List.not_mem_nil, or_false] at ho
    rcases ho with rfl | rfl | rfl <;> decide
  simp only [decodeWord, wordJ_top, wordJ_op, wordJ_f, wordJ_o, if_neg ht]
  simp only [List.mem_cons, List.not_mem_nil, or_false] at ho
  rcases ho with rfl | rfl | rfl <;> exact h

theorem viaK {op : BitVec 7} {c : BitVec 7} {n : BitVec 14} {r : BitVec 4} {out : Instr}
    (ho : op ∈ [0x07#7])
    (h : decK op c n r = some out) : decodeWord (wordK op c n r) = some out := by
  have ht : op.extractLsb' 5 2 ≠ 3#2 := by
    simp only [List.mem_cons, List.not_mem_nil, or_false] at ho
    subst ho; decide
  simp only [decodeWord, wordK_top, wordK_op, wordK_c, wordK_n, wordK_r, if_neg ht]
  simp only [List.mem_cons, List.not_mem_nil, or_false] at ho
  subst ho; exact h

theorem viaP {op : BitVec 7} {i : BitVec 11} {n : BitVec 14} {out : Instr}
    (ho : op ∈ [0x08#7])
    (h : decP op i n = some out) : decodeWord (wordP op i n) = some out := by
  have ht : op.extractLsb' 5 2 ≠ 3#2 := by
    simp only [List.mem_cons, List.not_mem_nil, or_false] at ho
    subst ho; decide
  simp only [decodeWord, wordP_top, wordP_op, wordP_i, wordP_n, if_neg ht]
  simp only [List.mem_cons, List.not_mem_nil, or_false] at ho
  subst ho; exact h

theorem viaC {op : BitVec 7} {f : BitVec 4} {a : BitVec 7} {m : BitVec 14} {out : Instr}
    (ho : op ∈ [0x49#7, 0x53#7, 0x5A#7])
    (h : decC op f a m = some out) : decodeWord (wordC op f a m) = some out := by
  have ht : op.extractLsb' 5 2 ≠ 3#2 := by
    simp only [List.mem_cons, List.not_mem_nil, or_false] at ho
    rcases ho with rfl | rfl | rfl <;> decide
  simp only [decodeWord, wordC_top, wordC_op, wordC_f, wordC_a, wordC_m, if_neg ht]
  simp only [List.mem_cons, List.not_mem_nil, or_false] at ho
  rcases ho with rfl | rfl | rfl <;> exact h

theorem viaQ {k : BitVec 2} {d a b c : BitVec 7} {i : Instr} (h : decQ k d a b c = some i) :
    decodeWord (wordQ 3#2 k d a b c) = some i := by
  simp only [decodeWord, wordQ_q, wordQ_k, wordQ_d, wordQ_a, wordQ_b, wordQ_c]
  exact h

/-! ## The family: one lemma per constructor -/

namespace Laws.RoundTrip

/-- The word an instruction is encoded as decodes to that instruction. Events have no word. -/
def Statement (i : Instr) : Prop := ∀ w : W32, encodeWord i = some w → decodeWord w = some i

theorem nop : Statement .nop := by
  rintro w ⟨⟩
  exact viaR (by decide) (by decide) rfl

theorem yield : Statement .yield := by
  rintro w ⟨⟩
  exact viaR (by decide) (by decide) rfl

theorem exit : Statement .exit := by
  rintro w ⟨⟩
  exact viaR (by decide) (by decide) rfl

theorem seam : Statement .seam := by
  rintro w ⟨⟩
  exact viaR (by decide) (by decide) rfl

theorem tfence : Statement .tfence := by
  rintro w ⟨⟩
  exact viaR (by decide) (by decide) rfl

theorem haltd : Statement .haltd := by
  rintro w ⟨⟩
  exact viaR (by decide) (by decide) rfl

theorem bkpt : Statement .bkpt := by
  rintro w ⟨⟩
  exact viaR (by decide) (by decide) rfl

theorem ret : Statement .ret := by
  rintro w ⟨⟩
  exact viaR (by decide) (by decide) rfl

theorem mode : ∀ a, Statement (.mode a) := by
  rintro a w ⟨⟩
  exact viaR (by decide) (by decide) rfl

theorem modei : ∀ i, Statement (.modei i) := by
  rintro i w ⟨⟩
  exact viaW (by decide) rfl

theorem br : ∀ s p o, Statement (.br s p o) := by
  rintro s p o w ⟨⟩
  refine viaJ (by decide) ?_
  simp only [decJ, sense_sense, sense_pred]

theorem jmp : ∀ o, Statement (.jmp o) := by
  rintro o w ⟨⟩
  exact viaJ (by decide) rfl

theorem call : ∀ o, Statement (.call o) := by
  rintro o w ⟨⟩
  exact viaJ (by decide) rfl

theorem jmpr : ∀ a, Statement (.jmpr a) := by
  rintro a w ⟨⟩
  exact viaR (by decide) (by decide) rfl

theorem callr : ∀ a, Statement (.callr a) := by
  rintro a w ⟨⟩
  exact viaR (by decide) (by decide) rfl

theorem loop : ∀ c n, Statement (.loop c n) := by
  rintro c n w ⟨⟩
  exact viaK (by decide) rfl

theorem loopi : ∀ i n, Statement (.loopi i n) := by
  rintro i n w ⟨⟩
  exact viaP (by decide) rfl

theorem lbrk : Statement .lbrk := by
  rintro w ⟨⟩
  exact viaR (by decide) (by decide) rfl

theorem trap : ∀ i, Statement (.trap i) := by
  rintro i w ⟨⟩
  exact viaW (by decide) rfl

theorem pand : ∀ d t a u b, Statement (.pand d t a u b) := by
  rintro d t a u b w ⟨⟩
  refine viaR (by decide) (by decide) ?_
  simp only [decR, pair_high, pair_flip, pair_pred, pred_high, pred_low, and_self, if_true]

theorem por : ∀ d t a u b, Statement (.por d t a u b) := by
  rintro d t a u b w ⟨⟩
  refine viaR (by decide) (by decide) ?_
  simp only [decR, pair_high, pair_flip, pair_pred, pred_high, pred_low, and_self, if_true]

theorem pxor : ∀ d t a u b, Statement (.pxor d t a u b) := by
  rintro d t a u b w ⟨⟩
  refine viaR (by decide) (by decide) ?_
  simp only [decR, pair_high, pair_flip, pair_pred, pred_high, pred_low, and_self, if_true]

theorem pandn : ∀ d t a u b, Statement (.pandn d t a u b) := by
  rintro d t a u b w ⟨⟩
  refine viaR (by decide) (by decide) ?_
  simp only [decR, pair_high, pair_flip, pair_pred, pred_high, pred_low, and_self, if_true]

theorem pnot : ∀ d t a, Statement (.pnot d t a) := by
  rintro d t a w ⟨⟩
  refine viaR (by decide) (by decide) ?_
  simp only [decR, pair_high, pair_flip, pair_pred, pred_high, pred_low, and_self, if_true]

theorem pmov : ∀ d t a, Statement (.pmov d t a) := by
  rintro d t a w ⟨⟩
  refine viaR (by decide) (by decide) ?_
  simp only [decR, pair_high, pair_flip, pair_pred, pred_high, pred_low, and_self, if_true]

theorem pany : ∀ d t a, Statement (.pany d t a) := by
  rintro d t a w ⟨⟩
  refine viaR (by decide) (by decide) ?_
  simp only [decR, pair_high, pair_flip, pair_pred, pred_high, pred_low, and_self, if_true]

theorem pall : ∀ d t a, Statement (.pall d t a) := by
  rintro d t a w ⟨⟩
  refine viaR (by decide) (by decide) ?_
  simp only [decR, pair_high, pair_flip, pair_pred, pred_high, pred_low, and_self, if_true]

theorem pcnt : ∀ d t a, Statement (.pcnt d t a) := by
  rintro d t a w ⟨⟩
  refine viaR (by decide) (by decide) ?_
  simp only [decR, pair_high, pair_flip, pair_pred, and_self, if_true]

theorem pmask : ∀ d t a, Statement (.pmask d t a) := by
  rintro d t a w ⟨⟩
  refine viaR (by decide) (by decide) ?_
  simp only [decR, pair_high, pair_flip, pair_pred, and_self, if_true]

theorem pfrom : ∀ d a, Statement (.pfrom d a) := by
  rintro d a w ⟨⟩
  refine viaR (by decide) (by decide) ?_
  simp only [decR, pred_high, pred_low, and_self, if_true]

theorem cmp : ∀ k d a b, Statement (.cmp k d a b) := by
  rintro k d a b w ⟨⟩
  refine viaR (by decide) (by decide) ?_
  simp only [decR, pred_high, pred_low, if_true]

theorem cmpi : ∀ k d a i, Statement (.cmpi k d a i) := by
  rintro k d a i w ⟨⟩
  refine viaI (by decide) ?_
  simp only [decI, cond_cond, cond_pred]

theorem form : ∀ d a, Statement (.form d a) := by
  rintro d a w ⟨⟩
  exact viaR (by decide) (by decide) rfl

theorem matl : ∀ d a, Statement (.matl d a) := by
  rintro d a w ⟨⟩
  exact viaR (by decide) (by decide) rfl

theorem pget : ∀ d a b, Statement (.pget d a b) := by
  rintro d a b w ⟨⟩
  exact viaR (by decide) (by decide) rfl

theorem pmake : ∀ k d a b, Statement (.pmake k d a b) := by
  rintro k d a b w ⟨⟩
  refine viaR (by decide) (by decide) ?_
  simp only [decR, kind_high, kind_kind, kind_pred, if_true]

theorem kill : ∀ m a b, Statement (.kill m a b) := by
  rintro m a b w ⟨⟩
  exact viaR (by decide) (by decide) rfl

theorem cutid : ∀ d, Statement (.cutid d) := by
  rintro d w ⟨⟩
  exact viaR (by decide) (by decide) rfl

theorem parid : ∀ d, Statement (.parid d) := by
  rintro d w ⟨⟩
  exact viaR (by decide) (by decide) rfl

theorem cutbox : ∀ d b, Statement (.cutbox d b) := by
  rintro d b w ⟨⟩
  exact viaR (by decide) (by decide) rfl

theorem add : ∀ d a b, Statement (.add d a b) := by
  rintro d a b w ⟨⟩
  exact viaR (by decide) (by decide) rfl

theorem sub : ∀ d a b, Statement (.sub d a b) := by
  rintro d a b w ⟨⟩
  exact viaR (by decide) (by decide) rfl

theorem and : ∀ d a b, Statement (.and d a b) := by
  rintro d a b w ⟨⟩
  exact viaR (by decide) (by decide) rfl

theorem or : ∀ d a b, Statement (.or d a b) := by
  rintro d a b w ⟨⟩
  exact viaR (by decide) (by decide) rfl

theorem xor : ∀ d a b, Statement (.xor d a b) := by
  rintro d a b w ⟨⟩
  exact viaR (by decide) (by decide) rfl

theorem andn : ∀ d a b, Statement (.andn d a b) := by
  rintro d a b w ⟨⟩
  exact viaR (by decide) (by decide) rfl

theorem shl : ∀ d a b, Statement (.shl d a b) := by
  rintro d a b w ⟨⟩
  exact viaR (by decide) (by decide) rfl

theorem shr : ∀ d a b, Statement (.shr d a b) := by
  rintro d a b w ⟨⟩
  exact viaR (by decide) (by decide) rfl

theorem sar : ∀ d a b, Statement (.sar d a b) := by
  rintro d a b w ⟨⟩
  exact viaR (by decide) (by decide) rfl

theorem rol : ∀ d a b, Statement (.rol d a b) := by
  rintro d a b w ⟨⟩
  exact viaR (by decide) (by decide) rfl

theorem min : ∀ d a b, Statement (.min d a b) := by
  rintro d a b w ⟨⟩
  exact viaR (by decide) (by decide) rfl

theorem max : ∀ d a b, Statement (.max d a b) := by
  rintro d a b w ⟨⟩
  exact viaR (by decide) (by decide) rfl

theorem minu : ∀ d a b, Statement (.minu d a b) := by
  rintro d a b w ⟨⟩
  exact viaR (by decide) (by decide) rfl

theorem maxu : ∀ d a b, Statement (.maxu d a b) := by
  rintro d a b w ⟨⟩
  exact viaR (by decide) (by decide) rfl

theorem absd : ∀ d a b, Statement (.absd d a b) := by
  rintro d a b w ⟨⟩
  exact viaR (by decide) (by decide) rfl

theorem neg : ∀ d a, Statement (.neg d a) := by
  rintro d a w ⟨⟩
  exact viaR (by decide) (by decide) rfl

theorem mul : ∀ d a b, Statement (.mul d a b) := by
  rintro d a b w ⟨⟩
  exact viaR (by decide) (by decide) rfl

theorem mulhi : ∀ d a b, Statement (.mulhi d a b) := by
  rintro d a b w ⟨⟩
  exact viaR (by decide) (by decide) rfl

theorem mulhiu : ∀ d a b, Statement (.mulhiu d a b) := by
  rintro d a b w ⟨⟩
  exact viaR (by decide) (by decide) rfl

theorem mulw : ∀ d a b, Statement (.mulw d a b) := by
  rintro d a b w ⟨⟩
  exact viaR (by decide) (by decide) rfl

theorem mulwu : ∀ d a b, Statement (.mulwu d a b) := by
  rintro d a b w ⟨⟩
  exact viaR (by decide) (by decide) rfl

theorem clz : ∀ d a, Statement (.clz d a) := by
  rintro d a w ⟨⟩
  exact viaR (by decide) (by decide) rfl

theorem ctz : ∀ d a, Statement (.ctz d a) := by
  rintro d a w ⟨⟩
  exact viaR (by decide) (by decide) rfl

theorem popc : ∀ d a, Statement (.popc d a) := by
  rintro d a w ⟨⟩
  exact viaR (by decide) (by decide) rfl

theorem brev : ∀ d a, Statement (.brev d a) := by
  rintro d a w ⟨⟩
  exact viaR (by decide) (by decide) rfl

theorem bswap : ∀ d a, Statement (.bswap d a) := by
  rintro d a w ⟨⟩
  exact viaR (by decide) (by decide) rfl

theorem bfe : ∀ d a b, Statement (.bfe d a b) := by
  rintro d a b w ⟨⟩
  exact viaR (by decide) (by decide) rfl

theorem bfeu : ∀ d a b, Statement (.bfeu d a b) := by
  rintro d a b w ⟨⟩
  exact viaR (by decide) (by decide) rfl

theorem bfi : ∀ d a b, Statement (.bfi d a b) := by
  rintro d a b w ⟨⟩
  exact viaR (by decide) (by decide) rfl

theorem addw : ∀ d a b, Statement (.addw d a b) := by
  rintro d a b w ⟨⟩
  exact viaR (by decide) (by decide) rfl

theorem addwu : ∀ d a b, Statement (.addwu d a b) := by
  rintro d a b w ⟨⟩
  exact viaR (by decide) (by decide) rfl

theorem subw : ∀ d a b, Statement (.subw d a b) := by
  rintro d a b w ⟨⟩
  exact viaR (by decide) (by decide) rfl

theorem accw : ∀ d a b, Statement (.accw d a b) := by
  rintro d a b w ⟨⟩
  exact viaR (by decide) (by decide) rfl

theorem accwu : ∀ d a b, Statement (.accwu d a b) := by
  rintro d a b w ⟨⟩
  exact viaR (by decide) (by decide) rfl

theorem satadd : ∀ d a b, Statement (.satadd d a b) := by
  rintro d a b w ⟨⟩
  exact viaR (by decide) (by decide) rfl

theorem satsub : ∀ d a b, Statement (.satsub d a b) := by
  rintro d a b w ⟨⟩
  exact viaR (by decide) (by decide) rfl

theorem narrow : ∀ d a, Statement (.narrow d a) := by
  rintro d a w ⟨⟩
  exact viaR (by decide) (by decide) rfl

theorem sext : ∀ d a, Statement (.sext d a) := by
  rintro d a w ⟨⟩
  exact viaR (by decide) (by decide) rfl

theorem zext : ∀ d a, Statement (.zext d a) := by
  rintro d a w ⟨⟩
  exact viaR (by decide) (by decide) rfl

theorem mov : ∀ d a, Statement (.mov d a) := by
  rintro d a w ⟨⟩
  exact viaR (by decide) (by decide) rfl

theorem sel : ∀ d a b, Statement (.sel d a b) := by
  rintro d a b w ⟨⟩
  exact viaR (by decide) (by decide) rfl

theorem addi : ∀ d a i, Statement (.addi d a i) := by
  rintro d a i w ⟨⟩
  exact viaI (by decide) rfl

theorem andi : ∀ d a i, Statement (.andi d a i) := by
  rintro d a i w ⟨⟩
  exact viaI (by decide) rfl

theorem ori : ∀ d a i, Statement (.ori d a i) := by
  rintro d a i w ⟨⟩
  exact viaI (by decide) rfl

theorem xori : ∀ d a i, Statement (.xori d a i) := by
  rintro d a i w ⟨⟩
  exact viaI (by decide) rfl

theorem shli : ∀ d a i, Statement (.shli d a i) := by
  rintro d a i w ⟨⟩
  exact viaI (by decide) rfl

theorem shri : ∀ d a i, Statement (.shri d a i) := by
  rintro d a i w ⟨⟩
  exact viaI (by decide) rfl

theorem sari : ∀ d a i, Statement (.sari d a i) := by
  rintro d a i w ⟨⟩
  exact viaI (by decide) rfl

theorem muli : ∀ d a i, Statement (.muli d a i) := by
  rintro d a i w ⟨⟩
  exact viaI (by decide) rfl

theorem movx : ∀ d i, Statement (.movx d i) := by
  rintro d i w ⟨⟩
  exact viaW (by decide) rfl

theorem movi : ∀ d i, Statement (.movi d i) := by
  rintro d i w ⟨⟩
  exact viaW (by decide) rfl

theorem div : ∀ l d a b, Statement (.div l d a b) := by
  rintro l d a b w ⟨⟩
  exact viaR (by decide) (by decide) rfl

theorem divu : ∀ l d a b, Statement (.divu l d a b) := by
  rintro l d a b w ⟨⟩
  exact viaR (by decide) (by decide) rfl

theorem fadd : ∀ d a b, Statement (.fadd d a b) := by
  rintro d a b w ⟨⟩
  exact viaR (by decide) (by decide) rfl

theorem fsub : ∀ d a b, Statement (.fsub d a b) := by
  rintro d a b w ⟨⟩
  exact viaR (by decide) (by decide) rfl

theorem fmul : ∀ d a b, Statement (.fmul d a b) := by
  rintro d a b w ⟨⟩
  exact viaR (by decide) (by decide) rfl

theorem fmin : ∀ d a b, Statement (.fmin d a b) := by
  rintro d a b w ⟨⟩
  exact viaR (by decide) (by decide) rfl

theorem fmax : ∀ d a b, Statement (.fmax d a b) := by
  rintro d a b w ⟨⟩
  exact viaR (by decide) (by decide) rfl

theorem fminn : ∀ d a b, Statement (.fminn d a b) := by
  rintro d a b w ⟨⟩
  exact viaR (by decide) (by decide) rfl

theorem fmaxn : ∀ d a b, Statement (.fmaxn d a b) := by
  rintro d a b w ⟨⟩
  exact viaR (by decide) (by decide) rfl

theorem fabs : ∀ d a, Statement (.fabs d a) := by
  rintro d a w ⟨⟩
  exact viaR (by decide) (by decide) rfl

theorem fneg : ∀ d a, Statement (.fneg d a) := by
  rintro d a w ⟨⟩
  exact viaR (by decide) (by decide) rfl

theorem fcpsgn : ∀ d a b, Statement (.fcpsgn d a b) := by
  rintro d a b w ⟨⟩
  exact viaR (by decide) (by decide) rfl

theorem fclass : ∀ d a, Statement (.fclass d a) := by
  rintro d a w ⟨⟩
  exact viaR (by decide) (by decide) rfl

theorem frnd : ∀ d a, Statement (.frnd d a) := by
  rintro d a w ⟨⟩
  exact viaR (by decide) (by decide) rfl

theorem ffrac : ∀ d a, Statement (.ffrac d a) := by
  rintro d a w ⟨⟩
  exact viaR (by decide) (by decide) rfl

theorem fscale : ∀ d a b, Statement (.fscale d a b) := by
  rintro d a b w ⟨⟩
  exact viaR (by decide) (by decide) rfl

theorem fexpo : ∀ d a, Statement (.fexpo d a) := by
  rintro d a w ⟨⟩
  exact viaR (by decide) (by decide) rfl

theorem twosum : ∀ d a b, Statement (.twosum d a b) := by
  rintro d a b w ⟨⟩
  exact viaR (by decide) (by decide) rfl

theorem fcvt : ∀ t d a, Statement (.fcvt t d a) := by
  rintro t d a w ⟨⟩
  exact viaR (by decide) (by decide) rfl

theorem f2i : ∀ d a, Statement (.f2i d a) := by
  rintro d a w ⟨⟩
  exact viaR (by decide) (by decide) rfl

theorem f2u : ∀ d a, Statement (.f2u d a) := by
  rintro d a w ⟨⟩
  exact viaR (by decide) (by decide) rfl

theorem i2f : ∀ d a, Statement (.i2f d a) := by
  rintro d a w ⟨⟩
  exact viaR (by decide) (by decide) rfl

theorem u2f : ∀ d a, Statement (.u2f d a) := by
  rintro d a w ⟨⟩
  exact viaR (by decide) (by decide) rfl

theorem frcp : ∀ l d a, Statement (.frcp l d a) := by
  rintro l d a w ⟨⟩
  exact viaR (by decide) (by decide) rfl

theorem frsq : ∀ l d a, Statement (.frsq l d a) := by
  rintro l d a w ⟨⟩
  exact viaR (by decide) (by decide) rfl

theorem fsqrt : ∀ l d a, Statement (.fsqrt l d a) := by
  rintro l d a w ⟨⟩
  exact viaR (by decide) (by decide) rfl

theorem fexp2 : ∀ l d a, Statement (.fexp2 l d a) := by
  rintro l d a w ⟨⟩
  exact viaR (by decide) (by decide) rfl

theorem flog2 : ∀ l d a, Statement (.flog2 l d a) := by
  rintro l d a w ⟨⟩
  exact viaR (by decide) (by decide) rfl

theorem fsin : ∀ l d a, Statement (.fsin l d a) := by
  rintro l d a w ⟨⟩
  exact viaR (by decide) (by decide) rfl

theorem fcos : ∀ l d a, Statement (.fcos l d a) := by
  rintro l d a w ⟨⟩
  exact viaR (by decide) (by decide) rfl

theorem fdiv : ∀ l d a b, Statement (.fdiv l d a b) := by
  rintro l d a b w ⟨⟩
  exact viaR (by decide) (by decide) rfl

theorem shfl : ∀ d a b, Statement (.shfl d a b) := by
  rintro d a b w ⟨⟩
  exact viaR (by decide) (by decide) rfl

theorem shflx : ∀ d a b, Statement (.shflx d a b) := by
  rintro d a b w ⟨⟩
  exact viaR (by decide) (by decide) rfl

theorem shflu : ∀ d a b, Statement (.shflu d a b) := by
  rintro d a b w ⟨⟩
  exact viaR (by decide) (by decide) rfl

theorem shfld : ∀ d a b, Statement (.shfld d a b) := by
  rintro d a b w ⟨⟩
  exact viaR (by decide) (by decide) rfl

theorem bcast : ∀ d a b, Statement (.bcast d a b) := by
  rintro d a b w ⟨⟩
  exact viaR (by decide) (by decide) rfl

theorem vote : ∀ d a, Statement (.vote d a) := by
  rintro d a w ⟨⟩
  exact viaR (by decide) (by decide) rfl

theorem compact : ∀ d a, Statement (.compact d a) := by
  rintro d a w ⟨⟩
  exact viaR (by decide) (by decide) rfl

theorem lidx : ∀ d, Statement (.lidx d) := by
  rintro d w ⟨⟩
  exact viaR (by decide) (by decide) rfl

theorem red : ∀ l d a b, Statement (.red l d a b) := by
  rintro l d a b w ⟨⟩
  exact viaR (by decide) (by decide) rfl

theorem scan : ∀ l d a b, Statement (.scan l d a b) := by
  rintro l d a b w ⟨⟩
  exact viaR (by decide) (by decide) rfl

theorem dp4 : ∀ d a b, Statement (.dp4 d a b) := by
  rintro d a b w ⟨⟩
  exact viaR (by decide) (by decide) rfl

theorem dp4u : ∀ d a b, Statement (.dp4u d a b) := by
  rintro d a b w ⟨⟩
  exact viaR (by decide) (by decide) rfl

theorem dp2 : ∀ d a b, Statement (.dp2 d a b) := by
  rintro d a b w ⟨⟩
  exact viaR (by decide) (by decide) rfl

theorem ld : ∀ l d a b, Statement (.ld l d a b) := by
  rintro l d a b w ⟨⟩
  exact viaR (by decide) (by decide) rfl

theorem st : ∀ d a b, Statement (.st d a b) := by
  rintro d a b w ⟨⟩
  exact viaR (by decide) (by decide) rfl

theorem ldb : ∀ l d a b, Statement (.ldb l d a b) := by
  rintro l d a b w ⟨⟩
  exact viaR (by decide) (by decide) rfl

theorem lda : ∀ l d a b, Statement (.lda l d a b) := by
  rintro l d a b w ⟨⟩
  exact viaR (by decide) (by decide) rfl

theorem stl : ∀ d a b, Statement (.stl d a b) := by
  rintro d a b w ⟨⟩
  exact viaR (by decide) (by decide) rfl

theorem ldt : ∀ l d a b, Statement (.ldt l d a b) := by
  rintro l d a b w ⟨⟩
  exact viaR (by decide) (by decide) rfl

theorem lds : ∀ l d a b, Statement (.lds l d a b) := by
  rintro l d a b w ⟨⟩
  exact viaR (by decide) (by decide) rfl

theorem sts : ∀ d a b, Statement (.sts d a b) := by
  rintro d a b w ⟨⟩
  exact viaR (by decide) (by decide) rfl

theorem atom : ∀ l d a b, Statement (.atom l d a b) := by
  rintro l d a b w ⟨⟩
  exact viaR (by decide) (by decide) rfl

theorem ared : ∀ a b, Statement (.ared a b) := by
  rintro a b w ⟨⟩
  exact viaR (by decide) (by decide) rfl

theorem pgreq : ∀ l d a, Statement (.pgreq l d a) := by
  rintro l d a w ⟨⟩
  exact viaR (by decide) (by decide) rfl

theorem pgwait : ∀ d a, Statement (.pgwait d a) := by
  rintro d a w ⟨⟩
  exact viaR (by decide) (by decide) rfl

theorem pgtest : ∀ d a, Statement (.pgtest d a) := by
  rintro d a w ⟨⟩
  exact viaR (by decide) (by decide) rfl

theorem pref : ∀ a b, Statement (.pref a b) := by
  rintro a b w ⟨⟩
  exact viaR (by decide) (by decide) rfl

theorem salloc : ∀ d a b, Statement (.salloc d a b) := by
  rintro d a b w ⟨⟩
  exact viaR (by decide) (by decide) rfl

theorem sfree : ∀ a b, Statement (.sfree a b) := by
  rintro a b w ⟨⟩
  exact viaR (by decide) (by decide) rfl

theorem spin : ∀ d a b, Statement (.spin d a b) := by
  rintro d a b w ⟨⟩
  exact viaR (by decide) (by decide) rfl

theorem sunpin : ∀ a b, Statement (.sunpin a b) := by
  rintro a b w ⟨⟩
  exact viaR (by decide) (by decide) rfl

theorem spgq : ∀ d a b, Statement (.spgq d a b) := by
  rintro d a b w ⟨⟩
  exact viaR (by decide) (by decide) rfl

theorem ldm : ∀ l d a b, Statement (.ldm l d a b) := by
  rintro l d a b w ⟨⟩
  exact viaR (by decide) (by decide) rfl

theorem stm : ∀ d a b, Statement (.stm d a b) := by
  rintro d a b w ⟨⟩
  exact viaR (by decide) (by decide) rfl

theorem fence : ∀ e f k d, Statement (.fence e f k d) := by
  rintro e f k d w ⟨⟩
  refine viaR (by decide) (by decide) ?_
  simp only [decR, fence_first, fence_second, fence_kind, and_self, if_true]

theorem fwait : ∀ a, Statement (.fwait a) := by
  rintro a w ⟨⟩
  exact viaR (by decide) (by decide) rfl

theorem ftest : ∀ d a, Statement (.ftest d a) := by
  rintro d a w ⟨⟩
  exact viaR (by decide) (by decide) rfl

theorem bar : ∀ a, Statement (.bar a) := by
  rintro a w ⟨⟩
  exact viaR (by decide) (by decide) rfl

theorem bara : ∀ d a, Statement (.bara d a) := by
  rintro d a w ⟨⟩
  exact viaR (by decide) (by decide) rfl

theorem barw : ∀ a, Statement (.barw a) := by
  rintro a w ⟨⟩
  exact viaR (by decide) (by decide) rfl

theorem cnew : ∀ d a, Statement (.cnew d a) := by
  rintro d a w ⟨⟩
  exact viaR (by decide) (by decide) rfl

theorem cjoin : ∀ d a, Statement (.cjoin d a) := by
  rintro d a w ⟨⟩
  exact viaR (by decide) (by decide) rfl

theorem cleave : Statement .cleave := by
  rintro w ⟨⟩
  exact viaR (by decide) (by decide) rfl

theorem csize : ∀ d, Statement (.csize d) := by
  rintro d w ⟨⟩
  exact viaR (by decide) (by decide) rfl

theorem crank : ∀ d, Statement (.crank d) := by
  rintro d w ⟨⟩
  exact viaR (by decide) (by decide) rfl

theorem role : ∀ a, Statement (.role a) := by
  rintro a w ⟨⟩
  exact viaR (by decide) (by decide) rfl

theorem qbind : ∀ d a b, Statement (.qbind d a b) := by
  rintro d a b w ⟨⟩
  exact viaR (by decide) (by decide) rfl

theorem qunbind : ∀ d, Statement (.qunbind d) := by
  rintro d w ⟨⟩
  exact viaR (by decide) (by decide) rfl

theorem qcnt : ∀ d a, Statement (.qcnt d a) := by
  rintro d a w ⟨⟩
  exact viaR (by decide) (by decide) rfl

theorem qclose : ∀ d, Statement (.qclose d) := by
  rintro d w ⟨⟩
  exact viaR (by decide) (by decide) rfl

theorem sbind : ∀ d a, Statement (.sbind d a) := by
  rintro d a w ⟨⟩
  exact viaR (by decide) (by decide) rfl

theorem srel : ∀ d a, Statement (.srel d a) := by
  rintro d a w ⟨⟩
  exact viaR (by decide) (by decide) rfl

theorem scnt : ∀ d a, Statement (.scnt d a) := by
  rintro d a w ⟨⟩
  exact viaR (by decide) (by decide) rfl

theorem cpy : ∀ l a, Statement (.cpy l a) := by
  rintro l a w ⟨⟩
  exact viaR (by decide) (by decide) rfl

theorem cpyt : ∀ l a, Statement (.cpyt l a) := by
  rintro l a w ⟨⟩
  exact viaR (by decide) (by decide) rfl

theorem cpym : ∀ l a m, Statement (.cpym l a m) := by
  rintro l a m w ⟨⟩
  exact viaC (by decide) rfl

theorem cwait : ∀ l d a b, Statement (.cwait l d a b) := by
  rintro l d a b w ⟨⟩
  exact viaR (by decide) (by decide) rfl

theorem cadd : ∀ a b, Statement (.cadd a b) := by
  rintro a b w ⟨⟩
  exact viaR (by decide) (by decide) rfl

theorem evwait : ∀ d, Statement (.evwait d) := by
  rintro d w ⟨⟩
  exact viaR (by decide) (by decide) rfl

theorem evpeek : ∀ d, Statement (.evpeek d) := by
  rintro d w ⟨⟩
  exact viaR (by decide) (by decide) rfl

theorem coll : ∀ l d a b, Statement (.coll l d a b) := by
  rintro l d a b w ⟨⟩
  exact viaR (by decide) (by decide) rfl

theorem cstat : ∀ d a b, Statement (.cstat d a b) := by
  rintro d a b w ⟨⟩
  exact viaR (by decide) (by decide) rfl

theorem cabort : ∀ a, Statement (.cabort a) := by
  rintro a w ⟨⟩
  exact viaR (by decide) (by decide) rfl

theorem launch : ∀ l d a b, Statement (.launch l d a b) := by
  rintro l d a b w ⟨⟩
  exact viaR (by decide) (by decide) rfl

theorem mld : ∀ d a b, Statement (.mld d a b) := by
  rintro d a b w ⟨⟩
  exact viaR (by decide) (by decide) rfl

theorem mwb : ∀ a b, Statement (.mwb a b) := by
  rintro a b w ⟨⟩
  exact viaR (by decide) (by decide) rfl

theorem mma : ∀ d a b, Statement (.mma d a b) := by
  rintro d a b w ⟨⟩
  exact viaR (by decide) (by decide) rfl

theorem mmap : ∀ a m, Statement (.mmap a m) := by
  rintro a m w ⟨⟩
  exact viaC (by decide) rfl

theorem mzero : ∀ d, Statement (.mzero d) := by
  rintro d w ⟨⟩
  exact viaR (by decide) (by decide) rfl

theorem mdrn : ∀ d a b, Statement (.mdrn d a b) := by
  rintro d a b w ⟨⟩
  exact viaR (by decide) (by decide) rfl

theorem mstat : ∀ d a, Statement (.mstat d a) := by
  rintro d a w ⟨⟩
  exact viaR (by decide) (by decide) rfl

theorem mtest : ∀ d, Statement (.mtest d) := by
  rintro d w ⟨⟩
  exact viaR (by decide) (by decide) rfl

theorem mfenced : ∀ d, Statement (.mfenced d) := by
  rintro d w ⟨⟩
  exact viaR (by decide) (by decide) rfl

theorem thmake : ∀ d a b, Statement (.thmake d a b) := by
  rintro d a b w ⟨⟩
  exact viaR (by decide) (by decide) rfl

theorem thoff : ∀ d a, Statement (.thoff d a) := by
  rintro d a w ⟨⟩
  exact viaR (by decide) (by decide) rfl

theorem thshape : ∀ d a, Statement (.thshape d a) := by
  rintro d a w ⟨⟩
  exact viaR (by decide) (by decide) rfl

theorem msect : ∀ w a, Statement (.msect w a) := by
  rintro w a w ⟨⟩
  exact viaR (by decide) (by decide) rfl

theorem mcommit : ∀ l d, Statement (.mcommit l d) := by
  rintro l d w ⟨⟩
  exact viaR (by decide) (by decide) rfl

theorem msend : ∀ l a m, Statement (.msend l a m) := by
  rintro l a m w ⟨⟩
  exact viaC (by decide) rfl

theorem mrcnt : ∀ d, Statement (.mrcnt d) := by
  rintro d w ⟨⟩
  exact viaR (by decide) (by decide) rfl

theorem msig : ∀ d a b, Statement (.msig d a b) := by
  rintro d a b w ⟨⟩
  exact viaR (by decide) (by decide) rfl

theorem mstate : ∀ d, Statement (.mstate d) := by
  rintro d w ⟨⟩
  exact viaR (by decide) (by decide) rfl

theorem mesc : ∀ d a, Statement (.mesc d a) := by
  rintro d a w ⟨⟩
  exact viaR (by decide) (by decide) rfl

theorem csrr : ∀ d i, Statement (.csrr d i) := by
  rintro d i w ⟨⟩
  exact viaI (by decide) rfl

theorem csrw : ∀ a i, Statement (.csrw a i) := by
  rintro a i w ⟨⟩
  exact viaI (by decide) rfl

theorem tret : Statement .tret := by
  rintro w ⟨⟩
  exact viaR (by decide) (by decide) rfl

theorem flags : ∀ d a, Statement (.flags d a) := by
  rintro d a w ⟨⟩
  exact viaR (by decide) (by decide) rfl

theorem flagc : ∀ d a, Statement (.flagc d a) := by
  rintro d a w ⟨⟩
  exact viaR (by decide) (by decide) rfl

theorem tlbinv : ∀ a b, Statement (.tlbinv a b) := by
  rintro a b w ⟨⟩
  exact viaR (by decide) (by decide) rfl

theorem scrinv : ∀ a b, Statement (.scrinv a b) := by
  rintro a b w ⟨⟩
  exact viaR (by decide) (by decide) rfl

theorem clock : ∀ d, Statement (.clock d) := by
  rintro d w ⟨⟩
  exact viaR (by decide) (by decide) rfl

theorem perf : ∀ d a, Statement (.perf d a) := by
  rintro d a w ⟨⟩
  exact viaR (by decide) (by decide) rfl

theorem fma : ∀ d a b c, Statement (.fma d a b c) := by
  rintro d a b c w ⟨⟩
  exact viaQ rfl

theorem fnma : ∀ d a b c, Statement (.fnma d a b c) := by
  rintro d a b c w ⟨⟩
  exact viaQ rfl

theorem madw : ∀ d a b c, Statement (.madw d a b c) := by
  rintro d a b c w ⟨⟩
  exact viaQ rfl

theorem madl : ∀ d a b c, Statement (.madl d a b c) := by
  rintro d a b c w ⟨⟩
  exact viaQ rfl

theorem cutQueueIssue : ∀ x0 x1, Statement (.cutQueueIssue x0 x1) := by
  intros; exact fun _ h => nomatch h

theorem rejoin : ∀ x0, Statement (.rejoin x0) := by
  intros; exact fun _ h => nomatch h

theorem seamWaitLimit : ∀ x0 x1, Statement (.seamWaitLimit x0 x1) := by
  intros; exact fun _ h => nomatch h

theorem seamWaitEnd : ∀ x0 x1, Statement (.seamWaitEnd x0 x1) := by
  intros; exact fun _ h => nomatch h

theorem yieldExpiry : ∀ x0, Statement (.yieldExpiry x0) := by
  intros; exact fun _ h => nomatch h

theorem quantumEnd : ∀ x0, Statement (.quantumEnd x0) := by
  intros; exact fun _ h => nomatch h

theorem trapEntry : ∀ x0, Statement (.trapEntry x0) := by
  intros; exact fun _ h => nomatch h

theorem homeWrite : ∀ x0, Statement (.homeWrite x0) := by
  intros; exact fun _ h => nomatch h

theorem lateStoreFault : ∀ x0, Statement (.lateStoreFault x0) := by
  intros; exact fun _ h => nomatch h

theorem pageIn : ∀ x0, Statement (.pageIn x0) := by
  intros; exact fun _ h => nomatch h

theorem crewMove : ∀ x0 x1, Statement (.crewMove x0 x1) := by
  intros; exact fun _ h => nomatch h

theorem scratchWriteDelivery : ∀ x0, Statement (.scratchWriteDelivery x0) := by
  intros; exact fun _ h => nomatch h

theorem jobStart : ∀ x0, Statement (.jobStart x0) := by
  intros; exact fun _ h => nomatch h

theorem jobCompletion : ∀ x0, Statement (.jobCompletion x0) := by
  intros; exact fun _ h => nomatch h

theorem eventPost : ∀ x0, Statement (.eventPost x0) := by
  intros; exact fun _ h => nomatch h

theorem jobFailure : ∀ x0, Statement (.jobFailure x0) := by
  intros; exact fun _ h => nomatch h

theorem pageWaitLimit : ∀ x0, Statement (.pageWaitLimit x0) := by
  intros; exact fun _ h => nomatch h

theorem loomStep : ∀ x0, Statement (.loomStep x0) := by
  intros; exact fun _ h => nomatch h

theorem loomDrain : ∀ x0, Statement (.loomDrain x0) := by
  intros; exact fun _ h => nomatch h

theorem selfTest : ∀ x0 x1 x2, Statement (.selfTest x0 x1 x2) := by
  intros; exact fun _ h => nomatch h

theorem millCutStart : ∀ x0, Statement (.millCutStart x0) := by
  intros; exact fun _ h => nomatch h

theorem assayCommit : ∀ x0, Statement (.assayCommit x0) := by
  intros; exact fun _ h => nomatch h

theorem flushedAttemptStart : ∀ x0, Statement (.flushedAttemptStart x0) := by
  intros; exact fun _ h => nomatch h

theorem flushedLimit : ∀ x0, Statement (.flushedLimit x0) := by
  intros; exact fun _ h => nomatch h

theorem returnedCutResume : ∀ x0, Statement (.returnedCutResume x0) := by
  intros; exact fun _ h => nomatch h

theorem refreshStart : ∀ x0, Statement (.refreshStart x0) := by
  intros; exact fun _ h => nomatch h

theorem refreshEnd : ∀ x0, Statement (.refreshEnd x0) := by
  intros; exact fun _ h => nomatch h

theorem chunkArrival : ∀ x0 x1 x2 x3 x4, Statement (.chunkArrival x0 x1 x2 x3 x4) := by
  intros; exact fun _ h => nomatch h

theorem controlFlit : ∀ x0 x1 x2 x3, Statement (.controlFlit x0 x1 x2 x3) := by
  intros; exact fun _ h => nomatch h

theorem completionNotice : ∀ x0 x1, Statement (.completionNotice x0 x1) := by
  intros; exact fun _ h => nomatch h

theorem collectiveDeadline : ∀ x0 x1, Statement (.collectiveDeadline x0 x1) := by
  intros; exact fun _ h => nomatch h

theorem abortReport : ∀ x0 x1 x2 x3 x4, Statement (.abortReport x0 x1 x2 x3 x4) := by
  intros; exact fun _ h => nomatch h

theorem arbiterWord : ∀ x0 x1 x2, Statement (.arbiterWord x0 x1 x2) := by
  intros; exact fun _ h => nomatch h

theorem agreementWindowExpiry : ∀ x0 x1, Statement (.agreementWindowExpiry x0 x1) := by
  intros; exact fun _ h => nomatch h

theorem isolatedEnding : ∀ x0 x1, Statement (.isolatedEnding x0 x1) := by
  intros; exact fun _ h => nomatch h

theorem remoteRequest : ∀ x0 x1 x2 x3 x4 x5 x6, Statement (.remoteRequest x0 x1 x2 x3 x4 x5 x6) := by
  intros; exact fun _ h => nomatch h

theorem remoteReply : ∀ x0 x1 x2, Statement (.remoteReply x0 x1 x2) := by
  intros; exact fun _ h => nomatch h

theorem remoteDeadline : ∀ x0, Statement (.remoteDeadline x0) := by
  intros; exact fun _ h => nomatch h

theorem linkDown : ∀ x0, Statement (.linkDown x0) := by
  intros; exact fun _ h => nomatch h

theorem retrain : ∀ x0 x1, Statement (.retrain x0 x1) := by
  intros; exact fun _ h => nomatch h

theorem hostWrite : ∀ x0 x1 x2, Statement (.hostWrite x0 x1 x2) := by
  intros; exact fun _ h => nomatch h

theorem hostRead : ∀ x0 x1 x2, Statement (.hostRead x0 x1 x2) := by
  intros; exact fun _ h => nomatch h

theorem deviceReset : Statement .deviceReset := fun _ h => nomatch h

theorem qtailWrite : ∀ x0 x1, Statement (.qtailWrite x0 x1) := by
  intros; exact fun _ h => nomatch h

theorem entryTake : ∀ x0, Statement (.entryTake x0) := by
  intros; exact fun _ h => nomatch h

theorem admission : ∀ x0, Statement (.admission x0) := by
  intros; exact fun _ h => nomatch h

theorem admissionWaitLimit : ∀ x0, Statement (.admissionWaitLimit x0) := by
  intros; exact fun _ h => nomatch h

theorem preMigration : ∀ x0 x1 x2 x3, Statement (.preMigration x0 x1 x2 x3) := by
  intros; exact fun _ h => nomatch h

theorem dispatch : ∀ x0, Statement (.dispatch x0) := by
  intros; exact fun _ h => nomatch h

theorem launchCompletion : ∀ x0, Statement (.launchCompletion x0) := by
  intros; exact fun _ h => nomatch h

theorem sliceEnd : ∀ x0, Statement (.sliceEnd x0) := by
  intros; exact fun _ h => nomatch h

theorem drainDeadline : ∀ x0, Statement (.drainDeadline x0) := by
  intros; exact fun _ h => nomatch h

theorem preemptionDeadline : ∀ x0, Statement (.preemptionDeadline x0) := by
  intros; exact fun _ h => nomatch h

theorem preemptionReport : ∀ x0, Statement (.preemptionReport x0) := by
  intros; exact fun _ h => nomatch h

theorem cutResume : ∀ x0 x1 x2, Statement (.cutResume x0 x1 x2) := by
  intros; exact fun _ h => nomatch h

theorem contextReload : ∀ x0, Statement (.contextReload x0) := by
  intros; exact fun _ h => nomatch h

theorem forcedContextReset : ∀ x0, Statement (.forcedContextReset x0) := by
  intros; exact fun _ h => nomatch h

theorem create : ∀ x0, Statement (.create x0) := by
  intros; exact fun _ h => nomatch h

theorem reForm : ∀ x0, Statement (.reForm x0) := by
  intros; exact fun _ h => nomatch h

theorem destroy : ∀ x0, Statement (.destroy x0) := by
  intros; exact fun _ h => nomatch h

theorem replayAll : ∀ x0, Statement (.replayAll x0) := by
  intros; exact fun _ h => nomatch h

theorem ownershipReload : Statement .ownershipReload := fun _ h => nomatch h

theorem checkpointSave : Statement .checkpointSave := fun _ h => nomatch h

theorem checkpointAbort : Statement .checkpointAbort := fun _ h => nomatch h

theorem checkpointRestore : Statement .checkpointRestore := fun _ h => nomatch h

theorem checkpointDone : Statement .checkpointDone := fun _ h => nomatch h

theorem halt : ∀ x0, Statement (.halt x0) := by
  intros; exact fun _ h => nomatch h

theorem resume : ∀ x0, Statement (.resume x0) := by
  intros; exact fun _ h => nomatch h

theorem debugStop : ∀ x0 x1, Statement (.debugStop x0 x1) := by
  intros; exact fun _ h => nomatch h

theorem dump : ∀ x0, Statement (.dump x0) := by
  intros; exact fun _ h => nomatch h

theorem sample : ∀ x0 x1, Statement (.sample x0 x1) := by
  intros; exact fun _ h => nomatch h

theorem fwbaseWrite : ∀ x0 x1 x2, Statement (.fwbaseWrite x0 x1 x2) := by
  intros; exact fun _ h => nomatch h

theorem fwctlWrite : ∀ x0 x1 x2, Statement (.fwctlWrite x0 x1 x2) := by
  intros; exact fun _ h => nomatch h

theorem pmapWrite : ∀ x0 x1, Statement (.pmapWrite x0 x1) := by
  intros; exact fun _ h => nomatch h

theorem sdropWrite : ∀ x0 x1, Statement (.sdropWrite x0 x1) := by
  intros; exact fun _ h => nomatch h

theorem qstatWrite : ∀ x0 x1, Statement (.qstatWrite x0 x1) := by
  intros; exact fun _ h => nomatch h

theorem msumWrite : ∀ x0 x1, Statement (.msumWrite x0 x1) := by
  intros; exact fun _ h => nomatch h

theorem mderrWrite : ∀ x0 x1 x2, Statement (.mderrWrite x0 x1 x2) := by
  intros; exact fun _ h => nomatch h

theorem brerrWrite : ∀ x0 x1, Statement (.brerrWrite x0 x1) := by
  intros; exact fun _ h => nomatch h

theorem memerrWrite : ∀ x0 x1, Statement (.memerrWrite x0 x1) := by
  intros; exact fun _ h => nomatch h

theorem memaddrWrite : ∀ x0 x1, Statement (.memaddrWrite x0 x1) := by
  intros; exact fun _ h => nomatch h

theorem lhealthWrite : ∀ x0 x1, Statement (.lhealthWrite x0 x1) := by
  intros; exact fun _ h => nomatch h

theorem lkstatWrite : ∀ x0 x1, Statement (.lkstatWrite x0 x1) := by
  intros; exact fun _ h => nomatch h

theorem prstatWrite : ∀ x0 x1, Statement (.prstatWrite x0 x1) := by
  intros; exact fun _ h => nomatch h

theorem walkerrWrite : ∀ x0, Statement (.walkerrWrite x0) := by
  intros; exact fun _ h => nomatch h

theorem smpheadWrite : ∀ x0, Statement (.smpheadWrite x0) := by
  intros; exact fun _ h => nomatch h

theorem eligWrite : ∀ x0 x1 x2 x3, Statement (.eligWrite x0 x1 x2 x3) := by
  intros; exact fun _ h => nomatch h

theorem stallWrite : ∀ x0 x1 x2 x3, Statement (.stallWrite x0 x1 x2 x3) := by
  intros; exact fun _ h => nomatch h

theorem registerWrite : ∀ x0 x1, Statement (.registerWrite x0 x1) := by
  intros; exact fun _ h => nomatch h

theorem illegalInstruction : ∀ x0, Statement (.illegalInstruction x0) := by
  intros; exact fun _ h => nomatch h

theorem resultArrival : ∀ x0 x1, Statement (.resultArrival x0 x1) := by
  intros; exact fun _ h => nomatch h

theorem schedulerCycle : Statement .schedulerCycle := fun _ h => nomatch h

theorem flitResend : ∀ x0 x1, Statement (.flitResend x0 x1) := by
  intros; exact fun _ h => nomatch h

theorem ucieModuleRetirement : ∀ x0, Statement (.ucieModuleRetirement x0) := by
  intros; exact fun _ h => nomatch h

theorem completionRecordWaitLimit : ∀ x0, Statement (.completionRecordWaitLimit x0) := by
  intros; exact fun _ h => nomatch h

theorem communicatorCommandDone : Statement .communicatorCommandDone := fun _ h => nomatch h

theorem ownershipReloadDone : Statement .ownershipReloadDone := fun _ h => nomatch h

end Laws.RoundTrip

end Sys2Proof
end

