-- ==== Sys2Proof/Tests/Slice0.lean ====
section
/-! SUPPORT. Tests: words written out from the layouts of the spec, an ill-formed term for each check, small results worked by
hand from the spec's tables, and for every statement with hypotheses a state and operands that meet them. -/

namespace Sys2Proof.Tests

open Sys2Proof Sys2Proof.Machine

set_option maxRecDepth 100000
set_option exponentiation.threshold 1024

/-! ## Small states -/

def items32 : List Item := (List.range 32).map fun i => ⟨i, 0, 0⟩

/-- A lane cut of 32 items in its entry state, on quadrant 0 of Bench 0. -/
def lane : Cut := Cut.atEntry State.reset (placedLaunch 1) 1 .lane ⟨⟨0, 0, 0⟩, 32, 1, 1⟩ items32 (.quad 0 0)

/-- A pattern cut over the same box, on the Foreman of Bench 0. -/
def pattern : Cut := { lane with kind := .pattern, items := [], place := .foreman 0 }

/-- A cut with a MODE. -/
def under (m : Nat) (c : Cut) : Cut := { c with ctx := { c.ctx with mode := BitVec.ofNat 32 m } }

/-- MODE words with ET i32, i64, f32, ARED's i32 add and a guard of `p1`. -/
def i32 : Nat := 0x40
def i64 : Nat := 0x60
def f32 : Nat := 0xA0

/-- A cut with a value in a register. -/
def withV (n : Nat) (x : RegVal) (c : Cut) : Cut := { c with ctx := { c.ctx with v := c.ctx.v.set n x } }

/-- A cut whose predicate `p1` is a mask, and the guard. -/
def guarded (m : W32) (c : Cut) : Cut :=
  { c with ctx := { c.ctx with preds := c.ctx.preds.set 1 (.lanes m), mode := c.ctx.mode ||| 1 } }

/-- An object of data that may be read and written, its first page in the frame at 0x20000. -/
def dataObj : ObjEnt := ⟨2 ^ 40, 0, false, false, false, true, true, 0, 0, 0, 0⟩
def dataPtr : W64 := BitVec.ofNat 64 (2 ^ 45)

/-- The state in which a cut of launch 1 is executing, a page of code and one of data in the TLB of Bench 0, and the four quadrants of Bench 0 are of
partition 0. -/
def on (c : Cut) : State :=
  { State.reset with
    cur := 1, nextUid := 2, nextLid := 2, cuts := [c], launches := [placedLaunch 1], own := [0, 0, 0, 0]
    tlb := [⟨.bench 0, 0, 1, 0, placedCode, placedFrame, true⟩, ⟨.bench 0, 0, 2, 0, dataObj, 0x20000, true⟩] }

/-- A crew of one cut on Bench 0: a space of one page that is in, a chute of depth 2, and a stream. -/
def crew1 : Crew :=
  ⟨5, 1, 0, 0, false, 0, 64, false, [⟨.res, 0, 0, false, false, [], []⟩], List.replicate 8 ⟨0, [], [], []⟩, [⟨2, [], false⟩],
   List.replicate 16 ⟨0, [], 0, []⟩, [], []⟩

def member (c : Cut) : Cut := { c with crew := some 5 }

def onCrew (k : Crew) (c : Cut) : State := { on (member c) with crews := [k], nextId := 6 }

/-- A Mill cut of eight items on Mill 0. -/
def millCut : Cut :=
  { lane with mill := true, items := items32.take 8, box := ⟨⟨0, 0, 0⟩, 8, 1, 1⟩, place := .mill 0
              ctx := { lane.ctx with active := 0xFF } }

/-! ## Words written out from the layouts (R73, R85) -/

theorem test_decode_control : decodeWord (0x00#7 ++ 2#4 ++ 0#7 ++ 0#7 ++ 0#7) = some .exit
    ∧ decodeWord (0x02#7 ++ 0#7 ++ 0x2A#18) = some (.modei 0x2A) ∧ decodeWord (0x03#7 ++ (1#1 ++ 2#3) ++ 0x1FFFFF#21) = some (.br 1 2 0x1FFFFF)
    ∧ decodeWord (0x07#7 ++ 0x74#7 ++ 9#14 ++ 0#4) = some (.loop 0x74 9) ∧ decodeWord (0x08#7 ++ 0x7FF#11 ++ 1#14) = some (.loopi 0x7FF 1)
    ∧ decodeWord (0x0A#7 ++ 0#7 ++ 7#18) = some (.trap 7) := by decide

theorem test_decode_predicates : decodeWord (0x0B#7 ++ 0#4 ++ 1#7 ++ (0#3 ++ 1#1 ++ 2#3) ++ (0#3 ++ 0#1 ++ 3#3)) = some (.pand 1 1 2 0 3)
    ∧ decodeWord (0x0C#7 ++ 4#4 ++ 5#7 ++ 1#7 ++ 2#7) = some (.cmp 4 5 1 2) ∧ decodeWord (0x0D#7 ++ (2#4 ++ 6#3) ++ 1#7 ++ 0x7FF#11) = some (.cmpi 2 6 1 0x7FF)
    ∧ decodeWord (0x0B#7 ++ 0#4 ++ 8#7 ++ 2#7 ++ 3#7) = none := by decide

theorem test_decode_pattern : decodeWord (0x0E#7 ++ 2#4 ++ 1#7 ++ 2#7 ++ 0x74#7) = some (.pget 1 2 0x74)
    ∧ decodeWord (0x0E#7 ++ 3#4 ++ (0#2 ++ 3#2 ++ 5#3) ++ 1#7 ++ 2#7) = some (.pmake 3 5 1 2) := by decide

theorem test_decode_integer : decodeWord (0x10#7 ++ 8#4 ++ 1#7 ++ 2#7 ++ 3#7) = some (.sar 1 2 3)
    ∧ decodeWord (0x11#7 ++ 3#4 ++ 1#7 ++ 2#7 ++ 3#7) = some (.mulw 1 2 3) ∧ decodeWord (0x12#7 ++ 7#4 ++ 1#7 ++ 2#7 ++ 3#7) = some (.bfi 1 2 3)
    ∧ decodeWord (0x13#7 ++ 11#4 ++ 1#7 ++ 2#7 ++ 3#7) = some (.sel 1 2 3) ∧ decodeWord (0x1A#7 ++ 1#7 ++ 2#7 ++ 5#11) = some (.sari 1 2 5)
    ∧ decodeWord (0x1C#7 ++ 1#7 ++ 0x3FFFF#18) = some (.movx 1 0x3FFFF) ∧ decodeWord (0x1E#7 ++ 3#4 ++ 1#7 ++ 2#7 ++ 3#7) = some (.div 3 1 2 3)
    ∧ decodeWord (3#2 ++ 2#2 ++ 1#7 ++ 2#7 ++ 3#7 ++ 4#7) = some (.madw 1 2 3 4) ∧ decodeWord (0x10#7 ++ 15#4 ++ 1#7 ++ 2#7 ++ 3#7) = none := by decide

theorem test_decode_float : decodeWord (0x20#7 ++ 15#4 ++ 1#7 ++ 2#7 ++ 3#7) = some (.twosum 1 2 3)
    ∧ decodeWord (0x21#7 ++ 9#4 ++ 1#7 ++ 2#7 ++ 0#7) = some (.fcvt 9 1 2) ∧ decodeWord (0x24#7 ++ 2#4 ++ 1#7 ++ 2#7 ++ 0#7) = some (.frsq 2 1 2)
    ∧ decodeWord (3#2 ++ 1#2 ++ 1#7 ++ 2#7 ++ 3#7 ++ 4#7) = some (.fnma 1 2 3 4) := by decide

theorem test_decode_lanes : decodeWord (0x2B#7 ++ 6#4 ++ 1#7 ++ 2#7 ++ 0#7) = some (.compact 1 2)
    ∧ decodeWord (0x2D#7 ++ 1#4 ++ 1#7 ++ 2#7 ++ 0x78#7) = some (.scan 1 1 2 0x78) := by decide

theorem test_decode_memory : decodeWord (0x33#7 ++ 1#4 ++ 1#7 ++ 2#7 ++ 3#7) = some (.lda 1 1 2 3)
    ∧ decodeWord (0x31#7 ++ 0#4 ++ 1#7 ++ 2#7 ++ 3#7) = some (.st 1 2 3) ∧ decodeWord (0x38#7 ++ 2#4 ++ 1#7 ++ 2#7 ++ 3#7) = some (.atom 2 1 2 3)
    ∧ decodeWord (0x3D#7 ++ 4#4 ++ 1#7 ++ 0x4A#7 ++ 0x71#7) = some (.spgq 1 0x4A 0x71) ∧ decodeWord (0x31#7 ++ 1#4 ++ 1#7 ++ 2#7 ++ 3#7) = none := by decide

theorem test_decode_engines : decodeWord (0x40#7 ++ (1#1 ++ 0#1 ++ 2#2) ++ 1#7 ++ 0#7 ++ 0#7) = some (.fence 1 0 2 1)
    ∧ decodeWord (0x45#7 ++ 0#4 ++ 0x50#7 ++ 1#7 ++ 0x71#7) = some (.qbind 0x50 1 0x71) ∧ decodeWord (0x49#7 ++ 3#4 ++ 1#7 ++ 0x1E#14) = some (.cpym 3 1 0x1E)
    ∧ decodeWord (0x4D#7 ++ 0#4 ++ 1#7 ++ 2#7 ++ 3#7) = some (.coll 0 1 2 3) := by decide

theorem test_decode_loom_mill_system : decodeWord (0x53#7 ++ 0#4 ++ 1#7 ++ 0x1E#14) = some (.mmap 1 0x1E)
    ∧ decodeWord (0x55#7 ++ 0#4 ++ 0x70#7 ++ 1#7 ++ 0x73#7) = some (.mdrn 0x70 1 0x73) ∧ decodeWord (0x58#7 ++ 2#4 ++ 0#7 ++ 1#7 ++ 0#7) = some (.msect 2 1)
    ∧ decodeWord (0x5A#7 ++ 3#4 ++ 1#7 ++ 0x2010#14) = some (.msend 3 1 0x2010) ∧ decodeWord (0x5C#7 ++ 1#7 ++ 0#7 ++ 0x34#11) = some (.csrr 1 0x34)
    ∧ decodeWord (0x5D#7 ++ 0#7 ++ 1#7 ++ 0x11#11) = some (.csrw 1 0x11) ∧ decodeWord (0x5E#7 ++ 3#4 ++ 0#7 ++ 1#7 ++ 2#7) = some (.tlbinv 1 2) := by decide

/-- The bytes of a word stand little-endian (R2, R72), and the table's numbering lays them out alike. -/
theorem test_decode_bytes : decode [0x09, 0x84, 0x22, 0x3E, 0xFF] = .ok (.divu 1 0x0A 0x08 0x09, [0xFF]) ∧ decode [0, 0, 0] = .error .tooShort
    ∧ decode [0, 0, 0, 0x1E] = .error .unassigned ∧ decodeTableWord 32 0x3E228409 = some (.divu 1 0x0A 0x08 0x09) := by decide

/-! ## Ill-formed terms, one for each check (R74, R75, R84, R86; R5, R322) -/

theorem test_wellFormed : ([.add 1 2 3, .shli 1 2 63, .cpym 0 1 0x1E, .sliceEnd 39, .halt 3] : List Instr).all Instr.wellFormed = true := by decide

/-- A source 0x4F, a destination that may not be written, and each selector, count, immediate and coordinate out of its range. -/
theorem test_illFormed_words : ([.add 1 0x4F 3, .add 0x49 2 3, .loop 1 0, .loopi 1 0, .cmp 12 1 2 3, .cmpi 15 1 2 3, .pget 1 2 0x75, .kill 0 0x4A 0x4A,
    .kill 1 3 2, .kill 1 0x3F 0x40, .cutbox 1 0x78, .shli 1 2 64, .shri 1 2 64, .sari 1 2 64, .fcvt 7 1 2, .red 0 1 2 0x76, .scan 0 1 2 0x7E,
    .ldm 0 1 2 0x79, .ldm 0 0x3F 2 0x72, .stm 1 2 0x70, .spgq 1 2 0x74, .spgq 1 2 0x71] : List Instr).any Instr.wellFormed = false := by decide

theorem test_illFormed_engines : ([.fence 0 0 3 1, .bar 0x78, .bara 1 0x78, .qbind 1 2 0x70, .qbind 0x50 2 0x72, .qunbind 1, .qclose 1, .sbind 1 2,
    .srel 1 2, .qcnt 1 2, .scnt 1 2, .cpym 0 1 0, .cpym 0 1 0x1F, .cpym 0 1 0x201E, .cstat 1 2 0x72, .mld 0x74 1 2, .mma 0x74 1 2, .mzero 0x74,
    .mmap 0x3E 0x1E, .mmap 1 0, .mdrn 0x71 1 0x70, .mdrn 0x70 1 0x74, .mstat 1 0x74, .msect 3 1, .msend 0 1 0x1E, .msend 0 1 0x3800, .msig 1 0x74 0x70,
    .msig 1 0x70 0x78, .mesc 0x4A 0x73, .mesc 1 0x71, .csrr 1 3, .csrw 1 0x10] : List Instr).any Instr.wellFormed = false := by decide

theorem test_illFormed_events : ([.cutQueueIssue 256 0, .cutResume 1 0 4, .crewMove 1 256, .sdropWrite 256 0, .brerrWrite 256 0, .sample 0 5,
    .eligWrite 0 0 17 0, .stallWrite 0 0 16 0, .loomStep 1024, .loomDrain 1024, .selfTest 1024 0 0, .lhealthWrite 1024 0, .millCutStart 384,
    .refreshStart 384, .refreshEnd 384] : List Instr).any Instr.wellFormed = false
    ∧ ([.assayCommit 12, .flushedAttemptStart 12, .msumWrite 12 0, .memerrWrite 12 0, .memaddrWrite 12 0, .mderrWrite 0 4 0, .fwbaseWrite 0 16 0,
      .fwctlWrite 12 0 0, .linkDown 16, .retrain 16 true, .flitResend 16 true, .lkstatWrite 16 0, .ucieModuleRetirement 8] : List Instr).any Instr.wellFormed = false
    ∧ ([.halt 4, .resume 4, .debugStop 4 0, .dump 4, .sliceEnd 40, .drainDeadline 40, .preemptionDeadline 40, .preemptionReport 40, .replayAll 40,
      .pmapWrite 40 0, .prstatWrite 40 0, .qtailWrite 2048 0, .entryTake 2048, .admission 2048, .admissionWaitLimit 2048, .qstatWrite 2048 0]
        : List Instr).any Instr.wellFormed = false := by decide

/-! ## What meets the hypotheses of each statement -/

/-! ### Words, steps and checks -/

def fetching : State := State.reset.withFetchWord 32 0x20004103

theorem witness_StepRunsDecodedInstruction : fetching.agenda = [] ∧ fetching.issue = [1] ∧ (fetching.cutOf 1).isSome = true
    ∧ ∀ c, fetching.cutOf 1 = some c → c.mayIssue { fetching with issue := [] } = true ∧ c.breakpoint { fetching with issue := [] } = none
      ∧ c.fetch { fetching with issue := [] } = .word 0x20004103 ∧ decodeWord 0x20004103 = some (.add 1 2 3) := by
  refine ⟨by decide, by decide, by decide, ?_⟩
  intro c h
  cases h
  decide

/-- What the executing cut of a state waits for after an instruction that has only entered a wait. -/
def waitAfter (i : Instr) (c : Cut) : Option Wait := pureWait (on c) (exec i (on c))

theorem witness_StepRunsDecodedInstruction_waits : let t := ({ fetching with issue := [] } : State)
    (match fetching.cutOf 1 with | some c => pureWait (t.issues c 0x20004103) (exec (.add 1 2 3) (t.issues c 0x20004103)) | none => some .trap) = none
    ∧ waitAfter .exit { lane with outst := [Outst.of 9 4 0 (.value (uVal 7) none)] } = some .results := by decide

theorem witness_StepRunsDecodedInstruction_agenda :
    ({ State.reset with agenda := [.deviceReset] } : State).agenda = .deviceReset :: [] ∧ State.reset.leases = [] ∧ heldBehind State.reset .deviceReset = false
    ∧ heldBehind { State.reset with heldHost := [.memory 0 0 [1]] } (.pmapWrite 0 0) = true := by decide

theorem witness_SharedChecksDecide : State.reset.executing = none ∧ (encodeWord .nop).isSome = true ∧ (on lane).executing = some lane
    ∧ (gate (on lane) lane (.add 1 0x4F 3)).isSome = true ∧ lane.legal (.add 1 0x4F 3) (lane.usesOf (.add 1 0x4F 3)) = false
    ∧ (decodeWord 0x1E000000#32).any staticOk = false ∧ (decodeWord (0x10#7 ++ 0#4 ++ 1#7 ++ 0x4F#7 ++ 3#7)).any staticOk = false := by decide

/-! ### Operands and results -/

theorem witness_OperandSpecifiersRead : lane.mill = false ∧ 31 ∈ lane.positions ∧ 31 < lane.span ∧ millCut.mill = true := by decide

theorem witness_GovernedResult : ([1, 2] : List Opnd).any isQ = false ∧ lane.needsLanes lane.gov (uVal 5) = false
    ∧ pattern.needsLanes pattern.gov (uVal 5) = false ∧ lane.ctx.v.length = 64 ∧ lane.ctx.o.length = 8
    ∧ ([0, 0x3F, 0x40, 0x47, 0x48, 0x4A] : List Opnd).all (fun d => !isQ d && writable d) = true
    ∧ (guarded 0x0F lane).guard 3 = true ∧ (guarded 0x0F lane).guard 4 = false ∧ 31 ∈ (guarded 0x0F lane).positions := by decide

/-! ### Integers -/

def integers : List Instr :=
  [.and 1 2 3, .or 1 2 3, .xor 1 2 3, .andn 1 2 3, .shr 1 2 3, .sar 1 2 3, .rol 1 2 3, .min 1 2 3, .max 1 2 3, .minu 1 2 3, .maxu 1 2 3,
   .absd 1 2 3, .mulhi 1 2 3, .mulhiu 1 2 3, .mulw 1 2 3, .mulwu 1 2 3, .clz 1 2, .ctz 1 2, .popc 1 2, .brev 1 2, .bswap 1 2, .bfe 1 2 3,
   .bfeu 1 2 3, .bfi 1 2 3, .addw 1 2 3, .addwu 1 2 3, .subw 1 2 3, .accw 1 2 3, .accwu 1 2 3, .satadd 1 2 3, .satsub 1 2 3, .narrow 1 2,
   .sext 1 2, .zext 1 2, .mov 1 2, .sel 1 2 3, .andi 1 2 3, .ori 1 2 3, .xori 1 2 3, .shri 1 2 3, .sari 1 2 3, .movx 1 3, .movi 1 3,
   .madw 1 2 3 4, .madl 1 2 3 4]

def affines : List Instr := [.add 1 2 3, .sub 1 2 3, .neg 1 2, .mul 1 2 3, .shl 1 2 3, .addi 1 2 3, .muli 1 2 3, .shli 1 2 3]

theorem witness_IntegerResults : (∀ i ∈ integers, (integerOp i).isSome = true ∧ Runs (on (under i32 lane)) (under i32 lane) i)
    ∧ (∀ i ∈ affines, (affineOp i).isSome = true ∧ Runs (on (under i32 lane)) (under i32 lane) i)
    ∧ (∀ i ∈ ([.fabs 1 2, .fneg 1 2, .fcpsgn 1 2 3, .fclass 1 2] : List Instr), (integerOp i).isSome = true
        ∧ Runs (on (under f32 lane)) (under f32 lane) i)
    ∧ lane.needsLanes lane.gov (.lanes []) = false ∧ 31 ∈ lane.governed ∧ 31 < lane.span := by unfold Runs; decide

def affineCut : Cut := under i64 (withV 2 (.pat 7 1 2 3) (withV 3 (.pat 5 0x7FFFFFF0 0 0) pattern))

theorem witness_IntegerResults_affine : Runs (on affineCut) affineCut (.add 1 2 3) ∧ width affineCut.et = 64
    ∧ affineCut.read (on affineCut) 2 [] = .pat 7 1 2 3 ∧ affineCut.read (on affineCut) 3 [2] = .pat 5 0x7FFFFFF0 0 0
    ∧ fits32 (1 + 0x7FFFFFF0) = true := by unfold Runs; decide

theorem witness_DivisionResults : Runs (on (under i32 lane)) (under i32 lane) (.div 0 1 2 3) ∧ Runs (on (under i32 lane)) (under i32 lane) (.divu 15 1 2 3)
    ∧ (under i32 lane).gov ≠ .none ∧ lane.needsLanes lane.gov (.lanes []) = false
    ∧ lowBits 4 (lane.valAt (lane.read (on lane) 3 [2]) 0) = 0 := by unfold Runs; decide

theorem witness_DivisionResults_arrival :
    let o : Outst := { Outst.of 1 4 0 (.value (uVal 7) (some (uVal 3))) with second := true, whole := true, id := 3 }
    let c : Cut := { lane with outst := [o], ctx := { lane.ctx with l0 := .rsv 3 false, l1 := .rsv 3 true } }
    (on c).cutOf c.uid = some c ∧ (∀ x ∈ (on c).cuts, x.uid = c.uid → x = c) ∧ c.halted (on c) = false ∧ c.leaving = false
      ∧ c.ctx.fences.all (·.isNone) = true ∧ c.outst.find? (·.id == o.id) = some o ∧ isQ o.dst = false ∧ o.piece = false ∧ o.flagPred = none
      ∧ isResult o.dst = true ∧ ([1, 2] : List Opnd).any isQ = false ∧ (under (i32 + 1) lane).gov = .none
      ∧ Runs (on (under (i32 + 1) lane)) (under (i32 + 1) lane) (.div 0 1 2 3) := by unfold Runs; decide

/-! ### Floating point -/

theorem witness_FloatResults : (∀ i ∈ ([.fadd 1 2 3, .fsub 1 2 3, .fmul 1 2 3, .fmin 1 2 3, .fmax 1 2 3, .fminn 1 2 3, .fmaxn 1 2 3, .frnd 1 2,
      .ffrac 1 2, .fscale 1 2 3, .fexpo 1 2, .fcvt 9 1 2, .f2i 1 2, .f2u 1 2, .i2f 1 2, .u2f 1 2, .fma 1 2 3 4, .fnma 1 2 3 4] : List Instr),
      (roundOp i).isSome = true ∧ Runs (on (under f32 lane)) (under f32 lane) i)
    ∧ lane.needsLanes lane.gov (.lanes []) = false := by unfold Runs; decide

theorem witness_SpecialFunctionResults : (∀ i ∈ ([.frcp 0 1 2, .frsq 0 1 2, .fsqrt 0 1 2, .fexp2 0 1 2, .flog2 0 1 2, .fsin 0 1 2, .fcos 0 1 2,
      .fdiv 15 1 2 3] : List Instr), (specialOp i).isSome = true ∧ Runs (on (under f32 lane)) (under f32 lane) i
      ∧ Runs (on (under (f32 + 1) lane)) (under (f32 + 1) lane) i)
    ∧ (under f32 lane).gov ≠ .none ∧ (under (f32 + 1) lane).gov = .none ∧ isResult 1 = true
    ∧ Runs (on (under f32 lane)) (under f32 lane) (.twosum 1 2 3) := by unfold Runs; decide

/-! ### Predicates -/

theorem witness_PredicateResults : (∀ i ∈ ([.pand 1 0 2 1 3, .por 1 0 2 1 3, .pxor 1 0 2 1 3, .pandn 1 0 2 1 3, .pnot 1 0 2, .pmov 1 0 2, .pfrom 1 2,
      .pmake 3 1 2 3] : List Instr), (predOp i).isSome = true ∧ Runs (on lane) lane i)
    ∧ (∀ i ∈ ([.pany 1 0 2, .pall 1 1 2, .pcnt 1 0 2, .pmask 1 0 2] : List Instr), Runs (on lane) lane i)
    ∧ (∀ i ∈ ([.cmp 9 1 2 3, .cmpi 0 1 2 0x400] : List Instr), Runs (on (under i32 lane)) (under i32 lane) i)
    ∧ (∀ i ∈ ([.cmp 11 1 2 3, .cmpi 5 1 2 1] : List Instr), Runs (on (under f32 lane)) (under f32 lane) i)
    ∧ Runs (on pattern) pattern (.pmake 0 1 2 3) ∧ lane.isPattern = false ∧ 7 < lane.ctx.preds.length := by unfold Runs; decide

/-! ### Forms and names -/

/-- A cut with `q0` bound to the pop end of its crew's chute, and the crew with an entry there. -/
def popper : Cut := { member lane with binds := lane.binds.set 0 (some (.pop 5 0)) }
def filled : Crew := { crew1 with chutes := [⟨2, [List.replicate 32 7], false⟩] }

theorem witness_FormAndKill : Runs (on lane) lane (.form 1 2) ∧ Runs (on pattern) pattern (.form 0x47 2) ∧ lane.ctx.v.length = 64
    ∧ lane.isPattern = false ∧ pattern.isPattern = true ∧ pattern.ctx.v.length = 64 ∧ pattern.ctx.o.length = 8
    ∧ Runs (onCrew filled popper) popper (.form 1 0x50) ∧ Runs (on lane) lane (.form 0x4A 2)
    ∧ lane.ctx.o.length = 8 ∧ lane.positions ≠ [] ∧ Runs (on lane) lane (.kill 0x7F 0 0x3F) ∧ Runs (on lane) lane (.kill 0 0x40 0x47)
    ∧ Runs (on lane) lane (.kill 1 0x4A 0x4A) := by unfold Runs; decide

theorem witness_PgetDescribesForm : (0x75#7 ∉ ([0x70#7, 0x71#7, 0x72#7, 0x73#7, 0x74#7] : List Opnd)) ∧ (on lane).executing = some lane
    ∧ (∀ b ∈ ([0x70, 0x71, 0x72, 0x73, 0x74] : List Opnd), Runs (on affineCut) affineCut (.pget 1 2 b)
        ∧ Runs (on (withV 2 (.lanes []) lane)) (withV 2 (.lanes []) lane) (.pget 1 2 b))
    ∧ affineCut.read (on affineCut) 2 [] = .pat 7 1 2 3 ∧ (withV 2 (.lanes []) lane).read (on lane) 2 [] = .lanes []
    ∧ Runs (onCrew filled popper) popper (.pget 1 0x50 0x74) ∧ isQ 0x50 = true := by unfold Runs; decide

theorem witness_NamingResults : (∀ i ∈ ([.cutid 1, .parid 1, .cutbox 1 0x70, .cutbox 1 0x77] : List Instr),
    Runs (on lane) lane i ∧ Runs (on pattern) pattern i) ∧ lane.frag < 8 := by unfold Runs; decide

/-! ### Lanes -/

/-- A register whose lanes differ. -/
def counting : RegVal := .lanes ((List.range 32).map fun n => BitVec.ofNat 64 n)
def varied : Cut := under i32 (withV 2 counting lane)

theorem witness_LaneMoves : (∀ i ∈ ([.shfl 1 2 3, .shflx 1 2 3, .shflu 1 2 3, .shfld 1 2 3, .lidx 1, .matl 1 2] : List Instr),
      (laneOp i).isSome = true ∧ Runs (on varied) varied i)
    ∧ (∀ i ∈ ([.bcast 1 2 3, .bcast 1 3 2, .vote 1 2, .compact 1 2] : List Instr), Runs (on varied) varied i)
    ∧ (varied.read (on varied) 2 []).isU = false ∧ (varied.read (on varied) 3 []).isU = true := by unfold Runs; decide

theorem witness_LaneReductions : (∀ i ∈ ([.red 0 1 2 0x70, .red 15 1 2 0x75, .scan 0 1 2 0x70, .scan 0 1 2 0x78, .dp4 1 2 3, .dp4u 1 2 3, .dp2 1 2 3]
      : List Instr), Runs (on varied) varied i)
    ∧ (∀ i ∈ ([.dp4 1 2 3, .dp2 1 2 3] : List Instr), Runs (on (under f32 lane)) (under f32 lane) i)
    ∧ isInt varied.et = true ∧ modeSAT varied.ctx.mode = false ∧ varied.et < 8 ∧ 8 ≤ (under f32 lane).et ∧ varied.gov ≠ .none
    ∧ varied.isPattern = false ∧ (under (i32 + 1) lane).gov = .none
    ∧ (∀ i ∈ ([.red 0 1 2 0x70, .scan 0 1 2 0x78] : List Instr), Runs (on (under (i32 + 1) lane)) (under (i32 + 1) lane) i) := by unfold Runs; decide

/-! ### Control -/

/-- A cut that awaits a result for v9. -/
def awaiting (c : Cut) : Cut := { c with outst := [Outst.of 9 4 0 (.value (uVal 7) none)] }

/-- A pattern cut whose guard holds in a box of its items. -/
def boxed (lo hi : Nat) : Cut :=
  { pattern with ctx := { pattern.ctx with preds := pattern.ctx.preds.set 1 (.box ⟨some lo, some hi, none, none, none, none⟩), mode := 1 } }

/-- A cut whose guard is uniformly false. -/
def nobody : Cut := under 1 lane

theorem witness_EndingInstructions : Runs (on lane) lane .nop ∧ Runs (on lane) lane .yield ∧ lane.onMill = false
    ∧ Runs (on millCut) millCut .yield ∧ millCut.onMill = true ∧ (on { lane with wait := .yield 0 }).cutOf 1 = some { lane with wait := .yield 0 } := by
  unfold Runs; decide

theorem witness_EndingInstructions_exit : Runs (on (awaiting lane)) (awaiting lane) .exit ∧ Runs (on nobody) nobody .exit ∧ nobody.governed = []
    ∧ Runs (on lane) lane .exit ∧ lane.governed ≠ [] ∧ (lane.positions.filter fun p => !lane.guard p) = [] ∧ lane.mill = false ∧ lane.sec.state = .out
    ∧ Runs (on (guarded 0xF lane)) (guarded 0xF lane) .exit ∧ (guarded 0xF lane).governed ≠ []
    ∧ ((guarded 0xF lane).positions.filter fun p => !(guarded 0xF lane).guard p) ≠ []
    ∧ (∀ k ∈ [boxed 0 7, boxed 3 7], Runs (on k) k .exit ∧ k.governed ≠ [] ∧ (k.positions.filter fun p => !k.guard p) ≠ []) := by unfold Runs; decide

theorem witness_ModeiSetsLowBits : Runs (on lane) lane (.modei 0x3FFFF) ∧ Runs (on lane) lane (.modei 0x40) ∧ modeLegal 0x40 = true
    ∧ modeLegal 0x3FFFF = false := by unfold Runs; decide

theorem witness_ModeSetsMode : Runs (on nobody) nobody (.mode 2) ∧ nobody.governed = [] ∧ nobody.positions ≠ []
    ∧ Runs (on (guarded 1 lane)) (guarded 1 lane) (.mode 2) ∧ (guarded 1 lane).governed ≠ [] ∧ (guarded 1 lane).governed ≠ (guarded 1 lane).positions
    ∧ Runs (on lane) lane (.mode 2) ∧ lane.governed = lane.positions ∧ (∀ p ∈ lane.positions, (lane.valAt (lane.read (on lane) 2 []) p).setWidth 32 = 0#32)
    ∧ (let k := withV 2 (.lanes ((List.range 32).map fun n => BitVec.ofNat 64 (n * 2 ^ 32))) lane
      Runs (on k) k (.mode 2) ∧ k.governed = k.positions ∧ k.valAt (k.read (on k) 2 []) 0 ≠ k.valAt (k.read (on k) 2 []) 31) := by unfold Runs; decide

/-- A cut whose v2 and `o7` hold an address. -/
def aimed (t : W64) : Cut := let c := withV 2 (uVal t) lane; { c with ctx := { c.ctx with o := c.ctx.o.set 7 (uVal t) } }

theorem witness_BranchesTransfer : Runs (on lane) lane (.jmp 1) ∧ lane.positions ≠ [] ∧ targetCause (on lane) lane false (placedPtr + 4) = 0
    ∧ Runs (on lane) lane (.br 0 1 1) ∧ (lane.positions.filter fun p => lane.guard p && (lane.predAt 1 p != false)) = []
    ∧ Runs (on lane) lane (.jmp 0x1FFFFF) ∧ targetCause (on lane) lane false (placedPtr - 4) = causeBND := by unfold Runs; decide

theorem witness_BranchesTransfer_split : Runs (on (guarded 0xF lane)) (guarded 0xF lane) (.jmp 1)
    ∧ (∀ d ∈ (on (guarded 0xF lane)).cuts, d.uid < (on (guarded 0xF lane)).nextUid)
    ∧ (maskOf 32 fun p => inMask (guarded 0xF lane).ctx.active p && (guarded 0xF lane).guard p) = 0xF#32 ∧ (guarded 0xF lane).ctx.active ≠ 0xF
    ∧ lowestFree 0 8 ((guarded 0xF lane).frag :: fragsUsed (on (guarded 0xF lane)) (guarded 0xF lane)) = some 1 := by unfold Runs; decide

theorem witness_BranchesTransfer_calls : Runs (on lane) lane (.call 1) ∧ lane.atEnd = false ∧ lane.governed = lane.positions
    ∧ (∀ i ∈ ([.callr 2, .jmpr 2, .ret] : List Instr), Runs (on (aimed placedPtr)) (aimed placedPtr) i)
    ∧ (∀ a ∈ ([2, 0x47] : List Opnd), ∀ p ∈ (aimed placedPtr).positions, (aimed placedPtr).valAt ((aimed placedPtr).read (on (aimed placedPtr)) a []) p = placedPtr)
    ∧ targetCause (on lane) lane true placedPtr = 0 ∧ targetCause (on lane) lane true (placedPtr + 2) = causeALN
    ∧ objOf (2 * placedPtr) ≠ objOf (placedLaunch 1).kcode ∧ accessCause (on lane) lane.unit 0 (placedPtr + 2 ^ 41) 4 1 .exec ≠ 0
    ∧ Runs (on (aimed 0)) (aimed 0) (.jmpr 2) ∧ targetCause (on lane) lane true 0 ≠ 0 := by unfold Runs; decide

/-- A cut with live levels, innermost first. -/
def looping (ls : List Level) (c : Cut) : Cut := { c with ctx := { c.ctx with loops := ls } }

theorem witness_LoopInstructions : Runs (on lane) lane (.loopi 0x7FF 1) ∧ Runs (on lane) lane (.loopi 3 1) ∧ Runs (on lane) lane (.loop 2 1)
    ∧ Runs (on varied) varied (.loop 2 1) ∧ (varied.read (on varied) 2 []).isU = false
    ∧ (let k := looping [⟨placedPtr, placedPtr + 4, 2⟩] lane
      Runs (on k) k (.loopi 3 2) ∧ k.ctx.loops.find? (·.body k.ctx.pc) = some ⟨placedPtr, placedPtr + 4, 2⟩ ∧ k.atEnd = false)
    ∧ (let k := looping (List.replicate 4 ⟨placedPtr, placedPtr + 400, 2⟩) lane; Runs (on k) k (.loopi 3 2) ∧ k.atEnd = false ∧ Runs (on k) k .lbrk)
    ∧ Runs (on lane) lane .lbrk ∧ lane.ctx.loops = [] := by unfold Runs; decide

theorem witness_EndProcessing : let k := looping [⟨placedPtr, placedPtr, 1⟩] lane
    k.atEnd = true ∧ ∀ i ∈ ([.call 1, .callr 2, .loop 2 1, .loopi 3 1] : List Instr), Runs (on k) k i := by unfold Runs; decide

/-- Two parts of one lane cut that wait at a SEAM. -/
def part1 : Cut := { lane with kind := .fragment, ctx := { lane.ctx with active := 0xF }, wait := .seam placedPtr 0 false }
def part2 : Cut := { lane with uid := 2, kind := .fragment, frag := 1, ctx := { lane.ctx with active := 0xFFFFFFF0 }, wait := .seam placedPtr 0 false }
def seamed : Cut := { pattern with wait := .seam placedPtr 0 true }

theorem witness_SeamWaits : Runs (on (awaiting lane)) (awaiting lane) .seam ∧ (let k := { lane with kind := .fragment }; Runs (on k) k .seam)
    ∧ Runs (on lane) lane .seam ∧ lane.seamable (on lane) = true ∧ Runs (on varied) varied .seam ∧ varied.seamable (on varied) = false
    ∧ ((on lane).launchOf 1).qm = false ∧ seamHalted (on seamed) 1 placedPtr = false ∧ seamSince (on seamed) 1 placedPtr = some 0
    ∧ (∀ c ∈ (on seamed).cuts, (c.seaming placedPtr).isSome = true)
    ∧ (let s : State := { on part1 with cuts := [part1, part2] }
      s.cutOf 1 = some part1 ∧ mayRejoin (familyOf s part1) = true ∧ ∀ d ∈ familyOf s part1, d.halted s = false) := by unfold Runs; decide

theorem witness_SeamWaits_groups : (let p : Cut := { seamed with box := ⟨⟨0, 0, 0⟩, 32, 1, 1⟩ }
      groupBox [p] = some ⟨⟨0, 0, 0⟩, 32, 1, 1⟩ ∧ (Machine.seamed (on p) [p] ⟨⟨0, 0, 0⟩, 32, 1, 1⟩).isSome = true)
    ∧ (let s : State := { on part1 with cuts := [part1, part2] }
      (rejoined s [part1, part2]).isSome = true ∧ (∀ q ∈ [part1, part2], ∀ r ∈ [part1, part2], q.items = r.items ∧ q.isPattern = false)
        ∧ (∀ q ∈ siblings s part1, ∃ r ∈ [part1, part2], r.uid = q.uid))
    ∧ part1.ctx.active &&& part2.ctx.active = 0 := by decide

/-! ### Traps -/

/-- A cut in its handler: TPC names a word that can be resumed. -/
def inHandler (done : W64) : Cut := { lane with trap := { lane.trap with inh := true, hv := true, tpc := placedPtr + 8, tdone := done } }

/-- A state whose debugger slot 0 serves the context of the cut. -/
def debugged (c : Cut) : State := (on c).setReg (regDbgctl 0) (1#64 <<< 63)

theorem witness_TrapInstructions : Runs (on lane) lane .tfence ∧ Runs (on lane) lane .bkpt ∧ Runs (on nobody) nobody (.trap 7) ∧ nobody.governed = []
    ∧ Runs (on lane) lane (.trap 7) ∧ lane.governed ≠ [] ∧ Runs (on pattern) pattern (.trap 7) ∧ Runs (on lane) lane .haltd ∧ lane.armed (on lane) = none
    ∧ Runs (on lane) lane .tret ∧ lane.trap.inh = false := by unfold Runs; decide

theorem witness_TrapInstructions_haltd : Runs (debugged lane) lane .haltd ∧ lane.armed (debugged lane) = some 0 := by unfold Runs; decide

theorem witness_TrapInstructions_tret : Runs (on (inHandler (1#64 <<< 63))) (inHandler (1#64 <<< 63)) .tret ∧ Runs (on (inHandler 0xF)) (inHandler 0xF) .tret
    ∧ savedLoopsOk (inHandler 0xF).trap.sloops = true ∧ targetCause (on lane) (inHandler 0xF) true (inHandler 0xF).trap.tpc = 0
    ∧ (inHandler (1#64 <<< 63)).allDone = true ∧ (inHandler 0xF).allDone = false := by unfold Runs; decide

theorem witness_TrapEntrySaves : (let k := { lane with trap := { lane.trap with hv := true, off := 0x40 } }
      k.onMill = false ∧ k.trap.hv = true ∧ k.trap.inh = false ∧ k.outst = [])
    ∧ (awaiting lane).outst ≠ [] ∧ (let k := { lane with pend := some ⟨1, placedPtr, 0, 1, 0, 0⟩, wait := .trap }
      (on k).cutOf 1 = some k ∧ k.halted (on k) = false ∧ k.place.resident = true) := by decide

/-! ### Memory -/

/-- An i32 cut whose v2 holds the data pointer, and one whose lanes' v2 point at successive elements. -/
def data : Cut := under i32 (withV 2 (uVal dataPtr) lane)
def spread : Cut := under i32 (withV 2 (.lanes ((List.range 32).map fun n => dataPtr + BitVec.ofNat 64 (4 * n))) lane)

/-- `Clean`, as a test. -/
def clean (s : State) (c : Cut) (q : Ask) (load store : Bool) (as : List ItemAcc) : Bool :=
  decide (c.onMill = false ∧ (∀ a ∈ as, a.cause s c q = 0 ∧ (a.locs s c q).isSome = true)
    ∧ c.watchpoint s load store (as.map fun a => (a.ptr, q.size * q.elems)) = none)

theorem clean_holds {s : State} {c : Cut} {q : Ask} {load store : Bool} {as : List ItemAcc} (h : clean s c q load store as = true) :
    Clean s c q load store as := by
  unfold clean at h
  have := of_decide_eq_true h
  exact this

/-- Whether a load's accesses are sound and its reads need no reply. -/
def loadMeets (s : State) (c : Cut) (i : Instr) : Bool :=
  (loadOp s c i).any fun (op, addr) =>
    let as := if op.uniform then (c.accesses addr).take 1 else c.accesses addr
    clean s c op.ask true false as && !awaitsReply (readsOf (s.translated c op.ask as) c op.ask as)
      && !c.needsLanes c.gov (if op.uniform then uVal 0 else .lanes [])

theorem witness_LoadsReturn : (∀ i ∈ ([.ld 0 1 2 3, .ldb 0 1 2 3, .lda 15 1 2 3, .ldm 0 4 2 0x78] : List Instr),
      loadMeets (on data) data i = true ∧ Runs (on data) data i) ∧ data.gov ≠ .none ∧ data.onMill = false ∧ data.replay = 0
    ∧ eccOn (on data) (data.asid (on data)) = false := by unfold Runs; decide

theorem witness_LoadsReturn_lanes : loadMeets (on spread) spread (.ldt 0 1 2 0x74) = true ∧ Runs (on spread) spread (.ldt 0 1 2 0x74)
    ∧ (under (i32 + 1) lane).gov = .none ∧ Runs (on (under (i32 + 1) lane)) (under (i32 + 1) lane) (.ld 0 1 2 3) := by unfold Runs; decide

theorem witness_LoadsReturn_fault : ∃ op addr, loadOp (on (under i32 lane)) (under i32 lane) (.ld 0 1 2 3) = some (op, addr)
    ∧ Runs (on (under i32 lane)) (under i32 lane) (.ld 0 1 2 3) ∧ (under i32 lane).isPattern = false
    ∧ ((((under i32 lane).accesses addr).take 1).filter fun x => x.cause (on lane) lane op.ask != 0) ≠ [] :=
  ⟨_, _, rfl, by unfold Runs; decide, by decide, by decide⟩

/-- A cut with one outstanding result. -/
def expecting (o : Outst) : Cut := { lane with outst := [o] }
def loaded : Outst := { Outst.of 9 4 0 (.load false false 4 1 [⟨0, 0, .dev 0x20000, dataPtr, none, false⟩]) with whole := true }
def worked : Outst := { Outst.of 9 4 0 (.value (uVal 7) none) with whole := true }

theorem witness_LoadsReturn_arrival : (∀ o ∈ [loaded, worked], (on (expecting o)).cutOf 1 = some (expecting o) ∧ (expecting o).halted (on (expecting o)) = false
      ∧ (∀ x ∈ (on (expecting o)).cuts, x.uid = (expecting o).uid → x = expecting o) ∧ (expecting o).leaving = false ∧ (expecting o).onMill = false
      ∧ (expecting o).isPattern = false ∧ (expecting o).ctx.v.length = 64
      ∧ (expecting o).outst.find? (·.id == o.id) = some o ∧ (expecting o).ctx.fences.all (·.isNone) = true ∧ o.piece = false
      ∧ mayArrive (on (expecting o)) (expecting o) o = true ∧ o.dst.toNat + 1 ≤ 0x40 ∧ o.uniform = false)
    ∧ (on (expecting loaded)).storeQ = [] ∧ (on (expecting loaded)).qeff = [] ∧ (on (expecting loaded)).flaws = [] ∧ viewAt (on lane) 0x20000 = none ∧ errored (on lane) 0x20000 = false := by decide

/-- Whether a store's accesses are sound. -/
def storeMeets (s : State) (c : Cut) (i : Instr) : Bool :=
  (storeOp s c i).any fun op => (if op.release then releaseMayIssue s c else storeMayIssue s c)
    && clean s c ⟨elemBytes c.et, op.elems, .write⟩ false true (c.accesses op.addr)

theorem witness_StoresPerform : (storeMeets (on spread) spread (.st 1 2 3) = true ∧ Runs (on spread) spread (.st 1 2 3))
    ∧ (storeMeets (on spread) spread (.stl 1 2 3) = true ∧ Runs (on spread) spread (.stl 1 2 3))
    ∧ (storeMeets (on data) data (.stm 4 2 0x72) = true ∧ Runs (on data) data (.stm 4 2 0x72)) := by unfold Runs; decide

theorem witness_StoresPerform_fault : ∃ op, storeOp (on (under i32 lane)) (under i32 lane) (.st 1 2 3) = some op
    ∧ Runs (on (under i32 lane)) (under i32 lane) (.st 1 2 3) ∧ lane.onMill = false
    ∧ (((under i32 lane).accesses op.addr).filter fun x => x.cause (on lane) lane ⟨4, 1, .write⟩ != 0) ≠ [] :=
  ⟨_, rfl, by unfold Runs; decide, by decide, by decide⟩

/-- A store of two bytes in a queue. -/
def queued (loc : Loc) (op : WriteOp) : Store :=
  ⟨3, 1, 1, [], 0, 1, 0, 0, 3, false, [], loc, op, none, none, false, 0, dataPtr, placedPtr⟩
def storing (w : Store) : State := { on lane with storeQ := [w], nextId := 4 }

theorem witness_StoresPerform_home : (∀ loc ∈ ([.dev (0x20000), .host 0x80] : List Loc), let w := queued loc (.bytes [(0, 1), (1, 2)])
      (storing w).storeQ.find? (·.id == w.id) = some w ∧ mayPerform (storing w) w = true)
    ∧ Memory.wf (on lane).mem = true ∧ viewAt (on lane) 0x20001 = none := by decide

theorem witness_StoresPerform_late : let w := queued (.dev 0) (.bytes [(0, 1)])
    storeMoved (storing w) w = true ∧ w.job = none
    ∧ (storing w).cuts.find? (fun d => d.lid == w.lid && d.isOf w.uid && d.positions.any fun p => d.ilAt (storing w) p == w.il) = some lane := by decide

/-- Whether an atomic's accesses are sound. -/
def atomMeets (s : State) (c : Cut) (i : Instr) : Bool :=
  (atomOp s c i).any fun (op, addr) =>
    let q : Ask := ⟨elemBytes op.et, 1, .both⟩
    let as := c.accesses addr
    let t := s.translated c q as
    (if op.release then releaseMayIssue s c else storeMayIssue s c) && clean s c q true true as && !as.isEmpty
      && (readsOf t c q as).all (fun r => !atomErrored t c r.loc) && !(op.ret && c.gov == .none) && !awaitsReply (readsOf t c q as)

theorem witness_AtomicsIssueAndPerform : (atomMeets (on spread) spread (.atom 0 1 2 3) = true ∧ Runs (on spread) spread (.atom 0 1 2 3))
    ∧ (atomMeets (on data) data (.ared 2 3) = true ∧ Runs (on data) data (.ared 2 3))
    ∧ (atomMeets (on data) data (.cadd 2 3) = true ∧ Runs (on data) data (.cadd 2 3)) := by unfold Runs; decide

theorem witness_AtomicsIssueAndPerform_home : let w := queued (.dev 0x20000) (.atomic 0 4 [⟨0, 0, 5, 0⟩, ⟨1, 1, 7, 0⟩])
    (storing w).storeQ.find? (·.id == w.id) = some w ∧ mayPerform (storing w) w = true ∧ (storing w).flaws = [] ∧ errored (storing w) 0x20000 = false
    ∧ viewAt (storing w) 0x20000 = none := by decide

/-- The tables of address space 0: object 2 exists and its pages are absent; and the word `PGWAIT v1, v2` at the code. -/
def tables : List Host.Cell :=
  cellsPut (cellsPut (cellsPut [] 0 (bytesLE 8 (2 ^ 63 + 8) ++ bytesLE 8 0x1000)) 0x1040
    (bytesLE 8 (2 ^ 40) ++ bytesLE 8 (2 ^ 63 + 2 ^ 49 + 2 ^ 48) ++ bytesLE 8 0x2000)) 0x10000 (bytesOfWord 0x76004100#32)

def onTables (c : Cut) : State := { on c with mem := tables, tlb := [⟨.bench 0, 0, 1, 0, placedCode, placedFrame, true⟩], cycle := 940000 }

/-- A cut at the page-wait limit. -/
def paging : Cut := { data with wait := .page 0 }

theorem witness_PageInstructions : (∀ i ∈ ([.pref 2 3, .pgreq 0 1 2, .pgtest 1 2, .pgwait 1 2] : List Instr), Runs (on data) data i)
    ∧ (∀ p ∈ data.governed, accessCause (on data) data.unit (data.asid (on data)) (data.valAt (data.read (on data) 2 []) p) 1 1 .none = 0)
    ∧ data.needsLanes data.gov (uVal 0) = false ∧ data.wait = .none ∧ data.pageWaitOver (on data) (data.read (on data) 2 []) = true := by
  unfold Runs; decide

theorem witness_PageInstructions_absent : (∀ i ∈ ([.pgreq 0 1 2, .pgtest 1 2, .pgwait 1 2] : List Instr), Runs (onTables data) data i)
    ∧ (∀ p ∈ data.governed, accessCause (onTables data) data.unit (data.asid (onTables data)) (data.valAt (data.read (onTables data) 2 []) p) 1 1 .none = 0)
    ∧ pageResident (onTables data) data.unit 0 dataPtr = false ∧ data.pageWaitOver (onTables data) (data.read (onTables data) 2 []) = false
    ∧ (onTables paging).cutOf 1 = some paging ∧ paging.instrAt (onTables paging) = some (.pgwait 1 2)
    ∧ 0 + waitLimit (onTables paging) ((onTables paging).launchOf 1).part ≤ (onTables paging).cycle ∧ paging.place.resident = true := by unfold Runs; decide

/-! ### Scratchpad -/

/-- A member of the crew whose lanes name successive elements of its page. -/
def scratcher : Cut := member (under i32 (withV 2 (.lanes ((List.range 32).map fun n => BitVec.ofNat 64 (4 * n))) lane))

theorem witness_ScratchAccesses : scratcher.crewIn (onCrew crew1 scratcher) = some crew1 ∧ scratcher.onMill = false ∧ scratcher.replay = 0
    ∧ Runs (onCrew crew1 scratcher) scratcher (.lds 0 1 2 3) ∧ Runs (onCrew crew1 scratcher) scratcher (.sts 1 2 3)
    ∧ readMayIssue (onCrew crew1 scratcher) scratcher = true ∧ effectMayIssue (onCrew crew1 scratcher) scratcher = true ∧ scratcher.gov ≠ .none
    ∧ (let as := scratcher.accesses fun p => scratcher.valAt (scratcher.read (onCrew crew1 scratcher) 2 []) p
      as ≠ [] ∧ (∀ m ∈ as, scratchCause crew1.length 4 m.ptr = 0) ∧ (∀ m ∈ as, (crew1.page (m.ptr.toNat / 2048)).bad = []) ∧ scratchIn (onCrew crew1 scratcher) scratcher as = true
        ∧ scratchIn (onCrew { crew1 with pages := [⟨.zero, 0, 0, false, false, [], []⟩] } scratcher) scratcher as = false)
    ∧ scratchCause crew1.length 4 2048#64 = causeBND ∧ scratchCause crew1.length 4 2#64 = causeALN
    ∧ (∀ p ∈ crew1.pages, Memory.wf p.data = true) ∧ scratcher.quantum (onCrew crew1 scratcher) = false := by unfold Runs; decide

/-- A state whose launch is in quantum mode. -/
def quantally (s : State) : State := { s with launches := [{ placedLaunch 1 with qm := true, quantum := 64 }] }

theorem witness_ScratchAccesses_quantum : let s := quantally (onCrew crew1 scratcher)
    scratcher.quantum s = true ∧ Runs s scratcher (.lds 0 1 2 3) ∧ Runs s scratcher (.sts 1 2 3) ∧ readMayIssue s scratcher = true
      ∧ effectMayIssue s scratcher = true := by unfold Runs; decide

/-- A member whose v2 and v3 are an offset and a length. -/
def ranger (x y : W64) : Cut := member (withV 2 (uVal x) (withV 3 (uVal y) lane))

theorem witness_ScratchPages : let c := ranger 0 2048
    let s := onCrew crew1 c
    c.crewIn s = some crew1 ∧ c.governed ≠ [] ∧ c.governed = c.positions ∧ c.governedOf (c.read s 2 []) = some 0 ∧ c.governedOf (c.read s 3 [2]) = some 2048
    ∧ 0 + 2048 ≤ crew1.length ∧ rangePages 0 2048 = (0, 1) ∧ effectMayIssue s c = true ∧ mayPin s c crew1 (pagesFrom 0 1) = true
    ∧ mayPin s c { crew1 with pages := [⟨.res, 0, 15, false, false, [], []⟩] } (pagesFrom 0 1) = false ∧ (crew1.page 0).state = .res
    ∧ c.quantum s = false ∧ (0#64).toNat % 2048 = 0 ∧ (2048#64).toNat % 2048 = 0
    ∧ (let q := quantally s
      c.quantum q = true ∧ mayPin q c crew1 (pagesFrom 0 1) = true ∧ effectMayIssue q c = true
        ∧ ∀ i ∈ ([.sfree 2 3, .spin 1 2 3, .sunpin 2 3] : List Instr), Runs q c i)
    ∧ (∀ i ∈ ([.salloc 1 2 3, .sfree 2 3, .spin 1 2 3, .sunpin 2 3, .spgq 1 2 0x70, .spgq 1 0x4A 0x71, .spgq 1 0x4A 0x72, .spgq 1 0x4A 0x73] : List Instr),
        Runs s c i) := by unfold Runs; decide

theorem witness_ScratchPages_beyond : let c := ranger 1 2048
    (c.governedOf (c.read (onCrew crew1 c) 3 [2]) = some 2048 ∧ crew1.length < 1 + 2048 ∧ Runs (onCrew crew1 c) c (.sunpin 2 3) ∧ Runs (onCrew crew1 c) c (.salloc 1 2 3))
    ∧ (let k := guarded 1 c; k.governed ≠ k.positions ∧ k.governed ≠ [] ∧ Runs (onCrew crew1 k) k (.spin 1 2 3) ∧ Runs (onCrew crew1 k) k (.sunpin 2 3)) := by
  unfold Runs; decide

def touching : Cut := member { lane with wait := .scratchPage [(0, 4)] }
def zeroed : Crew := { crew1 with pages := [⟨.zero, 0, 0, false, false, [], []⟩] }
def backedOut : Crew := { crew1 with pages := [⟨.backed, 0, 0, false, false, [], []⟩] }

theorem witness_ScratchEvents : (on lane).launchOf 1 = placedLaunch 1 ∧ (onCrew zeroed touching).cutOf 1 = some touching ∧ touching.place.resident = true
    ∧ touching.crewIn (onCrew zeroed touching) = some zeroed ∧ (onCrew zeroed touching).crewOf 5 = some zeroed ∧ (zeroed.page 0).state = .zero
    ∧ (benchFrames (onCrew zeroed touching) (zeroed.part (onCrew zeroed touching)) 0).find? (fun f => !decide (f ∈ usedFrames (onCrew zeroed touching) 0)) = some 0
    ∧ 0 < zeroed.pages.length ∧ (backedOut.bytesOf (onCrew backedOut touching) 0).isNone = true ∧ touching.isPattern = false
    ∧ (onCrew backedOut touching).cutOf 1 = some touching ∧ touching.crewIn (onCrew backedOut touching) = some backedOut
    ∧ ([(0, 4)].filter fun a : Nat × Nat => (backedOut.bytesOf (onCrew backedOut touching) (a.2 / 2048)).isNone) ≠ [] := by decide

theorem witness_ScratchEvents_move : let s : State := { onCrew zeroed lane with own := [0, 0, 0, 0, 0, 0, 0, 0] }
    s.crewOf 5 = some zeroed ∧ zeroed.moving = false ∧ zeroed.bench ≠ 1 ∧ roomFor s zeroed 1 = true ∧ ((s.evictAll zeroed).settleSpace 5 1).isSome = true := by
  decide

theorem witness_ScratchEvents_delivery : let w : ScratchWrite := ⟨3, 2, 1, crew1.handle, 8, [1, 2], 0⟩
    let s : State := { onCrew crew1 lane with scratchW := [w] }
    s.scratchW.find? (·.id == w.id) = some w ∧ (s.launchOf w.lid).qm = false ∧ spaceOf s w.lid w.handle = some crew1 ∧ spaceOf s w.lid 0x123 = none := by decide

/-! ### Fences, barriers, crews and bindings -/

/-- A cut with a fence in each of some slots, and v2 the token of slot 0. -/
def fenced (fs : List (Option Fence)) (c : Cut) : Cut := withV 2 (uVal 0) { c with ctx := { c.ctx with fences := fs ++ List.replicate (8 - fs.length) none } }
def fence0 (done : Bool) : Fence := ⟨0, 0, false, false, 3, 1, [1], 5, done⟩
def fault0 : LateFault := ⟨1, 2, 0, 0x80, dataPtr, 1, placedPtr, 0⟩

/-- A state with a store that a fence of the cut covers. -/
def covering (c : Cut) : State := { on c with storeQ := [queued (.dev 0x20000) (.bytes [(0, 1)])], nextSeq := 5 }

theorem witness_FenceInstructions : Runs (on lane) lane (.fence 1 0 2 1) ∧ lane.fenceSlot (on lane) = some 0
    ∧ (let k := fenced (List.replicate 8 (some (fence0 false))) lane
      k.fenceSlot (covering k) = none ∧ Runs (covering k) k (.fence 0 0 0 1))
    ∧ (∀ k ∈ [lane, withV 2 (uVal 8) lane, fenced [some (fence0 true)] lane, { fenced [some (fence0 true)] lane with late := [fault0] },
        fenced [some (fence0 false)] lane], Runs (covering k) k (.fwait 2) ∧ Runs (covering k) k (.ftest 1 2)) := by
  unfold Runs; decide

theorem witness_FenceInstructions_tokens : lane.tokenOf (uVal 8) = .illegal ∧ lane.tokenOf (uVal 0) = .stale
    ∧ (fenced [some (fence0 true)] lane).tokenOf (uVal 0) = .current 0 (fence0 true) ∧ (fence0 true).done = true ∧ (fence0 true).delivers fault0 = true
    ∧ (let k := fenced [some (fence0 false)] lane
      (((covering k).settleFences k).cutOf 1) = some k ∧ k.tokenOf (k.read ((covering k).settleFences k) 2 []) = .current 0 (fence0 false)
        ∧ (covering k).cutOf 1 = some k ∧ k.ctx.fences.getD 0 none = some (fence0 false)
        ∧ (fence0 false).done = false ∧ k.gov.anyLane = true ∧ k.needsLanes k.gov (uVal 1) = false) := by decide

theorem witness_Barriers : releaseMayIssue (onCrew crew1 (member lane)) (member lane) = true
    ∧ (∀ i ∈ ([.bar 0x70, .bara 1 0x77, .barw 2] : List Instr), Runs (onCrew crew1 (member lane)) (member lane) i ∧ Runs (on lane) lane i)
    ∧ lane.arrived = none ∧ (let k := { member lane with arrived := some (0, 0) }; Runs (onCrew crew1 k) k (.bar 0x70))
    ∧ (member lane).uniformOf ((member lane).read (onCrew crew1 (member lane)) 2 []) = some 0 ∧ lane.crew = none
    ∧ (member lane).crewIn (onCrew crew1 (member lane)) = some crew1 := by unfold Runs; decide

theorem witness_Barriers_arrivals : let s := onCrew crew1 lane
    s.crewOf 5 = some crew1 ∧ (s.launchOf 1).qm = false ∧ 7 < crew1.barriers.length ∧ crewItems s 5 ≠ [] ∧ (crew1.barrier 7).next = []
    ∧ (crew1.barrier 7).conds = []
    ∧ (crewItems s 5).Nodup ∧ (∀ x ∈ crewItems s 5, x ∉ (crew1.barrier 7).here) := by decide

/-- A state whose launch declares what crews and roles need. -/
def declaring (s : State) : State :=
  { s with launches := [{ placedLaunch 1 with nslot := 4, space := 4096, chutes := [2], roles := [⟨0x40, 1, 32⟩, ⟨0x80, 2, 64⟩] }] }

theorem witness_CrewsAndRoles : let c := withV 2 (uVal 64) lane
    let s := declaring (on c)
    Runs s c (.cnew 1 2) ∧ c.crew = none ∧ c.isPart = false ∧ c.uniformOf (c.read s 2 []) = some 64 ∧ 1 ≤ (64#64).toNat ∧ (64#64).toNat ≤ 1024 ∧ c.counts ≤ (64#64).toNat
      ∧ (s.crewsOn c.bench).length < 32 ∧ mayReserve s (s.launchOf c.lid).part c.bench (ceilDiv 64 32) c.parent = true
      ∧ freeSlot s (s.launchOf c.lid) false (s.launchOf c.lid).nslot = some 1 ∧ ¬ (1 ≤ (0#64).toNat) ∧ Runs (on lane) lane (.cnew 1 2) := by unfold Runs; decide

theorem witness_CrewsAndRoles_members : let c := withV 2 (uVal crew1.handle) lane
    let s : State := { on c with crews := [crew1] }
    let full : State := { on c with crews := [{ crew1 with capacity := 31 }] }
    Runs s c (.cjoin 1 2) ∧ spaceOf s 1 crew1.handle = some crew1 ∧ crewCount s 5 + c.counts ≤ crew1.capacity ∧ crew1.moving = false ∧ c.bench = crew1.bench
      ∧ Runs full c (.cjoin 1 2) ∧ (31 : Nat) < crewCount full 5 + c.counts ∧ spaceOf (on lane) 1 crew1.handle = none ∧ Runs (on c) c (.cjoin 1 2)
      ∧ (∀ i ∈ ([.cleave, .csize 1, .crank 1] : List Instr), Runs (onCrew crew1 (member lane)) (member lane) i) ∧ (member lane).crew = some 5 := by
  unfold Runs; decide

theorem witness_CrewsAndRoles_role : let c := withV 2 (uVal 1) lane
    Runs (declaring (on c)) c (.role 2) ∧ c.uniformOf (c.read (on c) 2 []) = some 1 ∧ ((declaring (on c)).launchOf 1).roles[1]? = some ⟨0x80, 2, 64⟩
      ∧ c.outst = [] ∧ Runs (declaring (on (awaiting c))) (awaiting c) (.role 2) := by unfold Runs; decide

/-- A member with `q0` bound. -/
def binding (b : Binding) (c : Cut) : Cut := { member c with binds := c.binds.set 0 (some b) }

theorem witness_BindingInstructions : let v : W64 := crew1.handle
    let c := withV 2 (uVal v) (member lane)
    let s := declaring (onCrew crew1 c)
    Runs s c (.qbind 0x50 2 0x70) ∧ Runs s c (.qbind 0x50 2 0x71) ∧ isQ 0x50 = true ∧ c.uniformOf (c.read s 2 []) = some v ∧ fld v 30 18 = 0
      ∧ (s.launchOf 1).chutes.getD (fld v 24 6) 0 ≠ 0
      ∧ s.crews.find? (fun k => k.lid == c.lid && !k.ret && k.slot == fld v 0 24 && k.gen == fld v 48 16) = some crew1
      ∧ (let x := withV 2 (uVal 9) (member lane); Runs (declaring (onCrew crew1 x)) x (.qbind 0x50 2 0x71)
        ∧ (declaring (onCrew crew1 x)).crews.find? (fun k => k.lid == x.lid && !k.ret && k.slot == fld 9 0 24 && k.gen == fld 9 48 16) = none) := by
  unfold Runs; decide

theorem witness_BindingInstructions_ends : (∀ b ∈ [Binding.pop 5 0, .push 5 0], let c := binding b lane
      Runs (onCrew crew1 c) c (.qunbind 0x50) ∧ Runs (onCrew crew1 c) c (.qcnt 1 0x50) ∧ Runs (onCrew crew1 c) c (.qclose 0x50) ∧ c.bindOf 0x50 = some b
        ∧ c.quantum (onCrew crew1 c) = false ∧ 0 < crew1.chutes.length)
    ∧ (let k := { crew1 with streams := [⟨2, [(8, 0)], 1, []⟩] }
      let c := withV 2 (uVal 1) (binding (.stream 5 0) lane)
      let s := onCrew k c
      Runs s c (.sbind 0x50 2) ∧ Runs s c (.srel 0x50 2) ∧ Runs s c (.scnt 1 0x50) ∧ c.bindOf 0x50 = some (.stream 5 0) ∧ s.crewOf 5 = some k
        ∧ (1#64).toNat ≤ (k.stream 0).popped ∧ 0 < k.streams.length) := by unfold Runs; decide

/-! ### System registers -/

theorem witness_SystemReads : (∀ n ∈ [0, 1, 2, 0x10, 0x11, 0x12, 0x13, 0x14, 0x15, 0x16, 0x17, 0x18, 0x20, 0x2B, 0x30, 0x31, 0x32, 0x33, 0x34, 0x40, 0x50, 0x51, 0x52],
      Runs (on lane) lane (.csrr 1 (BitVec.ofNat 11 n)))
    ∧ Runs (on lane) lane (.clock 1) ∧ Runs (on lane) lane (.perf 1 2) ∧ lane.lease (on lane) = none
    ∧ lane.outst.any Outst.mayFlag = false ∧ lane.crewIn (on lane) = none ∧ (member lane).crewIn (onCrew crew1 (member lane)) = some crew1
    ∧ Runs (onCrew crew1 (member lane)) (member lane) (.csrr 1 0x33) := by unfold Runs; decide

theorem witness_SystemReads_levels : (let k := looping [⟨placedPtr, placedPtr + 4, 2⟩] lane
      k.ctx.loops.reverse[0]? = some ⟨placedPtr, placedPtr + 4, 2⟩ ∧ Runs (on k) k (.csrr 1 0x20) ∧ Runs (on k) k (.csrr 1 0x23) ∧ k.trap.inh = false)
    ∧ (let k := { inHandler 0 with trap := { (inHandler 0).trap with sloops := List.replicate 4 ⟨placedPtr, placedPtr, 3⟩ } }
      k.trap.inh = true ∧ k.trap.sloops[3]? = some ⟨placedPtr, placedPtr, 3⟩ ∧ Runs (on k) k (.csrr 1 0x2B))
    ∧ (let s : State := { on lane with leases := [⟨0, false, 0, 0x81, []⟩] }
      lane.lease s = some ⟨0, false, 0, 0x81, []⟩ ∧ Runs s lane (.perf 1 2) ∧ (0x81 : Nat).testBit (63 / 8) = true ∧ (0x81 : Nat).testBit (8 / 8) = false) := by
  unfold Runs; decide

theorem witness_SystemWrites : lane.uniformOf (lane.read (on lane) 2 []) = some 0
    ∧ (∀ n ∈ [0, 1, 2, 0x11, 0x14, 0x20, 0x2B], Runs (on lane) lane (.csrw 2 (BitVec.ofNat 11 n)) ∧ Runs (on (inHandler 0)) (inHandler 0) (.csrw 2 (BitVec.ofNat 11 n)))
    ∧ modeLegal 0 = true ∧ modeLegal 0x30000 = false ∧ (inHandler 0).trap.inh = true ∧ lane.trap.inh = false ∧ fld (0#64) 32 31 = 0
    ∧ (inHandler 0).trap.sloops[3]? = some ⟨0, 0, 0⟩ ∧ Runs (on lane) lane (.flags 1 2) ∧ Runs (on lane) lane (.flagc 1 2) := by unfold Runs; decide

/-- A context of firmware's: address space 0 is privileged. -/
def firmware (s : State) : State := { s with contexts := [⟨0, 3#64 <<< 62, 0, 0, 0⟩] }

theorem witness_InvalidationsComplete : Runs (on lane) lane (.tlbinv 2 3) ∧ Runs (on lane) lane (.scrinv 2 3) ∧ privileged (on lane) lane = false
    ∧ privileged (firmware (on lane)) lane = true ∧ Runs (firmware (on lane)) lane (.tlbinv 2 3) ∧ Runs (firmware (on lane)) lane (.scrinv 2 3)
    ∧ Runs (firmware (onCrew crew1 (member lane))) (member lane) (.scrinv 2 3)
    ∧ ((onCrew crew1 lane).crews.filter fun k => ((onCrew crew1 lane).launchOf k.lid).asid == 0 && k.bench == 0) = [crew1]
    ∧ crew1.pages.length = 0 + 1 ∧ (crew1.page 0).state = .res ∧ (crew1.page 0).pins = 0 ∧ (crew1.page 0).dirty = false ∧ crew1.ret = false := by
  unfold Runs; decide

/-! ### Engines -/

def wordBytes (ws : List W64) : List Byte := ws.flatMap fun (w : W64) => bytesLE 8 w.toNat

/-- A state with words at the data pointer, whose page the Bench and the dies translate, and tables that name partition 0. -/
def holding (ws : List W64) (s : State) : State :=
  { s with
    mem := cellsPut tables 0x20000 (wordBytes ws)
    tlb := s.tlb ++ [⟨.die 0, 0, 2, 0, dataObj, 0x20000, true⟩, ⟨.die 0, 0, 1, 0, placedCode, placedFrame, true⟩] }

/-- Cards of a line copy, a tile copy and a multicast from one part of the data to another, or to a space. -/
def lineCard : List W64 := [1#64 <<< 61, dataPtr + 0x100, dataPtr + 0x200, 0, 64, 0, 0, 0]
def tileCard : List W64 := [1#64 <<< 61, dataPtr + 0x100, dataPtr + 0x200, 0, BitVec.ofNat 64 (2 ^ 48 + 64 * 2 ^ 32 + 64), BitVec.ofNat 64 (2 ^ 48 + 64 * 2 ^ 32 + 64), 0, 0]
def castCard : List W64 := [BitVec.ofNat 64 (2 ^ 61 + 2 ^ 57 + 2 ^ 32), dataPtr + 0x100, 0, 0, BitVec.ofNat 64 (2 ^ 48 + 64 * 2 ^ 32 + 64), BitVec.ofNat 64 (2 ^ 48 + 64 * 2 ^ 32 + 64), 0, 0]

theorem witness_JobsRun : (∀ p ∈ ([(.cpy 0 2, 0, 1, 0, lineCard), (.cpyt 0 2, 1, 1, 0, tileCard), (.cpym 0 2 0x1E, 2, 4, 0x1E, castCard)]
      : List (Instr × Nat × Nat × BitVec 14 × List W64)),
      let s := holding p.2.2.2.2 (on data)
      Runs s data p.1 ∧ data.cardItems (data.read s 2 []) = [(0, dataPtr)] ∧ (jobCheck s data p.2.1 p.2.2.1 p.2.2.2.1 dataPtr).cause = 0
        ∧ effectMayIssue s data = true ∧ data.cardsClear s (data.read s 2 []) = true ∧ data.jobRoom s ≠ 0 ∧ data.issuing = [] ∧ data.onMill = false
        ∧ data.quantum s = false)
    ∧ (∀ q, q < 4 → quadOwner (on data) (4 * coordBench 0x1E + q) = some ((on data).launchOf 1).part)
    ∧ Runs (on nobody) nobody (.cpy 0 2) ∧ nobody.governed = [] ∧ nobody.replay = 0
    ∧ (jobCheck (holding lineCard (on data)) data 1 1 0 dataPtr).cause ≠ 0 ∧ (jobCheck (holding lineCard (on data)) data 1 1 0 dataPtr).reason ≠ 0
    ∧ data.isPattern = false ∧ data.quantum (quantally (holding lineCard (on data))) = true := by
  unfold Runs
  refine ⟨?_, by decide, by decide, by decide, by decide, by decide, by decide, by decide, by decide⟩
  intro p h
  simp only [List.mem_cons, List.not_mem_nil, or_false] at h
  rcases h with rfl | rfl | rfl <;> decide

theorem witness_JobsRun_foreign : let s := holding castCard (on data)
    Runs s data (.cpym 0 2 0x003E) ∧ (coordMask 0x3E).testBit 0 = true ∧ quadOwner s (4 * coordBench 0x3E + 0) ≠ some (s.launchOf 1).part
      ∧ (∃ w, readCard s data dataPtr = .words w ∧ cardReason 2 4 false w = 0) ∧ data.crew.isSome = false := by
  unfold Runs
  exact ⟨by decide, by decide, by decide, ⟨castCard, by decide, by decide⟩, by decide⟩

/-- A job of launch 1 in a state. -/
def job (st : JobState) (card : List W64) : Job := ⟨3, 1, 1, 0, 1, 0, 0, card, 1, 0, 0, 0, some 5, 0, false, st, 0, 0, 0, 0, placedPtr⟩
def working (j : Job) : State := { holding [] (onCrew crew1 lane) with jobs := [j] }

theorem witness_JobsRun_start : let j := job .issued lineCard
    let s := working j
    let t := j.touched.foldl (fun (s : State) p => s.xlatted j.unit j.asid p.1) s
    s.jobs.find? (·.id == j.id) = some j ∧ (s.launchOf j.lid).qm = false ∧ j.copy.strm = false ∧ j.id ∈ (sortBy id (outstanding s j.lid j.die)).take 256
      ∧ edgesHold s j.lid j.id (j.copy.reads j.handle) j.copy.writes = false ∧ j.missing s = [] ∧ s.flaws = [] ∧ j.copy.sscr = false ∧ j.copy.dscr = false
      ∧ ∀ r ∈ j.copy.sourceRows, readRow t j r = .bytes (List.replicate 64 0) := by decide

theorem witness_JobsRun_end : (let j := job .writing lineCard
      jobWrites (working j) j.id = false ∧ j.copy.cnt = 0 ∧ j.copy.evt = false)
    ∧ (let j := job .writing [BitVec.ofNat 64 (2 ^ 61 + 2 ^ 60), dataPtr, dataPtr, 0, 64, 0, 0, 0]
      j.copy.evt = true ∧ j.crew.bind (working j).crewOf = some crew1 ∧ crew1.postWait = [] ∧ crew1.events.length < 64)
    ∧ (let j := job .waiting lineCard
      let s : State := { onTables lane with jobs := [j] }
      j.missing s ≠ [] ∧ j.since + waitLimit s (s.launchOf 1).part ≤ s.cycle)
    ∧ (let k : Crew := { crew1 with postWait := [3] }
      let j := job .posting lineCard
      let s : State := { onCrew k lane with jobs := [j] }
      s.jobs.find? (·.id == j.id) = some j ∧ s.crewOf 5 = some k ∧ (s.launchOf 1).qm = false ∧ j.copy.strm = false ∧ k.postWait = j.id :: []
        ∧ k.events.length < 64 ∧ j.copy.cnt = 0) := by decide

/-- A cut whose v3 is the bound of a `CWAIT`, and whether its counter is found with a verdict. -/
def bounded (n : W64) : Cut := withV 3 (uVal n) data
def counted (n : W64) (met : Bool) : Bool :=
  let k := bounded n
  let s := holding [] (on k)
  let as := k.counterItems s 2 3
  match counterLocs s k as with
  | none => false
  | some ls => countersMet (s.translated k ⟨8, 1, .read⟩ as) k (k.read s 3 [2]) ls == met

theorem witness_WaitsForEvents : let s := holding [] (on data)
    Runs s data (.cwait 0 1 2 3) ∧ readMayIssue s data = true ∧ data.isPart = false ∧ data.gov ≠ .none ∧ s.flaws = []
      ∧ clean s data ⟨8, 1, .read⟩ true false (data.counterItems s 2 3) = true ∧ s.remotes = []
      ∧ data.needsLanes data.gov (uVal 0) = false
      ∧ Runs (holding [] (on (bounded 1))) (bounded 1) (.cwait 0 1 2 3) := by unfold Runs; decide

theorem witness_WaitsForEvents_counters : counted 0 true = true ∧ counted 1 false = true := by decide

theorem witness_WaitsForEvents_events : (∀ k ∈ [crew1, { crew1 with events := [(9, 3), (8, 3)] }], let c := member lane
      Runs (onCrew k c) c (.evwait 1) ∧ Runs (onCrew k c) c (.evpeek 1) ∧ c.crewIn (onCrew k c) = some k ∧ (onCrew k c).crewOf 5 = some k
        ∧ readMayIssue (onCrew k c) c = true) := by unfold Runs; decide

/-! ### Collectives -/

/-- The card of a broadcast of four i32 from rank 0, and that of a reduction to rank 0. -/
def castOp : List W64 := [BitVec.ofNat 64 (3 * 2 ^ 61 + 3 * 2 ^ 56 + 4 * 2 ^ 48), dataPtr + 0x100, dataPtr + 0x200, 4, 0, 0, 0, 0]
def reduceOp : List W64 := [BitVec.ofNat 64 (3 * 2 ^ 61 + 4 * 2 ^ 56 + 4 * 2 ^ 48), dataPtr + 0x100, dataPtr + 0x200, 4, 0, 0, 0, 0]

/-- An operation of slot 0, and the slot of two members with it. -/
def operation (rank : Nat) (card : List W64) : CollOp :=
  ⟨3, 0, 1, false, 1, 0, 1, 0, 1, none, 0, 0, placedPtr, card, rank, 2, none, none, 0, true, false, none, [], 0, none, 0, [], [], false⟩
def slot (rank : Nat) (ops : List CollOp) : Comm := ⟨0, 1, true, 2, rank, [0, 1], 1, 1, 0, ops.length, none, ops, [], [], []⟩
def talking (k : Comm) (c : Cut) : State := { holding castOp (on c) with comms := [k], cycle := 940, nextId := 4 }

/-- A cut with a card's pointer and a handle of slot 0, generation 1, two members. -/
def caller : Cut := withV 3 (uVal (BitVec.ofNat 64 (2 ^ 48 + 2 * 2 ^ 32))) data

theorem witness_CollectiveInstructions : let s := talking (slot 1 []) caller
    let y := BitVec.ofNat 64 (2 ^ 48 + 2 * 2 ^ 32)
    Runs s caller (.coll 0 1 2 3) ∧ caller.isPart = false ∧ caller.uniformOf (caller.read s 2 []) = some dataPtr ∧ caller.uniformOf (caller.read s 3 [2]) = some y
      ∧ caller.mixedGuard = false ∧ caller.governed ≠ [] ∧ effectMayIssue s caller = true ∧ caller.cardsClear s (caller.read s 2 []) = true
      ∧ (collCheck s caller dataPtr y).cause = 0 ∧ collsHeld s 0 < 8 ∧ caller.jobRoom s ≠ 0 ∧ (s.commOf 0).live = true ∧ (s.commOf 0).settling = []
      ∧ (s.commOf 0).inbox = [] ∧ fld y 48 16 = (s.commOf 0).gen ∧ (s.commOf 0).broken = none ∧ (s.commOf 0).next < 2 ^ 24 ∧ caller.quantum s = false := by
  unfold Runs; decide

/-- A cut with a ticket of the operation in v2. -/
def ticket : Cut := withV 2 (uVal (BitVec.ofNat 64 (2 ^ 48))) lane

theorem witness_CollectiveInstructions_status : let s := talking (slot 1 [operation 1 castOp]) ticket
    let done : State := { s with comms := [{ slot 1 [] with words := [(1, 0, 1#64 <<< 62, 3)] }] }
    let x := BitVec.ofNat 64 (2 ^ 48)
    Runs s ticket (.cstat 1 2 0x71) ∧ Runs s ticket (.cabort 2) ∧ ticket.uniformOf (ticket.read s 2 []) = some x ∧ readMayIssue s ticket = true
      ∧ readMayIssue done ticket = true ∧ effectMayIssue s ticket = true ∧ ticket.isPart = false
      ∧ fld (ticketStatus s x).1 62 2 = 0 ∧ fld (ticketStatus done x).1 62 2 ≠ 0 ∧ Runs done ticket (.cstat 1 2 0x71) ∧ Runs done ticket (.cabort 2)
      ∧ (pendingOp s x).isSome = true ∧ pendingOp done x = none
      ∧ s.commWith 3 = some (slot 1 [operation 1 castOp]) ∧ s.commOf 0 = slot 1 [operation 1 castOp] ∧ (operation 1 castOp).rank ≠ 0
      ∧ (slot 1 [operation 1 castOp]).op 3 = some (operation 1 castOp) ∧ (operation 1 castOp).word = none ∧ (operation 1 castOp).reports = [] := by unfold Runs; decide

theorem witness_CollectiveMessages : (∀ o ∈ [operation 1 castOp, operation 0 castOp, operation 1 reduceOp, { operation 1 castOp with stopped := true, own := some ⟨1, 3, 1⟩ },
      { operation 0 castOp with stopped := true, reports := [⟨1, 3, 1⟩] }], let s := talking (slot o.rank [o]) lane
      s.commOf 0 = slot o.rank [o] ∧ (slot o.rank [o]).opSeq 0 = some o ∧ (slot o.rank [o]).op o.id = some o ∧ o.started = true
        ∧ (slot o.rank [o]).live = true ∧ o.word = none ∧ (⟨1, 5, 1⟩ : Report) ∉ o.reports ∧ (⟨o.rank, 1, 0⟩ : Report) ∉ o.reports)
    ∧ (operation 1 castOp).stopped = false ∧ (slot 1 []).rank ≠ 0
    ∧ (let o := operation 1 castOp
      let s := talking (slot 1 [o]) lane
      o.card_.op = 3 ∧ o.takes 0 0 16 = true ∧ (∀ q ∈ segments (ptrAdd o.card_.dst 0) 16, (xlat s o.unit o.asid q.1).loc ≠ none)
        ∧ opDeadline (slot 1 [o]) o ≤ s.cycle ∧ o.waitsOn (slot 1 [o]) = some 0)
    ∧ (operation 1 reduceOp).card_.op = 4 ∧ (operation 1 reduceOp).rank ≠ (operation 1 reduceOp).card_.root := by decide

theorem witness_CollectiveMessages_windows : (let o := { operation 1 castOp with stopped := true, own := some ⟨1, 3, 1⟩ }
      windowOver (talking (slot 1 [o]) lane) (slot 1 [o]) o.firstAt = true ∧ o.own.isSome = true ∧ o.reports.any (fun r => r.rank == 0 && r.reason == 1 && r.failrank == 1) = false)
    ∧ (let o := { operation 0 castOp with stopped := true, reports := [⟨1, 3, 1⟩] }
      windowOver (talking (slot 0 [o]) lane) (slot 0 [o]) o.firstAt = true ∧ leastReport o.reports = some ⟨1, 3, 1⟩) := by decide

/-! ### Other devices -/

def distant : Loc := .remote 9 0 1 0
def remoteLoad : Outst := Outst.of 9 4 0 (.load false false 4 1 [⟨0, 0, distant, dataPtr, none, false⟩])
def asking (r : Remote) (o : Outst) : State := { on (expecting o) with remotes := [r] }
def request : Remote := ⟨3, 0, 1, some 0, 0, distant, dataPtr, [0, 0, 0, 0], 0, none⟩

theorem witness_RemoteAndLinks : (let s := asking request remoteLoad
      s.remotes.find? (·.id == 3) = some request ∧ request.store = none ∧ request.kind = 0 ∧ request.outst = some 0
        ∧ (∃ c ∈ s.cuts, ∃ o ∈ c.outst, o.id = 0 ∧ ∃ x ∈ o.what.reads, x.loc = request.loc ∧ x.lane = request.lane ∧ x.got = none)
        ∧ request.since + remoteDeadline s (s.launchOf (request.lid s)).part ≤ 1000 * 940)
    ∧ (let r : Remote := { request with kind := 1, outst := none, store := some (queued distant (.bytes [(0, 1)])) }
      (asking r worked).remotes.find? (·.id == 3) = some r) := by decide

theorem witness_RemoteAndLinks_requests : let s := holding [] (on lane)
    s.flaws = [] ∧ accessCause (s.xlatted (.die 0) 0 dataPtr) (.die 0) 0 dataPtr 4 4 .read = 0
      ∧ accessCause (s.xlatted (.die 0) 0 dataPtr) (.die 0) 0 dataPtr 2 1 .write = 0 ∧ accessCause s (.die 0) 0 0 4 4 .read ≠ 0
      ∧ (accessLocs (s.xlatted (.die 0) 0 dataPtr) (.die 0) 0 dataPtr 1 4) = some [.dev 0x20000, .dev 0x20001, .dev 0x20002, .dev 0x20003]
      ∧ beyondAt [.dev 0x20000] = false ∧ erroredAt s [.dev 0x20000] = false ∧ flushHolds s (sectorOf 0x20000) = false := by decide

theorem witness_RemoteAndLinks_links : let s := State.reset.setReg (regLkstat 3) (1#64 <<< 63)
    bit (s.reg (regLkstat 3)) 63 = true ∧ resendsOf s 3 < 16 ∧ resendsOf ({ s with resends := [(3, 16)] } : State) 3 = 16 ∧ 7 ∉ s.retiredUcie := by decide

/-! ### Firmware and host -/

theorem witness_RegisterWrites : Canonical (State.reset.setReg (regCtime) 5) ∧ windowOf State.reset 0 0 = ⟨0, 0, 0, 0, 0⟩
    ∧ bit (State.reset.reg regCres) 63 = true ∧ fld (4#64 <<< 56) 56 8 ∉ [1, 2, 3]
    ∧ (0x100000 ≤ regQcfg 0 ∧ regQcfg 0 < 0x200000 ∧ regQcfg 0 % 0x200 = 0 ∧ 13 ≤ fld (0xD0 : W64) 4 4) := by
  refine ⟨⟨by decide, by decide, ?_⟩, by decide, by decide, by decide, by decide⟩
  decide

/-- A state whose command registers name a list of one member, this device and slot. -/
def commanded (v : W64) : State :=
  ((holding [] State.reset).setReg regCtime (BitVec.ofNat 64 (5 * 2 ^ 32 + 5))).setReg regCmemb v

theorem witness_FirmwareCommands : let s := commanded 0x30000
    mayCommand s = true ∧ (s.commOf 0).live = false ∧ listInvalid s 0 0 1 = false ∧ ownerWrong s (s.commOf 0) = false ∧ listInvalid s 0 0 0 = true
      ∧ ownerWrong (State.reset) (s.commOf 0) = true := by decide

theorem witness_FirmwareCommands_live : let k : Comm := { Comm.free 0 with live := true, size := 1, members := [0], gen := 1 }
    let s : State := { commanded 0x30000 with comms := [k] }
    (s.commOf 0).live = true ∧ listInvalid s 0 0 1 = false ∧ outOfOrder k.members (memberList s 1) = false ∧ ownerWrong s k = false
      ∧ (k.ops.map (·.id)).Nodup ∧ ([operation 1 castOp].map (·.id)).Nodup ∧ outOfOrder [0, 1#64 <<< 40] [1#64 <<< 40, 0] = true := by decide

theorem witness_FirmwareCommands_ownership : bit (State.reset.reg regOwnstat) 63 = true ∧ State.reset.flaws = []
    ∧ bit ((State.reset.setReg regOwnstat 0).reg regOwnstat) 63 = false ∧ tableOk (State.reset.owning []) = true
    ∧ tableOk (State.reset.owning (List.replicate 1024 0xFF ++ [0])) = false := by decide

theorem witness_FirmwareCommands_reload : let s : State := { on (awaiting lane) with ownNew := some [] }
    s.ownNew = some [] ∧ tableOk (s.owning []) = true ∧ (s.leaveUnits (s.owning [])).cuts.any (·.leaving) = true
      ∧ (∀ c ∈ (on lane).cuts, c.outst = [] ∧ c.leaving = false) := by decide

theorem witness_HostEvents : let s := holding [] (on lane)
    s.ckpt = none ∧ s.heldHost = [] ∧ hostBlocked s 0 dataPtr 1 = false ∧ accessCause s ownUnit 0 dataPtr 1 1 .write = 0 ∧ accessLocs s ownUnit 0 dataPtr 1 1 = some [.dev 0x20000]
      ∧ Memory.wf s.mem = true ∧ viewAt (s.xlatted ownUnit 0 dataPtr) 0x20000 = none
      ∧ accessCause s ownUnit 0 dataPtr 4 1 .read = 0 ∧ readRange s ownUnit 0 dataPtr 4 = some [0, 0, 0, 0] ∧ accessCause s ownUnit 0 0 1 1 .write ≠ 0
      ∧ ckptRefusal s ≠ 0 ∧ ckptRefusal State.reset = 0 ∧ ({ s with ckpt := some (1, 0) } : State).ckpt.isSome = true := by decide

theorem witness_HostEvents_held : let s : State := { State.reset with ckpt := some (1, 0), heldHost := [.memory 0 dataPtr [1], .event (.pmapWrite 0 0)] }
    hostBlocked s 0 dataPtr 1 = true ∧ s.heldHost ≠ [] ∧ byHost (.pmapWrite 0 0) = true ∧ s.agenda = [] ∧ s.issue = []
      ∧ hostBlocked { s with ckpt := none } 0 dataPtr 1 = false := by decide

/-! ### Queues and launches -/

/-- The registers of queue 0, served for partition 0, with a ring at the data pointer that holds one entry. -/
def serving (s : State) : State :=
  ((((s.setReg (regPcfg 0) (1#64 <<< 63)).setReg (regVfmap 0) (1#64 <<< 63)).setReg (regQcfg 0) (1#64 <<< 63)).setReg (regQbase 0) dataPtr).setReg (regQtail 0) 1

/-- An entry, and a record of 32 by 1 by 1 items at the placed code. -/
def entry : List W64 := [dataPtr + 0x100, 7, 0, 0]
def record : List W64 := [placedPtr, 32, 1, 1] ++ List.replicate 28 0
def ring : List W64 := entry ++ List.replicate 28 0 ++ record

theorem witness_LaunchEnqueues : let s := holding ring (on data)
    Runs (on nobody) nobody (.launch 0 1 2 3) ∧ nobody.governed = [] ∧ Runs s data (.launch 0 1 2 3) ∧ data.governed = data.positions ∧ data.governed ≠ []
      ∧ data.uniformOf (data.read s 2 []) = some dataPtr ∧ data.uniformOf (data.read s 3 [2]) = some 0 ∧ releaseMayIssue s data = true ∧ data.quantum s = false
      ∧ fenceDone s (data.releasing s 3) = true ∧ accessCause s data.unit 0 dataPtr 32 32 .read = 0
      ∧ imageAt s data dataPtr = some entry ∧ accessCause s data.unit 0 (dataPtr + 8) 32 32 .read ≠ 0 := by unfold Runs; decide

theorem witness_LaunchEnqueues_edges : (let k := withV 3 (uVal 8) data; Runs (on k) k (.launch 0 1 2 3) ∧ k.uniformOf (k.read (on k) 3 [2]) = some 8)
    ∧ accessCause (onTables data) data.unit 0 dataPtr 32 32 .read = 0 ∧ imageAt (onTables data) data dataPtr = none ∧ Runs (onTables data) data (.launch 0 1 2 3)
    ∧ entry.length = 4 ∧ ¬ (entry = [] ∨ 2 ≤ fld (wordAt entry 1) 56 8 ∨ fld (wordAt entry 1) 32 18 ≠ 0) := by unfold Runs; decide

theorem witness_LaunchEnqueues_queue : let s := serving (holding ring State.reset)
    (served s 0).isSome = true ∧ served State.reset 0 = none ∧ ¬ (ringSize s 0 ≤ (queueTail s 0 + 2 ^ 32 - queueHead s 0) % 2 ^ 32)
      ∧ (accessLocs s ownUnit (queueAsid s 0) (entryPtr s 0 (queueTail s 0)) 1 32).isSome = true
      ∧ (let t := s.setReg (regQtail 0) 16; ringSize t 0 ≤ (queueTail t 0 + 2 ^ 32 - queueHead t 0) % 2 ^ 32) := by decide

/-! ### Launches -/

/-- Queue 0 with its ring of one entry, and the quadrants of Bench 0. -/
def ringing : State := { serving (holding ring State.reset) with own := [0, 0, 0, 0] }

theorem witness_LaunchLifecycle_take : served ringing 0 = some 0 ∧ ringing.flaws = [] ∧ ringing.takenOf 0 = none ∧ queueHead ringing 0 ≠ queueTail ringing 0
    ∧ readObj ringing (queueAsid ringing 0) (entryPtr ringing 0 (queueHead ringing 0)) 32 = .bytes (wordBytes entry)
    ∧ words8 (wordBytes entry) = entry ∧ fld (wordAt entry 1) 56 8 < 2 ∧ bit (wordAt entry 1) 55 = false ∧ fld (wordAt entry 1) 32 18 = 0
    ∧ wordAt entry 2 = 0 := by decide

/-- An entry in hand whose record lies at a pointer. -/
def inHand (p : W64) : Taken := ⟨0, 0, 0, 0, false, 0, 0, false, 7, p, p, 0, [], [], 0, true, none, none⟩
def admitting (t : Taken) : State := { ringing with taken := [t] }

/-- The first absent page of the data. -/
def farPtr : W64 := dataPtr + 0x10000

theorem witness_LaunchLifecycle_verdicts : (let t := inHand (dataPtr + 1)
      (admitting t).takenOf 0 = some t ∧ verdictOf (admitting t) t 0 = .reject 2)
    ∧ (let t : Taken := { inHand farPtr with waiting := some (farPtr, 0, 0) }
      let s : State := { admitting t with cycle := 940000 }
      s.takenOf 0 = some t ∧ verdictOf s t 0 = .wait farPtr 2 ∧ 0 + waitLimit s 0 ≤ s.cycle ∧ pageResident s ownUnit t.asid farPtr = false) := by decide

/-- The record in the ring's page. -/
def read1 : Record := ⟨record, [], [], [], [], [], []⟩

theorem witness_LaunchLifecycle_admits : let t := inHand (dataPtr + 0x100)
    (admitting t).takenOf 0 = some t ∧ verdictOf (admitting t) t 0 = .ok read1 ∧ quadsOwned ringing 0 ≠ 0 ∧ mustFollow (admitting t) t read1 = false
      ∧ read1.parmObj = 0 ∧ exhausted (admitting t) 0 (fld (wordAt read1.w 4) 24 4) = false := by decide

/-- A state of a launch that is not absent. -/
def launched (l : Launch) (s : State) : State := { s with launches := [l], cycle := 940000 }
def fresh (st : LaunchState) (doneP : W64) : Launch := { placedLaunch 1 with state := st, doneP := doneP }

theorem witness_LaunchLifecycle_dispatch : let l := fresh .admitted 0
    (launched l ringing).launches.find? (·.lid == l.lid) = some l ∧ freeForeman (launched l ringing) l = some 0 := by decide

theorem witness_LaunchLifecycle_completion : launchDone (launched (fresh .running 0) ringing) 1 = true
    ∧ (let l := fresh .recording dataPtr
      let s := launched l ringing
      recordLocs s l = some ((List.range 32).map fun i => .dev (0x20000 + i)) ∧ (∀ i, i < 32 → flushHolds s (sectorOf (0x20000 + i)) = false)
        ∧ erroredAt s ((List.range 32).map fun i => .dev (0x20000 + i)) = false ∧ beyondAt ((List.range 32).map fun i => .dev (0x20000 + i)) = false)
    ∧ (let l := fresh .recording farPtr
      let s := launched l ringing
      recordLocs s l = none ∧ l.since + waitLimit s l.part ≤ s.cycle ∧ l.endState < 4 ∧ l.endReason < 64) := by decide

/-- An ownership table: the quadrants of Bench 0 and every district are of partition 0. -/
def owning : List Byte := List.replicate 4 0#8 ++ (List.replicate 1020 0xFF#8 ++ List.replicate 48 0#8)

/-- A page of the data in a stack of die 1. -/
def distantPage : State :=
  let t := cellsPut tables 0x2000 (bytesLE 8 (2 ^ 63 + 6 * 2 ^ 36))
  launched { fresh .admitted 0 with ranges := [(dataPtr, 1)] } { State.reset with
    mem := t, own := owning }

theorem witness_LaunchLifecycle_page : let s := distantPage
    let l := s.launchOf 1
    l.state = .admitted ∧ l.ranges[0]? = some (dataPtr, 1) ∧ (migratePages s l.asid (dataPtr, 1))[0]? = some dataPtr
      ∧ (walk s ownUnit l.asid dataPtr).loc.isSome = true ∧ (objectOf s l.asid (objOf dataPtr)).any (fun e => e.kind == 0 && !e.large && e.plist == 0x2000) = true
      ∧ dieOfStack (stackOf (fld (BitVec.ofNat 64 (homeWord s 0x2000 8)) 16 24 * 2 ^ 16)) = 1 ∧ dieOfStack (stackOf 0x30000) = 0
      ∧ isDevice 0x30000 = true ∧ districtOwner s (districtOf 0x30000) = some l.part := by decide

theorem distantPage_byte (i : Nat) (h : i < 1024) : distantPage.own.getD i 0xFF#8 = if i < 4 then 0#8 else 0xFF#8 := by
  show owning.getD i 0xFF#8 = _
  rw [List.getD_eq_getElem?_getD]
  unfold owning
  generalize List.replicate 48 0#8 = r
  by_cases g : i < 4
  · rw [List.getElem?_append_left (by rw [List.length_replicate]; exact g), List.getElem?_replicate, if_pos g, if_pos g]
    rfl
  · rw [List.getElem?_append_right (by rw [List.length_replicate]; omega), List.getElem?_append_left (by rw [List.length_replicate, List.length_replicate]; omega),
      List.getElem?_replicate, if_neg g, if_pos (by rw [List.length_replicate]; omega)]
    rfl

theorem distantPage_owner (i : Nat) (h : i < 1024) : quadOwner distantPage i = if i < 4 then some 0 else none := by
  unfold quadOwner ownerAt
  rw [distantPage_byte i h]
  by_cases g : i < 4
  · rw [if_pos g, if_pos g]; rfl
  · rw [if_neg g, if_neg g]; rfl

theorem distantPage_benches : (List.range 256).filter (fun b => (List.range 4).any fun n => quadOwner distantPage (4 * b + n) == some 0) = [0] := by
  rw [List.filter_congr (q := fun b => decide (b = 0)) ?_]
  · decide
  · intro b h
    have h := List.mem_range.mp h
    rw [show (List.range 4) = [0, 1, 2, 3] from rfl]
    simp only [List.any_cons, List.any_nil, Bool.or_false]
    rw [distantPage_owner _ (by omega), distantPage_owner _ (by omega), distantPage_owner _ (by omega), distantPage_owner _ (by omega)]
    by_cases g : b = 0
    · subst g; rfl
    · simp [g, show ¬ 4 * b < 4 by omega, show ¬ 4 * b + 1 < 4 by omega, show ¬ 4 * b + 2 < 4 by omega, show ¬ 4 * b + 3 < 4 by omega]

theorem placement_one (s : State) (part : Nat) (h : fld (s.reg (regPmap part)) 6 34 = 0)
    (e : (List.range 256).filter (fun b => (List.range 4).any fun n => quadOwner s (4 * b + n) == some part) = [0]) : placement s part = [0] := by
  unfold placement
  simp only [h, Nat.zero_mul, if_true]
  rw [show Config.benches = 256 from rfl, e]
  rfl

theorem witness_LaunchLifecycle_placed : placedDies distantPage (distantPage.launchOf 1) = [0] := by
  have p : (distantPage.launchOf 1).part = 0 := by decide
  unfold placedDies
  rw [p, placement_one distantPage 0 (by decide) distantPage_benches]
  rfl

/-! ### Looms -/

/-- Tile maps of one line: A and B of 32 f16, C of 32 f32. -/
def mapA : TileMap := ⟨dataPtr, BitVec.ofNat 64 (8 * 2 ^ 58 + 1), 1, 32, 64, 0, 0⟩
def mapB : TileMap := ⟨dataPtr + 0x100, BitVec.ofNat 64 (2 ^ 62 + 8 * 2 ^ 58 + 1), 32, 1, 64, 0, 0⟩
def mapC : TileMap := ⟨dataPtr + 0x200, BitVec.ofNat 64 (2 * 2 ^ 62 + 10 * 2 ^ 58 + 1), 1, 32, 128, 0, 0⟩
def handleA : W64 := 0
def handleB : W64 := 1#64 <<< 56
def handleC : W64 := 2#64 <<< 56

/-- A state whose launch declares the maps. -/
def mapped (c : Cut) : State := { on c with launches := [{ placedLaunch 1 with maps := [mapA, mapB, mapC] }] }

/-- A cut in f16 with values in v4, v5 and v6, and one in f32. -/
def weaving (x y z : W64) : Cut := under 0x80 (withV 6 (uVal z) (withV 5 (uVal y) (withV 4 (uVal x) lane)))
def weaving32 (x : W64) : Cut := under f32 (withV 4 (uVal x) lane)

/-- `LoomReady`, as a test. -/
def ready (s : State) (c : Cut) (u : LoomUse) (ns : List Nat) : Bool :=
  decide (c.issuing = [] ∧ c.isPart = false ∧ c.loomItems ≠ [] ∧ (c.isPattern = false → c.mixedGuard = false))
    && decide (∀ j, j < u.srcs.length → c.isPattern = true ∨ (c.uniformOf (c.read s (u.srcs.getD j 0x4A) (u.srcs.take j))).isSome = true)
    && decide (∀ i ∈ c.loomItems, u.scalesWait s c i = false ∧ claimEnding s (c.claimKey s i) = false)
    && (u.op != 2 || (List.range 4).all fun q => !(coordMask u.coord).testBit q || quadOwner s (4 * coordBench u.coord + q) == some (s.launchOf c.lid).part)
    && decide (c.isPattern = true → (c.loomItems.map (c.claimKey s)).length ≤ 4 * (placement s (s.launchOf c.lid).part).length)
    && decide ((u.op = 4 → storeMayIssue s c = true) ∧ (u.op ≤ 2 → readMayIssue s c = true))
    && decide ((c.isPattern = false → loomWorks s c.quadLoom = true) ∧ c.loomsFor s (c.loomItems.map (c.claimKey s)) = some ns
      ∧ ns.length = (c.loomItems.map (c.claimKey s)).length ∧ ns.Nodup)

theorem ready_holds {s : State} {c : Cut} {u : LoomUse} {ns : List Nat} (h : ready s c u ns = true) : LoomReady s c u ns := by
  simp only [ready, Bool.and_eq_true, decide_eq_true_eq] at h
  obtain ⟨⟨⟨⟨⟨⟨⟨z, a, b, k⟩, d⟩, x⟩, e⟩, f⟩, g, i⟩, j, l, m, n⟩ := h
  refine ⟨z, a, b, k, d, f, x, fun o q hq hb => ?_, g, i, j, l, m, n⟩
  have z := List.all_eq_true.mp ((Bool.or_eq_true _ _).mp e |>.resolve_left (by simp [o])) q (List.mem_range.mpr hq)
  rw [hb] at z
  simpa using z

/-- Whether a cut's operands and rows pass their checks for every item. -/
def builds (s : State) (c : Cut) (u : LoomUse) : Bool :=
  c.loomItems.all fun j => (u.build s c (loomAs s (c.claimKey s j)) j).any fun p => p.2.all fun r => rowCause s c r == 0

theorem builds_holds {s : State} {c : Cut} {u : LoomUse} (h : builds s c u = true) : ∀ j ∈ c.loomItems, ∃ o rows,
    u.build s c (loomAs s (c.claimKey s j)) j = some (o, rows) ∧ ∀ r ∈ rows, rowCause s c r = 0 := by
  intro j hj
  have g := List.all_eq_true.mp h j hj
  cases hp : u.build s c (loomAs s (c.claimKey s j)) j with
  | none => rw [hp] at g; cases g
  | some p =>
    rw [hp, Option.any_some, List.all_eq_true] at g
    exact ⟨p.1, p.2, rfl, fun r hr => by simpa using g r hr⟩

theorem witness_LoomInstructions_products : (let c := weaving handleA handleB 0
      loomUse (.mma 0x70 4 5) = some ⟨1, 0, [4, 5], 0, 0⟩ ∧ Runs (mapped c) c (.mma 0x70 4 5) ∧ ready (mapped c) c ⟨1, 0, [4, 5], 0, 0⟩ [0] = true
        ∧ builds (mapped c) c ⟨1, 0, [4, 5], 0, 0⟩ = true ∧ 1 * c.loomItems.length ≤ tokensFree (mapped c) ((mapped c).launchOf c.lid).part)
    ∧ (let c := weaving 0 handleA handleB
      loomUse (.mmap 4 0x1E) = some ⟨2, 0, [4, 5, 6], 0x1E, 0⟩ ∧ Runs (mapped c) c (.mmap 4 0x1E) ∧ ready (mapped c) c ⟨2, 0, [4, 5, 6], 0x1E, 0⟩ [0] = true
        ∧ builds (mapped c) c ⟨2, 0, [4, 5, 6], 0x1E, 0⟩ = true ∧ 2 * c.loomItems.length ≤ tokensFree (mapped c) ((mapped c).launchOf c.lid).part) := by
  unfold Runs; decide

/-- A Loom claimed by the lane cut, with operations queued. -/
def woven (ops : List LoomOp) : Loom := { freshLoom 0 with claim := some (1, 2 ^ 41 + 1), ops := ops }
def weavingOn (ops : List LoomOp) (c : Cut) : State := { mapped c with looms := [woven ops] }

/-- An operation on accumulator 0 with its operand values. -/
def loomOp (op et : Nat) (a b : W64) : LoomOp := ⟨3, 0, op, 1, 0, 1, 0, 0, 0, 0, a, b, et, 0, false, 0, [], 1, 0, 1, 0, none, false, 0, 0, none, [], [], placedPtr⟩

theorem witness_LoomInstructions_others : (let c := weaving dataPtr 32 0
      Runs (mapped c) c (.mld 0x70 4 5) ∧ ready (mapped c) c ⟨0, 0, [4, 5], 0, 0⟩ [0] = true ∧ builds (mapped c) c ⟨0, 0, [4, 5], 0, 0⟩ = true)
    ∧ (let c := weaving32 handleC
      Runs (mapped c) c (.mzero 0x70) ∧ ready (mapped c) c ⟨3, 0, [], 0, 0⟩ [0] = true ∧ builds (mapped c) c ⟨3, 0, [], 0, 0⟩ = true
        ∧ Runs (mapped c) c (.mdrn 0x70 4 0x73) ∧ ready (mapped c) c ⟨4, 0, [4], 0, 3⟩ [0] = true ∧ builds (mapped c) c ⟨4, 0, [4], 0, 3⟩ = true
        ∧ ((mapped c).loomOf 0).ops.length + (if ((mapped c).loomOf 0).slave then 1 else 0) < 4 ∧ loomIdle (mapped c) [(0, 0), (0, 0 + 1)] = true
        ∧ Runs (mapped c) c (.mwb 4 5) ∧ (mapped c).flaws = []
        ∧ (let s := weavingOn [loomOp 3 10 0 0] c
          Runs s c (.mdrn 0x70 4 0x70) ∧ ready s c ⟨4, 0, [4], 0, 0⟩ [0] = true ∧ builds s c ⟨4, 0, [4], 0, 0⟩ = true
            ∧ loomIdle s [(0, 0), (0, 0 + 1)] = false)) := by unfold Runs; decide

theorem witness_LoomInstructions_illegal : let c := weaving handleC handleB 0
    Runs (mapped c) c (.mma 0x70 4 5) ∧ ready (mapped c) c ⟨1, 0, [4, 5], 0, 0⟩ [0] = true
      ∧ (⟨1, 0, [4, 5], 0, 0⟩ : LoomUse).build (mapped c) c (loomAs (mapped c) (c.claimKey (mapped c) 0)) 0 = none ∧ 0 ∈ c.loomItems := by
  unfold Runs; decide

theorem witness_LoomInstructions_status : (∀ ops ∈ ([[], [loomOp 3 10 0 0]] : List (List LoomOp)), let c := weaving32 0
    let s := weavingOn ops c
    Runs s c (.mstat 1 0x70) ∧ ready s c ⟨5, 0, [], 0, 0⟩ [0] = true ∧ c.loomItems = [0] ∧ c.isPattern = false ∧ (s.loomOf 0).claim = some (c.claimKey s 0))
    ∧ (let c := weaving32 0
      Runs (mapped c) c (.mstat 1 0x70) ∧ ready (mapped c) c ⟨5, 0, [], 0, 0⟩ [0] = true ∧ ((mapped c).loomOf 0).claim = none
        ∧ loomIdle (mapped c) [(0, 0)] = true)
    ∧ loomIdle (weavingOn [] lane) [(0, 0)] = true ∧ loomIdle (weavingOn [loomOp 3 10 0 0] lane) [(0, 0)] = false := by unfold Runs; decide

theorem witness_TileHandles : let c := weaving handleA 0 0
    Runs (mapped c) c (.thmake 1 4 5) ∧ Runs (mapped c) c (.thoff 1 4) ∧ Runs (mapped c) c (.thshape 1 4) ∧ c.isPattern = false ∧ c.governed ≠ []
      ∧ (∀ p ∈ c.governed, (makeHandle ((mapped c).launchOf c.lid) 0 0).isSome = true ∧ (handlePtr ((mapped c).launchOf c.lid) handleA).isSome = true
          ∧ (handleShape ((mapped c).launchOf c.lid) handleA).isSome = true ∧ p < c.span)
      ∧ makeHandle ((mapped c).launchOf c.lid) 7 0 = none ∧ handlePtr ((mapped c).launchOf c.lid) (7#64 <<< 56) = none
      ∧ (under (i32 + 1) lane).gov = .none ∧ Runs (mapped (under (i32 + 1) lane)) (under (i32 + 1) lane) (.thoff 1 4)
      ∧ ((mapped c).launchOf 1).map 0 = some mapA ∧ mapA.kind ≠ 1 ∧ ((mapped c).launchOf 1).map 1 = some mapB ∧ mapB.kind = 1 := by unfold Runs; decide

theorem witness_TileHandles_tests : (Runs (mapped lane) lane (.mfenced 1) ∧ Runs (mapped lane) lane (.mtest 1) ∧ lane.isPattern = false
      ∧ lane.governed ≠ [] ∧ lane.quadLoom = 0 ∧ (woven []).found = none ∧ (woven []).slave = false ∧ (woven []).test = [] ∧ (woven []).asked = none)
    ∧ (let s : State := { mapped lane with looms := [{ woven [] with asked := some 1, found := some 2 }] }
      Runs s lane (.mtest 1) ∧ (s.loomOf 0).found = some 2 ∧ (s.loomOf 0).asked = some lane.uid) := by unfold Runs; decide

theorem witness_LoomWork : let s := weavingOn [loomOp 3 10 0 0] lane
    s.crews = [] ∧ (s.loomOf 0).num = 0 ∧ (s.loomOf 0).ops = [loomOp 3 10 0 0] ∧ (s.loomOf 0).slave = false ∧ (s.loomOf 0).test = [] ∧ (s.loomOf 0).asked = none
      ∧ (s.loomOf 0).accs.length = 4 ∧ (loomOp 3 10 0 0).acc < 3 ∧ haltedAt s 0 (0 / 4) = false ∧ (loomOp 3 10 0 0).slaved = false := by decide

theorem witness_LoomWork_load : let o := loomOp 0 8 dataPtr 32
    let s := weavingOn [o] lane
    let rows := (List.range 16).map fun r => (⟨ptrAdd o.a (r * o.b.toNat), 32, .read, 2⟩ : Row)
    elemBytes 8 = 2 ∧ ∀ r ∈ rows, o.row (s.askPieces 0 o rows) 0 r.ptr r.len = .got (List.replicate 32 0) false := by decide

theorem witness_LoomWork_product : let o := loomOp 1 8 handleA handleB
    let s := weavingOn [o] lane
    let q := (s.askPieces 0 o (mapA.rowsOf (mapA.line0 o.a) (mapA.elem0 o.a + 0) .read ++ mapB.rowsOf (mapB.line0 o.b) (mapB.elem0 o.b + 0) .read)).bringTile
      0 o mapB (mapB.line0 o.b) (mapB.elem0 o.b + 0)
    o.stream = none ∧ o.step < o.steps ∧ (s.launchOf o.lid).mapOf o.b 1 = some mapB ∧ (s.launchOf o.lid).mapOf o.a 0 = some mapA
      ∧ (o.tile q 0 mapB (mapB.line0 o.b) (mapB.elem0 o.b + 0)).isSome = true ∧ (o.tile q 0 mapA (mapA.line0 o.a) (mapA.elem0 o.a + 0)).isSome = true := by decide

theorem witness_LoomWork_drain : (let s := weavingOn [loomOp 4 10 handleC 3] lane
      lane ∈ s.cuts ∧ lane.isOf 1 = true ∧ (s.launchOf 1).mapOf handleC 2 = some mapC ∧ (0 : Nat) < 3 ∧ (∃ i ∈ lane.positions, lane.ilAt s i = 0) ∧ (s.launchOf 1).qm = false ∧ bit (3 : W64) 1 = true)
    ∧ bit (1 : W64) 1 = false ∧ bit (1 : W64) 0 = true ∧ bit (0 : W64) 0 = false := by decide

theorem witness_LoomWork_test : (let s : State := { State.reset with looms := [{ freshLoom 0 with claim := some (1, 0), test := [((1, 0), 0)] }] }
      (s.loomOf 0).num = 0 ∧ (s.loomOf 0).claim = some (1, 0) ∧ (s.loomOf 0).test = [((1, 0), 0)] ∧ (s.loomOf 0).found = none ∧ (s.loomOf 0).accs.length = 4
        ∧ (s.loomOf 0).test ≠ [] ∧ (1#16 &&& ~~~(BitVec.ofNat 16 (fld (s.reg (regLhealth 0)) 0 16))) ≠ 0
        ∧ (lanesOf (BitVec.ofNat 32 (fld (s.reg (regLhealth 0)) 0 16))).length
          + (lanesOf ((1#16 &&& 1#16 &&& ~~~(BitVec.ofNat 16 (fld (s.reg (regLhealth 0)) 0 16))).setWidth 32)).length ≤ 8)
    ∧ Canonical { State.reset with looms := [{ freshLoom 0 with claim := some (1, 0), test := [((1, 0), 0)] }] } :=
  ⟨by decide, by decide, by decide, by decide⟩

/-! ### Mills -/

/-- A cut in an ordinary attempt, and one in a flushed attempt. -/
def inSection (st : SecState) (c : Cut) : Cut := { c with sec := { c.sec with state := st, restore := some c.ctx, width := 0, limit := 1 } }

theorem witness_SectionInstructions : (∀ c ∈ ([lane, millCut] : List Cut), c.isPart = false ∧ c.isPattern = false ∧ c.sec.state = .out)
    ∧ (∀ c ∈ ([lane, millCut] : List Cut), ∀ i ∈ ([.mcommit 0 1, .mrcnt 1, .msig 1 0x70 0x71, .mstate 1, .mesc 1 0x70, .mesc 0x4A 0x71, .mesc 0x4A 0x72]
      : List Instr), Runs (on c) c i) := by unfold Runs; decide

/-- A cut whose v4 is the limit that `MSECT` reads. -/
def limited (n : W64) (c : Cut) : Cut := withV 4 (uVal n) c

theorem witness_SectionInstructions_open :
    (Runs (on (limited 16 lane)) (limited 16 lane) (.msect 1 4) ∧ (limited 16 lane).read (on (limited 16 lane)) 4 [] = uVal 16)
    ∧ (Runs (on (limited 5 lane)) (limited 5 lane) (.msect 1 4) ∧ (limited 5 lane).read (on (limited 5 lane)) 4 [] = uVal 5)
    ∧ (Runs (on (limited 5 millCut)) (limited 5 millCut) (.msect 1 4) ∧ (limited 5 millCut).read (on (limited 5 millCut)) 4 [] = uVal 5)
    ∧ (Runs (on (limited 0 millCut)) (limited 0 millCut) (.msect 1 4) ∧ (limited 0 millCut).read (on (limited 0 millCut)) 4 [] = uVal 0) := by
  unfold Runs; decide

theorem witness_SectionInstructions_flush : lane.onMill = false ∧ millCut.onMill = true ∧ mayFlush (on millCut) millCut = false
    ∧ mayFlush ({ on millCut with assays := [⟨0, [], [], some 1⟩] }) millCut = true := by decide

theorem witness_SectionInstructions_attempt : (∀ c ∈ ([inSection .ordinary lane, inSection .ordinary millCut, inSection .flushed millCut] : List Cut),
      Runs (on c) c (.mcommit 0 1) ∧ c.sec.state ≠ .out ∧ c.outst = [] ∧ Runs (on c) c (.mesc 0x4A 0x71) ∧ Runs (on c) c (.mstate 1)
        ∧ c.sec.total < 2 ^ 32 ∧ c.sec.limit < 16 ∧ c.sec.replays < 256 ∧ c.sec.width < 4 ∧ c.sec.attempt < 256 ∧ c.sec.cause < 16
        ∧ (bufSectors c.sec.buffer).length ≤ 512 ∧ c.sec.flushedCount < 2 ^ 32 ∧ c.sec.returnTraps < 2 ^ 32)
    ∧ benchCommitted (on (inSection .ordinary lane)) (inSection .ordinary lane) = true
    ∧ benchCommitted ({ on (inSection .ordinary lane) with nextSeq := 2, storeQ := [queued (.dev 0x20000) (.bytes [(0, 1)])] }) (inSection .ordinary lane) = false := by
  unfold Runs; decide

/-- A Mill command card of eight lanes, and the command. -/
def millCard : List W64 := [0, BitVec.ofNat 64 (0x40 * 2 ^ 32 + 8), 1, 2, 3, 4, 5, 6]
def command : MillCmd := ⟨0, 1, 1, 0, millCard⟩
def millOwned (s : State) : State := { s with own := List.replicate 1504 0 }

theorem witness_MillWork_send : let s := holding millCard (on data)
    Runs s data (.msend 0 2 0x2000) ∧ data.millCards (data.read s 2 []) = [(0, dataPtr)] ∧ effectMayIssue s data = true ∧ data.onMill = false
      ∧ data.issuing = [] ∧ data.cardsClear s (data.read s 2 []) = true ∧ millRoom s 0 ≠ 0 ∧ data.isPattern = false
      ∧ data.quantum s = false ∧ data.quantum (quantally s) = true ∧ s.launchOf 1 ∈ s.launches ∧ (s.launchOf 1).lid = 1 ∧ coordMill 0x2000 = 0
      ∧ (millCheck s data 0 dataPtr).cause ≠ 0 ∧ readCard s data dataPtr = .words millCard ∧ millCardOk s data millCard = true
      ∧ millOwner s 0 ≠ some (s.launchOf 1).part ∧ (millCheck (millOwned s) data 0 dataPtr).cause = 0
      ∧ Runs (on nobody) nobody (.msend 0 2 0x2000) ∧ nobody.millCards (nobody.read (on nobody) 2 []) = [] := by unfold Runs; decide

theorem witness_MillWork_start : let s : State := { millOwned (on lane) with mills := [⟨0, [command], none, false⟩] }
    (s.millOf 0).queue = [command] ∧ (s.millOf 0).run = none ∧ millMayRun s (s.launchOf 1) = true ∧ millOwner s 0 = some (s.launchOf 1).part := by decide

/-- A state whose Assay unit of stack 0 holds a cut's commit. -/
def offered (c : Cut) : State := { on c with assays := [⟨0, [c.uid], [], none⟩] }
def clashing : Cut := { inSection .ordinary millCut with sec := { (inSection .ordinary millCut).sec with rs := BitVec.allOnes 512, cs := BitVec.allOnes 512 } }

theorem witness_MillWork_commit : (∀ c ∈ ([clashing, inSection .ordinary millCut] : List Cut),
      (commitsAt (offered c) 0).find? (fun d => !d.quantum (offered c) && !heldByFlush (offered c) d) = some c ∧ c.isPattern = false
        ∧ c.sec.implicit = none ∧ c.sec.restore = some c.ctx ∧ c.exiting = false ∧ c.sec.held = [])
    ∧ clashing.sec.conflicts = true ∧ (inSection .ordinary millCut).sec.conflicts = false := by decide

theorem witness_MillWork_flushed : (let s : State := { on millCut with assays := [⟨0, [], [1], none⟩] }
      (s.assayOf 0).running = none ∧ (s.assayOf 0).waiting = [1] ∧ s.cutOf 1 = some millCut)
    ∧ (let c : Cut := { inSection .flushed millCut with sec := { (inSection .flushed millCut).sec with unfrozen := 65537 } }
      (on c).cutOf c.uid = some c ∧ c.onMill = true ∧ c.sec.restore.isSome = true ∧ 65536 < c.sec.unfrozen ∧ c.sec.implicit = none) := by decide

theorem witness_MillWork_returned : let c : Cut := { millCut with place := .returned 0 }
    (on c).cutOf c.uid = some c ∧ c.isPattern = false ∧ ((on c).crewsOn 0).length < 32 ∧ mayReserve (on c) ((on c).launchOf 1).part 0 1 c.parent = true
      ∧ freeSlot (on c) ((on c).launchOf 1) true 8192 = some 1 := by decide

/-! ### Pre-emption, quanta and halting -/

theorem witness_PreemptionWork_slice : let s : State := { (on lane).setReg (regPcfg 0) (1#64 <<< 63) with cycle := 940000 }
    bit (s.reg (regPcfg 0)) 63 = true ∧ (s.sliceOf 0).reporting = false ∧ (s.sliceOf 0).began + sliceLength s 0 ≤ s.cycle
      ∧ preempted (s.credit 0) 0 (s.sliceOf 0).began [] = [] := by decide

/-- The pre-emption of launch 1 in cluster 0. -/
def preempting (action : Nat) : Preempt := ⟨0, 0, 0, action, 0, 0, false, 1, false, [(1, 0, 0)]⟩
def pressed (action cycle : Nat) : State := { on lane with preempts := [preempting action], cycle := cycle }

theorem witness_PreemptionWork_deadlines : (let s := pressed 1 (2 ^ 24)
      s.preempts.filter (fun q => q.action == 1 && (q.part == 0 && !q.finished && !q.ended s && decide (q.since + deadlineOf s 0 / 2 ≤ s.cycle))) = [preempting 1])
    ∧ (let s := pressed 2 (2 ^ 24)
      s.preempts.filter (fun q => q.part == 0 && !q.finished && !q.ended s && decide (q.since + deadlineOf s 0 ≤ s.cycle)) = [preempting 2])
    ∧ (let s := pressed 2 0
      s.preempts.filter (fun q => q.part == 0 && !q.finished && !q.ended s && decide (q.since + deadlineOf s 0 ≤ s.cycle)) = [])
    ∧ placedLaunch 1 ∈ (on lane).launches ∧ (placedLaunch 1).asid = 0 ∧ (placedLaunch 1).live = true := by decide

theorem witness_PreemptionWork_cuts : (on pattern).cutOf pattern.uid = some pattern ∧ pattern.crew = none ∧ pattern.isPattern = true
    ∧ togetherWith (on lane) lane = [lane] ∧ lane.outst = [] ∧ lane.crew = none ∧ (on lane).cutOf lane.uid = some lane
    ∧ togetherWith (on (awaiting lane)) (awaiting lane) = [awaiting lane] ∧ (awaiting lane).outst ≠ []
    ∧ (on lane).contextOf 0 = none ∧ (firmware (on lane)).contextOf 0 ≠ none
    ∧ (let c : Cut := { lane with place := .saved 1 }; c.place.bench ≠ 0 ∧ mayResume (on c) c 0 0 = true)
    ∧ (let c : Cut := { pattern with place := .saved 0 }
      (on c).cutOf c.uid = some c ∧ c.isSaved = true ∧ keptMill (on c) c = none ∧ mayResumeForeman (on c) c 0 = true)
    ∧ (let c : Cut := { lane with place := .saved 0 }
      (on c).cutOf c.uid = some c ∧ c.crew = none ∧ c.isSaved = true ∧ keptMill (on c) c = none ∧ mayResume (on c) c 0 0 = true) := by decide

theorem witness_PreemptionWork_mill : let c : Cut := { millCut with place := .saved 0 }
    let s : State := { millOwned (on c) with mills := [⟨0, [], some (1, command), false⟩] }
    s.cutOf c.uid = some c ∧ c.isSaved = true ∧ c.isPattern = false ∧ keptMill s c = some 0 ∧ millMayRun s (s.launchOf c.lid) = true
      ∧ millOwner s 0 = some (s.launchOf c.lid).part := by decide

theorem witness_PreemptionWork_report : let s : State := { State.reset with slices := [⟨0, 0, [], true⟩] }
    let t := s.finishActions 0
    (t.sliceOf 0).reporting = true ∧ (∀ p ∈ t.preempts.filter (·.part == 0), p.finished = true) ∧ Memory.wf t.mem = true ∧ Memory.wf t.host = true
      ∧ t.win = [] := by decide

/-- A launch in quantum mode with a cut that has retired some instructions. -/
def quantal (n : Nat) : State :=
  { on { lane with retired := n } with launches := [{ placedLaunch 1 with qm := true, quantum := 64 }] }

theorem witness_QuantumCommits : quantumEnds (quantal 3) ((quantal 3).launchOf 1) = false ∧ quantumEnds (quantal 64) ((quantal 64).launchOf 1) = true
    ∧ (quantal 64).qeff = [] ∧ (quantal 64).jobs = [] ∧ (quantal 64).comms = [] ∧ (quantal 64).crews = [] ∧ (quantal 64).assays = []
    ∧ (quantal 64).preempts = [] ∧ (∀ c ∈ (quantal 64).cuts, c.wait = .none) := by decide

/-- An effect of launch 1 that awaits the commit. -/
def effect (cutid : W64) (e : QEffect) : QEntry := ⟨1, 1, cutid, 0, 0, placedPtr, 0, 0, e⟩

theorem witness_QuantumCommits_order : let a := effect 1 (.store (queued (.dev 0x20000) (.bytes [(0, 1)])))
    let b := effect 2 (.push 5 0 [])
    let s : State := { onCrew crew1 lane with qeff := [b, a] }
    s.qeff = [b, a] ∧ a.lid = 1 ∧ b.lid = 1 ∧ a.cutid.toNat < b.cutid.toNat ∧ a.seq < 2 ^ 128 ∧ b.seq < 2 ^ 128
      ∧ flushHolds s (sectorOf 0x20000) = false ∧ s.storeQ = []
      ∧ (let w := queued (.dev 0x20000) (.atomic 0 4 [⟨0, 0, 5, 0⟩])
        homeFails { s with poison := [sectorOf 0x20000] } { w with held := false } = true)
      ∧ s.crewOf 5 = some crew1 ∧ (crew1.chute 0).closed = false ∧ 0 < crew1.chutes.length
      ∧ (let k : Crew := { crew1 with chutes := [⟨2, [], true⟩] }; (onCrew k lane).crewOf 5 = some k ∧ (k.chute 0).closed = true) := by decide

theorem witness_QuantumCommits_queue : let c : Cut := { lane with place := .queue 0 }
    nextQueued (on c) 0 0 = some c ∧ (on c).cutOf c.uid = some c ∧ c.isPattern = false ∧ nextQueued (on lane) 0 0 = none
      ∧ (∀ d ∈ (on c).cuts, d.born < 2 ^ 64) ∧ mayEnter (on c) c 0 0 = true := by decide

/-- A state in which slot 0 holds context 0, halting or not. -/
def halting (hs : List HaltState) : State := { (on lane).setReg (regDbgctl 0) (1#64 <<< 63) with halts := hs }

theorem witness_HaltsAndCycles_halts : (bit ((halting []).reg (regDbgctl 0)) 63 = true ∧ (halting []).halts.find? (·.slot == 0) = none
      ∧ debugSlot (halting []) (fld ((halting []).reg (regDbgctl 0)) 0 13) = some 0)
    ∧ (∀ stopped ∈ ([[], [0]] : List (List Nat)), let h : HaltState := ⟨0, 0, 0, stopped⟩
      (halting [h]).halts.find? (·.slot == 0) = some h ∧ 7 ∉ h.stopped ∧ haltedWhole (halting [h]) 0 = false)
    ∧ (∀ c ∈ (halting []).cuts, c.onMill = false) ∧ allStopped (halting [⟨0, 0, 0, [0]⟩]) ⟨0, 0, 0, [0]⟩ = true
    ∧ stoppedCuts (halting [⟨0, 0, 0, [0]⟩]) 0 = [lane] ∧ lane.outst = [] := by decide

theorem witness_HaltsAndCycles_cycle : choose (on lane) [lane] = some lane ∧ lane.uid < 2 ^ 64 ∧ lane.age < 2 ^ 64 ∧ lane.waited (on lane) < 512
    ∧ 512 ≤ lane.waited { on lane with cycle := 512 } ∧ ((onSched (on lane) (0, 0)).filter (Cut.eligible (on lane))).length ≠ 0 ∧ lane.stage (on lane) = none ∧ lane.issueClass = 0 := by decide

/-- A crew with a declared pipeline of one stage, whose input chute has an entry. -/
def piped (c : Cut) : State := { onCrew filled c with launches := [{ placedLaunch 1 with roles := [⟨0, 0, 64⟩], stages := [⟨0, 0, 1, 1⟩] }] }

theorem witness_HaltsAndCycles_pipeline : let c := member { lane with role := 0 }
    let s := piped c
    choose s [c] = some c ∧ (c.stage s).isSome = true ∧ c.fill s 0 = 1 ∧ ∀ n, c.fill s n < 2 ^ 16 := by
  refine ⟨by decide, by decide, by decide, fun n => ?_⟩
  cases n with
  | zero => decide
  | succ n => exact show (0 : Nat) < 2 ^ 16 by decide

/-- A state that samples every 32 cycles, with a ring of 64 records. -/
def sampling : State := (on lane).setReg regSmpctl (1#64 <<< 63)

theorem witness_HaltsAndCycles_sample : samples sampling 0 0 = true ∧ ((0, 0) : Nat × Nat) ∉ sampling.sampled ∧ (sampleRecord sampling 0 0).isSome = true
    ∧ (let used := fun (s : State) => (fld (s.reg regSmphead) 0 32 + 2 ^ 32 - fld (s.reg regSmptail) 0 32) % 2 ^ 32
      used sampling ≠ 2 ^ (fld (sampling.reg regSmpbase) 59 5 + 6)
        ∧ used (sampling.setReg regSmphead 64) = 2 ^ (fld (sampling.reg regSmpbase) 59 5 + 6)) := by decide

/-! ### The whole machine -/

theorem reset_canonical : Canonical State.reset := by
  refine ⟨by decide, by decide, ?_⟩
  decide

theorem witness_CanonicalKept : Canonical State.reset ∧ ∃ t, step State.reset = .next t := ⟨reset_canonical, _, rfl⟩

/-! ## Words that the spec writes out -/

theorem test_decode_examples : ([0x20014204, 0x21008189, 0xF0A18388, 0xC0208184, 0xC1214389, 0x41E2040C, 0x400244C9, 0x58028470, 0x5663040B, 0x568407CA, 0x5A0182F0,
      0x2681C386] : List W32).map decodeWord = [some (.add 5 4 4), some (.sar 2 3 9), some (.madl 5 6 7 8), some (.fma 1 2 3 4), some (.fma 9 5 7 9),
      some (.twosum 8 8 12), some (.fadd 9 9 0x49), some (.red 0 10 8 0x70), some (.shfld 12 8 11), some (.bcast 16 15 0x4A), some (.scan 0 6 5 0x70),
      some (.accwu 7 7 6)] := by decide

theorem test_decode_examples_control : ([0x1840C082, 0x1A48200A, 0x10010003, 0x07200002, 0x00600000, 0x1C01C380, 0x1C800286, 0x60610470, 0x6A014189, 0x640141F8,
      0x68024270, 0x80128000, 0x82000300, 0x82208300, 0x922193DE, 0xB6024000] : List W32).map decodeWord = [some (.cmp 2 3 1 2), some (.cmpi 2 2 4 10),
      some (.loopi 4 3), some (.br 1 1 2), some .seam, some (.form 7 7), some (.kill 0 5 6), some (.ld 3 4 8 0x70), some (.ldt 0 5 3 9), some (.ldb 0 5 3 0x78),
      some (.stl 9 4 0x70), some (.fence 0 0 0 0x4A), some (.fwait 6), some (.ftest 2 6), some (.cpym 1 6 0x13DE), some (.mrcnt 9)] := by decide

/-! ## Results worked by hand -/

/-- The cut as an instruction leaves it, where it goes on. -/
def after (i : Instr) (s : State) : Option Cut :=
  match exec i s with
  | .next t => t.cutOf 1
  | _ => none

/-- A register of the cut as an instruction leaves it. -/
def result (n : Nat) (i : Instr) (c : Cut) : Option RegVal := (after i (on c)).bind (·.ctx.v[n]?)

/-- A cut with v4 and v5. -/
def two (m : Nat) (x y : RegVal) : Cut := under m (withV 5 y (withV 4 x lane))

/-- The sum wraps at 32 bits and is extended by its sign (R111, R112). -/
theorem test_add_wraps : result 1 (.add 1 4 5) (two i32 (uVal 0x7FFFFFFF) (uVal 1)) = some (uVal 0xFFFFFFFF80000000) := by decide

/-- A source that is also the destination is read first. -/
theorem test_sub_onto_source : result 5 (.sub 5 4 5) (two i32 (uVal 3) (uVal 5)) = some (uVal (BitVec.allOnes 64 - 1)) := by decide

/-- A shift by the width gives 0, and of a negative value to the right its sign (R112). -/
theorem test_shifts_by_width : result 1 (.shl 1 4 5) (two i32 (uVal 1) (uVal 32)) = some (uVal 0)
    ∧ result 1 (.sar 1 4 5) (two i32 (uVal (BitVec.allOnes 64)) (uVal 40)) = some (uVal (BitVec.allOnes 64)) := by decide

/-- What a cut's outstanding instructions await after an instruction. -/
def awaited (i : Instr) (c : Cut) : Option (List Pending) := (after i (on c)).map fun k => k.outst.map (·.what)

/-- -7 by 2 is -3, the remainder -1; 5 by 0 is -1, the remainder 5 (R118's table, i8). -/
theorem test_div : awaited (.div 0 1 4 5) (two 0 (uVal (BitVec.ofInt 64 (-7))) (uVal 2))
      = some [.value (uVal (BitVec.ofInt 64 (-3))) (some (uVal (BitVec.ofInt 64 (-1))))]
    ∧ awaited (.div 0 1 4 5) (two 0 (uVal 5) (uVal 0)) = some [.value (uVal (BitVec.ofInt 64 (-1))) (some (uVal 5))] := by decide

/-- 1 + 2 = 3 in binary32 (R151). -/
theorem test_fadd : result 1 (.fadd 1 4 5) (two f32 (uVal 0x3F800000) (uVal 0x40000000)) = some (uVal 0x40400000) := by decide

/-- 2^24 and 1 tie to 2^24 (R59). -/
theorem test_fadd_rounds : result 1 (.fadd 1 4 5) (two f32 (uVal 0x4B800000) (uVal 0x3F800000)) = some (uVal 0x4B800000) := by decide

/-- -1 is the greatest n32, and less than 10 as an i32 (R101, R102). -/
theorem test_cmpi_signs : (after (.cmpi 2 2 4 10) (on (two i32 (uVal (BitVec.allOnes 64)) (uVal 0)))).map (·.ctx.preds[2]?) = some (some (.uni true))
    ∧ (after (.cmpi 2 2 4 10) (on (two 0x50 (uVal 0xFFFFFFFF) (uVal 0)))).map (·.ctx.preds[2]?) = some (some (.uni false)) := by decide

/-- LOOPI pushes its level, and skips its body at a count of 0 (R106): here three words from the placed address. -/
theorem test_loopi : (after (.loopi 4 3) (on lane)).map (fun c => (c.ctx.pc, c.ctx.loops)) = some (placedPtr + 4, [⟨placedPtr + 4, placedPtr + 12, 4⟩])
    ∧ (after (.loopi 0 3) (on lane)).map (fun c => (c.ctx.pc, c.ctx.loops)) = some (placedPtr + 16, []) := by decide

/-- The last result stands in l0, and the one before it in l1 (R76). -/
theorem test_last_results : (after (.addi 1 4 1) (on (two i32 (uVal 6) (uVal 0)))).map (fun c => (c.ctx.l0, c.ctx.l1)) = some (.val (uVal 7), .val (uVal 0)) := by
  decide

/-- TRAP with a handler raises TRP with its number, and goes to the handler (R97, R338, R340). -/
theorem test_trap : let c : Cut := { lane with trap := { lane.trap with hv := true, off := 0x100 } }
    (after (.trap 7) (on c)).map (fun k => (k.trap.tcause, k.trap.taddr, k.trap.tpc, k.trap.inh, k.ctx.pc))
      = some (0x100, 7, placedPtr, true, placedPtr + 0x100) := by decide

/-- A store's bytes perform little-endian (R2, R134). -/
theorem test_store : (match exec (.homeWrite 3) (storing (queued (.dev 0x20000) (.bytes [(0, 0x34), (1, 0x12)]))) with
    | .next t => some (homeRead t 0x20000 2)
    | _ => none) = some [0x34, 0x12] := by decide

theorem witness_EncodingsAgree : encodeWord (.add 5 4 4) = some 0x20014204 ∧ decodeWord 0x20014204 = some (.add 5 4 4) := by decide

end Sys2Proof.Tests
end

/-! ## Fields of a register and the control window

What a field reads after a field is set, what a register reads after a register is set, and what the events of the control window do (R3,
R322). -/

section

namespace Sys2Proof.Machine

/-! ### Fields of a word -/

theorem testBit_fld (w : W64) (lo len i : Nat) : (fld w lo len).testBit i = (decide (i < len) && w.toNat.testBit (lo + i)) := by
  rw [fld, Nat.testBit_mod_two_pow, Nat.testBit_shiftRight]

/-- A word is its bits above a field, the field, and its bits below it. -/
theorem toNat_eq_around_fld (w : W64) (lo len : Nat) :
    w.toNat = 2 ^ (lo + len) * (w.toNat >>> (lo + len)) + (2 ^ lo * fld w lo len + w.toNat % 2 ^ lo) := by
  have above : w.toNat / 2 ^ lo = 2 ^ len * (w.toNat >>> (lo + len)) + fld w lo len := by
    rw [fld, Nat.shiftRight_eq_div_pow, Nat.shiftRight_eq_div_pow, pow_add, ← Nat.div_div_eq_div_mul, Nat.div_add_mod]
  calc w.toNat = 2 ^ lo * (w.toNat / 2 ^ lo) + w.toNat % 2 ^ lo := (Nat.div_add_mod _ _).symm
    _ = _ := by rw [above, pow_add, Nat.mul_add, Nat.mul_assoc, Nat.add_assoc]

/-- What stands in and below a field is less than the first power above it. -/
theorem field_add_low_lt (lo len v n : Nat) : 2 ^ lo * (v % 2 ^ len) + n % 2 ^ lo < 2 ^ (lo + len) := by
  have hv : v % 2 ^ len < 2 ^ len := Nat.mod_lt _ (Nat.two_pow_pos len)
  have hn : n % 2 ^ lo < 2 ^ lo := Nat.mod_lt _ (Nat.two_pow_pos lo)
  calc 2 ^ lo * (v % 2 ^ len) + n % 2 ^ lo < 2 ^ lo * (v % 2 ^ len + 1) := by rw [Nat.mul_add_one]; omega
    _ ≤ 2 ^ lo * 2 ^ len := Nat.mul_le_mul_left _ hv
    _ = 2 ^ (lo + len) := (pow_add ..).symm

theorem toNat_putFld (w : W64) (lo len v : Nat) (h : lo + len ≤ 64) :
    (putFld w lo len v).toNat = 2 ^ (lo + len) * (w.toNat >>> (lo + len)) + (2 ^ lo * (v % 2 ^ len) + w.toNat % 2 ^ lo) := by
  have hw := toNat_eq_around_fld w lo len
  have hlow := field_add_low_lt lo len v w.toNat
  have hhigh : 2 ^ (lo + len) * (w.toNat >>> (lo + len) + 1) ≤ 2 ^ 64 := by
    have hpow : 2 ^ 64 = 2 ^ (lo + len) * 2 ^ (64 - (lo + len)) := by rw [← pow_add]; congr 1; omega
    rw [hpow, Nat.shiftRight_eq_div_pow]
    exact Nat.mul_le_mul_left _ (Nat.div_lt_of_lt_mul (hpow ▸ w.isLt))
  rw [Nat.mul_add_one] at hhigh
  rw [putFld, BitVec.toNat_ofNat, Nat.mul_comm (fld w lo len), Nat.mul_comm (v % 2 ^ len), Nat.mod_eq_of_lt (by omega)]
  omega

/-- Setting a field sets its bits and leaves every other. -/
theorem testBit_putFld (w : W64) (lo len v i : Nat) (h : lo + len ≤ 64) :
    (putFld w lo len v).toNat.testBit i = if lo ≤ i ∧ i < lo + len then v.testBit (i - lo) else w.toNat.testBit i := by
  rw [toNat_putFld w lo len v h, Nat.testBit_two_pow_mul_add _ (field_add_low_lt lo len v w.toNat),
    Nat.testBit_two_pow_mul_add _ (Nat.mod_lt _ (Nat.two_pow_pos lo))]
  by_cases above : i < lo + len
  · by_cases below : i < lo
    · simp [above, below, Nat.testBit_mod_two_pow]
    · have inside : i - lo < len := by omega
      simp [above, below, inside, Nat.testBit_mod_two_pow, Nat.not_lt.mp below]
  · simp [above, Nat.testBit_shiftRight, Nat.add_sub_cancel' (Nat.not_lt.mp above)]

theorem fld_putFld_same (w : W64) (lo len v : Nat) (h : lo + len ≤ 64) : fld (putFld w lo len v) lo len = v % 2 ^ len := by
  refine Nat.eq_of_testBit_eq fun i => ?_
  rw [testBit_fld, testBit_putFld w lo len v _ h, Nat.testBit_mod_two_pow]
  by_cases hi : i < len <;> simp [hi]

theorem fld_putFld_disjoint (w : W64) (lo len v lo' len' : Nat) (h : lo + len ≤ 64) (hd : lo' + len' ≤ lo ∨ lo + len ≤ lo') :
    fld (putFld w lo len v) lo' len' = fld w lo' len' := by
  refine Nat.eq_of_testBit_eq fun i => ?_
  rw [testBit_fld, testBit_fld, testBit_putFld w lo len v _ h]
  by_cases hi : i < len'
  · rw [if_neg (by omega)]
  · simp [hi]

theorem bit_putFld_outside (w : W64) (lo len v i : Nat) (h : lo + len ≤ 64) (ho : i < lo ∨ lo + len ≤ i) :
    bit (putFld w lo len v) i = bit w i := by
  rw [bit, testBit_putFld w lo len v i h, if_neg (by omega), bit]

theorem bit_putFld_single (w : W64) (i v : Nat) (h : i < 64) : bit (putFld w i 1 v) i = v.testBit 0 := by
  rw [bit, testBit_putFld w i 1 v i h, if_pos (by omega), Nat.sub_self]

/-! ### Registers (R322) -/

/-- The entry of an offset in the list of registers, which holds none at its reset value. -/
def winGet (off : Nat) (w : List (Nat × W64)) : W64 := ((w.find? (·.1 == off)).map (·.2)).getD (regReset off)

theorem reg_eq_winGet (s : State) (off : Nat) : s.reg off = winGet off s.win + s.base off := by
  unfold State.reg winGet
  split
  · next hf => simp [hf]
  · next hf => simp [hf]

theorem winGet_cons (n o : Nat) (x : W64) (w : List (Nat × W64)) : winGet n ((o, x) :: w) = if o = n then x else winGet n w := by
  by_cases h : o = n <;> simp [winGet, h]

/-- An offset below every entry has none. -/
theorem winGet_of_lt (n : Nat) (w : List (Nat × W64)) (h : ∀ c ∈ w, n < c.1) : winGet n w = regReset n := by
  have hf : w.find? (·.1 == n) = none := List.find?_eq_none.mpr fun c hc => by simpa using (h c hc).ne'
  rw [winGet, hf]
  rfl

/-- An entry put before a list of higher offsets, or left out at its reset value. -/
theorem winGet_put_before (n off : Nat) (v : W64) (w : List (Nat × W64)) (h : ∀ c ∈ w, off < c.1) :
    winGet n (if v = regReset off then w else (off, v) :: w) = if n = off then v else winGet n w := by
  by_cases hn : n = off
  · subst hn
    rw [if_pos rfl]
    split
    · next hv => rw [winGet_of_lt n w h, hv]
    · rw [winGet_cons, if_pos rfl]
  · rw [if_neg hn]
    split
    · rfl
    · rw [winGet_cons, if_neg (Ne.symm hn)]

theorem winGet_winPut (n off : Nat) (v : W64) (w : List (Nat × W64)) (hw : w.Pairwise fun a b => a.1 < b.1) :
    winGet n (winPut off v w) = if n = off then v else winGet n w := by
  induction w with
  | nil => exact winGet_put_before n off v [] (by simp)
  | cons d w ih =>
    obtain ⟨o, x⟩ := d
    obtain ⟨hfirst, hrest⟩ := List.pairwise_cons.mp hw
    unfold winPut
    split
    · next hlt =>
      exact winGet_put_before n off v ((o, x) :: w) (List.forall_mem_cons.mpr ⟨hlt, fun c hc => hlt.trans (hfirst c hc)⟩)
    · split
      · next _ heq =>
        subst heq
        rw [winGet_put_before n o v w hfirst, winGet_cons]
        by_cases hn : n = o
        · simp [hn]
        · simp [hn, Ne.symm hn]
      · next _ hne =>
        rw [winGet_cons, winGet_cons, ih hrest]
        by_cases ho : o = n
        · subst ho
          simp [hne]
        · simp [ho]

/-- A register reads what was stored in it, and every other what it read before. -/
theorem reg_setReg (s : State) (off : Nat) (v : W64) (n : Nat) (h : Canonical s) :
    (s.setReg off v).reg n = if n = off then v else s.reg n := by
  obtain ⟨-, -, hwin⟩ := h
  have hbase : (s.setReg off v).base n = s.base n := rfl
  have hput : (s.setReg off v).win = winPut off (v - s.base off) s.win := rfl
  rw [reg_eq_winGet, reg_eq_winGet s, hbase, hput, winGet_winPut n off _ s.win hwin]
  split
  · next hn => rw [hn, BitVec.sub_add_cancel]
  · rfl

theorem reg_setReg_same (s : State) (off : Nat) (v : W64) (h : Canonical s) : (s.setReg off v).reg off = v := by
  rw [reg_setReg s off v off h, if_pos rfl]

theorem reg_setReg_ne (s : State) (off : Nat) (v : W64) (n : Nat) (h : Canonical s) (hn : n ≠ off) : (s.setReg off v).reg n = s.reg n := by
  rw [reg_setReg s off v n h, if_neg hn]

theorem reg_setField_same (s : State) (off lo len v : Nat) (h : Canonical s) :
    (s.setField off lo len v).reg off = putFld (s.reg off) lo len v :=
  reg_setReg_same s off _ h

theorem reg_setField_ne (s : State) (off lo len v n : Nat) (h : Canonical s) (hn : n ≠ off) : (s.setField off lo len v).reg n = s.reg n :=
  reg_setReg_ne s off _ n h hn

/-! ### What a write of the window leaves alone -/

/-- Two states that differ in the control window at most. -/
def SameButWin (s t : State) : Prop := t = { s with win := t.win }

theorem setReg_sameButWin (s : State) (off : Nat) (v : W64) : SameButWin s (s.setReg off v) := rfl

theorem setField_sameButWin (s : State) (off lo len v : Nat) : SameButWin s (s.setField off lo len v) := rfl

theorem SameButWin.trans {s t u : State} (h : SameButWin s t) (k : SameButWin t u) : SameButWin s u := by
  unfold SameButWin at h k ⊢
  rw [k, h]

/-! ### Replay of page requests (R367, R368) -/

/-- The state with registers at 0. -/
def State.zeroRegs (s : State) (offs : List Nat) : State := offs.foldl (fun s off => s.setReg off 0) s

theorem zeroRegs_canonical (s : State) (offs : List Nat) (h : Canonical s) : Canonical (s.zeroRegs offs) :=
  foldl_canonical _ (fun s off => setReg_canonical s off 0) offs s h

theorem zeroRegs_sameButWin (s : State) (offs : List Nat) : SameButWin s (s.zeroRegs offs) := by
  induction offs generalizing s with
  | nil => rfl
  | cons off offs ih => exact (setReg_sameButWin s off 0).trans (ih _)

theorem reg_zeroRegs (s : State) (offs : List Nat) (n : Nat) (h : Canonical s) :
    (s.zeroRegs offs).reg n = if n ∈ offs then 0 else s.reg n := by
  induction offs generalizing s with
  | nil => simp [State.zeroRegs]
  | cons off offs ih =>
    have hstep := ih (s.setReg off 0) (setReg_canonical s off 0 h)
    rw [reg_setReg s off 0 n h] at hstep
    by_cases hn : n = off
    · simpa [State.zeroRegs, hn] using hstep
    · simpa [State.zeroRegs, hn] using hstep

/-- The state that REPLAY_ALL leaves: the entries of the partition at 0, then DROPPED and the count of entries, and the next generation. -/
def State.replayed (s : State) (part : Nat) : State :=
  let cleared := s.zeroRegs ((List.range 8).map (regPrent part))
  let dropped := (cleared.setField (regPrstat part) 63 1 0).setField (regPrstat part) 0 4 0
  dropped.setField (regPrstat part) 32 16 ((replayGen dropped part + 1) % 2 ^ 16)

theorem exec_replayAll (part : Nat) (s : State) : exec (.replayAll part) s = .next (s.replayed part) := by
  simp only [State.replayed, State.zeroRegs, List.foldl_map]
  rfl

theorem replayed_sameButWin (s : State) (part : Nat) : SameButWin s (s.replayed part) :=
  (((zeroRegs_sameButWin s _).trans (setField_sameButWin ..)).trans (setField_sameButWin ..)).trans (setField_sameButWin ..)

/-- The status of a partition is none of its entries. -/
theorem regPrstat_ne_regPrent (part j : Nat) : regPrstat part ≠ regPrent part j := by
  unfold regPrstat regPrent
  omega

/-- PRSTAT after REPLAY_ALL, field by field over what it read before. -/
theorem reg_replayed_prstat (s : State) (part : Nat) (h : Canonical s) :
    (s.replayed part).reg (regPrstat part)
      = putFld (putFld (putFld (s.reg (regPrstat part)) 63 1 0) 0 4 0) 32 16 ((replayGen s part + 1) % 2 ^ 16) := by
  have hclear := zeroRegs_canonical s ((List.range 8).map (regPrent part)) h
  have hkept : (s.zeroRegs ((List.range 8).map (regPrent part))).reg (regPrstat part) = s.reg (regPrstat part) := by
    rw [reg_zeroRegs s _ _ h, if_neg]
    intro hmem
    obtain ⟨j, -, hj⟩ := List.mem_map.mp hmem
    exact regPrstat_ne_regPrent part j hj.symm
  have hdropped := reg_setField_same _ (regPrstat part) 0 4 0 (setField_canonical _ (regPrstat part) 63 1 0 hclear)
  rw [reg_setField_same _ _ 63 1 0 hclear, hkept] at hdropped
  have hgen : fld (putFld (putFld (s.reg (regPrstat part)) 63 1 0) 0 4 0) 32 16 = replayGen s part := by
    rw [fld_putFld_disjoint _ _ _ _ _ _ (by omega) (by omega), fld_putFld_disjoint _ _ _ _ _ _ (by omega) (by omega)]
    rfl
  rw [State.replayed, reg_setField_same _ _ _ _ _ (setField_canonical _ _ _ _ _ (setField_canonical _ _ _ _ _ hclear)), hdropped, replayGen,
    State.field, hdropped, hgen]

theorem reg_replayed_prent (s : State) (part j : Nat) (h : Canonical s) (hj : j < 8) : (s.replayed part).reg (regPrent part j) = 0 := by
  have hclear := zeroRegs_canonical s ((List.range 8).map (regPrent part)) h
  have hne := (regPrstat_ne_regPrent part j).symm
  rw [State.replayed, reg_setField_ne _ _ _ _ _ _ (setField_canonical _ _ _ _ _ (setField_canonical _ _ _ _ _ hclear)) hne,
    reg_setField_ne _ _ _ _ _ _ (setField_canonical _ _ _ _ _ hclear) hne, reg_setField_ne _ _ _ _ _ _ hclear hne, reg_zeroRegs s _ _ h,
    if_pos (List.mem_map.mpr ⟨j, List.mem_range.mpr hj, rfl⟩)]

/-- After REPLAY_ALL the generation of the replays is the next one. -/
theorem replayed_generation (s : State) (part : Nat) (h : Canonical s) :
    fld ((s.replayed part).reg (regPrstat part)) 32 16 = (replayGen s part + 1) % 2 ^ 16 := by
  rw [reg_replayed_prstat s part h, fld_putFld_same _ _ _ _ (by omega), Nat.mod_mod]

/-- After REPLAY_ALL no entry of the partition is used. -/
theorem replayed_count (s : State) (part : Nat) (h : Canonical s) : fld ((s.replayed part).reg (regPrstat part)) 0 4 = 0 := by
  rw [reg_replayed_prstat s part h, fld_putFld_disjoint _ _ _ _ _ _ (by omega) (by omega), fld_putFld_same _ _ _ _ (by omega), Nat.zero_mod]

/-- After REPLAY_ALL the partition has dropped no request. -/
theorem replayed_dropped (s : State) (part : Nat) (h : Canonical s) : bit ((s.replayed part).reg (regPrstat part)) 63 = false := by
  rw [reg_replayed_prstat s part h, bit_putFld_outside _ _ _ _ _ (by omega) (by omega), bit_putFld_outside _ _ _ _ _ (by omega) (by omega),
    bit_putFld_single _ _ _ (by omega), Nat.zero_testBit]

/-! ### Writes of registers, one equation for each

A register that does not exist takes no write; the equations are of those that do. -/

theorem exec_registerWrite_plain (off : Nat) (v : W64) (s : State) (h : off ≠ regCcmd) :
    exec (.registerWrite off v) s = .next (s.plainWrite off v) := by
  change execRegisterWrite off v s = _
  rw [execRegisterWrite, if_neg h]

/-- A write of CCMD that names no command, while none runs, only stands there (R334). -/
theorem exec_registerWrite_ccmd (v : W64) (s : State) (hready : mayCommand s = true) (hop : fld v 56 8 ∉ [1, 2, 3]) :
    exec (.registerWrite regCcmd v) s = .next (s.setReg regCcmd (v &&& bits 63 16)) := by
  change execRegisterWrite regCcmd v s = _
  rw [execRegisterWrite, if_pos rfl, if_neg (by simp [hop, hready])]

theorem exec_pmapWrite (part : Nat) (v : W64) (s : State) (h : part < 40) : exec (.pmapWrite part v) s = .next (s.setReg (regPmap part)
    (BitVec.ofNat 64 ((s.field (regPmap part) 40 24 + 1) % 2 ^ 24 * 2 ^ 40) ||| (v &&& bits 39 6))) := by
  change execPmapWrite part v s = _
  rw [execPmapWrite, if_pos h]

theorem exec_prstatWrite (part : Nat) (v : W64) (s : State) (h : part < 40) :
    exec (.prstatWrite part v) s = .next (s.setField (regPrstat part) 16 16 0) := by
  change execPrstatWrite part v s = _
  rw [execPrstatWrite, if_pos h]

theorem exec_sdropWrite (bench : Nat) (v : W64) (s : State) (h : bench < Config.benches) :
    exec (.sdropWrite bench v) s = .next (s.setField (regSdrop bench) 0 24 0) := by
  change execSdropWrite bench v s = _
  rw [execSdropWrite, if_pos h]

theorem exec_brerrWrite (bench : Nat) (v : W64) (s : State) (h : bench < Config.benches) :
    exec (.brerrWrite bench v) s = .next (s.setReg (regBrerr bench) 0) := by
  change execBrerrWrite bench v s = _
  rw [execBrerrWrite, if_pos h]

theorem exec_eligWrite (bench sched bin : Nat) (v : W64) (s : State) (h : bench < Config.benches ∧ sched < 5 ∧ bin < 17) :
    exec (.eligWrite bench sched bin v) s = .next (s.setReg (regElig bench sched bin) 0) := by
  change execEligWrite bench sched bin v s = _
  rw [execEligWrite, if_pos h]

theorem exec_stallWrite (bench sched reason : Nat) (v : W64) (s : State) (h : bench < Config.benches ∧ sched < 5 ∧ reason < 16) :
    exec (.stallWrite bench sched reason v) s = .next (s.setReg (regStall bench sched reason) 0) := by
  change execStallWrite bench sched reason v s = _
  rw [execStallWrite, if_pos h]

theorem exec_memerrWrite (stack : Nat) (v : W64) (s : State) (h : stack < Config.stackCount) :
    exec (.memerrWrite stack v) s = .next (s.setReg (regMemerr stack) 0) := by
  change execMemerrWrite stack v s = _
  rw [execMemerrWrite, if_pos h]

theorem exec_memaddrWrite (stack : Nat) (v : W64) (s : State) (h : stack < Config.stackCount) :
    exec (.memaddrWrite stack v) s = .next (if bit v 63 then s.setField (regMemaddr stack) 63 1 0 else s) := by
  change execMemaddrWrite stack v s = _
  simp only [execMemaddrWrite, h, true_and]

theorem exec_fwbaseWrite (stack win : Nat) (v : W64) (s : State) (h : stack < Config.stackCount ∧ win < 16) :
    exec (.fwbaseWrite stack win v) s = .next ((s.setReg (regFwbase stack win) (v &&& bits 59 22)).checkWindow stack win) := by
  change execFwbaseWrite stack win v s = _
  rw [execFwbaseWrite, if_pos h]

theorem exec_fwctlWrite (stack win : Nat) (v : W64) (s : State) (h : stack < Config.stackCount ∧ win < 16) :
    exec (.fwctlWrite stack win v) s
      = .next ((s.setReg (regFwctl stack win) (v &&& (bits 63 20 ||| bits 3 0))).checkWindow stack win) := by
  change execFwctlWrite stack win v s = _
  rw [execFwctlWrite, if_pos h]

theorem exec_lhealthWrite (loom : Nat) (v : W64) (s : State) (h : loom < 4 * Config.benches) :
    exec (.lhealthWrite loom v) s = .next (s.setField (regLhealth loom) 48 16 0) := by
  change execLhealthWrite loom v s = _
  rw [execLhealthWrite, if_pos h]

theorem exec_lkstatWrite (link : Nat) (v : W64) (s : State) (h : link < Config.links) :
    exec (.lkstatWrite link v) s = .next (s.setReg (regLkstat link) (s.reg (regLkstat link) &&& bits 63 63)) := by
  change execLkstatWrite link v s = _
  rw [execLkstatWrite, if_pos h]

theorem exec_walkerrWrite (v : W64) (s : State) :
    exec (.walkerrWrite v) s = .next ((s.setField regWalkerr 60 4 0).setField regWalkerr 0 16 0) := rfl

theorem exec_smpheadWrite (v : W64) (s : State) : exec (.smpheadWrite v) s = .next (s.setReg regSmphead (v &&& bits 31 0)) := rfl

end Sys2Proof.Machine

namespace Sys2Proof

open Sys2Proof.Machine

/-- Settles O46: a store in the window is read back at its offset alone, and each event's equation says what it stores. -/
theorem registerWrites : Obligations.RegisterWrites := by
  unfold Obligations.RegisterWrites
  refine ⟨fun s off v => ⟨setReg_sameButWin s off v, fun hs n => reg_setReg s off v n hs⟩, fun s v n m k => ⟨?plain, ?command, ?partition,
    ?bench, ?stack, ?loom, ?link, exec_walkerrWrite v s, exec_smpheadWrite v s, ?window, ?replay⟩⟩
  case plain => exact fun hn => exec_registerWrite_plain n v s hn
  case command => exact fun hready hop => exec_registerWrite_ccmd v s hready hop
  case partition => exact fun hn => ⟨exec_pmapWrite n v s hn, exec_prstatWrite n v s hn⟩
  case bench =>
    exact fun hn => ⟨exec_sdropWrite n v s hn, exec_brerrWrite n v s hn, fun hm hk => exec_eligWrite n m k v s ⟨hn, hm, hk⟩,
      fun hm hk => exec_stallWrite n m k v s ⟨hn, hm, hk⟩⟩
  case stack =>
    exact fun hn => ⟨exec_memerrWrite n v s hn, exec_memaddrWrite n v s hn,
      fun hm => ⟨exec_fwbaseWrite n m v s ⟨hn, hm⟩, exec_fwctlWrite n m v s ⟨hn, hm⟩⟩⟩
  case loom => exact fun hn => exec_lhealthWrite n v s hn
  case link => exact fun hn => exec_lkstatWrite n v s hn
  case window =>
    rintro w rfl
    rfl
  case replay =>
    exact ⟨s.replayed n, exec_replayAll n s, replayed_sameButWin s n, fun hs _ => ⟨fun j hj => reg_replayed_prent s n j hs hj,
      replayed_generation s n hs, replayed_count s n hs, replayed_dropped s n hs⟩⟩

end Sys2Proof

end

/-! ## Operand specifiers

What reading a specifier gives at an item (R18, R74). -/

section

namespace Sys2Proof.Machine

/-! ### Values of a specifier (R18, R74) -/

@[simp] theorem valAt_uVal (c : Cut) (b : W64) (p : Nat) : c.valAt (uVal b) p = b := by
  simp [Cut.valAt, RegVal.at, uVal]

/-- A stride that fits 32 bits is itself as 64 bits. -/
theorem signExtend_of_fits32 (n : Int) (h : fits32 n = true) : (BitVec.ofInt 32 n).signExtend 64 = BitVec.ofInt 64 n := by
  simp only [fits32, decide_eq_true_eq] at h
  obtain ⟨hlow, hhigh⟩ := h
  rw [BitVec.signExtend, BitVec.toInt_ofInt, Int.bmod_eq_of_le (by omega) (by omega)]

/-- An affine value at an item is the exact one modulo 2^64. -/
theorem valAt_affine (c : Cut) (b sx sy sz : Int) (v : RegVal) (p : Nat) (h : affine b sx sy sz = some v) :
    c.valAt v p = BitVec.ofInt 64 (b + sx * (c.item p).x + sy * (c.item p).y + sz * (c.item p).z) := by
  unfold affine at h
  split at h
  · next hfits =>
    simp only [Bool.and_eq_true] at hfits
    obtain ⟨⟨hx, hy⟩, hz⟩ := hfits
    cases h
    simp only [Cut.valAt, RegVal.at, signExtend_of_fits32, hx, hy, hz, ofInt, BitVec.ofInt_add, BitVec.ofInt_mul, BitVec.ofInt_natCast]
  · cases h

/-- `il` reads the linear index in every item (R18, R262). -/
theorem valAt_ilVal (s : State) (c : Cut) (p : Nat) (hm : c.mill = false) (hp : p < c.span) :
    c.valAt (c.ilVal s) p = BitVec.ofNat 64 (c.ilAt s p) := by
  unfold Cut.ilVal
  rw [if_neg (by simp [hm])]
  split
  · next v hv =>
    rw [valAt_affine c _ _ _ _ v p hv, ← BitVec.ofInt_natCast, Cut.ilAt, if_neg (by simp [hm]), ilOf]
    refine congrArg (BitVec.ofInt 64) ?_
    push_cast
    ring
  · simp [Cut.lVal, Cut.valAt, RegVal.at, hp]

theorem read_main (s : State) (c : Cut) (o : Opnd) (before : List Opnd) (h : o.toNat < 0x40) :
    c.read s o before = c.ctx.v.getD o.toNat (uVal 0) := by
  simp [Cut.read, h]

theorem read_operand (s : State) (c : Cut) (o : Opnd) (before : List Opnd) (hlo : 0x40 ≤ o.toNat) (hhi : o.toNat < 0x48) :
    c.read s o before = c.ctx.o.getD (o.toNat - 0x40) (uVal 0) := by
  simp [Cut.read, hhi, Nat.not_lt.mpr hlo]

theorem read_inline (s : State) (c : Cut) (o : Opnd) (before : List Opnd) (h : 0x60 ≤ o.toNat) :
    c.read s o before = uVal (BitVec.ofInt 64 ((o.toNat : Int) - 0x70)) := by
  unfold Cut.read
  simp only
  repeat rw [if_neg (by omega)]

end Sys2Proof.Machine

namespace Sys2Proof

open Sys2Proof.Machine

/-- Settles O5: each range of specifiers reads what R74 names, and the value at an item follows from its form. -/
theorem operandSpecifiersRead : Obligations.OperandSpecifiersRead := by
  unfold Obligations.OperandSpecifiersRead
  intro s c o before p
  refine ⟨?z, ?ix, ?iy, ?iz, ?il, ?inline, ?main, ?operand⟩
  case z => rintro rfl; simp [Cut.read]
  case ix => rintro rfl; simp [Cut.read, Cut.valAt, RegVal.at]
  case iy => rintro rfl; cases hm : c.mill <;> simp [Cut.read, hm, Cut.valAt, RegVal.at, uVal]
  case iz => rintro rfl; cases hm : c.mill <;> simp [Cut.read, hm, Cut.valAt, RegVal.at, uVal]
  case il => rintro rfl hm - hp; simpa [Cut.read] using valAt_ilVal s c p hm hp
  case inline => intro h; rw [read_inline s c o before h, valAt_uVal]
  case main => intro h; rw [read_main s c o before h]
  case operand => intro hlo hhi; rw [read_operand s c o before hlo hhi]

end Sys2Proof
end

/-! ## The names of a cut

The fields of CUTID, and what CUTID, PARID and CUTBOX write (R22, R169). -/

section

namespace Sys2Proof.Machine

/-! ### CUTID by its fields (R22) -/

/-- The number of a cut's kind in CUTID. -/
def CutKind.number : CutKind → Nat
  | .pattern => 0 | .lane => 1 | .fragment => 2 | .stray => 3

theorem cutid_toNat (c : Cut) (hf : c.frag < 8) :
    c.cutid.toNat = c.kind.number * 2 ^ 62 + (if c.kind = .fragment then c.frag else 0) * 2 ^ 59 + (if c.mill then 1 else 0) * 2 ^ 58
      + c.first % 2 ^ 40 := by
  have hfirst : c.first % 2 ^ 40 < 2 ^ 40 := Nat.mod_lt _ (by omega)
  unfold Cut.cutid
  cases c.kind <;> cases c.mill <;> simp [CutKind.number] <;> omega

/-- A field of a word whose bits above the field, in it and below it are known. -/
theorem fld_of_toNat (w : W64) (lo len high v low : Nat) (h : w.toNat = (high * 2 ^ len + v) * 2 ^ lo + low) (hv : v < 2 ^ len)
    (hl : low < 2 ^ lo) : fld w lo len = v := by
  rw [fld, Nat.shiftRight_eq_div_pow, h, Nat.mul_comm _ (2 ^ lo), Nat.mul_add_div (Nat.two_pow_pos lo), Nat.div_eq_of_lt hl, Nat.add_zero,
    Nat.mul_add_mod_self_right, Nat.mod_eq_of_lt hv]

theorem cutid_fields (c : Cut) (hf : c.frag < 8) :
    fld c.cutid 62 2 = c.kind.number ∧ fld c.cutid 59 3 = (if c.kind = .fragment then c.frag else 0)
      ∧ fld c.cutid 58 1 = (if c.mill then 1 else 0) ∧ fld c.cutid 40 18 = 0 ∧ fld c.cutid 0 40 = c.first % 2 ^ 40 := by
  have hid := cutid_toNat c hf
  have hkind : c.kind.number < 4 := by cases c.kind <;> decide
  have hfrag : (if c.kind = .fragment then c.frag else 0) < 8 := by split <;> omega
  have hmill : (if c.mill then 1 else 0) < 2 := by split <;> omega
  have hfirst : c.first % 2 ^ 40 < 2 ^ 40 := Nat.mod_lt _ (by omega)
  generalize (if c.kind = .fragment then c.frag else 0) = f at *
  generalize (if c.mill then 1 else 0) = m at *
  generalize c.first % 2 ^ 40 = n at hid hfirst ⊢
  generalize c.kind.number = k at *
  generalize c.cutid = w at hid ⊢
  exact ⟨fld_of_toNat w 62 2 0 k (f * 2 ^ 59 + m * 2 ^ 58 + n) (by rw [hid]; ring) (by omega) (by omega),
    fld_of_toNat w 59 3 k f (m * 2 ^ 58 + n) (by rw [hid]; ring) (by omega) (by omega),
    fld_of_toNat w 58 1 (k * 2 ^ 3 + f) m n (by rw [hid]; ring) (by omega) (by omega),
    fld_of_toNat w 40 18 (k * 2 ^ 4 + f * 2 + m) 0 n (by rw [hid]; ring) (by omega) hfirst,
    fld_of_toNat w 0 40 (k * 2 ^ 22 + f * 2 ^ 19 + m * 2 ^ 18) n 0 (by rw [hid]; ring) hfirst (by omega)⟩

end Sys2Proof.Machine

namespace Sys2Proof

open Sys2Proof.Machine

/-- Settles O15: each instruction writes the value that its meaning names, and the fields of CUTID lie side by side. -/
theorem namingResults : Obligations.NamingResults := by
  unfold Obligations.NamingResults
  intro s c d b
  refine ⟨fun hr => operate_runs _ s _ c hr, fun hr => operate_runs _ s _ c hr, fun hr => ?box, fun hf => ?fields⟩
  case box =>
    refine ⟨c.boxPart s (constOf b), operate_runs _ s _ c hr, ?_⟩
    refine ⟨?_, ?_, ?_, ?_, ?_, ?_, ?_, ?_⟩ <;> (rintro rfl; rfl)
  case fields =>
    obtain ⟨hkind, hrest⟩ := cutid_fields c hf
    exact ⟨hkind.trans (by cases c.kind <;> rfl), hrest⟩

end Sys2Proof
end

/-! ## A step and the instruction it runs

What a translation and a read leave alone, what an issue does, and the step of a picked cut and of an event (R31, R32, R72, R322). -/

section

namespace Sys2Proof.Machine

/-! ### What a translation and a read leave alone (R360, R370, R381, R383) -/

/-- Two states that differ at most in what translations and reads change: the caches of translations, flaws and poison, and the registers
that count and name errors. -/
def SameButReads (s t : State) : Prop := t = { s with win := t.win, poison := t.poison, flaws := t.flaws, tlb := t.tlb }

theorem SameButReads.refl (s : State) : SameButReads s s := rfl

theorem SameButReads.trans {s t u : State} (h : SameButReads s t) (k : SameButReads t u) : SameButReads s u := by
  unfold SameButReads at h k ⊢
  rw [k, h]

theorem SameButWin.sameButReads {s t : State} (h : SameButWin s t) : SameButReads s t := by
  unfold SameButWin at h
  unfold SameButReads
  rw [h]

/-- A list of updates keeps what each of them keeps. -/
theorem foldl_rel {α : Type} (R : State → State → Prop) (hrefl : ∀ s, R s s) (htrans : ∀ {s t u}, R s t → R t u → R s u)
    (f : State → α → State) (h : ∀ s x, R s (f s x)) (xs : List α) (s : State) : R s (xs.foldl f s) := by
  induction xs generalizing s with
  | nil => exact hrefl s
  | cons x xs ih => exact htrans (h s x) (ih _)

theorem foldl_sameButReads {α : Type} (f : State → α → State) (hf : ∀ s x, SameButReads s (f s x)) (xs : List α) (s : State) :
    SameButReads s (xs.foldl f s) :=
  foldl_rel SameButReads SameButReads.refl SameButReads.trans f hf xs s

section
variable {s t : State} (h : SameButReads s t)
include h

theorem SameButReads.eq : t = { s with win := t.win, poison := t.poison, flaws := t.flaws, tlb := t.tlb } := h
theorem SameButReads.mem : t.mem = s.mem := by rw [h.eq]
theorem SameButReads.host : t.host = s.host := by rw [h.eq]
theorem SameButReads.cuts : t.cuts = s.cuts := by rw [h.eq]
theorem SameButReads.leases : t.leases = s.leases := by rw [h.eq]
theorem SameButReads.keepsMemory : KeepsMemory s t := ⟨h.mem, h.host⟩

end

theorem poisonSector_sameButReads (s : State) (sec : Nat) : SameButReads s (s.poisonSector sec) := by
  have hlisted : SameButReads s (if sec ∈ s.poison then s else { s with poison := insertBy id sec s.poison }) := by split <;> rfl
  exact (hlisted.trans (setField_sameButWin _ _ _ _ _).sameButReads).trans (setReg_sameButWin _ _ _).sameButReads

theorem readFlaw_sameButReads (s : State) (p : Nat) : SameButReads s (s.readFlaw p) := by
  unfold State.readFlaw
  split
  · rfl
  · dsimp only
    split
    · rfl
    · next f _ =>
      have hclean : SameButReads s { s with flaws := s.flaws.filter (· != f) } := rfl
      split
      · exact hclean.trans (poisonSector_sameButReads _ _)
      · exact hclean.trans rfl

theorem readAll_sameButReads (s : State) (l : Loc) (n : Nat) : SameButReads s (s.readAll l n) := by
  unfold State.readAll
  split
  · split
    · rfl
    · exact foldl_sameButReads _ (fun s _ => readFlaw_sameButReads s _) _ _
  · rfl

theorem walkRead_sameButReads (s : State) (u : TlbUnit) (asid : Nat) (ptr : W64) : SameButReads s (s.walkRead u asid ptr) := by
  unfold State.walkRead
  split
  · rfl
  · have hdir := readAll_sameButReads s (.dev (fld (s.reg regAstbase) 18 22 * 2 ^ 18 + 32 * asid)) 32
    dsimp only
    split
    · split
      · exact hdir.trans (readAll_sameButReads _ _ _)
      · exact hdir
    · split
      · exact hdir.trans (readAll_sameButReads _ _ _)
      · exact (hdir.trans (readAll_sameButReads _ _ _)).trans (readAll_sameButReads _ _ _)

theorem xlatted_sameButReads (s : State) (u : TlbUnit) (asid : Nat) (ptr : W64) : SameButReads s (s.xlatted u asid ptr) := by
  have hwalk := walkRead_sameButReads s u asid ptr
  have hfill : SameButReads s (match (xlat s u asid ptr).fill with
      | some t => { s.walkRead u asid ptr with
          tlb := (tlbChain u).foldl (fun tlb v => tlbAdd tlb { t with unit := v }) (s.walkRead u asid ptr).tlb }
      | none => s.walkRead u asid ptr) := by
    split
    · exact hwalk.trans rfl
    · exact hwalk
  unfold State.xlatted
  dsimp only
  split
  · exact hfill
  · exact hfill.trans (setReg_sameButWin _ _ _).sameButReads

theorem readPtr_sameButReads (s : State) (u : TlbUnit) (asid : Nat) (ptr : W64) (n : Nat) : SameButReads s (s.readPtr u asid ptr n) := by
  unfold State.readPtr
  split
  · exact readAll_sameButReads _ _ _
  · rfl

/-! ### An issue (R31, R388) -/

theorem noteIssue_eq (s : State) (c : Cut) : ∃ is, s.noteIssue c = { s with issued := is } := by
  unfold State.noteIssue
  split
  · exact ⟨s.issued, rfl⟩
  · exact ⟨_, rfl⟩

theorem noteIssue_leases (s : State) (c : Cut) : (s.noteIssue c).leases = s.leases := by
  obtain ⟨is, h⟩ := noteIssue_eq s c
  rw [h]

theorem noteIssue_keepsMemory (s : State) (c : Cut) : KeepsMemory s (s.noteIssue c) := by
  obtain ⟨is, h⟩ := noteIssue_eq s c
  rw [h]
  exact ⟨rfl, rfl⟩

theorem KeepsMemory.trans {s t u : State} (h : KeepsMemory s t) (k : KeepsMemory t u) : KeepsMemory s u :=
  ⟨k.1.trans h.1, k.2.trans h.2⟩

/-- What the fetch of a cut's word reads. -/
theorem fetched_sameButReads (s : State) (c : Cut) :
    SameButReads s ((s.xlatted c.unit (c.asid s) c.ctx.pc).readPtr c.unit (c.asid s) c.ctx.pc 4) :=
  (xlatted_sameButReads s _ _ _).trans (readPtr_sameButReads _ _ _ _ _)

theorem issues_leases (s : State) (c : Cut) (w : W32) : (s.issues c w).leases = s.leases :=
  (noteIssue_leases _ c).trans (fetched_sameButReads s c).leases

theorem issues_keepsMemory (s : State) (c : Cut) (w : W32) : KeepsMemory s (s.issues c w) :=
  (fetched_sameButReads s c).keepsMemory.trans (noteIssue_keepsMemory _ c)

/-! ### Outcomes of a turn (R31, R32) -/

theorem noted_noLeases (s : State) (i : Option Instr) (o : Host.Outcome State Fault Refusal) (h : s.leases = []) : noted s i o = o := by
  unfold noted
  split
  · simp [h]
  · rfl

theorem turnOutcome_issued (s t : State) (i : Instr) (h : pureWait t (exec i t) = none) :
    turnOutcome s t i = noted t (some i) (exec i t) := by
  simp [turnOutcome, h]

/-- Only an executing cut enters a wait. -/
theorem executing_of_pureWait (s : State) (o : Host.Outcome State Fault Refusal) (v : Wait) (h : pureWait s o = some v) :
    ∃ c, s.executing = some c := by
  unfold pureWait at h
  split at h
  · next c _ hc => exact ⟨_, by assumption⟩
  · cases h

theorem turnOutcome_waits (s t : State) (i : Instr) (c : Cut) (v : Wait) (h : pureWait t (exec i t) = some v)
    (hc : s.cutOf t.cur = some c) :
    turnOutcome s t i = .next (({ t with cuts := s.cuts, issued := s.issued } : State).hold c v) := by
  obtain ⟨d, hd⟩ := executing_of_pureWait _ _ _ h
  have huid : d.uid = t.cur := cutOf_uid t t.cur d hd
  simp [turnOutcome, h, hd, huid, hc]

/-- The turn of a picked cut that may issue and whose word decodes (R72, R93). -/
theorem turn_run (s : State) (uid : Nat) (c : Cut) (w : W32) (i : Instr) (hc : s.cutOf uid = some c) (hm : c.mayIssue s = true)
    (hb : c.breakpoint s = none) (hf : c.fetch s = .word w) (hd : decodeWord w = some i) : s.turn uid = .run i (s.issues c w) := by
  simp [State.turn, hc, hm, hb, hf, hd]

/-- The step of a state with no event on its agenda is the turn of the cut that was picked first. -/
theorem step_of_turn (s : State) (uid : Nat) (rest : List Nat) (i : Instr) (t : State) (ha : s.agenda = []) (hi : s.issue = uid :: rest)
    (ht : ({ s with issue := rest } : State).turn uid = .run i t) : step s = turnOutcome { s with issue := rest } t i := by
  cases s
  subst ha hi
  simp only [step, ht]

/-- The step of a state with an event on its agenda executes the event, or holds it (R322). -/
theorem step_of_agenda (s : State) (i : Instr) (rest : List Instr) (ha : s.agenda = i :: rest) :
    step s = (let t : State := { s with agenda := rest }
      let t := if i = .schedulerCycle then t.waitsEntered else t
      if heldBehind t i then .next (t.holdHost (.event i)) else noted t (some i) (exec i t)) := by
  cases s
  subst ha
  rfl

theorem waitsEntered_leases (s : State) : s.waitsEntered.leases = s.leases := by
  unfold State.waitsEntered
  generalize s.cuts = ds
  induction ds generalizing s with
  | nil => rfl
  | cons d ds ih =>
    rw [List.foldl_cons, ih]
    split
    · split <;> rfl
    · rfl

end Sys2Proof.Machine

namespace Sys2Proof

open Sys2Proof.Machine

/-- Settles O3: the turn of the picked cut runs the decoded word, and the head of the agenda is executed or held. -/
theorem stepRunsDecodedInstruction : Obligations.StepRunsDecodedInstruction := by
  unfold Obligations.StepRunsDecodedInstruction
  constructor
  · intro s uid rest c w i hagenda hissue hc hmay hbreak hfetch hdecode t
    have hturn := turn_run { s with issue := rest } uid c w i hc hmay hbreak hfetch hdecode
    have hstep : step s = turnOutcome { s with issue := rest } t i := step_of_turn s uid rest i t hagenda hissue hturn
    have hleases : t.leases = s.leases := issues_leases _ _ _
    obtain ⟨hmem, hhost⟩ : KeepsMemory s t := issues_keepsMemory { s with issue := rest } c w
    refine ⟨fun hp => ?_, fun v hp => ?_, rfl, rfl, hmem, hhost⟩
    · have hnoted := hstep.trans (turnOutcome_issued _ t i hp)
      exact ⟨hnoted, fun hl => hnoted.trans (noted_noLeases t _ _ (hleases.trans hl))⟩
    · have hcur : State.cutOf { s with issue := rest } t.cur = some c := by
        rw [show t.cur = uid from cutOf_uid s uid c hc]
        exact hc
      exact hstep.trans (turnOutcome_waits _ t i c v hp hcur)
  · intro s i rest hagenda t
    have hstep : step s = if heldBehind t i then .next (t.holdHost (.event i)) else noted t (some i) (exec i t) :=
      step_of_agenda s i rest hagenda
    have hleases : t.leases = s.leases := by
      show State.leases (if _ then _ else _) = _
      split
      · exact waitsEntered_leases _
      · rfl
    refine ⟨fun hh => by rw [hstep, if_pos hh], fun hh => ?_⟩
    have hnoted : step s = noted t (some i) (exec i t) := by rw [hstep, if_neg (by simp [hh])]
    exact ⟨hnoted, fun hl => hnoted.trans (noted_noLeases t _ _ (hleases.trans hl))⟩

end Sys2Proof
end

/-! ## Masks, boxes and predicates

A mask by its lanes, the items of a box, the smallest box of some items, and predicate results under the guard (R15, R20, R103, R104). -/

section

namespace Sys2Proof.Machine

/-! ### Masks of lanes -/

theorem foldl_mask_testBit (p : Nat → Bool) (n i : Nat) (hn : n ≤ 32) (hi : i < 32) :
    inMask ((List.range n).foldl (fun m j => if p j then m ||| (1#32 <<< j) else m) 0#32) i = (decide (i < n) && p i) := by
  induction n with
  | zero => simp [inMask]
  | succ n ih =>
    have ih := ih (by omega)
    rw [List.range_succ, List.foldl_append, List.foldl_cons, List.foldl_nil]
    unfold inMask at ih ⊢
    split
    · next hp =>
      rw [BitVec.toNat_or, Nat.testBit_or, ih, BitVec.testBit_toNat, BitVec.getLsbD_shiftLeft, BitVec.getLsbD_one]
      rcases Nat.lt_trichotomy i n with h | h | h
      · simp [h, hi, Nat.lt_succ_of_lt h]
      · simp [h, hp]; omega
      · have : ¬ i < n + 1 := by omega
        have : i - n ≠ 0 := by omega
        simp [*]; omega
    · next hp =>
      rw [ih]
      rcases Nat.lt_trichotomy i n with h | h | h
      · simp [h, Nat.lt_succ_of_lt h]
      · simp [h, hp]
      · have : ¬ i < n + 1 := by omega
        have : ¬ i < n := by omega
        simp [*]

theorem inMask_of_ge (m : W32) (i : Nat) (h : 32 ≤ i) : inMask m i = false :=
  Nat.testBit_eq_false_of_lt (Nat.lt_of_lt_of_le m.isLt (Nat.pow_le_pow_right (by omega) h))

/-- A lane is in the mask of a test where the test admits it. -/
theorem inMask_maskOf (p : Nat → Bool) (i : Nat) : inMask (maskOf 32 p) i = (decide (i < 32) && p i) := by
  by_cases hi : i < 32
  · exact foldl_mask_testBit p 32 i (Nat.le_refl _) hi
  · rw [inMask_of_ge _ _ (by omega)]
    simp [hi]

theorem mem_lanesOf (m : W32) (i : Nat) : i ∈ lanesOf m ↔ inMask m i = true := by
  unfold lanesOf
  rw [List.mem_filter, List.mem_range, and_iff_right_iff_imp]
  intro h
  by_contra hi
  rw [inMask_of_ge m i (by omega)] at h
  cases h

end Sys2Proof.Machine
end

section

namespace Sys2Proof.Machine

/-! ### Boxes of items (R15, R21, R395) -/

/-- An item lies in a box. -/
def Box.has (b : Box) (it : Item) : Prop :=
  (b.lo.x ≤ it.x ∧ it.x < b.lo.x + b.nx) ∧ (b.lo.y ≤ it.y ∧ it.y < b.lo.y + b.ny) ∧ (b.lo.z ≤ it.z ∧ it.z < b.lo.z + b.nz)

/-- The coordinates of an item, counted from the box, are the digits of its place. -/
theorem Box.place_digits (b : Box) (it : Item) (h : b.has it) : b.place it % b.nx = it.x - b.lo.x
    ∧ b.place it / b.nx % b.ny = it.y - b.lo.y ∧ b.place it / b.nx / b.ny = it.z - b.lo.z := by
  obtain ⟨⟨hx, hx'⟩, ⟨hy, hy'⟩, -⟩ := h
  have hrow : b.place it / b.nx = (it.z - b.lo.z) * b.ny + (it.y - b.lo.y) := by
    rw [Box.place, Nat.add_comm, Nat.add_mul_div_right _ _ (by omega), Nat.div_eq_of_lt (by omega), Nat.zero_add]
  refine ⟨?_, ?_, ?_⟩
  · rw [Box.place, Nat.mul_add_mod_self_right, Nat.mod_eq_of_lt (by omega)]
  · rw [hrow, Nat.mul_add_mod_self_right, Nat.mod_eq_of_lt (by omega)]
  · rw [hrow, Nat.add_comm, Nat.add_mul_div_right _ _ (by omega), Nat.div_eq_of_lt (by omega), Nat.zero_add]

theorem Box.item_place (b : Box) (it : Item) (h : b.has it) : b.item (b.place it) = it := by
  obtain ⟨hx, hy, hz⟩ := b.place_digits it h
  obtain ⟨⟨hxlo, -⟩, ⟨hylo, -⟩, hzlo, -⟩ := h
  rw [Box.item, hx, hy, ← Nat.div_div_eq_div_mul, hz, Nat.add_sub_cancel' hxlo, Nat.add_sub_cancel' hylo, Nat.add_sub_cancel' hzlo]

theorem Box.place_item (b : Box) (i : Nat) : b.place (b.item i) = i := by
  simp only [Box.place, Box.item, Nat.add_sub_cancel_left, ← Nat.div_div_eq_div_mul]
  rw [Nat.div_add_mod', Nat.div_add_mod']

theorem Box.has_item (b : Box) (i : Nat) (h : i < b.size) : b.has (b.item i) := by
  unfold Box.size at h
  have hpos : 0 < b.nx * b.ny * b.nz := Nat.zero_lt_of_lt h
  have hxy : 0 < b.nx * b.ny := Nat.pos_of_mul_pos_right hpos
  have hx : i % b.nx < b.nx := Nat.mod_lt _ (Nat.pos_of_mul_pos_right hxy)
  have hy : i / b.nx % b.ny < b.ny := Nat.mod_lt _ (Nat.pos_of_mul_pos_left hxy)
  have hz : i / (b.nx * b.ny) < b.nz := Nat.div_lt_of_lt_mul h
  exact ⟨⟨Nat.le_add_right .., Nat.add_lt_add_left hx _⟩, ⟨Nat.le_add_right .., Nat.add_lt_add_left hy _⟩,
    Nat.le_add_right .., Nat.add_lt_add_left hz _⟩

/-- A number of digits below their bases lies below their product. -/
theorem mul_add_lt_mul (m n x y : Nat) (hx : x < n) (hy : y < m) : y * n + x < m * n :=
  calc y * n + x < (y + 1) * n := by rw [Nat.add_mul, Nat.one_mul]; omega
    _ ≤ m * n := Nat.mul_le_mul_right _ hy

theorem Box.place_lt_size (b : Box) (it : Item) (h : b.has it) : b.place it < b.size := by
  obtain ⟨⟨hx, hx'⟩, ⟨hy, hy'⟩, hz, hz'⟩ := h
  have hrow := mul_add_lt_mul b.nz b.ny (it.y - b.lo.y) (it.z - b.lo.z) (by omega) (by omega)
  have hplace := mul_add_lt_mul _ b.nx (it.x - b.lo.x) _ (by omega) hrow
  calc b.place it < b.nz * b.ny * b.nx := hplace
    _ = b.size := by unfold Box.size; ring

theorem Box.mem_items (b : Box) (it : Item) : it ∈ b.items ↔ b.has it := by
  unfold Box.items
  rw [List.mem_map]
  constructor
  · rintro ⟨i, hi, rfl⟩
    exact b.has_item i (List.mem_range.mp hi)
  · exact fun h => ⟨b.place it, List.mem_range.mpr (b.place_lt_size it h), b.item_place it h⟩

theorem Box.items_nodup (b : Box) : b.items.Nodup := by
  refine List.Nodup.map_on ?_ List.nodup_range
  intro i _ j _ hij
  rw [← b.place_item i, hij, b.place_item j]

@[simp] theorem Box.items_length (b : Box) : b.items.length = b.size := by simp [Box.items]

/-! ### The smallest box (R169, R395) -/

theorem foldl_min_le (xs : List Nat) (a : Nat) : xs.foldl Nat.min a ≤ a ∧ ∀ x ∈ xs, xs.foldl Nat.min a ≤ x := by
  induction xs generalizing a with
  | nil => simp
  | cons y ys ih =>
    obtain ⟨h1, h2⟩ := ih (Nat.min a y)
    refine ⟨h1.trans (Nat.min_le_left a y), List.forall_mem_cons.mpr ⟨h1.trans (Nat.min_le_right a y), h2⟩⟩

theorem le_foldl_max (xs : List Nat) (a : Nat) : a ≤ xs.foldl Nat.max a ∧ ∀ x ∈ xs, x ≤ xs.foldl Nat.max a := by
  induction xs generalizing a with
  | nil => simp
  | cons y ys ih =>
    obtain ⟨h1, h2⟩ := ih (Nat.max a y)
    refine ⟨(Nat.le_max_left a y).trans h1, List.forall_mem_cons.mpr ⟨(Nat.le_max_right a y).trans h1, h2⟩⟩

theorem foldl_min_mem (xs : List Nat) (a : Nat) : xs.foldl Nat.min a = a ∨ xs.foldl Nat.min a ∈ xs := by
  induction xs generalizing a with
  | nil => simp
  | cons y ys ih =>
    rcases ih (Nat.min a y) with h | h
    · rw [List.foldl_cons, h]
      rcases Nat.le_total a y with hay | hay
      · exact .inl (Nat.min_eq_left hay)
      · exact .inr (List.mem_cons.mpr (.inl (Nat.min_eq_right hay)))
    · exact .inr (List.mem_cons_of_mem _ h)

theorem foldl_max_mem (xs : List Nat) (a : Nat) : xs.foldl Nat.max a = a ∨ xs.foldl Nat.max a ∈ xs := by
  induction xs generalizing a with
  | nil => simp
  | cons y ys ih =>
    rcases ih (Nat.max a y) with h | h
    · rw [List.foldl_cons, h]
      rcases Nat.le_total a y with hay | hay
      · exact .inr (List.mem_cons.mpr (.inl (Nat.max_eq_right hay)))
      · exact .inl (Nat.max_eq_left hay)
    · exact .inr (List.mem_cons_of_mem _ h)

theorem leastOf_le (d : Nat) (xs : List Nat) (x : Nat) (h : x ∈ xs) : leastOf d xs ≤ x := by
  cases xs with
  | nil => cases h
  | cons y ys =>
    obtain ⟨h1, h2⟩ := foldl_min_le ys y
    rcases List.mem_cons.mp h with rfl | h
    · exact h1
    · exact h2 x h

theorem leastOf_mem (d : Nat) (xs : List Nat) (h : xs ≠ []) : leastOf d xs ∈ xs := by
  cases xs with
  | nil => exact absurd rfl h
  | cons y ys =>
    rcases foldl_min_mem ys y with hy | hy
    · exact List.mem_cons.mpr (.inl hy)
    · exact List.mem_cons_of_mem _ hy

/-- A coordinate of the smallest box of some items: its least value, and how far it reaches. -/
theorem side_of_mem (its : List Item) (f : Item → Nat) (it : Item) (h : it ∈ its) :
    leastOf 0 (its.map f) ≤ f it ∧ f it < leastOf 0 (its.map f) + ((its.map f).foldl Nat.max 0 + 1 - leastOf 0 (its.map f)) := by
  have hm := List.mem_map_of_mem (f := f) h
  have h1 := leastOf_le 0 _ _ hm
  have h2 := (le_foldl_max (its.map f) 0).2 _ hm
  omega

/-- The smallest box of some items holds each of them. -/
theorem boundingBox_has (its : List Item) (it : Item) (h : it ∈ its) : (boundingBox its).has it :=
  ⟨side_of_mem its (·.x) it h, side_of_mem its (·.y) it h, side_of_mem its (·.z) it h⟩

theorem side_within (its : List Item) (f : Item → Nat) (lo hi : Nat) (hne : its ≠ []) (h : ∀ it ∈ its, lo ≤ f it ∧ f it < hi) :
    lo ≤ leastOf 0 (its.map f) ∧ leastOf 0 (its.map f) ≤ (its.map f).foldl Nat.max 0 ∧ (its.map f).foldl Nat.max 0 < hi := by
  obtain ⟨it, hit, hle⟩ := List.mem_map.mp (leastOf_mem 0 (its.map f) (by simpa using hne))
  have hl := h it hit
  have hreach := (le_foldl_max (its.map f) 0).2 _ (List.mem_map_of_mem (f := f) hit)
  rcases foldl_max_mem (its.map f) 0 with hmax | hmax
  · omega
  · obtain ⟨jt, hjt, hme⟩ := List.mem_map.mp hmax
    have hm := h jt hjt
    omega

/-- A box within another, none of whose sides is empty. -/
structure Box.Inside (t b : Box) : Prop where
  x : b.lo.x ≤ t.lo.x ∧ 0 < t.nx ∧ t.lo.x + t.nx ≤ b.lo.x + b.nx
  y : b.lo.y ≤ t.lo.y ∧ 0 < t.ny ∧ t.lo.y + t.ny ≤ b.lo.y + b.ny
  z : b.lo.z ≤ t.lo.z ∧ 0 < t.nz ∧ t.lo.z + t.nz ≤ b.lo.z + b.nz

theorem boundingBox_inside (its : List Item) (b : Box) (hne : its ≠ []) (h : ∀ it ∈ its, b.has it) : (boundingBox its).Inside b := by
  have hx := side_within its (·.x) _ _ hne fun it hit => (h it hit).1
  have hy := side_within its (·.y) _ _ hne fun it hit => (h it hit).2.1
  have hz := side_within its (·.z) _ _ hne fun it hit => (h it hit).2.2
  constructor <;> (unfold boundingBox; dsimp only; omega)

/-! ### Predicates over a box (R20, R395) -/

/-- One side of a box predicate, whose bound is left out where it restricts nothing. -/
theorem within_side (lo n tlo tn x : Nat) (hx : lo ≤ x ∧ x < lo + n) (ht : lo ≤ tlo ∧ 0 < tn ∧ tlo + tn ≤ lo + n) :
    let s := if n ≤ 1 ∨ (tlo = lo ∧ tn = n) then ((none : Option Nat), (none : Option Nat)) else (some tlo, some (tlo + tn - 1))
    within s.1 s.2 x = true ↔ tlo ≤ x ∧ x < tlo + tn := by
  dsimp only
  split
  · simp only [within, Option.all_none, Bool.and_self, true_iff]
    omega
  · simp only [within, Option.all_some, Bool.and_eq_true, decide_eq_true_eq]
    omega

/-- The bounds of a box within another hold of its items, among those of the other. -/
theorem boundsOf_holds (b t : Box) (it : Item) (hb : b.has it) (ht : t.Inside b) : (boundsOf b t).holds it = true ↔ t.has it := by
  have hx := within_side b.lo.x b.nx t.lo.x t.nx it.x hb.1 ht.x
  have hy := within_side b.lo.y b.ny t.lo.y t.ny it.y hb.2.1 ht.y
  have hz := within_side b.lo.z b.nz t.lo.z t.nz it.z hb.2.2 ht.z
  unfold boundsOf Bounds.holds Box.has
  rw [Bool.and_eq_true, Bool.and_eq_true, and_assoc]
  exact and_congr hx (and_congr hy hz)

/-- A set of items as large as its smallest box is the whole box. -/
theorem mem_of_boundingBox_size (its : List Item) (hn : its.Nodup) (h : (boundingBox its).size = its.length) (it : Item) :
    (boundingBox its).has it ↔ it ∈ its := by
  constructor
  · intro hit
    have hsub : its ⊆ (boundingBox its).items := fun jt hjt => (Box.mem_items _ jt).mpr (boundingBox_has its jt hjt)
    have hperm := (List.subperm_of_subset hn hsub).perm_of_length_le (by rw [Box.items_length, h])
    exact hperm.mem_iff.mpr ((Box.mem_items _ it).mpr hit)
  · exact boundingBox_has its it

/-- A uniform or box predicate made from a true set holds exactly there, within its box. -/
theorem boxPred_at (b : Box) (f : Item → Bool) (q : PredVal) (h : boxPred b f = some q) (it : Item) (i : Nat) (hit : b.has it) :
    q.at it i = f it := by
  have hmem := (b.mem_items it).mpr hit
  unfold boxPred at h
  dsimp only at h
  split at h
  · next hempty =>
    cases h
    have := List.filter_eq_nil_iff.mp (List.length_eq_zero_iff.mp hempty) it hmem
    simpa [PredVal.at] using this
  · next hne =>
    split at h
    · next hall =>
      cases h
      rw [← Box.items_length, List.length_filter_eq_length_iff] at hall
      exact (hall it hmem).symm
    · split at h
      · next hbox =>
        cases h
        have hts : ∀ jt ∈ b.items.filter f, b.has jt := fun jt hjt => (b.mem_items jt).mp (List.mem_filter.mp hjt).1
        have hin := boundingBox_inside (b.items.filter f) b (fun hn => hne (by rw [hn]; rfl)) hts
        rw [PredVal.at, Bool.eq_iff_iff, boundsOf_holds b _ it hit hin,
          mem_of_boundingBox_size _ (b.items_nodup.filter _) hbox it, List.mem_filter]
        exact and_iff_right hmem
      · cases h

end Sys2Proof.Machine
end

section

namespace Sys2Proof.Machine

/-! ### Predicate results (R20, R80, R103) -/

/-- Each active item of a cut lies in its box. -/
theorem theBox_has (c : Cut) (p : Nat) (hp : p ∈ c.positions) : c.theBox.has (c.item p) := by
  unfold Cut.theBox
  split
  · next hpat =>
    rw [Cut.positions, if_pos hpat, List.mem_range] at hp
    rw [Cut.item, if_pos hpat]
    exact c.box.has_item p hp
  · exact boundingBox_has _ _ (List.mem_map_of_mem hp)

theorem lanePred_at (c : Cut) (f : Nat → Bool) (p : Nat) (hl : c.isPattern = false) (hp : p ∈ c.positions) (it : Item) :
    (lanePred c f).at it p = f p := by
  rw [Cut.positions, if_neg (by simp [hl]), mem_lanesOf] at hp
  have hlt : p < 32 := by
    by_contra hge
    rw [inMask_of_ge _ _ (Nat.not_lt.mp hge)] at hp
    cases hp
  simp [lanePred, PredVal.at, inMask_maskOf, hp, hlt]

/-- A predicate that is not held lane by lane is a function of the item. -/
theorem at_of_not_isLanes (q : PredVal) (h : q.isLanes = false) (it : Item) (i j : Nat) : q.at it i = q.at it j := by
  cases q with
  | uni b => rfl
  | box b => rfl
  | lanes m => cases h

/-- A test whose inputs are not held lane by lane is a function of the item. -/
def OfItem (f : Item → Nat → Bool) : Prop := ∀ it i j, f it i = f it j

theorem predResult_isSome (c : Cut) (ins : List PredVal) (f : Item → Nat → Bool) (hl : c.isPattern = false) :
    (predResult c ins f).isSome = true := by
  unfold predResult
  split
  · simp [hl]
  · split <;> simp [hl]

theorem predResult_at (c : Cut) (ins : List PredVal) (f : Item → Nat → Bool) (q : PredVal) (h : predResult c ins f = some q)
    (hf : ins.any PredVal.isLanes = false → OfItem f) (p : Nat) (hp : p ∈ c.positions) : q.at (c.item p) p = f (c.item p) p := by
  have hlane : ∀ r : PredVal, (if c.isPattern then none else some (lanePred c fun i => f (c.item i) i)) = some r →
      r.at (c.item p) p = f (c.item p) p := by
    intro r hr
    cases hpat : c.isPattern with
    | true => simp [hpat] at hr
    | false =>
      rw [hpat] at hr
      cases hr
      exact lanePred_at c _ p hpat hp _
  unfold predResult at h
  split at h
  · exact hlane q h
  · next hins =>
    split at h
    · next r hbox =>
      cases h
      rw [boxPred_at c.theBox _ q hbox _ p (theBox_has c p hp)]
      exact hf (by simpa using hins) _ _ _
    · exact hlane q h

theorem guard_of_guardUni (c : Cut) (b : Bool) (h : c.guardUni = some b) (p : Nat) : c.guard p = b := by
  unfold Cut.guardUni at h
  unfold Cut.guard Cut.predAt
  split at h
  · next v hv => rw [hv]; exact Option.some.inj h
  · cases h

/-- A predicate result under the guard: a lane cut can always hold it. -/
theorem guarded_isSome (c : Cut) (d : Nat) (ins : List PredVal) (form : Bool) (f : Item → Nat → Bool) (hl : c.isPattern = false) :
    (c.guarded d ins form f).isSome = true := by
  unfold Cut.guarded
  dsimp only
  split
  · rfl
  · split
    · exact predResult_isSome c _ _ hl
    · simp [hl]
  · split
    · exact predResult_isSome c _ _ hl
    · simp [hl]

/-- A predicate result under the guard: the result in the governed items, the predicate's own value in the others (R103). -/
theorem guarded_at (c : Cut) (d : Nat) (ins : List PredVal) (form : Bool) (f : Item → Nat → Bool) (q : PredVal)
    (h : c.guarded d ins form f = some q) (hf : form = true → ins.any PredVal.isLanes = false → OfItem f) (p : Nat) (hp : p ∈ c.positions) :
    q.at (c.item p) p = if c.guard p then f (c.item p) p else c.predAt d p := by
  have hresult : ∀ (js : List PredVal) (g : Item → Nat → Bool) (r : PredVal),
      (if form then predResult c js g else if c.isPattern then none else some (lanePred c fun i => g (c.item i) i)) = some r →
      (form = true → js.any PredVal.isLanes = false → OfItem g) → r.at (c.item p) p = g (c.item p) p := by
    intro js g r hr hg
    split at hr
    · next hform => exact predResult_at c js g r hr (hg hform) p hp
    · split at hr
      · cases hr
      · next hpat =>
        cases hr
        exact lanePred_at c _ p (by simpa using hpat) hp _
  unfold Cut.guarded at h
  dsimp only at h
  split at h
  · next hu =>
    cases h
    rw [guard_of_guardUni c false hu p]
    rfl
  · next hu =>
    rw [guard_of_guardUni c true hu p]
    exact hresult ins f q h hf
  · refine (hresult _ _ q h fun hform hjs it i j => ?_).trans rfl
    simp only [List.any_cons, Bool.or_eq_false_iff] at hjs
    obtain ⟨hgp, hold, hins⟩ := hjs
    rw [at_of_not_isLanes _ hgp it i j, at_of_not_isLanes _ hold it i j, hf hform hins it i j]

/-- The outcome of a governed predicate instruction, given its test at each item. -/
theorem guarded_result (s : State) (c : Cut) (srcs : List Opnd) (d : Nat) (ins : List PredVal) (form : Bool) (f : Item → Nat → Bool)
    (o : Host.Outcome State Fault Refusal) (val : Nat → Bool) (ho : o = .next (s.writePred c srcs d (c.guarded d ins form f)))
    (hval : ∀ p, f (c.item p) p = val p) (hf : form = true → ins.any PredVal.isLanes = false → OfItem f) :
    ∃ r : Option PredVal, o = .next (s.writePred c srcs d r) ∧ (c.isPattern = false → r.isSome = true)
      ∧ ∀ q, r = some q → ∀ p ∈ c.positions, q.at (c.item p) p = if c.guard p then val p else c.predAt d p :=
  ⟨_, ho, guarded_isSome c d ins form f, fun q hq p hp => hval p ▸ guarded_at c d ins form f q hq hf p hp⟩

/-! ### The predicate group by item (R104, R167) -/

theorem srcPred_ofItem (c : Cut) (t : BitVec 1) (a : BitVec 3) (h : (c.pred a.toNat).isLanes = false) : OfItem (c.srcPred t a) :=
  fun it i j => congrArg (· != (t == 1#1)) (at_of_not_isLanes _ h it i j)

/-- A predicate instruction of one source. -/
theorem predOp_one (s : State) (c : Cut) (d : BitVec 3) (t : BitVec 1) (a : BitVec 3) (g : Bool → Bool)
    (o : Host.Outcome State Fault Refusal) (ho : o = .next (s.predOp c d [a] fun it i => g (c.srcPred t a it i))) :
    ∃ r : Option PredVal, o = .next (s.writePred c [] d.toNat r) ∧ (c.isPattern = false → r.isSome = true)
      ∧ ∀ q, r = some q → ∀ p ∈ c.positions, q.at (c.item p) p = if c.guard p then g (c.srcAt t a p) else c.predAt d.toNat p := by
  refine guarded_result s c [] d.toNat _ true _ o _ ho (fun _ => rfl) fun _ hins it i j => ?_
  simp only [List.map_cons, List.map_nil, List.any_cons, List.any_nil, Bool.or_false] at hins
  exact congrArg g (srcPred_ofItem c t a hins it i j)

/-- A predicate instruction of two sources. -/
theorem predOp_two (s : State) (c : Cut) (d : BitVec 3) (t : BitVec 1) (a : BitVec 3) (u : BitVec 1) (b : BitVec 3) (g : Bool → Bool → Bool)
    (o : Host.Outcome State Fault Refusal) (ho : o = .next (s.predOp c d [a, b] fun it i => g (c.srcPred t a it i) (c.srcPred u b it i))) :
    ∃ r : Option PredVal, o = .next (s.writePred c [] d.toNat r) ∧ (c.isPattern = false → r.isSome = true)
      ∧ ∀ q, r = some q → ∀ p ∈ c.positions,
          q.at (c.item p) p = if c.guard p then g (c.srcAt t a p) (c.srcAt u b p) else c.predAt d.toNat p := by
  refine guarded_result s c [] d.toNat _ true _ o _ ho (fun _ => rfl) fun _ hins it i j => ?_
  simp only [List.map_cons, List.map_nil, List.any_cons, List.any_nil, Bool.or_false, Bool.or_eq_false_iff] at hins
  exact congrArg₂ g (srcPred_ofItem c t a hins.1 it i j) (srcPred_ofItem c u b hins.2 it i j)

/-- A value in U form is the same in every item. -/
theorem at_of_isU (v : RegVal) (h : v.isU = true) (it : Item) (i j : Nat) : v.at it i = v.at it j := by
  cases v with
  | pat b sx sy sz => rfl
  | lanes vs => cases h

theorem predOp_result (i : Instr) (op : PredOp) (s : State) (c : Cut) (hop : predOp i = some op) (hr : Runs s c i) :
    ∃ r : Option PredVal, exec i s = .next (s.writePred c op.srcs op.dst.toNat r) ∧ (c.isPattern = false → r.isSome = true)
      ∧ ∀ q, r = some q → ∀ p ∈ c.positions,
          q.at (c.item p) p = if c.guard p then op.val s c p (c.inputsAt s op.srcs p) else c.predAt op.dst.toNat p := by
  unfold predOp at hop
  split at hop
  case h_1 d t a u b => cases hop; exact predOp_two s c d t a u b (· && ·) _ (operate_runs _ s _ c hr)
  case h_2 d t a u b => cases hop; exact predOp_two s c d t a u b (· || ·) _ (operate_runs _ s _ c hr)
  case h_3 d t a u b => cases hop; exact predOp_two s c d t a u b (· != ·) _ (operate_runs _ s _ c hr)
  case h_4 d t a u b => cases hop; exact predOp_two s c d t a u b (· && !·) _ (operate_runs _ s _ c hr)
  case h_5 d t a => cases hop; exact predOp_one s c d t a (!·) _ (operate_runs _ s _ c hr)
  case h_6 d t a => cases hop; exact predOp_one s c d t a id _ (operate_runs _ s _ c hr)
  case h_7 d a =>
    cases hop
    exact guarded_result s c [a] d.toNat [] false _ _ _ (operate_runs _ s _ c hr) (fun _ => rfl) fun hform => by cases hform
  case h_8 k d a b =>
    cases hop
    refine guarded_result s c [a, b] d.toNat [] _ _ _ _ (operate_runs _ s _ c hr) (fun _ => rfl) fun hform _ it i j => ?_
    rw [Bool.and_eq_true] at hform
    dsimp only
    rw [at_of_isU _ hform.1 it i j, at_of_isU _ hform.2 it i j]
  case h_9 => cases hop

/-! ### Writing a predicate (R75) -/

theorem setPred_frame (c : Cut) (n : Nat) (q : PredVal) :
    c.setPred n q = { c with ctx := { c.ctx with preds := (c.setPred n q).ctx.preds } } := by
  unfold Cut.setPred
  split <;> rfl

theorem pred_setPred_ne (c : Cut) (q : PredVal) (n m : Nat) (h : n ≠ m) : (c.setPred n q).pred m = c.pred m := by
  unfold Cut.setPred
  split
  · rfl
  · simp [Cut.pred, List.getD, List.getElem?_set_ne h]

theorem pred_setPred_same (c : Cut) (q : PredVal) (n : Nat) (h : n ≠ 0) (hn : n < c.ctx.preds.length) : (c.setPred n q).pred n = q := by
  simp [Cut.setPred, Cut.pred, h, hn]

/-! ### Counts of a predicate (R104) -/

theorem isEmpty_eq_decide {α : Type} [DecidableEq α] (xs : List α) : (!xs.isEmpty) = decide (xs ≠ []) := by
  cases xs <;> simp

/-- A selection is as long as what it was made from where it left nothing out. -/
theorem length_filter_beq (xs : List Nat) (p : Nat → Bool) : ((xs.filter p).length == xs.length) = decide (xs.filter p = xs) := by
  rw [Bool.eq_iff_iff, beq_iff_eq, decide_eq_true_eq, List.length_filter_eq_length_iff, List.filter_eq_self]

theorem exec_pany (s : State) (c : Cut) (d : BitVec 3) (t : BitVec 1) (a : BitVec 3) (h : Runs s c (.pany d t a)) :
    exec (.pany d t a) s = .next (s.advance (c.setPred d.toNat (.uni (decide (c.governed.filter (c.srcAt t a) ≠ []))))) := by
  have hany : (!(c.holding t a).isEmpty) = decide (c.governed.filter (c.srcAt t a) ≠ []) := isEmpty_eq_decide _
  rw [← hany]
  exact operate_runs _ s _ c h

theorem exec_pall (s : State) (c : Cut) (d : BitVec 3) (t : BitVec 1) (a : BitVec 3) (h : Runs s c (.pall d t a)) :
    exec (.pall d t a) s = .next (s.advance (c.setPred d.toNat (.uni (decide (c.governed.filter (c.srcAt t a) = c.governed))))) := by
  have hall : ((c.holding t a).length == c.governed.length) = decide (c.governed.filter (c.srcAt t a) = c.governed) :=
    length_filter_beq _ _
  rw [← hall]
  exact operate_runs _ s _ c h

/-! ### Comparisons (R101 to R103) -/

/-- A comparison that R20 allows a pattern predicate has no input in L form. -/
theorem ofItem_of_form (c : Cut) (int : Bool) (x y : RegVal) (g : W64 → W64 → Compared) (h : (x.isU && y.isU || int && c.boxable x y) = true) :
    OfItem fun it i => (g (x.at it i) (y.at it i)).1 := by
  intro it i j
  cases x with
  | pat b sx sy sz =>
    cases y with
    | pat b' sx' sy' sz' => rfl
    | lanes vs => simp [RegVal.isU, Cut.boxable] at h
  | lanes vs =>
    cases y with
    | pat b' sx' sy' sz' => simp [RegVal.isU, Cut.boxable] at h
    | lanes ws => simp [RegVal.isU, Cut.boxable] at h

/-- What a comparison gives: the predicate it writes, or what it does where a pattern cut cannot hold it. -/
theorem compare_result (s : State) (c : Cut) (srcs : List Opnd) (d : Nat) (x y : RegVal) (g : W64 → W64 → Compared)
    (o : Host.Outcome State Fault Refusal) (ho : o = .next (s.compare c srcs d x y g)) :
    ∃ r : Option PredVal, (c.isPattern = false → r.isSome = true) ∧ (r = none → o = .next (s.lanesOnly c))
      ∧ ∀ q, r = some q →
        o = .next (s.writePred
          (c.raiseFlags (if !isInt c.et && c.governed.any (fun p => (g (c.valAt x p) (c.valAt y p)).2) then flagIV else 0)) srcs d (some q))
        ∧ ∀ p ∈ c.positions, q.at (c.item p) p = if c.guard p then (g (c.valAt x p) (c.valAt y p)).1 else c.predAt d p := by
  refine ⟨_, guarded_isSome c d [] ((x.isU && y.isU) || (isInt c.et && c.boxable x y)) fun it i => (g (x.at it i) (y.at it i)).1,
    fun hr => ?_, fun q hq => ⟨?_, fun p hp => ?_⟩⟩
  · rw [ho, State.compare]
    simp only [Cut.et] at hr
    simp only [hr]
  · rw [ho, State.compare]
    simp only [Cut.et] at hq
    simp only [hq]
    rfl
  · exact guarded_at c d [] _ _ q hq (fun hform _ => ofItem_of_form c _ x y g hform) p hp

theorem exec_cmp (s : State) (c : Cut) (k : BitVec 4) (d : BitVec 3) (a b : Opnd) (h : Runs s c (.cmp k d a b)) :
    exec (.cmp k d a b) s = .next (s.compare c [a, b] d.toNat (c.read s a []) (c.read s b [a])
      (outcome k.toNat c.et (modeFTZ c.ctx.mode))) :=
  operate_runs _ s _ c h

theorem exec_cmpi (s : State) (c : Cut) (k : BitVec 4) (d : BitVec 3) (a : Opnd) (n : BitVec 11) (h : Runs s c (.cmpi k d a n)) :
    exec (.cmpi k d a n) s = .next (s.compare c [a] d.toNat (c.read s a []) (uVal 0)
      fun x _ => outcomeImm k.toNat c.et (modeFTZ c.ctx.mode) n.toInt x) :=
  operate_runs _ s _ c h

end Sys2Proof.Machine

namespace Sys2Proof

open Sys2Proof.Machine

/-- Settles O12: each governed predicate instruction is a test at each item merged under the guard, held as a box where the test is one. -/
theorem predicateResults : Obligations.PredicateResults := by
  unfold Obligations.PredicateResults
  refine ⟨⟨⟨predOp_result, fun c q n m p => ⟨rfl, rfl, pred_setPred_ne c q n m, pred_setPred_same c q n, setPred_frame c n q⟩⟩, ?count⟩, ?compare⟩
  case count =>
    intro s c d r t a
    exact ⟨exec_pany s c d t a, exec_pall s c d t a, fun hr => operate_runs _ s _ c hr, fun hr => operate_runs _ s _ c hr⟩
  case compare =>
    intro s c k d a b n imm
    cases imm with
    | true =>
      simp only [if_true]
      intro hr
      have hcompare := compare_result s c [a] d.toNat _ _ _ _ (exec_cmpi s c k d a n hr)
      exact hcompare
    | false =>
      simp only [Bool.false_eq_true, if_false]
      intro hr
      have hcompare := compare_result s c [a, b] d.toNat _ _ _ _ (exec_cmp s c k d a b hr)
      exact hcompare

end Sys2Proof
end

/-! ## Transfers

Targets and links, a transfer that every item takes, and the parts that a divided branch leaves of a lane cut (R25, R90 to R93, R108). -/

section

namespace Sys2Proof.Machine

/-! ### Targets (R90, R93) -/

/-- A target lies four bytes times its offset from the transfer. -/
theorem target_eq (c : Cut) (off : BitVec 21) : c.target off = c.ctx.pc + BitVec.ofInt 64 (4 * off.toInt) := by
  have hshift : off.signExtend 64 <<< 2 = BitVec.ofInt 64 (4 * off.toInt) := by
    rw [← BitVec.mul_twoPow_eq_shiftLeft, BitVec.ofInt_mul, BitVec.mul_comm]
    rfl
  rw [Cut.target, hshift]

theorem targetCause_unaligned (s : State) (c : Cut) (t : W64) (h : t.toNat % 4 ≠ 0) : targetCause s c true t = causeALN := by
  simp [targetCause, h]

/-- A target that is aligned, or needs no alignment, raises BND or nothing. -/
theorem targetCause_aligned (s : State) (c : Cut) (reg : Bool) (t : W64) (h : reg = true → t.toNat % 4 = 0) :
    targetCause s c reg t = if objOf t ≠ objOf (s.launchOf c.lid).kcode ∨ accessCause s c.unit (c.asid s) t 4 1 .exec ≠ 0
      then causeBND else 0 := by
  have haligned : (reg && t.toNat % 4 != 0) = false := by
    cases reg with
    | true => simp [h rfl]
    | false => rfl
  rw [targetCause, haligned]
  rfl

theorem targetCause_offset (s : State) (c : Cut) (t : W64) (h : targetCause s c false t ≠ 0) : targetCause s c false t = causeBND := by
  rw [targetCause_aligned s c false t (by simp)] at h ⊢
  split
  · rfl
  · next hn => rw [if_neg hn] at h; exact absurd rfl h

/-! ### Links (R90) -/

@[simp] theorem popped_nil (c : Cut) : c.popped [] = c := rfl
@[simp] theorem popAll_nil (s : State) (c : Cut) : s.popAll c [] = s := rfl
@[simp] theorem popped_ctx (c : Cut) (srcs : List Opnd) : (c.popped srcs).ctx = c.ctx := by
  unfold Cut.popped
  split <;> rfl

theorem setReg_loops (c : Cut) (o : Opnd) (v : RegVal) : (c.setReg o v).ctx.loops = c.ctx.loops := by
  unfold Cut.setReg
  dsimp only
  split
  · rfl
  · split <;> rfl

@[simp] theorem result_loops (c : Cut) (g : Gov) (d : Opnd) (v : RegVal) : (c.result g d v).ctx.loops = c.ctx.loops := by
  unfold Cut.result
  split
  · exact setReg_loops c d _
  · rfl

@[simp] theorem linked_false (c : Cut) (g : Gov) : c.linked false g = c := rfl

theorem linkGov_whole (c : Cut) (taken : List Nat) (h : taken = c.positions) : c.linkGov taken = .all := by
  simp [Cut.linkGov, h]

/-- A cut that takes a transfer whole. -/
theorem take_linked (c : Cut) (link : Bool) (t : W64) : (c.linked link .all).take link t
    = if link then (c.result .all 0x47#7 (uVal (c.ctx.pc + 4))).goTo t c.ctx.loops else c.goTo t (unwind c.ctx.pc t c.ctx.loops) := by
  cases link with
  | true => simp [Cut.take, Cut.linked, linkReg]
  | false => rfl

/-! ### A transfer to one target (R90, R91) -/

theorem branch_none (s : State) (c : Cut) (t : W64) (cond : Nat → Bool) (h : c.positions.filter cond = []) :
    s.branch c [] t false false cond = s.advance c := by
  unfold State.branch
  simp only [h, List.isEmpty_nil, if_true]
  exact complete_noQ s c [] c rfl

theorem branch_bad (s : State) (c : Cut) (srcs : List Opnd) (t : W64) (reg link : Bool) (cond : Nat → Bool)
    (h : c.positions.filter cond ≠ []) (hc : targetCause s c reg t ≠ 0) :
    s.branch c srcs t reg link cond = s.raiseAt c (targetCause s c reg t) t (c.positions.filter cond) := by
  unfold State.branch
  simp [h, hc]

theorem branch_whole (s : State) (c : Cut) (srcs : List Opnd) (t : W64) (reg link : Bool) (cond : Nat → Bool)
    (hne : c.positions ≠ []) (h : c.positions.filter cond = c.positions) (hc : targetCause s c reg t = 0) :
    s.branch c srcs t reg link cond = (s.popAll c srcs).retired (((c.popped srcs).linked link .all).take link t) := by
  unfold State.branch
  simp [h, hc, hne, linkGov_whole c _ rfl]

/-- Masks of the same lanes are equal. -/
theorem mask_ext (m n : W32) (h : ∀ i, inMask m i = inMask n i) : m = n :=
  BitVec.eq_of_toNat_eq (Nat.eq_of_testBit_eq h)

theorem inMask_zero (i : Nat) : inMask 0 i = false := Nat.zero_testBit i

theorem lt_of_inMask (m : W32) (i : Nat) (h : inMask m i = true) : i < 32 := by
  by_contra hge
  rw [inMask_of_ge m i (Nat.not_lt.mp hge)] at h
  cases h

/-- The positions of a cut that is no pattern cut are its active lanes. -/
theorem positions_of_lanes (c : Cut) (hl : c.isPattern = false) : c.positions = lanesOf c.ctx.active := by
  rw [Cut.positions, if_neg (by simp [hl])]

theorem branch_divided (s : State) (c : Cut) (t : W64) (cond : Nat → Bool) (hl : c.isPattern = false) (hc : targetCause s c false t = 0)
    (h0 : (maskOf 32 fun p => inMask c.ctx.active p && cond p) ≠ 0)
    (ha : (maskOf 32 fun p => inMask c.ctx.active p && cond p) ≠ c.ctx.active) :
    s.branch c [] t false false cond = s.splitLanes c (c.ctx.active &&& ~~~maskOf 32 fun p => inMask c.ctx.active p && cond p) Cut.advance
      [(maskOf 32 fun p => inMask c.ctx.active p && cond p, Cut.take false t)] := by
  have htaken : ∀ p, p ∈ c.positions.filter cond ↔ (inMask c.ctx.active p && cond p) = true := by
    intro p
    rw [positions_of_lanes c hl, List.mem_filter, mem_lanesOf, Bool.and_eq_true]
  have hmask : (maskOf 32 (· ∈ c.positions.filter cond)) = maskOf 32 fun p => inMask c.ctx.active p && cond p := by
    refine mask_ext _ _ fun i => ?_
    rw [inMask_maskOf, inMask_maskOf, Bool.decide_congr (htaken i), Bool.decide_eq_true]
  have hsome : c.positions.filter cond ≠ [] := by
    intro hnone
    refine h0 (mask_ext _ _ fun i => ?_)
    rw [← hmask, hnone, inMask_maskOf, inMask_zero]
    simp
  have hnotall : (c.positions.filter cond).length ≠ c.positions.length := by
    intro hall
    rw [List.length_filter_eq_length_iff] at hall
    refine ha (mask_ext _ _ fun i => ?_)
    rw [inMask_maskOf]
    cases hi : inMask c.ctx.active i with
    | false => simp
    | true => simp [lt_of_inMask _ i hi, hall i (by rw [positions_of_lanes c hl, mem_lanesOf, hi])]
  unfold State.branch
  simp only [hc, List.isEmpty_iff, hsome, hnotall, hl, hmask, ne_eq, not_true_eq_false, Bool.false_eq_true, if_false, popped_nil, popAll_nil,
    linked_false]

/-! ### A divided branch of a lane cut (R25, R91) -/

theorem filter_map_congr {α β : Type} (xs : List α) (g : α → α) (p : α → Bool) (f : α → β)
    (h : ∀ x ∈ xs, p (g x) = p x ∧ f (g x) = f x) : ((xs.map g).filter p).map f = (xs.filter p).map f := by
  induction xs with
  | nil => rfl
  | cons x xs ih =>
    obtain ⟨hp, hf⟩ := h x (List.mem_cons_self ..)
    have ih := ih fun y hy => h y (List.mem_cons_of_mem _ hy)
    cases hx : p x <;> simp [hp, hf, hx, ih]

/-- The part of a split lane cut that keeps its index (R25, R38). -/
def Cut.keeper (s : State) (c : Cut) (keep : W32) : Cut :=
  let k : Cut := { c.lanesChild s keep with kind := if c.kind = .lane then .fragment else c.kind }
  if c.onMill then k else { k with uid := s.nextUid, anc := c.uid :: c.anc }

/-- The state in which a split lane cut has been replaced by the part that keeps its index. -/
def State.keeping (s : State) (c : Cut) (keep : W32) : State :=
  { s with
    cuts := s.cuts.map fun (d : Cut) => if d.uid = c.uid then c.keeper s keep else d
    nextUid := if c.onMill then s.nextUid else s.nextUid + 1 }

theorem splitLanes_one (s : State) (c : Cut) (keep m : W32) (go goKeep : Cut → Cut) :
    s.splitLanes c keep goKeep [(m, go)] = ((s.keeping c keep).leave c m go).retired (goKeep (c.keeper s keep)) := rfl

section
variable (s : State) (c : Cut) (keep : W32)

theorem keeper_lid : (c.keeper s keep).lid = c.lid := by unfold Cut.keeper; dsimp only; split <;> rfl
theorem keeper_parent : (c.keeper s keep).parent = c.parent := by unfold Cut.keeper; dsimp only; split <;> rfl
theorem keeper_frag : (c.keeper s keep).frag = c.frag := by unfold Cut.keeper; dsimp only; split <;> rfl
theorem keeper_kind : (c.keeper s keep).kind = if c.kind = .lane then .fragment else c.kind := by
  unfold Cut.keeper; dsimp only; split <;> rfl
theorem keeper_ctx : (c.keeper s keep).ctx = { c.ctx with active := keep } := by unfold Cut.keeper; dsimp only; split <;> rfl
theorem keeper_uid : (c.keeper s keep).uid = if c.onMill then c.uid else s.nextUid := by unfold Cut.keeper; dsimp only; split <;> rfl

/-- The part that keeps its index takes no other (R25). -/
theorem fragsUsed_keeping (hl : c.isPattern = false) (hown : ∀ d ∈ s.cuts, d.uid = c.uid → d = c) :
    fragsUsed (s.keeping c keep) c = fragsUsed s c := by
  refine filter_map_congr _ _ _ _ fun d hd => ?_
  split
  · next hu =>
    rw [hown d hd hu, keeper_lid, keeper_parent, keeper_frag, keeper_kind, Cut.isPattern, keeper_kind]
    cases hk : c.kind <;> simp [hk, Cut.isPattern] at hl ⊢
    decide
  · exact ⟨rfl, rfl⟩

end

/-- The new fragment that leaves a lane cut (R25). -/
def Cut.leaver (s : State) (c : Cut) (m : W32) (f uid : Nat) : Cut :=
  { c.lanesChild s m with uid := uid, kind := .fragment, frag := f, anc := c.uid :: c.anc }

/-- A state with one more cut, of the next number. -/
def State.addCut (s : State) (d : Cut) : State := { s with cuts := s.cuts ++ [d], nextUid := s.nextUid + 1 }

@[simp] theorem addCut_launchOf (s : State) (d : Cut) (lid : Nat) : (s.addCut d).launchOf lid = s.launchOf lid := rfl
@[simp] theorem keeping_launchOf (s : State) (c : Cut) (keep : W32) (lid : Nat) : (s.keeping c keep).launchOf lid = s.launchOf lid := rfl

theorem leave_fragment (s : State) (c : Cut) (m : W32) (go : Cut → Cut) (f : Nat)
    (hf : lowestFree 0 Config.fragLimit (c.frag :: fragsUsed s c) = some f) : 
    s.leave c m go = s.addCut ((go (c.leaver s m f s.nextUid)).quota (s.launchOf c.lid)) := by
  rw [State.leave, hf]
  rfl

theorem quota_eq (l : Launch) (c : Cut) : ∃ w, c.quota l = { c with wait := w } := by
  unfold Cut.quota
  split <;> exact ⟨_, rfl⟩

@[simp] theorem quota_uid (l : Launch) (c : Cut) : (c.quota l).uid = c.uid := by
  obtain ⟨w, hw⟩ := quota_eq l c
  rw [hw]

theorem advance_eq_goTo (c : Cut) : c.advance = c.goTo c.advance.ctx.pc c.advance.ctx.loops := by
  unfold Cut.advance
  split <;> rfl

section
variable (c : Cut)

theorem advance_ctx : c.advance.ctx = { c.ctx with pc := c.advance.ctx.pc, loops := c.advance.ctx.loops } := by
  rw [advance_eq_goTo]
  rfl

theorem advance_uid : c.advance.uid = c.uid := by rw [advance_eq_goTo]; rfl
theorem advance_kind : c.advance.kind = c.kind := by rw [advance_eq_goTo]; rfl

end

/-- Where a cut goes on depends on where it stands and its loop stack alone. -/
theorem advance_pc_congr (c k : Cut) (hpc : k.ctx.pc = c.ctx.pc) (hloops : k.ctx.loops = c.ctx.loops) :
    k.advance.ctx.pc = c.advance.ctx.pc := by
  unfold Cut.advance
  rw [hpc, hloops]
  split <;> rfl

/-- The part that keeps its index goes on as the cut would have, with every register, predicate and MODE (R25, R91). -/
theorem keeper_advance (s : State) (c : Cut) (keep : W32) : let k := (c.keeper s keep).advance
    k.ctx.active = keep ∧ k.ctx.pc = c.advance.ctx.pc ∧ k.kind ≠ .lane
      ∧ k.ctx.v = c.ctx.v ∧ k.ctx.o = c.ctx.o ∧ k.ctx.preds = c.ctx.preds ∧ k.ctx.mode = c.ctx.mode := by
  intro k
  have hpc : k.ctx.pc = c.advance.ctx.pc := advance_pc_congr c (c.keeper s keep) (by rw [keeper_ctx]) (by rw [keeper_ctx])
  have hctx : k.ctx = { c.ctx with active := keep, pc := k.ctx.pc, loops := k.ctx.loops } := (advance_ctx _).trans (by rw [keeper_ctx])
  have hkind : k.kind ≠ .lane := by
    rw [advance_kind, keeper_kind]
    split
    · decide
    · assumption
  refine ⟨?_, hpc, hkind, ?_, ?_, ?_, ?_⟩ <;> rw [hctx]

/-- A cut appended under a new number is found, and a stored one among them. -/
theorem cutOf_addCut_putCut (s : State) (k d : Cut) (hk : ∃ x, s.cutOf k.uid = some x) (hd : ∀ x ∈ s.cuts, x.uid ≠ d.uid)
    (hne : d.uid ≠ k.uid) : ((s.addCut d).putCut k).cutOf k.uid = some k ∧ ((s.addCut d).putCut k).cutOf d.uid = some d := by
  obtain ⟨x, hx⟩ := hk
  constructor
  · refine cutOf_putCut _ k x ?_
    simp only [State.cutOf] at hx
    simp [State.cutOf, State.addCut, List.find?_append, hx]
  · rw [cutOf_putCut_ne _ k d.uid hne]
    have hnone : s.cuts.find? (·.uid == d.uid) = none := List.find?_eq_none.mpr fun x hx => by simpa using hd x hx
    simp [State.cutOf, State.addCut, List.find?_append, hnone]

/-- The parts of a lane cut that a divided branch leaves. -/
theorem splitLanes_fragment (s : State) (c : Cut) (keep m : W32) (go goKeep : Cut → Cut) (f : Nat) (hc : s.cutOf c.uid = some c)
    (hl : c.isPattern = false) (huid : ∀ d ∈ s.cuts, d.uid < s.nextUid ∧ (d.uid = c.uid → d = c))
    (hf : lowestFree 0 Config.fragLimit (c.frag :: fragsUsed s c) = some f) (hgo : ∀ x, (go x).uid = x.uid)
    (hgoKeep : ∀ x, (goKeep x).uid = x.uid) :
    ∃ w v : Wait, let u := s.splitLanes c keep goKeep [(m, go)]
      let k : Cut := { goKeep (c.keeper s keep) with wait := w }
      let d : Cut := { go (c.leaver (s.keeping c keep) m f (s.keeping c keep).nextUid) with wait := v }
      u.cutOf k.uid = some k ∧ u.cutOf d.uid = some d ∧ u.mem = s.mem ∧ u.win = s.win := by
  have hfree : lowestFree 0 Config.fragLimit (c.frag :: fragsUsed (s.keeping c keep) c) = some f := by
    rw [fragsUsed_keeping s c keep hl fun d hd => (huid d hd).2, hf]
  obtain ⟨v, hv⟩ := quota_eq (s.launchOf c.lid) (go (c.leaver (s.keeping c keep) m f (s.keeping c keep).nextUid))
  obtain ⟨w, hw⟩ := quota_eq (s.launchOf (goKeep (c.keeper s keep)).lid) (goKeep (c.keeper s keep))
  have hstay : (goKeep (c.keeper s keep)).uid = if c.onMill then c.uid else s.nextUid := (hgoKeep _).trans (keeper_uid s c keep)
  have hleave : (go (c.leaver (s.keeping c keep) m f (s.keeping c keep).nextUid)).uid = if c.onMill then s.nextUid else s.nextUid + 1 := hgo _
  have hcmem : c ∈ s.cuts := List.mem_of_find?_eq_some hc
  have hfound : ∃ x, (s.keeping c keep).cutOf (goKeep (c.keeper s keep)).uid = some x := by
    rw [← Option.isSome_iff_exists, State.cutOf, List.find?_isSome]
    exact ⟨c.keeper s keep, List.mem_map.mpr ⟨c, hcmem, if_pos rfl⟩, by simp [hgoKeep]⟩
  have hnew : ∀ x ∈ (s.keeping c keep).cuts, x.uid ≠ if c.onMill then s.nextUid else s.nextUid + 1 := by
    intro x hx
    obtain ⟨d, hd, rfl⟩ := List.mem_map.mp hx
    have hdlt := (huid d hd).1
    have hclt := (huid c hcmem).1
    split
    · rw [keeper_uid]
      split <;> omega
    · split <;> omega
  have hne : (if c.onMill then s.nextUid else s.nextUid + 1) ≠ if c.onMill then c.uid else s.nextUid := by
    have hclt := (huid c hcmem).1
    split <;> omega
  refine ⟨w, v, ?_⟩
  dsimp only
  rw [← hv, ← hw, splitLanes_one, leave_fragment _ c m go f hfree, State.retired, addCut_launchOf, keeping_launchOf, keeping_launchOf]
  obtain ⟨hk, hd⟩ := cutOf_addCut_putCut (s.keeping c keep) ((goKeep (c.keeper s keep)).quota (s.launchOf (goKeep (c.keeper s keep)).lid))
    ((go (c.leaver (s.keeping c keep) m f (s.keeping c keep).nextUid)).quota (s.launchOf c.lid))
    (by rw [quota_uid]; exact hfound) (by rw [quota_uid, hleave]; exact hnew) (by rw [quota_uid, quota_uid, hleave, hstay]; exact hne)
  rw [quota_uid] at hk hd
  exact ⟨hk, hd, rfl, rfl⟩

/-! ### A transfer of lanes to their own targets (R92) -/

theorem foldl_distinct_same {α : Type} [DecidableEq α] (t : α) (xs : List α) (h : ∀ x ∈ xs, x = t) :
    xs.foldl (fun acc x => if x ∈ acc then acc else acc ++ [x]) [t] = [t] := by
  induction xs with
  | nil => rfl
  | cons x xs ih =>
    obtain ⟨rfl, hxs⟩ := List.forall_mem_cons.mp h
    rw [List.foldl_cons, if_pos (List.mem_singleton.mpr rfl)]
    exact ih hxs

/-- Values that are all the same are one value. -/
theorem distinct_same {α : Type} [DecidableEq α] (t : α) (xs : List α) (hne : xs ≠ []) (h : ∀ x ∈ xs, x = t) : distinct xs = [t] := by
  cases xs with
  | nil => exact absurd rfl hne
  | cons x xs =>
    obtain ⟨rfl, hxs⟩ := List.forall_mem_cons.mp h
    exact foldl_distinct_same x xs hxs

theorem badTargets_none (s : State) (c : Cut) (v : RegVal) (taken : List Nat) (t : W64) (h : ∀ p ∈ taken, c.valAt v p = t)
    (hc : targetCause s c true t = 0) : badTargets s c v taken = (0, []) := by
  have hbad : taken.filter (fun i => targetCause s c true (c.valAt v i) != 0) = [] :=
    List.filter_eq_nil_iff.mpr fun p hp => by simp [h p hp, hc]
  simp [badTargets, hbad]

/-- The union of a cause with itself is the cause. -/
theorem foldl_or_same (n : Nat) (xs : List Nat) (f : Nat → Nat) (h : ∀ x ∈ xs, f x = n) : xs.foldl (fun m i => m ||| f i) n = n := by
  induction xs with
  | nil => rfl
  | cons x xs ih =>
    obtain ⟨hx, hxs⟩ := List.forall_mem_cons.mp h
    rw [List.foldl_cons, hx, Nat.or_self]
    exact ih hxs

theorem badTargets_all (s : State) (c : Cut) (v : RegVal) (taken : List Nat) (t : W64) (hne : taken ≠ []) (h : ∀ p ∈ taken, c.valAt v p = t)
    (hc : targetCause s c true t ≠ 0) : badTargets s c v taken = (targetCause s c true t, taken) := by
  have hbad : taken.filter (fun i => targetCause s c true (c.valAt v i) != 0) = taken :=
    List.filter_eq_self.mpr fun p hp => by simp [h p hp, hc]
  cases taken with
  | nil => exact absurd rfl hne
  | cons p ps =>
    obtain ⟨hp, hps⟩ := List.forall_mem_cons.mp h
    have hcause : ∀ q ∈ ps, targetCause s c true (c.valAt v q) = targetCause s c true t := fun q hq => by rw [hps q hq]
    rw [badTargets, hbad, List.foldl_cons, hp, Nat.zero_or, foldl_or_same _ ps _ hcause]

theorem branchLanes_bad (s : State) (c : Cut) (srcs : List Opnd) (v : RegVal) (link : Bool) (t : W64) (hl : c.isPattern = false)
    (hne : c.governed ≠ []) (h : ∀ p ∈ c.governed, c.valAt v p = t) (hc : targetCause s c true t ≠ 0) :
    s.branchLanes c srcs v link = s.stop c (c.cause (targetCause s c true t) t (lanesWord c.governed)) := by
  obtain ⟨p, ps, hg⟩ := List.exists_cons_of_ne_nil hne
  have hfirst : c.valAt v (c.governed.getD 0 0) = t := by
    rw [hg]
    exact h p (by rw [hg]; exact List.mem_cons_self ..)
  unfold State.branchLanes
  simp only [badTargets_all s c v c.governed t hne h hc, ne_eq, hc, not_false_eq_true, if_true, hfirst]
  rw [State.raiseAt, if_neg (by simp [hl])]

theorem branchLanes_whole (s : State) (c : Cut) (srcs : List Opnd) (v : RegVal) (link : Bool) (t : W64) (hl : c.isPattern = false)
    (hne : c.positions ≠ []) (hall : c.governed = c.positions) (h : ∀ p ∈ c.positions, c.valAt v p = t)
    (hc : targetCause s c true t = 0) :
    s.branchLanes c srcs v link = (s.popAll c srcs).retired (((c.popped srcs).linked link .all).take link t) := by
  have hfall : (maskOf 32 fun i => inMask c.ctx.active i && !decide (i ∈ c.positions)) = 0 := by
    refine mask_ext _ _ fun i => ?_
    rw [inMask_maskOf, inMask_zero, positions_of_lanes c hl, Bool.decide_congr (mem_lanesOf _ i)]
    cases inMask c.ctx.active i <;> simp
  have hgroups : distinct (c.positions.map (c.valAt v)) = [t] :=
    distinct_same t _ (by simpa using hne) fun x hx => by
      obtain ⟨p, hp, rfl⟩ := List.mem_map.mp hx
      exact h p hp
  unfold State.branchLanes
  simp only [hall, badTargets_none s c v c.positions t h hc, hfall, hgroups, linkGov_whole c c.positions rfl, List.map_cons, List.map_nil,
    ne_eq, not_true_eq_false, if_false]
  rfl

/-! ### Transfers that every item takes (R90, R108) -/

theorem valAt_of_isU (c : Cut) (v : RegVal) (p : Nat) (h : v.isU = true) : c.valAt v p = v.base := by
  cases v with
  | pat b sx sy sz =>
    simp only [RegVal.isU, Bool.and_eq_true, beq_iff_eq] at h
    obtain ⟨⟨rfl, rfl⟩, rfl⟩ := h
    exact valAt_uVal c b p
  | lanes vs => cases h

theorem branchReg_whole (s : State) (c : Cut) (a : Opnd) (link : Bool) (t : W64) (hne : c.positions ≠ []) (hall : c.governed = c.positions)
    (h : ∀ p ∈ c.positions, c.valAt (c.read s a []) p = t) (hu : c.isPattern = true → (c.read s a []).isU = true)
    (hc : targetCause s c true t = 0) :
    s.branchReg c a link = (s.popAll c [a]).retired (((c.popped [a]).linked link .all).take link t) := by
  unfold State.branchReg
  cases hp : c.isPattern with
  | false => simpa using branchLanes_whole s c [a] _ link t hp hne hall h hc
  | true =>
    obtain ⟨p, ps, hpos⟩ := List.exists_cons_of_ne_nil hne
    have hbase : (c.read s a []).base = t := by
      rw [← valAt_of_isU c _ p (hu hp)]
      exact h p (by rw [hpos]; exact List.mem_cons_self ..)
    simp only [Bool.not_true, Bool.false_eq_true, if_false, hu hp, or_true, if_true, hbase]
    exact branch_whole s c [a] t true link c.guard hne hall hc

theorem branchReg_bad (s : State) (c : Cut) (a : Opnd) (link : Bool) (t : W64) (hl : c.isPattern = false) (hne : c.governed ≠ [])
    (h : ∀ p ∈ c.governed, c.valAt (c.read s a []) p = t) (hc : targetCause s c true t ≠ 0) :
    s.branchReg c a link = s.stop c (c.cause (targetCause s c true t) t (lanesWord c.governed)) := by
  rw [State.branchReg, hl, Bool.not_false, if_pos rfl]
  exact branchLanes_bad s c [a] _ link t hl hne h hc

/-- BR and JMP are transfers of the items that their condition names to one target (R90). -/
theorem exec_transferOp (i : Instr) (off : BitVec 21) (cond : Cut → Nat → Bool) (s : State) (c : Cut)
    (hop : transferOp i = some (off, cond)) (hr : Runs s c i) :
    exec i s = .next (s.branch c [] (c.ctx.pc + BitVec.ofInt 64 (4 * off.toInt)) false false (cond c)) := by
  rw [← target_eq]
  unfold transferOp at hop
  split at hop
  · cases hop; exact operate_runs _ s _ c hr
  · cases hop; exact operate_runs _ s _ c hr
  · cases hop

theorem exec_call (s : State) (c : Cut) (off : BitVec 21) (hr : Runs s c (.call off)) (he : c.atEnd = false) :
    exec (.call off) s = .next (s.branch c [] (c.ctx.pc + BitVec.ofInt 64 (4 * off.toInt)) false true c.guard) := by
  rw [← target_eq]
  refine (operate_runs _ s _ c hr).trans ?_
  rw [if_neg (by simp [he])]

theorem exec_callr (s : State) (c : Cut) (a : Opnd) (hr : Runs s c (.callr a)) (he : c.atEnd = false) :
    exec (.callr a) s = .next (s.branchReg c a true) := by
  refine (operate_runs _ s _ c hr).trans ?_
  rw [if_neg (by simp [he])]

end Sys2Proof.Machine

namespace Sys2Proof

open Sys2Proof.Machine

/-- Settles O21: each transfer is the case of `branch` or `branchReg` that its items select; a divided one leaves two parts of one lane cut. -/
theorem branchesTransfer : Obligations.BranchesTransfer := by
  unfold Obligations.BranchesTransfer
  refine ⟨⟨?whole, ?divided⟩, ?linked, ?targets⟩
  case whole =>
    intro i off cond s c hop hr t taken
    have hexec := exec_transferOp i off cond s c hop hr
    refine ⟨fun hnone => ?_, fun hsome hall hc => ?_, fun hsome hc => ⟨targetCause_offset s c t hc, ?_⟩⟩
    · rw [hexec, branch_none s c _ _ hnone]
    · rw [hexec, branch_whole s c [] t false false (cond c) (hall ▸ hsome) hall hc]
      rfl
    · rw [hexec, branch_bad s c [] t false false (cond c) hsome hc, targetCause_offset s c t hc]
  case divided =>
    intro i off cond s c f hop hr hl huid t m hm hma hc hf
    have hex := hr.1
    have hcut : s.cutOf c.uid = some c := (cutOf_uid s s.cur c hex).symm ▸ hex
    obtain ⟨w, v, hk, hd, hmem, hwin⟩ := splitLanes_fragment s c (c.ctx.active &&& ~~~m) m (Cut.take false t) Cut.advance f hcut hl huid hf
      (fun _ => rfl) advance_uid
    have hexec := (exec_transferOp i off cond s c hop hr).trans
      (congrArg Host.Outcome.next (branch_divided s c t (cond c) hl hc hm hma))
    have hkuid := (advance_uid (c.keeper s (c.ctx.active &&& ~~~m))).trans (keeper_uid s c _)
    obtain ⟨hactive, hpc, hkind, hv, ho, hpreds, hmode⟩ := keeper_advance s c (c.ctx.active &&& ~~~m)
    refine ⟨_, _, _, hexec, hk, hd, fun hb => ?bench, fun hb => ?mill, ?_⟩
    case bench => exact ⟨by rw [hkuid, hb]; rfl, by simp [Cut.take, Cut.jump, Cut.goTo, Cut.leaver, State.keeping, hb]⟩
    case mill => exact ⟨by rw [hkuid, hb]; rfl, by simp [Cut.take, Cut.jump, Cut.goTo, Cut.leaver, State.keeping, hb]⟩
    exact ⟨hactive, hpc, hkind, rfl, rfl, rfl, rfl, rfl, List.mem_cons_self .., hv, ho, hpreds, hmode, rfl, rfl, rfl, rfl, hmem, hwin⟩
  case linked =>
    intro s c t hne hall
    refine ⟨fun off hr ht he hc => ?_, fun a hv hu hc => ⟨fun hr he => ?_, fun hr => ?_, fun ha hr => ?_⟩⟩
    · rw [exec_call s c off hr he, ← ht, branch_whole s c [] t false true c.guard hne hall hc, take_linked]
      rfl
    · rw [exec_callr s c a hr he, branchReg_whole s c a true t hne hall hv hu hc, take_linked]
      simp
    · rw [show exec (.jmpr a) s = .next (s.branchReg c a false) from operate_runs _ s _ c hr,
        branchReg_whole s c a false t hne hall hv hu hc, take_linked]
      simp
    · subst ha
      rw [show exec .ret s = .next (s.branchReg c 0x47#7 false) from operate_runs _ s _ c hr,
        branchReg_whole s c 0x47#7 false t hne hall hv hu hc, take_linked, popAll_none s c [0x47#7] rfl, popped_none c [0x47#7] rfl]
      rfl
  case targets =>
    intro s c t
    refine ⟨targetCause_unaligned s c t, fun h4 hobj => ?_, fun h4 hacc => ?_, fun a hr hl hg hv hc => ?_⟩
    · rw [targetCause_aligned s c true t fun _ => h4, if_pos (.inl hobj)]
    · rw [targetCause_aligned s c true t fun _ => h4, if_pos (.inr hacc)]
    · rw [show exec (.jmpr a) s = .next (s.branchReg c a false) from operate_runs _ s _ c hr, branchReg_bad s c a false t hl hg hv hc]

end Sys2Proof
end

/-! ## Seams and rejoining

Waits that end together, the pattern cut that a group becomes, and the cut that parts become (R26 to R28, R173, R174). -/

section

namespace Sys2Proof.Machine

/-! ### Ordered lists -/

theorem insertBy_perm {α : Type} (key : α → Nat) (x : α) (xs : List α) : (insertBy key x xs).Perm (x :: xs) := by
  induction xs with
  | nil => exact List.Perm.refl _
  | cons y ys ih =>
    unfold insertBy
    split
    · exact List.Perm.refl _
    · exact (List.Perm.cons y ih).trans (List.Perm.swap x y ys)

/-- Ordering a list only rearranges it. -/
theorem sortBy_perm {α : Type} (key : α → Nat) (xs : List α) : (sortBy key xs).Perm xs := by
  have hfold : ∀ (xs acc : List α), (xs.foldl (fun acc x => insertBy key x acc) acc).Perm (acc ++ xs) := by
    intro xs
    induction xs with
    | nil => exact fun acc => by rw [List.append_nil, List.foldl_nil]
    | cons x xs ih =>
      intro acc
      refine (ih _).trans (((insertBy_perm key x acc).append_right xs).trans ?_)
      exact List.perm_middle.symm
  exact hfold xs []

theorem mem_sortBy {α : Type} (key : α → Nat) (xs : List α) (x : α) : x ∈ sortBy key xs ↔ x ∈ xs := (sortBy_perm key xs).mem_iff

theorem mem_distinct {α : Type} [DecidableEq α] (xs : List α) (x : α) : x ∈ distinct xs ↔ x ∈ xs := by
  have hfold : ∀ (xs acc : List α), x ∈ xs.foldl (fun acc y => if y ∈ acc then acc else acc ++ [y]) acc ↔ x ∈ acc ∨ x ∈ xs := by
    intro xs
    induction xs with
    | nil => simp
    | cons y ys ih =>
      intro acc
      rw [List.foldl_cons, ih]
      split
      · next hy =>
        rw [List.mem_cons]
        constructor
        · rintro (h | h)
          · exact .inl h
          · exact .inr (.inr h)
        · rintro (h | rfl | h)
          · exact .inl h
          · exact .inl hy
          · exact .inr h
      · simp [or_assoc]
  exact (hfold xs []).trans (by simp)

/-! ### Waits that end (R26, R174)

A list of updates ends the waits of some cuts: each update takes from a state the cuts of the numbers that it names, and leaves none of them
waiting. -/

theorem foldl_keepsMemory {α : Type} (f : State → α → State) (h : ∀ s a, KeepsMemory s (f s a)) (xs : List α) (s : State) :
    KeepsMemory s (xs.foldl f s) :=
  foldl_rel KeepsMemory (fun _ => ⟨rfl, rfl⟩) KeepsMemory.trans f h xs s

/-- After updates, a cut that still waits stood in the state before, under a number that no update names. -/
theorem foldl_ends {α : Type} (f : State → α → State) (names : α → Nat → Prop) (waits : Cut → Prop)
    (h : ∀ s a, ∀ d ∈ (f s a).cuts, waits d → d ∈ s.cuts ∧ ¬ names a d.uid) (xs : List α) (s : State) (d : Cut)
    (hd : d ∈ (xs.foldl f s).cuts) (hw : waits d) : d ∈ s.cuts ∧ ∀ a ∈ xs, ¬ names a d.uid := by
  induction xs generalizing s with
  | nil => exact ⟨hd, by simp⟩
  | cons x xs ih =>
    obtain ⟨hmid, hrest⟩ := ih (f s x) hd
    obtain ⟨hbefore, hx⟩ := h s x d hmid hw
    exact ⟨hbefore, List.forall_mem_cons.mpr ⟨hx, hrest⟩⟩

/-- A stored cut is one of the state's, of another number, or the one stored. -/
theorem mem_putCut (s : State) (c d : Cut) (h : d ∈ (s.putCut c).cuts) : d = c ∨ (d ∈ s.cuts ∧ c.uid ≠ d.uid) := by
  obtain ⟨x, hx, hxd⟩ := List.mem_map.mp h
  split at hxd
  · exact .inl hxd.symm
  · next hne => exact .inr (hxd ▸ ⟨hx, Ne.symm hne⟩)

theorem mem_replaceCuts (s : State) (g : List Cut) (k d : Cut) (h : d ∈ (s.replaceCuts g k).cuts) :
    d = k ∨ (d ∈ s.cuts ∧ ∀ x ∈ g, x.uid ≠ d.uid) := by
  rcases List.mem_append.mp h with h | h
  · obtain ⟨hd, hg⟩ := List.mem_filter.mp h
    exact .inr ⟨hd, by simpa using hg⟩
  · exact .inl (List.mem_singleton.mp h)

/-- Whether a cut waits at a SEAM, for siblings or partners. -/
def Cut.atSeam (c : Cut) : Prop := ∃ pc since partners, c.wait = .seam pc since partners

theorem quota_not_atSeam (l : Launch) (c : Cut) (h : ¬ c.atSeam) : ¬ (c.quota l).atSeam := by
  unfold Cut.quota
  split
  · rintro ⟨pc, since, partners, hw⟩
    cases hw
  · exact h

theorem resume_wait (c : Cut) : c.resume.wait = .none := by
  rw [Cut.resume, advance_eq_goTo]
  rfl

theorem resume_uid (c : Cut) : c.resume.uid = c.uid := by
  rw [Cut.resume, advance_uid]

theorem resume_quota_not_atSeam (l : Launch) (c : Cut) : ¬ (c.resume.quota l).atSeam := by
  refine quota_not_atSeam l _ ?_
  rintro ⟨pc, since, partners, hw⟩
  rw [resume_wait] at hw
  cases hw

/-- A cut that goes on after a SEAM waits at none; the others stand as they stood. -/
theorem retired_resume_ends (s : State) (c d : Cut) (hd : d ∈ (s.retired c.resume).cuts) (hw : d.atSeam) : d ∈ s.cuts ∧ c.uid ≠ d.uid := by
  rcases mem_putCut s _ d hd with rfl | ⟨hmem, hne⟩
  · exact absurd hw (resume_quota_not_atSeam _ c)
  · rw [quota_uid, resume_uid] at hne
    exact ⟨hmem, hne⟩

theorem atSeam_of_seaming (c : Cut) (pc : W64) (h : c.seaming pc ≠ none) : c.atSeam := by
  unfold Cut.seaming at h
  split at h
  · exact ⟨_, _, _, by assumption⟩
  · exact absurd rfl h

theorem atSeam_of_rejoining (c : Cut) (h : c.rejoining = true) : c.atSeam := by
  unfold Cut.rejoining at h
  split at h
  · exact ⟨_, _, _, by assumption⟩
  · cases h

/-- A list of cuts that go on after a SEAM. -/
theorem resumeAll_ends (g : List Cut) (s : State) (d : Cut) (hd : d ∈ (g.foldl (fun s c => s.retired c.resume) s).cuts) (hw : d.atSeam) :
    d ∈ s.cuts ∧ ∀ x ∈ g, x.uid ≠ d.uid :=
  foldl_ends _ (fun c u => c.uid = u) Cut.atSeam (fun s c d hd hw => retired_resume_ends s c d hd hw) g s d hd hw

theorem retired_keepsMemory (s : State) (c : Cut) : KeepsMemory s (s.retired c) := ⟨rfl, rfl⟩
theorem hold_keepsMemory (s : State) (c : Cut) (w : Wait) : KeepsMemory s (s.hold c w) := ⟨rfl, rfl⟩
theorem replaceCuts_keepsMemory (s : State) (g : List Cut) (k : Cut) : KeepsMemory s (s.replaceCuts g k) := ⟨rfl, rfl⟩

theorem resumeAll_keepsMemory (g : List Cut) (s : State) : KeepsMemory s (g.foldl (fun s c => s.retired c.resume) s) :=
  foldl_keepsMemory (fun (s : State) (c : Cut) => s.retired c.resume) (fun s c => retired_keepsMemory s c.resume) g s

theorem freshFor_frame (s : State) (a b : Nat) : s.freshFor a b = { s with l1 := (s.freshFor a b).l1, wbuf := (s.freshFor a b).wbuf } := by
  unfold State.freshFor
  split <;> rfl

/-! ### The end of a seam wait (R174) -/

/-- Evicting older lines before a group's cut comes to a Bench moves no cut and no byte. -/
theorem foldl_freshFor (g : List Cut) (b : Nat) (s : State) :
    (g.foldl (fun (s : State) (d : Cut) => s.freshFor d.place.bench b) s).cuts = s.cuts
      ∧ KeepsMemory s (g.foldl (fun (s : State) (d : Cut) => s.freshFor d.place.bench b) s) := by
  induction g generalizing s with
  | nil => exact ⟨rfl, rfl, rfl⟩
  | cons d g ih =>
    obtain ⟨hcuts, hmem⟩ := ih (s.freshFor d.place.bench b)
    have hfirst := freshFor_frame s d.place.bench b
    refine ⟨hcuts.trans (by rw [hfirst]), KeepsMemory.trans ?_ hmem⟩
    rw [hfirst]
    exact ⟨rfl, rfl⟩

theorem seamed_uid (s : State) (g : List Cut) (b : Box) (k : Cut) (h : seamed s g b = some k) : ∃ p ∈ g, k.uid = p.uid := by
  unfold seamed at h
  split at h
  · cases h
  · next p rest =>
    obtain ⟨f, -, rfl⟩ := Option.map_eq_some_iff.mp h
    exact ⟨p, List.mem_cons_self .., rfl⟩

theorem seamGroupOn_ends (s : State) (g : List Cut) (d : Cut) (hd : d ∈ (s.seamGroupOn g).cuts) (hw : d.atSeam) :
    d ∈ s.cuts ∧ ∀ x ∈ g, x.uid ≠ d.uid := by
  unfold State.seamGroupOn at hd
  dsimp only at hd
  split at hd
  · next k hk =>
    obtain ⟨hreplaced, hne⟩ := retired_resume_ends _ k d hd hw
    rcases mem_replaceCuts _ g k d hreplaced with rfl | ⟨hmem, hg⟩
    · exact absurd rfl hne
    · rw [(foldl_freshFor g k.place.bench s).1] at hmem
      exact ⟨hmem, hg⟩
  · exact resumeAll_ends g s d hd hw

theorem seamGroupOn_keepsMemory (s : State) (g : List Cut) : KeepsMemory s (s.seamGroupOn g) := by
  unfold State.seamGroupOn
  dsimp only
  split
  · next k _ =>
    exact (foldl_freshFor g k.place.bench s).2.trans ((replaceCuts_keepsMemory _ g k).trans (retired_keepsMemory _ _))
  · exact resumeAll_keepsMemory g s

theorem mem_joinGroup (c x : Cut) (gs : List (List Cut)) : (∃ g ∈ joinGroup c gs, x ∈ g) ↔ x = c ∨ ∃ g ∈ gs, x ∈ g := by
  induction gs with
  | nil => simp [joinGroup]
  | cons g gs ih =>
    unfold joinGroup
    split
    · simp only [List.mem_cons, exists_eq_or_imp, List.mem_append, List.not_mem_nil, or_false]
      tauto
    · simp only [List.mem_cons, exists_eq_or_imp, ih]
      tauto

/-- Every waiting cut comes into a group. -/
theorem mem_groups (ws : List Cut) (gs : List (List Cut)) (x : Cut) :
    (∃ g ∈ ws.foldl (fun gs c => joinGroup c gs) gs, x ∈ g) ↔ (∃ g ∈ gs, x ∈ g) ∨ x ∈ ws := by
  induction ws generalizing gs with
  | nil => simp
  | cons w ws ih =>
    rw [List.foldl_cons, ih, mem_joinGroup, List.mem_cons, or_assoc, or_left_comm]

theorem seamEnd_ends (s : State) (lid : Nat) (pc : W64) :
    KeepsMemory s (s.seamEnd lid pc) ∧ ∀ c ∈ (s.seamEnd lid pc).cuts, c.lid = lid → c.seaming pc = none := by
  refine ⟨foldl_keepsMemory _ seamGroupOn_keepsMemory _ s, fun c hc hl => ?_⟩
  by_contra hw
  obtain ⟨hmem, hnone⟩ := foldl_ends _ (fun g u => ∃ x ∈ g, x.uid = u) Cut.atSeam
    (fun s g d hd hw => by
      obtain ⟨h1, h2⟩ := seamGroupOn_ends s g d hd hw
      exact ⟨h1, fun ⟨x, hx, hu⟩ => h2 x hx hu⟩) _ s c hc (atSeam_of_seaming c pc hw)
  have hsome : (c.seaming pc).isSome = true := Option.isSome_iff_ne_none.mpr hw
  have hwaits : c ∈ sortBy (·.cutid.toNat) (s.cuts.filter fun c => c.lid == lid && (c.seaming pc).isSome) :=
    (mem_sortBy _ _ c).mpr (List.mem_filter.mpr ⟨hmem, by simp [hl, hsome]⟩)
  obtain ⟨g, hg, hcg⟩ := (mem_groups _ [] c).mpr (.inr hwaits)
  exact hnone g hg ⟨c, hcg, rfl⟩

/-! ### Rejoining (R26) -/

theorem seamTest_cases (s : State) (c : Cut) :
    (c.seamable s = true ∧ ∃ since, since ≤ s.cycle ∧ s.seamTest c = s.hold c (.seam c.ctx.pc since true))
    ∨ (c.seamable s = false ∧ s.seamTest c = s.retired c.resume) := by
  unfold State.seamTest
  cases c.seamable s with
  | false => exact .inr ⟨rfl, rfl⟩
  | true => exact .inl ⟨rfl, _, (foldl_min_le _ _).1, rfl⟩

theorem seamTest_ends (s : State) (c d : Cut) (hd : d ∈ (s.seamTest c).cuts) (hw : d.rejoining = true) : d ∈ s.cuts ∧ c.uid ≠ d.uid := by
  rcases seamTest_cases s c with ⟨-, since, -, h⟩ | ⟨-, h⟩
  · rw [h] at hd
    rcases mem_putCut s _ d hd with rfl | hold
    · cases hw
    · exact hold
  · rw [h] at hd
    exact retired_resume_ends s c d hd (atSeam_of_rejoining d hw)

theorem seamTest_keepsMemory (s : State) (c : Cut) : KeepsMemory s (s.seamTest c) := by
  rcases seamTest_cases s c with ⟨-, since, -, h⟩ | ⟨-, h⟩
  · rw [h]
    exact hold_keepsMemory s c _
  · rw [h]
    exact retired_keepsMemory s _

/-- What becomes of a group of parts that stand at one SEAM. -/
def State.rejoinGroup (s : State) (parts : List Cut) : State :=
  match rejoined s parts with
  | none => parts.foldl (fun s c => s.retired c.resume) s
  | some j =>
    let k : Cut := { j with wait := .none }
    let s := s.replaceCuts parts k
    if k.kind = .lane then s.seamTest k else s.retired k.resume

theorem rejoinGroup_ends (s : State) (parts : List Cut) (d : Cut) (hd : d ∈ (s.rejoinGroup parts).cuts) (hw : d.rejoining = true) :
    d ∈ s.cuts ∧ ∀ x ∈ parts, x.uid ≠ d.uid := by
  unfold State.rejoinGroup at hd
  split at hd
  · exact resumeAll_ends parts s d hd (atSeam_of_rejoining d hw)
  · next j _ =>
    have hreplaced : d ∈ (s.replaceCuts parts { j with wait := .none }).cuts ∧ j.uid ≠ d.uid := by
      dsimp only at hd
      split at hd
      · exact seamTest_ends _ _ d hd hw
      · exact retired_resume_ends _ _ d hd (atSeam_of_rejoining d hw)
    rcases mem_replaceCuts _ parts _ d hreplaced.1 with rfl | hkept
    · exact absurd rfl hreplaced.2
    · exact hkept

theorem rejoinGroup_keepsMemory (s : State) (parts : List Cut) : KeepsMemory s (s.rejoinGroup parts) := by
  unfold State.rejoinGroup
  split
  · exact resumeAll_keepsMemory parts s
  · dsimp only
    split
    · exact (replaceCuts_keepsMemory s parts _).trans (seamTest_keepsMemory _ _)
    · exact (replaceCuts_keepsMemory s parts _).trans (retired_keepsMemory _ _)

theorem exec_rejoin (s : State) (c : Cut) (hc : s.cutOf c.uid = some c) (hm : mayRejoin (familyOf s c) = true)
    (hh : ∀ d ∈ familyOf s c, d.halted s = false) : exec (.rejoin c.uid) s
      = .next ((distinct (((familyOf s c).filter Cut.rejoining).map (seamGroup (familyOf s c)))).foldl State.rejoinGroup s) := by
  have hhalted : (familyOf s c).any (Cut.halted s) = false := List.any_eq_false.mpr fun d hd => by simp [hh d hd]
  change execRejoin c.uid s = _
  simp only [execRejoin, hc, hm, hhalted]
  rfl

theorem rejoin_ends (s : State) (c : Cut) (hc : s.cutOf c.uid = some c) (hm : mayRejoin (familyOf s c) = true)
    (hh : ∀ d ∈ familyOf s c, d.halted s = false) : ∃ t, exec (.rejoin c.uid) s = .next t ∧ KeepsMemory s t
      ∧ ∀ d ∈ t.cuts, d.parent = c.parent → d.lid = c.lid → d.isPattern = false → d.rejoining = false := by
  refine ⟨_, exec_rejoin s c hc hm hh, foldl_keepsMemory _ rejoinGroup_keepsMemory _ s, fun d hd hp hl hlanes => ?_⟩
  by_contra hw
  rw [Bool.not_eq_false] at hw
  obtain ⟨hmem, hnone⟩ := foldl_ends _ (fun g u => ∃ x ∈ g, x.uid = u) (fun d => d.rejoining = true)
    (fun s g d hd hw => by
      obtain ⟨h1, h2⟩ := rejoinGroup_ends s g d hd hw
      exact ⟨h1, fun ⟨x, hx, hu⟩ => h2 x hx hu⟩) _ s d hd hw
  have hcpart : c.isPattern = false := by
    simp only [mayRejoin, Bool.and_eq_true, List.any_eq_true] at hm
    obtain ⟨-, e, he, -⟩ := hm
    have hkind := (List.mem_filter.mp he).2
    simp only [Bool.and_eq_true, Bool.not_eq_true'] at hkind
    exact hkind.2
  have hfam : d ∈ familyOf s c := List.mem_filter.mpr ⟨hmem, by simp [hp, hl, hlanes, hcpart]⟩
  have hgroup : d ∈ seamGroup (familyOf s c) d := List.mem_filter.mpr ⟨hfam, by simp [hw]⟩
  exact hnone _ ((mem_distinct _ _).mpr (List.mem_map_of_mem (List.mem_filter.mpr ⟨hfam, hw⟩))) ⟨d, hgroup, rfl⟩

/-! ### The cut that a group becomes (R174) -/

theorem groupBox_size (g : List Cut) (b : Box) (h : groupBox g = some b) : b.size = (g.flatMap Cut.activeItems).length := by
  unfold groupBox at h
  dsimp only at h
  split at h
  · next hb =>
    cases h
    exact hb.1
  · cases h

theorem seamed_fields (s : State) (g : List Cut) (b : Box) (k : Cut) (h : seamed s g b = some k) :
    ∃ p rest, g = p :: rest ∧ k.kind = .pattern ∧ k.box = b ∧ k.uid = p.uid ∧ k.lid = p.lid ∧ k.ctx.pc = p.ctx.pc
      ∧ k.ctx.v = p.ctx.v ∧ k.ctx.o = p.ctx.o ∧ k.ctx.preds = p.ctx.preds ∧ k.ctx.mode = p.ctx.mode ∧ k.ctx.loops = p.ctx.loops
      ∧ k.ctx.l0 = .val (uVal 0) ∧ k.ctx.l1 = .val (uVal 0) := by
  unfold seamed at h
  split at h
  · cases h
  · next p rest =>
    obtain ⟨f, -, rfl⟩ := Option.map_eq_some_iff.mp h
    exact ⟨p, rest, rfl, rfl, rfl, rfl, rfl, rfl, rfl, rfl, rfl, rfl, rfl, rfl, rfl⟩

/-! ### The cut that parts become (R26, R28) -/

/-- Parts of one lane cut: they hold the same items, and no lane twice. -/
structure Parts (parts : List Cut) : Prop where
  items : ∀ q ∈ parts, ∀ r ∈ parts, q.items = r.items
  lanes : ∀ q ∈ parts, q.isPattern = false
  apart : ∀ q ∈ parts, ∀ r ∈ parts, ∀ i, inMask q.ctx.active i = true → inMask r.ctx.active i = true → q = r

/-- What parts rejoin as: the first part's own state with every register, predicate and lane of all of them (R28). -/
theorem rejoined_eq (s : State) (parts : List Cut) (j : Cut) (h : rejoined s parts = some j) : ∃ p ∈ parts, ∃ frag,
    (if (siblings s p).all fun q => parts.any (·.uid == q.uid) then some 0 else fragFor s p) = some frag ∧ j = { joinInto p parts with
      kind := if (siblings s p).all fun q => parts.any (·.uid == q.uid) then .lane else .fragment
      frag := frag
      first := if p.mill then p.first else ilOf (s.launchOf p.lid) (p.item 0)
      ctx := { (joinInto p parts).ctx with
        v := (List.range 64).map fun r => joinReg parts (·.ctx.v.getD r (uVal 0))
        o := (List.range 8).map fun r => joinReg parts (·.ctx.o.getD r (uVal 0))
        preds := (List.range 8).map (joinPred parts)
        active := parts.foldl (fun m q => m ||| q.ctx.active) 0#32 } } := by
  unfold rejoined at h
  split at h
  · cases h
  · next p rest hsort =>
    obtain ⟨frag, hfrag, rfl⟩ := Option.map_eq_some_iff.mp h
    have hp : p ∈ parts := (mem_sortBy _ parts p).mp (by rw [hsort]; exact List.mem_cons_self ..)
    exact ⟨p, hp, frag, hfrag, rfl⟩

theorem inMask_or (m n : W32) (i : Nat) : inMask (m ||| n) i = (inMask m i || inMask n i) := by
  simp [inMask, Nat.testBit_or]

theorem inMask_union (parts : List Cut) (m : W32) (i : Nat) : inMask (parts.foldl (fun m q => m ||| q.ctx.active) m) i = true
    ↔ inMask m i = true ∨ ∃ q ∈ parts, inMask q.ctx.active i = true := by
  induction parts generalizing m with
  | nil => simp
  | cons p ps ih =>
    rw [List.foldl_cons, ih, inMask_or, Bool.or_eq_true, or_assoc]
    simp

/-- The part that holds a lane. -/
theorem partOf_eq (parts : List Cut) (hparts : Parts parts) (q : Cut) (hq : q ∈ parts) (i : Nat) (hi : inMask q.ctx.active i = true) :
    partOf parts i = some q := by
  have hsome : (partOf parts i).isSome = true := List.find?_isSome.mpr ⟨q, hq, hi⟩
  obtain ⟨r, hr⟩ := Option.isSome_iff_exists.mp hsome
  have hri : inMask r.ctx.active i = true := by simpa using List.find?_some hr
  rw [hr, hparts.apart r (List.mem_of_find?_eq_some hr) q hq i hri hi]

/-- Cuts of the same items that are no pattern cuts agree on the item of a lane. -/
theorem item_congr (j q : Cut) (hj : j.isPattern = false) (hq : q.isPattern = false) (h : j.items = q.items) (i : Nat) : j.item i = q.item i := by
  simp [Cut.item, hj, hq, h]

/-- A register of parts that join holds each lane's own value (R28). -/
theorem joinReg_at (parts : List Cut) (hparts : Parts parts) (get : Cut → RegVal) (j q : Cut) (hq : q ∈ parts)
    (hitem : ∀ i, j.item i = q.item i) (i : Nat) (hi : i < 32) (hm : inMask q.ctx.active i = true) :
    j.valAt (joinReg parts get) i = q.valAt (get q) i := by
  unfold joinReg
  split
  · cases hq
  · next p ps =>
    split
    · next hsame =>
      have hget : get q = get p := by
        rcases List.mem_cons.mp hq with rfl | hps
        · rfl
        · simpa using List.all_eq_true.mp hsame q hps
      rw [hget, Cut.valAt, hitem, Cut.valAt]
    · simp [Cut.valAt, RegVal.at, hi, partOf_eq _ hparts q hq i hm]

theorem joinPred_at (parts : List Cut) (hparts : Parts parts) (n : Nat) (q : Cut) (hq : q ∈ parts) (i : Nat) (hi : i < 32)
    (hm : inMask q.ctx.active i = true) : (joinPred parts n).at (q.item i) i = q.predAt n i := by
  unfold joinPred
  split
  · cases hq
  · next p ps =>
    split
    · next hsame =>
      have hget : q.pred n = p.pred n := by
        rcases List.mem_cons.mp hq with rfl | hps
        · rfl
        · simpa using List.all_eq_true.mp hsame q hps
      rw [← hget]
      rfl
    · simp [PredVal.at, inMask_maskOf, hi, partOf_eq _ hparts q hq i hm]

theorem getD_range_map {α : Type} (f : Nat → α) (m n : Nat) (d : α) (h : n < m) : ((List.range m).map f).getD n d = f n := by
  simp [h]

/-- Each lane of parts that rejoin keeps its values (R28). -/
theorem rejoined_values (s : State) (parts : List Cut) (j : Cut) (h : rejoined s parts = some j) (hparts : Parts parts) (q : Cut)
    (hq : q ∈ parts) (i : Nat) (hi : i < 32) (hm : inMask q.ctx.active i = true) :
    (∀ n, n < 64 → j.valAt (j.ctx.v.getD n (uVal 0)) i = q.valAt (q.ctx.v.getD n (uVal 0)) i)
      ∧ (∀ n, n < 8 → j.valAt (j.ctx.o.getD n (uVal 0)) i = q.valAt (q.ctx.o.getD n (uVal 0)) i)
      ∧ ∀ n, n < 8 → j.predAt n i = q.predAt n i := by
  obtain ⟨p, hp, frag, -, hj⟩ := rejoined_eq s parts j h
  have hlane : j.isPattern = false := by
    rw [hj, Cut.isPattern]
    dsimp only
    split <;> rfl
  have hitems : j.items = q.items := by
    rw [hj]
    exact hparts.items p hp q hq
  have hitem := item_congr j q hlane (hparts.lanes q hq) hitems
  have hv : j.ctx.v = (List.range 64).map fun r => joinReg parts (·.ctx.v.getD r (uVal 0)) := by rw [hj]
  have ho : j.ctx.o = (List.range 8).map fun r => joinReg parts (·.ctx.o.getD r (uVal 0)) := by rw [hj]
  have hpreds : j.ctx.preds = (List.range 8).map (joinPred parts) := by rw [hj]
  refine ⟨fun n hn => ?_, fun n hn => ?_, fun n hn => ?_⟩
  · rw [hv, getD_range_map _ _ _ _ hn]
    exact joinReg_at parts hparts _ j q hq hitem i hi hm
  · rw [ho, getD_range_map _ _ _ _ hn]
    exact joinReg_at parts hparts _ j q hq hitem i hi hm
  · by_cases h0 : n = 0
    · subst h0
      rfl
    · rw [Cut.predAt, hitem, Cut.pred, if_neg h0, hpreds, getD_range_map _ _ _ _ hn]
      exact joinPred_at parts hparts n q hq i hi hm

/-- What parts rejoin as is the lane cut where no other part lives, and a fragment of it where one does (R26). -/
theorem rejoined_kind (s : State) (parts : List Cut) (j : Cut) (h : rejoined s parts = some j) :
    (∃ p ∈ parts, j.uid = p.uid ∧ j.parent = p.parent ∧ j.ctx.pc = p.ctx.pc ∧ j.ctx.mode = p.ctx.mode ∧ j.ctx.loops = p.ctx.loops
      ∧ ((∀ q ∈ siblings s p, ∃ r ∈ parts, r.uid = q.uid) → j.kind = .lane ∧ j.frag = 0)
      ∧ ((∃ q ∈ siblings s p, ∀ r ∈ parts, r.uid ≠ q.uid) → j.kind = .fragment))
    ∧ j.ctx.l0 = .val (uVal 0) ∧ j.ctx.l1 = .val (uVal 0)
    ∧ ∀ i, inMask j.ctx.active i = true ↔ ∃ q ∈ parts, inMask q.ctx.active i = true := by
  obtain ⟨p, hp, frag, hfrag, hj⟩ := rejoined_eq s parts j h
  have hactive : j.ctx.active = parts.foldl (fun m q => m ||| q.ctx.active) 0#32 := by rw [hj]
  have hkind : j.kind = if (siblings s p).all fun q => parts.any (·.uid == q.uid) then .lane else .fragment := by rw [hj]
  have hfragj : j.frag = frag := by rw [hj]
  refine ⟨⟨p, hp, by rw [hj]; rfl, by rw [hj]; rfl, by rw [hj]; rfl, by rw [hj]; rfl, by rw [hj]; rfl, fun hall => ?_, fun hsome => ?_⟩,
    by rw [hj]; rfl, by rw [hj]; rfl, fun i => ?_⟩
  · have hwhole : ((siblings s p).all fun q => parts.any (·.uid == q.uid)) = true :=
      List.all_eq_true.mpr fun q hq => by simpa using hall q hq
    rw [if_pos hwhole] at hfrag hkind
    exact ⟨hkind, hfragj.trans (Option.some.inj hfrag).symm⟩
  · obtain ⟨q, hq, hnone⟩ := hsome
    have hpartial : ¬ ((siblings s p).all fun q => parts.any (·.uid == q.uid)) = true := fun hall => by
      obtain ⟨r, hr, hu⟩ := List.any_eq_true.mp (List.all_eq_true.mp hall q hq)
      exact hnone r hr (by simpa using hu)
    rw [hkind, if_neg hpartial]
  · have hnone : inMask 0#32 i = false := inMask_zero i
    rw [hactive, inMask_union, hnone]
    simp

/-! ### SEAM (R173) -/

theorem exec_seam (s : State) (c : Cut) (h : Runs s c .seam) : exec .seam s = .next (if !c.outst.isEmpty then s.hold c .results
    else if c.kind = .fragment ∨ c.kind = .stray then s.hold c (.seam c.ctx.pc s.cycle false) else s.seamTest c) :=
  operate_runs _ s _ c h

end Sys2Proof.Machine

namespace Sys2Proof

open Sys2Proof.Machine

/-- Settles O24: SEAM's three ways, waits that the end of a seam or a rejoining takes from every cut it names, and what a group becomes. -/
theorem seamWaits : Obligations.SeamWaits := by
  unfold Obligations.SeamWaits
  refine ⟨?seam, ?ends, ?seamed, ?rejoined⟩
  case seam =>
    intro s c hr
    rw [exec_seam s c hr]
    refine ⟨fun ho => ?_, fun ho hk => ?_, fun ho hf hs hm => ?_, fun ho hf hs hm => ?_⟩
    · rw [if_pos (by simpa using ho)]
    · rw [if_neg (by simp [ho]), if_pos hk]
    · rw [if_neg (by simp [ho]), if_neg (by simp [hf, hs])]
      rcases seamTest_cases s c with ⟨-, since, hle, h⟩ | ⟨hn, -⟩
      · exact ⟨since, hle, by rw [h]⟩
      · rw [hm] at hn; cases hn
    · rw [if_neg (by simp [ho]), if_neg (by simp [hf, hs])]
      rcases seamTest_cases s c with ⟨hy, -⟩ | ⟨-, h⟩
      · rw [hm] at hy; cases hy
      · rw [h]; rfl
  case ends =>
    intro s lid pc hq hh
    refine ⟨fun n hn hc => ⟨s.seamEnd lid pc, ?_, seamEnd_ends s lid pc⟩, fun hn hall => ⟨s.seamEnd lid pc, ?_, seamEnd_ends s lid pc⟩,
      fun c hc hm hd => rejoin_ends s c hc hm hd⟩
    · change execSeamWaitLimit lid pc s = _
      simp only [execSeamWaitLimit, hn, hq, hh]
      rw [if_pos ⟨rfl, hc, rfl⟩]
    · have hwait : (s.cuts.filter (·.lid == lid)).all (fun c => (c.seaming pc).isSome) = true := List.all_eq_true.mpr fun c hc => by
        obtain ⟨hmem, hl⟩ := List.mem_filter.mp hc
        exact hall c hmem (by simpa using hl)
      change execSeamWaitEnd lid pc s = _
      rw [execSeamWaitEnd, if_pos ⟨hn, by simp [hq], hwait, by simp [hh]⟩]
  case seamed => exact fun s g b k hb hk => ⟨groupBox_size g b hb, seamed_fields s g b k hk⟩
  case rejoined =>
    intro s parts j hj hitems hapart
    have hparts : Parts parts := ⟨fun q hq r hr => (hitems q hq r hr).1, fun q hq => (hitems q hq q hq).2, hapart⟩
    obtain ⟨hkind, hl0, hl1, hactive⟩ := rejoined_kind s parts j hj
    exact ⟨hkind, hl0, hl1, hactive, fun q hq i hi hm => rejoined_values s parts j hj hparts q hq i hi hm⟩

end Sys2Proof
end

/-! ## Crews and roles

What CNEW, CJOIN, CLEAVE, CSIZE, CRANK and ROLE do (R29, R213 to R215, R218). -/

section

namespace Sys2Proof.Machine

/-! ### Crews (R29, R213 to R215) -/

theorem launchOf_lid (s : State) (lid : Nat) (h : s.launchOf lid ≠ Launch.absent) : (s.launchOf lid).lid = lid := by
  unfold State.launchOf at h ⊢
  cases hf : s.launches.find? (·.lid == lid) with
  | none => rw [hf] at h; exact absurd rfl h
  | some l => simpa using List.find?_some hf

/-- A launch that is not live has no space slot to give. -/
theorem launchOf_lid_of_freeSlot (s : State) (lid slot : Nat) (h : freeSlot s (s.launchOf lid) false (s.launchOf lid).nslot = some slot) :
    (s.launchOf lid).lid = lid := by
  refine launchOf_lid s lid fun habsent => ?_
  rw [habsent] at h
  cases h

section
variable (s : State) (c : Cut) (d a : Opnd) (v : W64) (hpart : c.isPart = false) (hcrew : c.crew = none)
  (hv : c.uniformOf (c.read s a []) = some v)

/-- Whether a Bench has room for a crew of a capacity (R213). -/
def Cut.fitsCrew (s : State) (c : Cut) (v : W64) : Prop :=
  1 ≤ v.toNat ∧ v.toNat ≤ 1024 ∧ c.counts ≤ v.toNat ∧ (s.crewsOn c.bench).length < 32
    ∧ mayReserve s (s.launchOf c.lid).part c.bench (ceilDiv v.toNat 32) c.parent = true

include hpart hcrew hv

theorem exec_cnew_noRoom (hr : Runs s c (.cnew d a)) (hfits : ¬ c.fitsCrew s v) :
    exec (.cnew d a) s = .next (s.write c [a] .all d (uVal 0)) := by
  refine (operate_runs _ s _ c hr).trans ?_
  have hno : (decide (1 ≤ v.toNat ∧ v.toNat ≤ Config.crewCapacity ∧ c.counts ≤ v.toNat)
      && decide ((s.crewsOn c.bench).length < Config.crewsPerBench)
      && mayReserve s (s.launchOf c.lid).part c.bench (ceilDiv v.toNat 32) c.parent) = false := by
    rw [Bool.eq_false_iff]
    simp only [ne_eq, Bool.and_eq_true, decide_eq_true_eq]
    rintro ⟨⟨⟨h1, h2, h3⟩, h4⟩, h5⟩
    exact hfits ⟨h1, h2, h3, h4, h5⟩
  simp only [hv, hpart, hcrew, hno]
  rfl

theorem exec_cnew_room (hr : Runs s c (.cnew d a)) (hfits : c.fitsCrew s v) (slot : Nat)
    (hslot : freeSlot s (s.launchOf c.lid) false (s.launchOf c.lid).nslot = some slot) :
    let l := s.launchOf c.lid
    let k := Crew.new l s.nextId slot (slotGen l slot) c.bench v.toNat (l.space / 2048) false
    exec (.cnew d a) s = .next (({ s with crews := s.crews ++ [k], nextId := s.nextId + 1 } : State).write
      { c.effect with crew := some k.key } [a] .all d (uVal k.handle)) := by
  refine (operate_runs _ s _ c hr).trans ?_
  obtain ⟨h1, h2, h3, h4, h5⟩ := hfits
  have hyes : (decide (1 ≤ v.toNat ∧ v.toNat ≤ Config.crewCapacity ∧ c.counts ≤ v.toNat)
      && decide ((s.crewsOn c.bench).length < Config.crewsPerBench)
      && mayReserve s (s.launchOf c.lid).part c.bench (ceilDiv v.toNat 32) c.parent) = true := by
    simp only [Bool.and_eq_true, decide_eq_true_eq]
    exact ⟨⟨⟨h1, h2, h3⟩, h4⟩, h5⟩
  simp only [hv, hpart, hcrew, hyes, hslot]
  rfl

theorem exec_cjoin_absent (hr : Runs s c (.cjoin d a)) (hk : spaceOf s c.lid v = none) :
    exec (.cjoin d a) s = .next (s.write c [a] .all d (uVal 2)) := by
  refine (operate_runs _ s _ c hr).trans ?_
  simp only [hv, hpart, hcrew, hk]
  rfl

theorem exec_cjoin_full (hr : Runs s c (.cjoin d a)) (k : Crew) (hk : spaceOf s c.lid v = some k)
    (hfull : k.capacity < crewCount s k.key + c.counts) : exec (.cjoin d a) s = .next (s.write c [a] .all d (uVal 0)) := by
  refine (operate_runs _ s _ c hr).trans ?_
  simp only [hv, hpart, hcrew, hk, hfull]
  rfl

theorem exec_cjoin_here (hr : Runs s c (.cjoin d a)) (k : Crew) (hk : spaceOf s c.lid v = some k)
    (hroom : crewCount s k.key + c.counts ≤ k.capacity) (hmoving : k.moving = false) (hbench : c.bench = k.bench) :
    exec (.cjoin d a) s = .next (s.write { c.effect with crew := some k.key } [a] .all d (uVal 1)) := by
  refine (operate_runs _ s _ c hr).trans ?_
  simp only [hv, hpart, hcrew, hk, Nat.not_lt.mpr hroom, hmoving, hbench, bne_self_eq_false]
  simp

end

theorem exec_cleave (s : State) (c : Cut) (key : Nat) (hpart : c.isPart = false) (hr : Runs s c .cleave) (hcrew : c.crew = some key) :
    exec .cleave s = .next ((s.advance { c.effect with crew := none }).leftCrew c key) := by
  refine (operate_runs _ s _ c hr).trans ?_
  simp only [hcrew, hpart]
  rfl

theorem exec_csize (s : State) (c : Cut) (d : Opnd) (key : Nat) (hr : Runs s c (.csize d)) (hcrew : c.crew = some key) :
    exec (.csize d) s = .next (s.write c [] c.gov d (uVal (BitVec.ofNat 64 (crewItems s key).length))) := by
  refine (operate_runs _ s _ c hr).trans ?_
  simp only [hcrew]

theorem valAt_overLanes (c : Cut) (f : Nat → W64) (p : Nat) (hl : c.isPattern = false) (hp : p ∈ c.positions) :
    c.valAt (c.overLanes f) p = f p := by
  rw [positions_of_lanes c hl, mem_lanesOf] at hp
  simp [Cut.overLanes, Cut.valAt, RegVal.at, hp, lt_of_inMask _ p hp]

theorem exec_crank (s : State) (c : Cut) (d : Opnd) (key : Nat) (hr : Runs s c (.crank d)) (hcrew : c.crew = some key) :
    exec (.crank d) s = .next (s.write c [] c.gov d
      (c.overLanes fun i => BitVec.ofNat 64 ((crewItems s key).filter fun x => decide (x.2 < c.ilAt s i)).length)) := by
  refine (operate_runs _ s _ c hr).trans ?_
  simp only [hcrew]

/-! ### Roles (R218) -/

/-- A cut that has taken a role. -/
def Cut.inRole (c : Cut) (n : Nat) (r : Role) (kcode : W64) : Cut :=
  ({ c with
    role := n, cls := r.cls, allot := r.allot
    ctx := { c.ctx with
      v := (List.range 64).map fun i => if i < r.allot then c.ctx.v.getD i (uVal 0) else uVal 0
      l0 := .val (uVal 0), l1 := .val (uVal 0) } } : Cut).goTo (kcode + BitVec.ofNat 64 r.entry) []

theorem inRole_v (c : Cut) (n : Nat) (r : Role) (kcode : W64) (i : Nat) (hi : i < 64) :
    (c.inRole n r kcode).ctx.v.getD i (uVal 0) = if i < r.allot then c.ctx.v.getD i (uVal 0) else uVal 0 :=
  getD_range_map (fun i => if i < r.allot then c.ctx.v.getD i (uVal 0) else uVal 0) 64 i (uVal 0) hi

theorem exec_role (s : State) (c : Cut) (a : Opnd) (n : W64) (r : Role) (hr : Runs s c (.role a))
    (hv : c.uniformOf (c.read s a []) = some n) (hn : n.toNat < 16) (hrole : (s.launchOf c.lid).roles[n.toNat]? = some r)
    (hpart : c.isPart = false) : exec (.role a) s = .next (if !c.outst.isEmpty then s.hold c .results
      else (s.popAll c [a]).retired ((c.popped [a]).inRole n.toNat r (s.launchOf c.lid).kcode)) := by
  refine (operate_runs _ s _ c hr).trans ?_
  simp only [hv, hn, hrole, hpart, if_true]
  rfl

theorem popped_eq (c : Cut) (srcs : List Opnd) : ∃ e, c.popped srcs = { c with effects := e } := by
  unfold Cut.popped
  split
  · exact ⟨true, rfl⟩
  · exact ⟨c.effects, rfl⟩

end Sys2Proof.Machine

namespace Sys2Proof

open Sys2Proof.Machine

/-- Settles O36: each instruction's equation is its own case, and a new crew's launch is the cut's, for only a live one has a free slot. -/
theorem crewsAndRoles : Obligations.CrewsAndRoles := by
  unfold Obligations.CrewsAndRoles
  refine ⟨?crews, ?roles⟩
  case crews =>
    intro s c d a v hpart l fits
    refine ⟨fun hr hcrew hv => ⟨fun hfits => exec_cnew_noRoom s c d a v hpart hcrew hv hr hfits, fun slot hfits hslot => ?cnew⟩,
      fun hr hcrew hv => ⟨exec_cjoin_absent s c d a v hpart hcrew hv hr, exec_cjoin_full s c d a v hpart hcrew hv hr,
        exec_cjoin_here s c d a v hpart hcrew hv hr⟩,
      fun key hr hcrew => exec_cleave s c key hpart hr hcrew, fun key hr hcrew => exec_csize s c d key hr hcrew,
      fun key hr hcrew => ⟨_, exec_crank s c d key hr hcrew, fun hl p hp => valAt_overLanes c _ p hl hp⟩⟩
    case cnew =>
      exact ⟨_, _, exec_cnew_room s c d a v hpart hcrew hv hr hfits slot hslot, rfl, launchOf_lid_of_freeSlot s c.lid slot hslot,
        rfl, rfl, rfl, rfl, rfl, rfl⟩
  case roles =>
    intro s c a n r hr hv hn hrole hpart
    have hexec := exec_role s c a n r hr hv hn hrole hpart
    refine ⟨fun ho => ?_, fun ho => ⟨(c.popped [a]).inRole n.toNat r (s.launchOf c.lid).kcode, ?_, ?_⟩⟩
    · rw [hexec, if_pos (by simpa using ho)]
    · rw [hexec, if_neg (by simp [ho])]
    · obtain ⟨e, he⟩ := popped_eq c [a]
      rw [he]
      exact ⟨rfl, rfl, rfl, rfl, rfl, rfl, rfl, inRole_v _ _ r _, rfl, rfl, rfl, rfl, rfl⟩

end Sys2Proof
end

/-! ## Quanta and cut queues

What a quantum's end makes visible and in which order, and the cut that a queue issues (R24, R34, R38, R196, R220). -/

section

namespace Sys2Proof.Machine

/-! ### The least of a list in order -/

theorem mem_insertBy {α : Type} (key : α → Nat) (x y : α) (xs : List α) : y ∈ insertBy key x xs ↔ y = x ∨ y ∈ xs :=
  (insertBy_perm key x xs).mem_iff.trans List.mem_cons

theorem insertBy_pairwise {α : Type} (key : α → Nat) (x : α) (xs : List α) (h : xs.Pairwise fun a b => key a ≤ key b) :
    (insertBy key x xs).Pairwise fun a b => key a ≤ key b := by
  induction xs with
  | nil => exact List.pairwise_singleton _ x
  | cons y ys ih =>
    obtain ⟨hy, hys⟩ := List.pairwise_cons.mp h
    unfold insertBy
    split
    · next hlt =>
      refine List.pairwise_cons.mpr ⟨fun b hb => ?_, h⟩
      rcases List.mem_cons.mp hb with rfl | hb
      · omega
      · exact Nat.le_trans (Nat.le_of_lt hlt) (hy b hb)
    · next hge =>
      refine List.pairwise_cons.mpr ⟨fun b hb => ?_, ih hys⟩
      rcases (mem_insertBy key x b ys).mp hb with rfl | hb
      · omega
      · exact hy b hb

theorem sortBy_pairwise {α : Type} (key : α → Nat) (xs : List α) : (sortBy key xs).Pairwise fun a b => key a ≤ key b := by
  have hfold : ∀ (xs acc : List α), (acc.Pairwise fun a b => key a ≤ key b) →
      (xs.foldl (fun acc x => insertBy key x acc) acc).Pairwise fun a b => key a ≤ key b := by
    intro xs
    induction xs with
    | nil => exact fun acc h => h
    | cons x xs ih => exact fun acc h => ih _ (insertBy_pairwise key x acc h)
  exact hfold xs [] List.Pairwise.nil

/-- The first of a list in order has the least key. -/
theorem sortBy_head_le {α : Type} (key : α → Nat) (xs : List α) (x : α) (h : (sortBy key xs).head? = some x) :
    x ∈ xs ∧ ∀ y ∈ xs, key x ≤ key y := by
  obtain ⟨rest, hrest⟩ := List.head?_eq_some_iff.mp h
  have hsorted := sortBy_pairwise key xs
  rw [hrest] at hsorted
  refine ⟨(mem_sortBy key xs x).mp (hrest ▸ List.mem_cons_self ..), fun y hy => ?_⟩
  have hmem := (mem_sortBy key xs y).mpr hy
  rw [hrest] at hmem
  rcases List.mem_cons.mp hmem with rfl | hmem
  · exact Nat.le_refl _
  · exact (List.pairwise_cons.mp hsorted).1 y hmem

/-- Two elements whose second comes first by its key. -/
theorem sortBy_swap {α : Type} (key : α → Nat) (a b : α) (h : key a < key b) : sortBy key [b, a] = [a, b] := by
  simp only [sortBy, List.foldl_cons, List.foldl_nil, insertBy, h, if_true]

/-! ### A quantum's end with nothing to commit (R38) -/

/-- Nothing of the launch waits for its quantum's end: no effect, job, operation, crew, attempt or pre-emption, and no cut at a seam. -/
structure NothingToCommit (s : State) (lid : Nat) : Prop where
  effects : ∀ q ∈ s.qeff, q.lid ≠ lid
  jobs : ∀ j ∈ s.jobs, j.lid ≠ lid
  ops : ∀ k ∈ s.comms, ∀ o ∈ k.ops, o.lid ≠ lid
  crews : s.crews = []
  assays : s.assays = []
  preempts : s.preempts = []
  seams : ∀ c ∈ s.cuts, c.lid = lid → ¬ c.atSeam

theorem commitEffects_of_none (s : State) (lid : Nat) (h : ∀ q ∈ s.qeff, q.lid ≠ lid) : s.commitEffects lid = s := by
  have hmine : s.qeff.filter (·.lid == lid) = [] := List.filter_eq_nil_iff.mpr (by simpa using h)
  have hrest : s.qeff.filter (·.lid != lid) = s.qeff := List.filter_eq_self.mpr (by simpa using h)
  simp only [State.commitEffects, hmine, hrest]
  rfl

theorem finishedJobs_of_none (s : State) (lid : Nat) (hj : ∀ j ∈ s.jobs, j.lid ≠ lid) (ho : ∀ k ∈ s.comms, ∀ o ∈ k.ops, o.lid ≠ lid) :
    finishedJobs s lid = [] := by
  have hjobs : (s.jobs.filter fun j => j.lid == lid
      && (j.status != 0 || (j.state != .issued && j.state != .waiting && j.state != .stalled))) = [] :=
    List.filter_eq_nil_iff.mpr fun j hmem => by simp [hj j hmem]
  have hops : ((s.comms.flatMap (·.ops)).filter fun o => o.lid == lid && o.word.isSome) = [] := by
    refine List.filter_eq_nil_iff.mpr fun o hmem => ?_
    obtain ⟨k, hk, hok⟩ := List.mem_flatMap.mp hmem
    simp [ho k hk o hok]
  simp only [finishedJobs, hjobs, hops]
  rfl

theorem commitJobs_of_none (s : State) (lid : Nat) (h : NothingToCommit s lid) : s.commitJobs lid = s := by
  simp only [State.commitJobs, h.crews, List.filter_nil, List.foldl_nil, finishedJobs_of_none s lid h.jobs h.ops]

theorem settlePhases_of_none (s : State) (lid : Nat) (h : s.crews = []) : s.settlePhases lid = s := by
  simp only [State.settlePhases, h, List.map_nil]
  rw [← h]

theorem quantumCommits_of_none (s : State) (lid : Nat) (h : s.assays = []) : s.quantumCommits lid = s := by
  have hat : ∀ st, commitsAt s st = [] := fun st => by simp [commitsAt, State.assayOf, h]
  simp only [State.quantumCommits]
  generalize List.range Config.stackCount = xs
  induction xs with
  | nil => rfl
  | cons x xs ih =>
    rw [List.foldl_cons, hat x]
    exact ih

theorem endSeams_of_none (s : State) (lid : Nat) (h : ∀ c ∈ s.cuts, c.lid = lid → ¬ c.atSeam) : s.endSeams lid = s := by
  simp only [State.endSeams]
  rw [List.filterMap_eq_nil_iff.mpr]
  · rfl
  · intro c hc
    obtain ⟨hmem, hlid⟩ := List.mem_filter.mp hc
    split
    · next hw => exact absurd ⟨_, _, _, hw⟩ (h c hmem (by simpa using hlid))
    · rfl

theorem nextQuantum_not_atSeam (s : State) (lid : Nat) (h : ∀ c ∈ s.cuts, c.lid = lid → ¬ c.atSeam) :
    ∀ c ∈ (s.nextQuantum lid).cuts, c.lid = lid → ¬ c.atSeam := by
  intro c hc hlid
  obtain ⟨d, hd, rfl⟩ := List.mem_map.mp hc
  by_cases hl : d.lid = lid
  · rw [if_pos hl]
    rintro ⟨pc, since, partners, hw⟩
    dsimp only at hw
    split at hw
    · cases hw
    · exact h d hd hl ⟨pc, since, partners, hw⟩
  · rw [if_neg hl] at hlid
    exact absurd hlid hl

/-- Invalidating L1s keeps the rest, and leaves no line of their Benches. -/
theorem foldl_l1Flash (bs : List Nat) (s : State) :
    bs.foldl State.l1Flash s = { s with l1 := (bs.foldl State.l1Flash s).l1, wbuf := (bs.foldl State.l1Flash s).wbuf }
      ∧ ∀ x ∈ (bs.foldl State.l1Flash s).l1, x ∈ s.l1 ∧ x.bench ∉ bs := by
  induction bs generalizing s with
  | nil => exact ⟨rfl, fun x hx => ⟨hx, by simp⟩⟩
  | cons b bs ih =>
    obtain ⟨hframe, hlines⟩ := ih (s.l1Flash b)
    refine ⟨hframe, fun x hx => ?_⟩
    obtain ⟨hmem, hbs⟩ := hlines x hx
    obtain ⟨hold, hb⟩ := List.mem_filter.mp hmem
    refine ⟨hold, fun hin => ?_⟩
    rcases List.mem_cons.mp hin with heq | hin
    · simp [heq] at hb
    · exact hbs hin

theorem takePending_of_none (s : State) (lid : Nat) (h : s.preempts = []) : s.takePending lid = s := by
  simp only [State.takePending, h, List.filter_nil, List.foldl_nil]

theorem exec_quantumEnd_not (s : State) (lid : Nat) (h : quantumEnds s (s.launchOf lid) = false) : exec (.quantumEnd lid) s = .next s := by
  change execQuantumEnd lid s = _
  simp [execQuantumEnd, h]

theorem exec_quantumEnd_of_nothing (s : State) (lid : Nat) (hends : quantumEnds s (s.launchOf lid) = true) (h : NothingToCommit s lid) :
    exec (.quantumEnd lid) s = .next ((s.nextQuantum lid).flashAll (s.launchOf lid)) := by
  change execQuantumEnd lid s = _
  simp only [execQuantumEnd, hends, Bool.not_true, Bool.false_eq_true, if_false, commitEffects_of_none s lid h.effects,
    commitJobs_of_none s lid h, settlePhases_of_none s lid h.crews, quantumCommits_of_none s lid h.assays,
    endSeams_of_none _ lid (nextQuantum_not_atSeam s lid h.seams)]
  refine congrArg _ (takePending_of_none _ lid ?_)
  rw [State.flashAll, (foldl_l1Flash _ _).1]
  exact h.preempts

theorem quantumEnd_of_nothing (s : State) (lid : Nat) (hends : quantumEnds s (s.launchOf lid) = true) (h : NothingToCommit s lid) :
    ∃ t, exec (.quantumEnd lid) s = .next t ∧ KeepsMemory s t
      ∧ t.cuts = s.cuts.map (fun c => if c.lid = lid then { c with retired := 0, wait := if c.wait = .quantum then .none else c.wait } else c)
      ∧ ∀ x ∈ t.l1, x.bench ∉ placement s (s.launchOf lid).part := by
  refine ⟨_, exec_quantumEnd_of_nothing s lid hends h, ?_⟩
  simp only [State.flashAll]
  generalize hbs : distinct (α := Nat) _ = bs
  obtain ⟨hframe, hlines⟩ := foldl_l1Flash bs (s.nextQuantum lid)
  rw [hframe]
  refine ⟨⟨rfl, rfl⟩, rfl, fun x hx hin => (hlines x hx).2 ?_⟩
  rw [← hbs, mem_distinct]
  exact List.mem_append_left _ hin

/-! ### The order and the content of commits (R38) -/

theorem commitKey_lt (a b : W64) (m n : Nat) (h : a.toNat < b.toNat) (hm : m < 2 ^ 128) : commitKey a m < commitKey b n := by
  simp only [commitKey]
  omega

theorem commitEffects_two (s : State) (lid : Nat) (a b : QEntry) (hq : s.qeff = [b, a]) (ha : a.lid = lid) (hb : b.lid = lid)
    (h : a.cutid.toNat < b.cutid.toNat) (hs : a.seq < 2 ^ 128) :
    s.commitEffects lid = ({ s with qeff := [] } : State).commitInOrder [] [a, b] := by
  have hsort := sortBy_swap (fun q : QEntry => commitKey q.cutid q.seq) a b (commitKey_lt _ _ _ _ h hs)
  simp [State.commitEffects, hq, ha, hb, hsort]

theorem commitEffect_store (s : State) (q : QEntry) (ended : List Nat) (w : Store) (h : q.eff = .store w) :
    s.commitEffect q ended = s.commitStore { w with held := false } := by
  simp only [State.commitEffect, h]

theorem commitEffect_push (s : State) (q : QEntry) (ended : List Nat) (key n : Nat) (e : List W64) (h : q.eff = .push key n e) :
    s.commitEffect q ended = s.commitPush q (decide (key ∈ ended)) key n e := by
  simp only [State.commitEffect, h]

theorem commitStore_failing (s : State) (w : Store) (h : homeFails s w = true) : s.commitStore w = s.failStore w := by
  simp only [State.commitStore, h, if_true]

/-- A store of bytes to the device that no flushed attempt and no earlier write holds back performs. -/
theorem commitStore_bytes (s : State) (w : Store) (p : Nat) (bs : List (Nat × Byte)) (hloc : w.loc = .dev p) (hop : w.op = .bytes bs)
    (hfree : flushHolds s (sectorOf p) = false) (hq : ∀ x ∈ s.storeQ, x.job.isNone = true → x.meets w = false) :
    s.commitStore w = s.perform w := by
  have hfails : homeFails s w = false := by simp [homeFails, WriteOp.isAtomic, hop]
  have hany : (s.storeQ.any fun x => x.job.isNone && x.meets w) = false := by simpa using hq
  simp [State.commitStore, hfails, hloc, hfree, hany]

theorem commitPush_closed (s : State) (q : QEntry) (b : Bool) (k : Crew) (n : Nat) (e : List W64) (hk : s.crewOf k.key = some k)
    (hc : (k.chute n).closed = true) : s.commitPush q b k.key n e
      = s.holdLate q.lid q.cutid ⟨q.uid, q.seq, q.il, BitVec.ofNat 64 (causeCHC + causeLSF), 0, itemLanes s q.lid q.il, q.pc, 0⟩ := by
  simp only [State.commitPush, hk, hc, if_true]

/-- Storing an element over the one of its number stores it. -/
theorem find?_replaced {α : Type} (key : α → Nat) (x y : α) (xs : List α) (h : xs.find? (key · == key x) = some y) :
    (xs.map fun d => if key d = key x then x else d).find? (key · == key x) = some x := by
  have hsome := List.find?_some h
  have hkey : key y = key x := by simpa using hsome
  have hkeeps : ∀ d, key (if key d = key x then x else d) = key d := fun d => by
    split
    · next hd => exact hd.symm
    · rfl
  simp [List.find?_map, hkeeps, h, hkey]

theorem crewOf_putCrew (s : State) (j k : Crew) (h : s.crewOf j.key = some k) : (s.putCrew j).crewOf j.key = some j :=
  find?_replaced Crew.key j k s.crews h

/-- A crew with one more entry in a chute. -/
def Crew.pushed (k : Crew) (n : Nat) (e : List W64) : Crew :=
  { k with chutes := k.chutes.set n { k.chute n with entries := (k.chute n).entries ++ [e] } }

theorem pushed_chute (k : Crew) (n : Nat) (e : List W64) (hn : n < k.chutes.length) :
    ((k.pushed n e).chute n).entries = (k.chute n).entries ++ [e] := by
  simp [Crew.chute, Crew.pushed, hn]

theorem commitPush_open (s : State) (q : QEntry) (b : Bool) (k : Crew) (n : Nat) (e : List W64) (hk : s.crewOf k.key = some k)
    (hc : (k.chute n).closed = false) : s.commitPush q b k.key n e = s.putCrew (k.pushed n e) := by
  simp only [State.commitPush, hk, hc, Bool.false_eq_true, if_false, Crew.pushed]

/-! ### The cut that a queue issues (R24, R34) -/

theorem nextQueued_least (s : State) (bench quad : Nat) (c : Cut) (h : nextQueued s bench quad = some c) :
    (c ∈ s.cuts ∧ mayEnter s c bench quad = true) ∧ ((∀ d ∈ s.cuts, d.born < 2 ^ 64) → ∀ d ∈ s.cuts, mayEnter s d bench quad = true →
      (c.parid s).toNat ≤ (d.parid s).toNat ∧ (c.parid s = d.parid s → c.born ≤ d.born)) := by
  obtain ⟨hmem, hleast⟩ := sortBy_head_le _ _ c h
  obtain ⟨hc, hmay⟩ := List.mem_filter.mp hmem
  refine ⟨⟨hc, hmay⟩, fun hborn d hd hdmay => ?_⟩
  have hle := hleast d (List.mem_filter.mpr ⟨hd, hdmay⟩)
  have hcb := hborn c hc
  have hdb := hborn d hd
  refine ⟨by omega, fun heq => ?_⟩
  rw [heq] at hle
  omega

theorem cutOf_map (s : State) (f : Cut → Cut) (u : Nat) (hf : ∀ d, (f d).uid = d.uid) :
    ({ s with cuts := s.cuts.map f } : State).cutOf u = (s.cutOf u).map f := by
  simp [State.cutOf, List.find?_map, hf]

theorem cutOf_placeFamily (s : State) (c : Cut) (p : Place) (h : s.cutOf c.uid = some c) (hp : c.isPattern = false) :
    (s.placeFamily c p).cutOf c.uid = some { c with place := p, born := s.cycle, age := s.cycle } := by
  rw [State.placeFamily, cutOf_map, h]
  · simp [hp]
  · intro d
    split <;> rfl

theorem exec_cutQueueIssue (s : State) (bench quad : Nat) : exec (.cutQueueIssue bench quad) s
    = .next (match nextQueued s bench quad with | some c => s.placeFamily c (.quad bench quad) | none => s) := rfl

end Sys2Proof.Machine

namespace Sys2Proof
open Sys2Proof.Machine

/-- Settles O57: a quantum's end with nothing to commit starts the next quantum and invalidates the placement's L1s; the order of two commits
is that of their keys, and a queue issues the first of a list in order. -/
theorem quantumCommits : Obligations.QuantumCommits := by
  unfold Obligations.QuantumCommits
  refine ⟨fun s lid => ⟨exec_quantumEnd_not s lid, fun hends heff hjobs hops hcrews hassays hpre hseams => ?_⟩,
    fun s lid a b hq ha hb h hs _ => commitEffects_two s lid a b hq ha hb h hs, fun s q ended => ⟨?_, ?_, ?_, ?_⟩,
    fun s bench quad => ⟨fun h => ?_, fun c h hc => ?_⟩⟩
  · refine quantumEnd_of_nothing s lid hends ⟨heff, hjobs, hops, hcrews, hassays, hpre, fun c hc hlid => ?_⟩
    rintro ⟨pc, since, partners, hw⟩
    exact hseams c hc hlid pc since partners hw
  · exact fun w hw hfails => (commitEffect_store s q ended w hw).trans (commitStore_failing s _ hfails)
  · exact fun w p bs hw hloc hop hfree hq =>
      (commitEffect_store s q ended w hw).trans (commitStore_bytes s _ p bs hloc hop hfree fun x hx hj => hq x hx hj)
  · intro k n e hw hk hc hn
    rw [commitEffect_push s q ended _ n e hw]
    rw [commitPush_open s q _ k n e hk hc]
    exact ⟨_, crewOf_putCrew s (k.pushed n e) k hk, pushed_chute k n e hn, rfl, rfl⟩
  · exact fun k n e hw hk hc => (commitEffect_push s q ended _ n e hw).trans (commitPush_closed s q _ k n e hk hc)
  · rw [exec_cutQueueIssue, h]
  · obtain ⟨⟨_, hmay⟩, hleast⟩ := nextQueued_least s bench quad c h
    refine ⟨hmay, hleast, fun hp => ⟨s.placeFamily c (.quad bench quad), ?_, rfl, cutOf_placeFamily s c _ hc hp⟩⟩
    rw [exec_cutQueueIssue, h]

end Sys2Proof
end

/-! ## Writes at their homes

What a write of device memory leaves alone (R13, R190, R322). -/

section

namespace Sys2Proof.Machine

/-! ### What a write at its homes leaves alone (R190) -/

/-- Two states that differ at most in what a write at its homes changes: memory with its sectors, the window, and the Mill cuts'
signatures. -/
def WritesOnly (s t : State) : Prop :=
  t = { s with mem := t.mem, stale := t.stale, views := t.views, poison := t.poison, win := t.win, cuts := t.cuts }
    ∧ ∃ f : Cut → Cut, t.cuts = s.cuts.map f ∧ ∀ c, (f c).uid = c.uid ∧ (f c).lid = c.lid

theorem WritesOnly.refl (s : State) : WritesOnly s s := ⟨rfl, id, by simp, fun _ => ⟨rfl, rfl⟩⟩

theorem WritesOnly.trans {s t u : State} (h : WritesOnly s t) (k : WritesOnly t u) : WritesOnly s u := by
  obtain ⟨ht, f, hf, hfc⟩ := h
  obtain ⟨hu, g, hg, hgc⟩ := k
  refine ⟨?_, g ∘ f, by rw [hg, hf, List.map_map], fun c => ⟨(hgc _).1.trans (hfc c).1, (hgc _).2.trans (hfc c).2⟩⟩
  rw [hu, ht]

theorem foldl_writesOnly {α : Type} (f : State → α → State) (h : ∀ s a, WritesOnly s (f s a)) (xs : List α) (s : State) :
    WritesOnly s (xs.foldl f s) :=
  foldl_rel WritesOnly WritesOnly.refl WritesOnly.trans f h xs s

/-- An update of what a write changes that leaves the cuts. -/
theorem writesOnly_of_cuts {s t : State} (h : t = { s with mem := t.mem, stale := t.stale, views := t.views, poison := t.poison, win := t.win })
    : WritesOnly s t := by
  have hc : t.cuts = s.cuts := by rw [h]
  refine ⟨?_, id, by simp [hc], fun _ => ⟨rfl, rfl⟩⟩
  rw [hc]
  exact h

theorem noteWrite_writesOnly (s : State) (sec : Nat) : WritesOnly s (s.noteWrite sec) := by
  refine ⟨rfl, _, rfl, fun c => ?_⟩
  dsimp only
  split
  · split <;> exact ⟨rfl, rfl⟩
  · exact ⟨rfl, rfl⟩

theorem dirty_writesOnly (s : State) (sec : Nat) : WritesOnly s (s.dirty sec) := by
  refine writesOnly_of_cuts ?_
  unfold State.dirty
  split <;> rfl

theorem adopt_writesOnly (s : State) (sec : Nat) : WritesOnly s (s.adopt sec) := by
  refine writesOnly_of_cuts ?_
  unfold State.adopt
  split <;> rfl

theorem dropViews_writesOnly (s : State) (p : Nat) : WritesOnly s (s.dropViews p) := by
  refine writesOnly_of_cuts ?_
  unfold State.dropViews
  split <;> rfl

theorem dropWrites_writesOnly (s : State) (ps : List Nat) : WritesOnly s (s.dropWrites ps) :=
  foldl_writesOnly _ (fun _ _ => writesOnly_of_cuts rfl) _ _

theorem devWrite_writesOnly (s : State) (base : Nat) (bs : List (Nat × Byte)) : WritesOnly s (s.devWrite base bs) := by
  unfold State.devWrite
  extract_lets seen rest t addrs u v w
  have ht : WritesOnly s t := dropWrites_writesOnly s _
  have hu : WritesOnly t u := foldl_writesOnly _ (fun t sec =>
    ((dirty_writesOnly t sec).trans (adopt_writesOnly _ sec)).trans (noteWrite_writesOnly _ sec)) _ _
  have hv : WritesOnly u v := writesOnly_of_cuts rfl
  have hw : WritesOnly v w := foldl_writesOnly _ (fun t p => dropViews_writesOnly t p) _ _
  have hx : ∀ x : List Nat, WritesOnly w { w with poison := x } := fun _ => writesOnly_of_cuts rfl
  exact (((ht.trans hu).trans hv).trans hw).trans (hx _)

/-! ### What a write at its homes leaves of the window (R13, R322) -/

theorem reg_of_win (s t : State) (off : Nat) (hw : t.win = s.win) (hc : t.cycle = s.cycle) : t.reg off = s.reg off := by
  simp only [State.reg, State.base, hw, hc]

theorem reg_foldl {α : Type} (off : Nat) (f : State → α → State) (hcan : ∀ s a, Canonical s → Canonical (f s a))
    (h : ∀ s a, Canonical s → (f s a).reg off = s.reg off) (xs : List α) (s : State) (hs : Canonical s) :
    (xs.foldl f s).reg off = s.reg off := by
  induction xs generalizing s with
  | nil => rfl
  | cons x xs ih => exact (ih _ (hcan s x hs)).trans (h s x hs)

theorem reg_countUp_ne (s : State) (off lo len n m : Nat) (h : Canonical s) (hm : m ≠ off) : (s.countUp off lo len n).reg m = s.reg m :=
  reg_setField_ne s off lo len _ m h hm

theorem reg_dirty (s : State) (sec off : Nat) : (s.dirty sec).reg off = s.reg off := by
  unfold State.dirty
  split <;> rfl

theorem reg_adopt (s : State) (sec off : Nat) : (s.adopt sec).reg off = s.reg off := by
  unfold State.adopt
  split <;> rfl

theorem reg_dropViews (s : State) (p off : Nat) : (s.dropViews p).reg off = s.reg off := by
  unfold State.dropViews
  split <;> rfl

theorem reg_dropWrites (s : State) (ps : List Nat) (off : Nat) (h : Canonical s) (hoff : ∀ n, off ≠ regMsum n) :
    (s.dropWrites ps).reg off = s.reg off :=
  reg_foldl off _ (fun s _ hs => countUp_canonical s _ _ _ _ hs) (fun s _ hs => reg_countUp_ne s _ _ _ _ off hs (hoff _)) _ s h

/-- A write at its homes leaves every register but the counts of dropped writes. -/
theorem reg_devPut (s : State) (p : Nat) (bs : List Byte) (off : Nat) (h : Canonical s) (hoff : ∀ n, off ≠ regMsum n) :
    (s.devPut p bs).reg off = s.reg off := by
  simp only [State.devPut, State.devWrite]
  generalize ((List.range bs.length).zip bs).filter (fun b => (viewAt s (p + b.1)).isSome) = seen
  generalize ((List.range bs.length).zip bs).filter (fun b => (viewAt s (p + b.1)).isNone) = rest
  have hfirst := dropWrites_canonical s (seen.map (p + ·.1)) h
  have hmid := foldl_canonical (fun (s : State) sec => ((s.dirty sec).adopt sec).noteWrite sec)
    (fun s x hs => noteWrite_canonical _ x (adopt_canonical _ x (dirty_canonical s x hs))) (sectorsOf (rest.map (p + ·.1))) _ hfirst
  have hput : ∀ t : State, Canonical t → Canonical { t with mem := scatter t.mem p rest } :=
    fun t ht => ⟨scatter_wf _ _ _ ht.1, ht.2.1, ht.2.2⟩
  refine (reg_of_win _ _ off rfl rfl).trans ((reg_foldl off _ (fun s x hs => dropViews_canonical s x hs)
    (fun s x _ => reg_dropViews s x off) _ _ (hput _ hmid)).trans ?_)
  refine (reg_of_win _ _ off rfl rfl).trans ((reg_foldl off _
    (fun s x hs => noteWrite_canonical _ x (adopt_canonical _ x (dirty_canonical s x hs))) (fun s x _ => ?_) _ _ hfirst).trans
    (reg_dropWrites s _ off h hoff))
  exact (reg_of_win _ _ off rfl rfl).trans ((reg_adopt _ x off).trans (reg_dirty s x off))

theorem devPut_writesOnly (s : State) (p : Nat) (bs : List Byte) : WritesOnly s (s.devPut p bs) := devWrite_writesOnly s p _

end Sys2Proof.Machine
end

/-! ## Schedulers, halts and samples

The choice of a scheduler, what a cycle counts, the events of a halt, and a sample (R31, R232, R386 to R388, R391 to R394). -/

section

namespace Sys2Proof.Machine

/-! ### The choice of a scheduler (R31, R232) -/

/-- The order of a choice puts the class first, where classes count, and then the age. -/
theorem turn_le (classes : Bool) (c d : Cut) (hc : c.age < 2 ^ 64) (hd : d.uid < 2 ^ 64 ∧ d.age < 2 ^ 64)
    (h : c.turn classes ≤ d.turn classes) :
    (if classes then c.issueClass else 0) ≤ (if classes then d.issueClass else 0)
      ∧ ((if classes then c.issueClass else 0) = (if classes then d.issueClass else 0) → c.age ≤ d.age) := by
  obtain ⟨hdu, hda⟩ := hd
  have hcut := d.cutid.isLt
  simp only [Cut.turn] at h
  generalize (if classes then c.issueClass else 0) = x at h ⊢
  generalize (if classes then d.issueClass else 0) = y at h ⊢
  omega

/-- The order of a pipeline's cuts puts the fullest input first, and then the emptiest output. -/
theorem pipeTurn_le (s : State) (c d : Cut) (g h : Stage) (hc : ∀ n, c.fill s n < 2 ^ 16) (hd : ∀ n, d.fill s n < 2 ^ 16)
    (hdu : d.uid < 2 ^ 64) (hle : c.pipeTurn s g ≤ d.pipeTurn s h) :
    d.fill s h.inp ≤ c.fill s g.inp ∧ (d.fill s h.inp = c.fill s g.inp → c.fill s g.out ≤ d.fill s h.out) := by
  have hci := hc g.inp
  have hco := hc g.out
  have hdi := hd h.inp
  have hdo := hd h.out
  have hcut := d.cutid.isLt
  simp only [Cut.pipeTurn] at hle
  omega

/-- The cuts among which a choice that falls on a pipeline's cut is made again. -/
def pipeLine (s : State) (cs : List Cut) (e : Cut) : List Cut :=
  cs.filter fun d => d.lid == e.lid && d.issueClass == e.issueClass && (d.stage s).isSome

/-- The place of a cut in its pipeline's order. -/
def Cut.pipeKey (s : State) (d : Cut) : Nat := ((d.stage s).map (d.pipeTurn s)).getD 0

/-- The cuts that have waited so long that age alone decides. -/
def agedOf (s : State) (cs : List Cut) : List Cut := cs.filter fun c => decide (512 ≤ c.waited s)

theorem head?_sortBy_of_mem {α : Type} (key : α → Nat) (xs : List α) (x : α) (h : x ∈ xs) : ∃ y, (sortBy key xs).head? = some y := by
  cases hs : sortBy key xs with
  | nil => exact absurd ((mem_sortBy key xs x).mpr h) (by simp [hs])
  | cons y ys => exact ⟨y, rfl⟩

/-- What a choice is: the first by age of the cuts that have waited long, else the first by class and age, or of its pipeline's line. -/
theorem choose_cases (s : State) (cs : List Cut) (c : Cut) (h : choose s cs = some c) :
    (agedOf s cs ≠ [] ∧ (sortBy (Cut.turn false) (agedOf s cs)).head? = some c)
      ∨ (agedOf s cs = [] ∧ ∃ e, (sortBy (Cut.turn true) cs).head? = some e
        ∧ ((e.stage s = none ∧ c = e) ∨ ((e.stage s).isSome = true ∧ (sortBy (Cut.pipeKey s) (pipeLine s cs e)).head? = some c))) := by
  have hopen : choose s cs = if !(agedOf s cs).isEmpty then (sortBy (Cut.turn false) (agedOf s cs)).head?
      else (sortBy (Cut.turn true) cs).head?.map fun e => if (e.stage s).isNone then e
        else ((sortBy (Cut.pipeKey s) (pipeLine s cs e)).head?).getD e := rfl
  rw [hopen] at h
  by_cases haged : agedOf s cs = []
  · simp only [haged, List.isEmpty_nil, Bool.not_true, Bool.false_eq_true, if_false] at h
    obtain ⟨e, he, hce⟩ := Option.map_eq_some_iff.mp h
    refine .inr ⟨haged, e, he, ?_⟩
    cases hst : e.stage s with
    | none => exact .inl ⟨rfl, by simpa [hst] using hce.symm⟩
    | some g =>
      have hline : e ∈ pipeLine s cs e := List.mem_filter.mpr ⟨(sortBy_head_le _ _ _ he).1, by simp [hst]⟩
      obtain ⟨y, hy⟩ := head?_sortBy_of_mem (Cut.pipeKey s) _ e hline
      simp only [hst, Option.isNone_some, Bool.false_eq_true, if_false, hy, Option.getD_some] at hce
      exact .inr ⟨rfl, hce ▸ hy⟩
  · exact .inl ⟨haged, by simpa [haged] using h⟩

theorem choose_mem (s : State) (cs : List Cut) (c : Cut) (h : choose s cs = some c) : c ∈ cs := by
  rcases choose_cases s cs c h with ⟨_, hc⟩ | ⟨_, e, he, ⟨_, rfl⟩ | ⟨_, hc⟩⟩
  · exact List.mem_of_mem_filter (sortBy_head_le _ _ _ hc).1
  · exact (sortBy_head_le _ _ _ he).1
  · exact List.mem_of_mem_filter (sortBy_head_le _ _ _ hc).1

theorem choose_aged (s : State) (cs : List Cut) (c : Cut) (hb : ∀ d ∈ cs, d.uid < 2 ^ 64 ∧ d.age < 2 ^ 64) (h : choose s cs = some c)
    (haged : ∃ d ∈ cs, 512 ≤ d.waited s) : 512 ≤ c.waited s ∧ ∀ d ∈ cs, 512 ≤ d.waited s → c.age ≤ d.age := by
  obtain ⟨e, he, hwaited⟩ := haged
  have hne : agedOf s cs ≠ [] := List.ne_nil_of_mem (List.mem_filter.mpr ⟨he, by simpa using hwaited⟩)
  rcases choose_cases s cs c h with ⟨_, hc⟩ | ⟨hnil, _⟩
  · obtain ⟨hmem, hleast⟩ := sortBy_head_le _ _ _ hc
    obtain ⟨hcs, hcw⟩ := List.mem_filter.mp hmem
    refine ⟨by simpa using hcw, fun d hd hdw => ?_⟩
    have hle := hleast d (List.mem_filter.mpr ⟨hd, by simpa using hdw⟩)
    exact (turn_le false c d (hb c hcs).2 (hb d hd) hle).2 rfl
  · exact absurd hnil hne

/-- Where no cut has waited long, the choice is of the least class, and of that the oldest, or the first of its pipeline's line. -/
theorem choose_byClass (s : State) (cs : List Cut) (c : Cut) (hb : ∀ d ∈ cs, d.uid < 2 ^ 64 ∧ d.age < 2 ^ 64) (h : choose s cs = some c)
    (hfew : ∀ d ∈ cs, d.waited s < 512) (d : Cut) (hd : d ∈ cs) :
    c.issueClass ≤ d.issueClass ∧ (c.issueClass = d.issueClass → (c.stage s = none → c.age ≤ d.age)
      ∧ ∀ g k, c.stage s = some g → d.stage s = some k → c.lid = d.lid → c.pipeTurn s g ≤ d.pipeTurn s k) := by
  have haged : agedOf s cs = [] := List.filter_eq_nil_iff.mpr fun e he => by
    have := hfew e he
    simpa using this
  rcases choose_cases s cs c h with ⟨hne, _⟩ | ⟨_, e, he, hpick⟩
  · exact absurd haged hne
  obtain ⟨hecs, hleast⟩ := sortBy_head_le _ _ _ he
  obtain ⟨hclass, hage⟩ := turn_le true e d (hb e hecs).2 (hb d hd) (hleast d hd)
  simp only [if_true] at hclass hage
  rcases hpick with ⟨hnone, rfl⟩ | ⟨hsome, hline⟩
  · refine ⟨hclass, fun heq => ⟨fun _ => hage heq, fun g k hg => ?_⟩⟩
    rw [hnone] at hg
    cases hg
  · obtain ⟨hmem, hfirst⟩ := sortBy_head_le _ _ _ hline
    obtain ⟨_, hin⟩ := List.mem_filter.mp hmem
    simp only [Bool.and_eq_true, beq_iff_eq] at hin
    obtain ⟨⟨hlid, hcls⟩, hst⟩ := hin
    refine ⟨hcls ▸ hclass, fun heq => ⟨fun hnone => ?_, fun g k hg hk hl => ?_⟩⟩
    · rw [hnone] at hst
      cases hst
    · have hdline : d ∈ pipeLine s cs e := List.mem_filter.mpr ⟨hd, by simp [hk, ← hlid, hl, ← hcls, heq]⟩
      simpa [Cut.pipeKey, hg, hk] using hfirst d hdline

/-! ### A scheduler's counters (R386) -/

theorem reg_count64 (s : State) (off : Nat) (h : Canonical s) :
    (s.count64 off).reg off = if s.reg off = BitVec.allOnes 64 then BitVec.allOnes 64 else s.reg off + 1 := by
  unfold State.count64
  split
  · next hall => exact hall
  · exact reg_setReg_same s off _ h

theorem reg_countCycle (before s : State) (b k : Nat) (h : Canonical s)
    (hn : ((onSched before (b, k)).filter (Cut.eligible before)).length ≠ 0) :
    let off := regElig b k (min 16 ((onSched before (b, k)).filter (Cut.eligible before)).length)
    (State.countCycle before s (b, k)).reg off = if s.reg off = BitVec.allOnes 64 then BitVec.allOnes 64 else s.reg off + 1 := by
  simp only [State.countCycle]
  generalize ((onSched before (b, k)).filter (Cut.eligible before)).length = n at hn
  rw [if_pos hn]
  have hidle : regElig b k (Nat.min 16 n) ≠ regElig b k 0 := by
    simp only [regElig, Nat.min_def]
    split <;> omega
  have hnothing : regElig b k (Nat.min 16 n) ≠ regStall b k 0 := by
    simp only [regElig, regStall, Nat.min_def]
    split <;> omega
  have hone := setReg_canonical s (regElig b k 0) (before.reg (regElig b k 0)) h
  have htwo := setReg_canonical _ (regStall b k 0) (before.reg (regStall b k 0)) hone
  exact (reg_count64 _ _ htwo).trans (by rw [reg_setReg_ne _ _ _ _ hone hnothing, reg_setReg_ne _ _ _ _ h hidle])

/-! ### A cycle (R31) -/

/-- Two states that differ at most in what a cycle counts: the window, the leases, the budgets, and the Mill cuts' own counts. -/
def CountsOnly (s t : State) : Prop := t = { s with win := t.win, leases := t.leases, launches := t.launches, cuts := t.cuts }

theorem CountsOnly.refl (s : State) : CountsOnly s s := rfl

theorem CountsOnly.trans {s t u : State} (h : CountsOnly s t) (k : CountsOnly t u) : CountsOnly s u := by
  unfold CountsOnly at h k ⊢
  rw [k, h]

theorem SameButWin.countsOnly {s t : State} (h : SameButWin s t) : CountsOnly s t := by
  unfold SameButWin at h
  rw [h]
  rfl

theorem foldl_countsOnly {α : Type} (f : State → α → State) (h : ∀ s a, CountsOnly s (f s a)) (xs : List α) (s : State) :
    CountsOnly s (xs.foldl f s) :=
  foldl_rel CountsOnly CountsOnly.refl CountsOnly.trans f h xs s

theorem count64_sameButWin (s : State) (off : Nat) : SameButWin s (s.count64 off) := by
  unfold State.count64
  split <;> rfl

theorem countCycle_countsOnly (before s : State) (k : Nat × Nat) : CountsOnly s (State.countCycle before s k) := by
  refine SameButWin.countsOnly ?_
  simp only [State.countCycle]
  split
  · exact (((setReg_sameButWin _ _ _).trans (setReg_sameButWin _ _ _)).trans (count64_sameButWin _ _))
  · split
    · rfl
    · exact (setReg_sameButWin _ _ _).trans (count64_sameButWin _ _)

theorem countEvent_countsOnly (s : State) (asid : Nat) (p : Bool × Nat) (n k : Nat) : CountsOnly s (s.countEvent asid p n k) := by
  unfold State.countEvent
  split <;> rfl

theorem countLeases_countsOnly (before s : State) : CountsOnly s (State.countLeases before s) := by
  refine CountsOnly.trans (foldl_countsOnly _ (fun t l => ?_) before.leases s) (foldl_countsOnly _ (fun t k => ?_) (schedulers before) _)
  · have hhere : ∀ b : Bool, CountsOnly t (if b then t.countEvent l.asid (l.atMill, l.place) 0 1 else t) := fun b => by
      split
      · exact countEvent_countsOnly ..
      · exact CountsOnly.refl t
    dsimp only
    split
    · exact (hhere _).trans (countEvent_countsOnly ..)
    · exact hhere _
  · dsimp only
    split
    · exact CountsOnly.refl t
    · split
      · exact CountsOnly.refl t
      · split
        · exact countEvent_countsOnly ..
        · exact CountsOnly.refl t

theorem charge_countsOnly (s : State) : CountsOnly s s.charge := by
  refine foldl_countsOnly _ (fun t l => ?_) s.launches s
  dsimp only
  split
  · exact CountsOnly.refl t
  · rfl

theorem openLease_countsOnly (s : State) (asid : Nat) (p : Bool × Nat) (eff : Nat) : CountsOnly s (s.openLease asid p eff) := rfl

theorem settleLeases_countsOnly (s : State) : CountsOnly s s.settleLeases := by
  unfold State.settleLeases
  extract_lets t
  have ht : CountsOnly s t := foldl_countsOnly _ (fun t c => by
    dsimp only
    split
    · exact CountsOnly.refl t
    · exact openLease_countsOnly ..) _ s
  have hfilter : ∀ ls : List Lease, CountsOnly t { t with leases := ls } := fun _ => rfl
  exact ht.trans (hfilter _)

/-- A cycle advances the clock, clears what the cycle before recorded, and counts. -/
theorem passCycle_countsOnly (s : State) : CountsOnly { s with cycle := s.cycle + 1, issued := [], sampled := [] } s.passCycle := by
  unfold State.passCycle
  extract_lets t u v w x
  have hu : CountsOnly t u := foldl_countsOnly _ (fun t k => countCycle_countsOnly s t k) _ _
  have hv : CountsOnly u v := by
    unfold v
    split
    · exact CountsOnly.refl u
    · exact countLeases_countsOnly s u
  have hx : CountsOnly w x := rfl
  have hall := ((hu.trans hv).trans (charge_countsOnly v)).trans hx
  split
  · exact hall.trans (setField_sameButWin ..).countsOnly
  · exact hall

/-- Every cut that issues in a cycle is one that was eligible. -/
theorem picks_eligible (s : State) (u : Nat) (h : u ∈ picks s) : ∃ c ∈ s.cuts, c.uid = u ∧ c.eligible s = true := by
  rcases List.mem_append.mp h with h | h
  · obtain ⟨k, _, hk⟩ := List.mem_filterMap.mp h
    obtain ⟨c, hc, rfl⟩ := Option.map_eq_some_iff.mp hk
    obtain ⟨hin, hel⟩ := List.mem_filter.mp (choose_mem s _ c hc)
    exact ⟨c, List.mem_of_mem_filter hin, rfl, hel⟩
  · obtain ⟨m, _, hm⟩ := List.mem_filterMap.mp h
    obtain ⟨c, hc, rfl⟩ := Option.map_eq_some_iff.mp hm
    obtain ⟨hin, hel⟩ := List.mem_filter.mp (choose_mem s _ c hc)
    exact ⟨c, hin, rfl, ((Bool.and_eq_true _ _).mp hel).2⟩

theorem schedulerCycle_counts (s : State) : ∃ t, exec .schedulerCycle s = .next t ∧ KeepsMemory s t ∧ t.cycle = s.cycle + 1 ∧ t.issued = []
    ∧ t.sampled = [] ∧ ∀ u ∈ t.issue, ∃ c ∈ t.cuts, c.uid = u ∧ c.eligible { t with issue := s.issue } = true := by
  have hpass := passCycle_countsOnly s.settleLeases
  have hlease := settleLeases_countsOnly s
  refine ⟨{ s.settleLeases.passCycle with issue := picks s.settleLeases.passCycle }, rfl, ?_⟩
  generalize s.settleLeases.passCycle = t at hpass ⊢
  unfold CountsOnly at hpass hlease
  rw [hlease] at hpass
  have hissue : t.issue = s.issue := by rw [hpass]
  refine ⟨⟨?_, ?_⟩, ?_, ?_, ?_, fun u hu => ?_⟩
  · dsimp only; rw [hpass]
  · dsimp only; rw [hpass]
  · dsimp only; rw [hpass]
  · dsimp only; rw [hpass]
  · dsimp only; rw [hpass]
  · obtain ⟨c, hc, huid, hel⟩ := picks_eligible t u hu
    refine ⟨c, hc, huid, ?_⟩
    rw [← hissue]
    exact hel

end Sys2Proof.Machine
end

section

namespace Sys2Proof.Machine

/-! ### Halting a context (R391 to R393) -/

/-- A stored register leaves the others, whatever the order of the list. -/
theorem winGet_winPut_ne (n off : Nat) (v : W64) (w : List (Nat × W64)) (hn : n ≠ off) : winGet n (winPut off v w) = winGet n w := by
  induction w with
  | nil =>
    unfold winPut
    split
    · rfl
    · rw [winGet_cons, if_neg (Ne.symm hn)]
  | cons d w ih =>
    obtain ⟨o, x⟩ := d
    unfold winPut
    split
    · split
      · rfl
      · rw [winGet_cons, if_neg (Ne.symm hn)]
    · split
      · next _ heq =>
        subst heq
        split
        · rw [winGet_cons, if_neg (Ne.symm hn)]
        · rw [winGet_cons, winGet_cons, if_neg (Ne.symm hn), if_neg (Ne.symm hn)]
      · rw [winGet_cons, winGet_cons, ih]

theorem reg_setReg_other (s : State) (off : Nat) (v : W64) (n : Nat) (hn : n ≠ off) : (s.setReg off v).reg n = s.reg n := by
  have hbase : (s.setReg off v).base n = s.base n := rfl
  have hput : (s.setReg off v).win = winPut off (v - s.base off) s.win := rfl
  rw [reg_eq_winGet, reg_eq_winGet s, hbase, hput, winGet_winPut_ne n off _ _ hn]

theorem haltStat_firmware : haltStat 4 0 0 = BitVec.ofNat 64 (1 * 2 ^ 62 + 4 * 2 ^ 58) := rfl

/-- A slot whose context has just begun to halt by firmware. -/
def State.haltedBy (s : State) (slot : Nat) : State :=
  { s.setReg (regDbgstat slot) (haltStat 4 0 0) with
    halts := s.halts ++ [⟨slot, fld (s.reg (regDbgctl slot)) 0 13, s.cycle, []⟩] }

theorem exec_halt (s : State) (slot : Nat) (hslot : slot < 4) (hbit : bit (s.reg (regDbgctl slot)) 63 = true)
    (hnone : s.halts.find? (·.slot == slot) = none) (hd : debugSlot s (fld (s.reg (regDbgctl slot)) 0 13) = some slot) :
    exec (.halt slot) s = .next (s.haltedBy slot) := by
  change execHalt slot s = _
  unfold execHalt
  rw [if_pos ⟨hslot, hbit, by rw [hnone]; rfl, hd⟩]
  have hctl : (s.setReg (regDbgstat slot) (haltStat 4 0 0)).field (regDbgctl slot) 0 13 = fld (s.reg (regDbgctl slot)) 0 13 := by
    rw [State.field, reg_setReg_other]
    simp only [regDbgctl, regDbgstat]
    omega
  simp only [State.haltedBy, ← hctl]
  rfl

theorem haltedBy_reg (s : State) (slot : Nat) (h : Canonical s) :
    (s.haltedBy slot).reg (regDbgstat slot) = BitVec.ofNat 64 (1 * 2 ^ 62 + 4 * 2 ^ 58) :=
  (reg_of_win _ _ _ rfl rfl).trans ((reg_setReg_same s _ _ h).trans haltStat_firmware)

theorem exec_resume (s : State) (slot : Nat) (h : HaltState) (hf : s.halts.find? (·.slot == slot) = some h) :
    exec (.resume slot) s = .next { s.setReg (regDbgstat slot) 0 with halts := s.halts.filter (·.slot != slot) } := by
  change execResume slot s = _
  have hany : s.halts.any (·.slot == slot) = true := by
    rw [List.any_eq_true]
    exact ⟨h, List.mem_of_find?_eq_some hf, List.find?_some (p := fun x : HaltState => x.slot == slot) hf⟩
  rw [execResume, hany]
  rfl

/-- A context stops at a unit that holds no Mill cut. -/
def State.stoppedAt (s : State) (slot unit : Nat) : State :=
  { s with halts := s.halts.map fun (h : HaltState) =>
      if h.slot = slot ∧ unit ∉ h.stopped then { h with stopped := h.stopped ++ [unit] } else h }

theorem stoppedAt_find (s : State) (slot unit : Nat) (h : HaltState) (hf : s.halts.find? (·.slot == slot) = some h) (hu : unit ∉ h.stopped) :
    (s.stoppedAt slot unit).halts.find? (·.slot == slot) = some { h with stopped := h.stopped ++ [unit] } := by
  have hslot : h.slot = slot := by
    have := List.find?_some hf
    simpa using this
  have hkeeps : ∀ g : HaltState, ((if g.slot = slot ∧ unit ∉ g.stopped then { g with stopped := g.stopped ++ [unit] } else g)
      : HaltState).slot = g.slot := fun g => by split <;> rfl
  simp [State.stoppedAt, List.find?_map, hkeeps, hf, hslot, hu]

theorem stopUnit_noMill (s : State) (slot unit : Nat) (hm : ∀ c ∈ s.cuts, c.onMill = false) :
    s.stopUnit slot unit = s.stoppedAt slot unit := by
  simp only [State.stopUnit]
  split
  · rfl
  · next h _ =>
    have hno : ∀ f : Cut → Bool, (s.cuts.find? fun c => c.onMill && f c) = none := fun f =>
      List.find?_eq_none.mpr fun c hc => by simp [hm c hc]
    simp only [Bool.and_assoc, hno]
    rfl

theorem exec_debugStop (s : State) (slot unit : Nat) (h : HaltState) (hf : s.halts.find? (·.slot == slot) = some h) (hu : unit ∉ h.stopped)
    (hw : haltedWhole s slot = false) (hm : ∀ c ∈ s.cuts, c.onMill = false) : exec (.debugStop slot unit) s
      = .next ((s.stoppedAt slot unit).setField (regDbgstat slot) 0 32 (min 0xFFFFFFFE (s.cycle - h.since))) := by
  change execDebugStop slot unit s = _
  simp only [execDebugStop, hf]
  rw [if_neg (by simp [hu, hw]), stopUnit_noMill s slot unit hm]

theorem debugStop_stops (s : State) (slot unit : Nat) (h : HaltState) (hf : s.halts.find? (·.slot == slot) = some h) (hu : unit ∉ h.stopped)
    (hw : haltedWhole s slot = false) (hm : ∀ c ∈ s.cuts, c.onMill = false) : ∃ t, exec (.debugStop slot unit) s = .next t
      ∧ t = { s with win := t.win, halts := t.halts }
      ∧ (∃ g, t.halts.find? (·.slot == slot) = some g ∧ g = { h with stopped := h.stopped ++ [unit] })
      ∧ (Canonical s → fld (t.reg (regDbgstat slot)) 0 32 = min 0xFFFFFFFE (s.cycle - h.since)) := by
  refine ⟨_, exec_debugStop s slot unit h hf hu hw hm, rfl, ⟨_, stoppedAt_find s slot unit h hf hu, rfl⟩, fun hc => ?_⟩
  rw [reg_setField_same (s.stoppedAt slot unit) _ _ _ _ hc, fld_putFld_same _ _ _ _ (by decide)]
  exact Nat.mod_eq_of_lt (Nat.lt_of_le_of_lt (Nat.min_le_left ..) (by decide))

/-! ### A dump (R394) -/

/-- Nothing arrives at a cut with nothing outstanding. -/
theorem arriveAll_of_none (s : State) (c : Cut) (h : s.cutOf c.uid = some c) (ho : c.outst = []) : s.arriveAll c.uid = s := by
  simp only [State.arriveAll, h, Option.map_some, ho, Option.getD_some]
  rfl

theorem foldl_arriveAll_of_none (cs : List Cut) (s : State) (h : ∀ c ∈ cs, s.cutOf c.uid = some c ∧ c.outst = []) :
    cs.foldl (fun t c => t.arriveAll c.uid) s = s := by
  induction cs with
  | nil => rfl
  | cons c cs ih =>
    obtain ⟨hc, hcs⟩ := List.forall_mem_cons.mp h
    rw [List.foldl_cons, arriveAll_of_none s c hc.1 hc.2]
    exact ih hcs

theorem exec_dump (s : State) (slot : Nat) (h : HaltState) (hf : s.halts.find? (·.slot == slot) = some h) (hw : haltedWhole s slot = false)
    (hall : allStopped s h = true) (hcs : ∀ c ∈ stoppedCuts s h.asid, s.cutOf c.uid = some c ∧ c.outst = []) :
    let bytes := (stoppedCuts s h.asid).flatMap fun c => dumpCut s c c
    let w := s.reg (regDump slot)
    exec (.dump slot) s = .next (if 4096 * fld w 40 24 < bytes.length then s.setField (regDbgstat slot) 0 32 0xFFFFFFFF
      else (s.devPut (fld w 6 34 * 64) bytes).setField (regDbgstat slot) 62 2 2) := by
  intro bytes w
  change execDump slot s = _
  have hnone : ((stoppedCuts s h.asid).any fun c => (s.cutOf c.uid).any fun k => !k.outst.isEmpty) = false := by
    rw [List.any_eq_false]
    intro c hc
    simp [(hcs c hc).1, (hcs c hc).2]
  have hbytes : ((stoppedCuts s h.asid).flatMap fun c => dumpCut s c ((s.cutOf c.uid).getD c)) = bytes := by
    refine List.flatMap_congr fun c hc => ?_
    rw [(hcs c hc).1]
    rfl
  simp only [execDump, hf, hw, hall, Bool.not_true, Bool.or_false, Bool.false_eq_true, if_false, foldl_arriveAll_of_none _ s hcs, hnone, hbytes]
  rfl

/-! ### A sample (R387, R388) -/

/-- The state with a record of the schedulers that have sampled in its cycle. -/
def State.withSampled (s : State) (x : List (Nat × Nat)) : State := { s with sampled := x }

theorem dirty_withSampled (s : State) (x : List (Nat × Nat)) (sec : Nat) : (s.withSampled x).dirty sec = (s.dirty sec).withSampled x := by
  unfold State.dirty
  by_cases h : s.stale.any (·.1 == sec) = true
  · rw [if_pos h]
    exact if_pos h
  · rw [if_neg h]
    exact if_neg h

theorem adopt_withSampled (s : State) (x : List (Nat × Nat)) (sec : Nat) : (s.withSampled x).adopt sec = (s.adopt sec).withSampled x := by
  simp only [State.adopt, State.withSampled]
  split <;> rfl

theorem dropViews_withSampled (s : State) (x : List (Nat × Nat)) (p : Nat) : (s.withSampled x).dropViews p = (s.dropViews p).withSampled x := by
  unfold State.dropViews
  by_cases h : s.views.isEmpty = true
  · rw [if_pos h]
    exact if_pos h
  · rw [if_neg h]
    exact if_neg h

theorem dropWrites_withSampled (s : State) (x : List (Nat × Nat)) (ps : List Nat) :
    (s.withSampled x).dropWrites ps = (s.dropWrites ps).withSampled x :=
  List.foldl_hom (fun u : State => u.withSampled x) fun _ _ => rfl

/-- The bytes of a write that reach no view take their places. -/
def State.landed (s : State) (base : Nat) (bs : List (Nat × Byte)) : State :=
  let addrs := bs.map (base + ·.1)
  let s := (sectorsOf addrs).foldl (fun (s : State) sec => ((s.dirty sec).adopt sec).noteWrite sec) s
  addrs.foldl (fun s p => s.dropViews p) { s with mem := scatter s.mem base bs }

theorem landed_withSampled (s : State) (x : List (Nat × Nat)) (base : Nat) (bs : List (Nat × Byte)) :
    (s.withSampled x).landed base bs = (s.landed base bs).withSampled x := by
  have hnote : ∀ (t : State) (sec : Nat), (((t.withSampled x).dirty sec).adopt sec).noteWrite sec
      = (((t.dirty sec).adopt sec).noteWrite sec).withSampled x := fun t sec => by
    rw [dirty_withSampled, adopt_withSampled]
    rfl
  simp only [State.landed]
  rw [List.foldl_hom (fun u : State => u.withSampled x) hnote]
  generalize (sectorsOf (bs.map (base + ·.1))).foldl (fun (s : State) sec => ((s.dirty sec).adopt sec).noteWrite sec) s = u
  exact List.foldl_hom (init := { u with mem := scatter u.mem base bs }) (fun u : State => u.withSampled x)
    fun t p => dropViews_withSampled t x p

theorem devWrite_mem_eq (s : State) (base : Nat) (bs : List (Nat × Byte)) :
    (s.devWrite base bs).mem = ((s.dropWrites ((bs.filter fun b => (viewAt s (base + b.1)).isSome).map (base + ·.1))).landed base
      (bs.filter fun b => (viewAt s (base + b.1)).isNone)).mem := rfl

/-- A write at its homes does not regard which schedulers have sampled. -/
theorem devPut_withSampled_mem (s : State) (x : List (Nat × Nat)) (p : Nat) (bs : List Byte) :
    ((s.withSampled x).devPut p bs).mem = (s.devPut p bs).mem := by
  have hview : viewAt (s.withSampled x) = viewAt s := rfl
  rw [State.devPut, State.devPut, devWrite_mem_eq, devWrite_mem_eq, hview, dropWrites_withSampled, landed_withSampled]
  rfl

/-- The slots of the sample ring, and those of them that hold a record. -/
def ringOf (s : State) : Nat := 2 ^ (fld (s.reg regSmpbase) 59 5 + 6)
def ringUsed (s : State) : Nat := (fld (s.reg regSmphead) 0 32 + 2 ^ 32 - fld (s.reg regSmptail) 0 32) % 2 ^ 32

theorem exec_sample (s : State) (b k : Nat) (ws : List W64) (hs : samples s b k = true) (hnew : (b, k) ∉ s.sampled)
    (hr : sampleRecord s b k = some ws) : exec (.sample b k) s = .next (if ringUsed s = ringOf s
      then (s.withSampled (s.sampled ++ [(b, k)])).countUp regSmphead 32 32 1
      else ((s.withSampled (s.sampled ++ [(b, k)])).devPut (fld (s.reg regSmpbase) 5 35 * 32 + 32 * (fld (s.reg regSmphead) 0 32 % ringOf s))
        (ws.flatMap fun w => bytesLE 8 w.toNat)).setField regSmphead 0 32 ((fld (s.reg regSmphead) 0 32 + 1) % 2 ^ 32)) := by
  change execSample b k s = _
  simp only [execSample, hs, hnew, decide_false, Bool.not_true, Bool.or_false, Bool.false_eq_true, if_false, hr]
  rfl

/-- A full ring drops the record, and counts it. -/
theorem sample_full (s : State) (b k : Nat) (ws : List W64) (hs : samples s b k = true) (hnew : (b, k) ∉ s.sampled)
    (hr : sampleRecord s b k = some ws) (hfull : ringUsed s = ringOf s) : ∃ t, exec (.sample b k) s = .next t
      ∧ t.sampled = s.sampled ++ [(b, k)] ∧ t.host = s.host ∧ t.mem = s.mem
      ∧ (Canonical s → fld (t.reg regSmphead) 32 32 = min (2 ^ 32 - 1) (fld (s.reg regSmphead) 32 32 + 1)) := by
  refine ⟨(s.withSampled (s.sampled ++ [(b, k)])).countUp regSmphead 32 32 1,
    (exec_sample s b k ws hs hnew hr).trans (by rw [if_pos hfull]), rfl, rfl, rfl, fun hc => ?_⟩
  rw [State.countUp, reg_setField_same (s.withSampled (s.sampled ++ [(b, k)])) _ _ _ _ hc, fld_putFld_same _ _ _ _ (by decide)]
  exact Nat.mod_eq_of_lt (Nat.lt_of_le_of_lt (Nat.min_le_left ..) (by decide))

/-- A ring with room takes the record, and its head moves on. -/
theorem sample_room (s : State) (b k : Nat) (ws : List W64) (hs : samples s b k = true) (hnew : (b, k) ∉ s.sampled)
    (hr : sampleRecord s b k = some ws) (hroom : ringUsed s ≠ ringOf s) : ∃ t, exec (.sample b k) s = .next t
      ∧ t.sampled = s.sampled ++ [(b, k)] ∧ t.host = s.host
      ∧ t.mem = (s.devPut (fld (s.reg regSmpbase) 5 35 * 32 + 32 * (fld (s.reg regSmphead) 0 32 % ringOf s))
        (ws.flatMap fun w => bytesLE 8 w.toNat)).mem
      ∧ (Canonical s → fld (t.reg regSmphead) 0 32 = (fld (s.reg regSmphead) 0 32 + 1) % 2 ^ 32) := by
  have hexec := (exec_sample s b k ws hs hnew hr).trans (by rw [if_neg hroom])
  generalize fld (s.reg regSmpbase) 5 35 * 32 + 32 * (fld (s.reg regSmphead) 0 32 % ringOf s) = p at hexec ⊢
  generalize (ws.flatMap fun w => bytesLE 8 w.toNat) = bs at hexec ⊢
  have hmem := devPut_withSampled_mem s (s.sampled ++ [(b, k)]) p bs
  have hcan : Canonical s → Canonical ((s.withSampled (s.sampled ++ [(b, k)])).devPut p bs) := fun hc =>
    devPut_canonical (s.withSampled (s.sampled ++ [(b, k)])) p bs hc
  obtain ⟨hput, -⟩ := devPut_writesOnly (s.withSampled (s.sampled ++ [(b, k)])) p bs
  generalize (s.withSampled (s.sampled ++ [(b, k)])).devPut p bs = u at hexec hmem hcan hput
  refine ⟨_, hexec, ?_, ?_, hmem, fun hc => ?_⟩
  · exact (congrArg State.sampled hput :)
  · exact (congrArg State.host hput :)
  · rw [reg_setField_same u _ _ _ _ (hcan hc), fld_putFld_same _ _ _ _ (by decide)]
    exact Nat.mod_eq_of_lt (Nat.mod_lt _ (by decide))

end Sys2Proof.Machine

namespace Sys2Proof
open Sys2Proof.Machine

/-- Settles O58: each event of a halt in its one case, a cycle's counts and picks, the order of a scheduler's choice, and a sample by the
room in its ring. -/
theorem haltsAndCycles : Obligations.HaltsAndCycles := by
  unfold Obligations.HaltsAndCycles
  refine ⟨fun s slot hslot => ⟨fun hbit hnone hd => ?_, fun h hf => ⟨exec_resume s slot h hf, ?_, exec_dump s slot h hf⟩⟩,
    schedulerCycle_counts, fun s cs c hb h => ⟨choose_mem s cs c h, choose_aged s cs c hb h, fun hfew d hd => ?_⟩, fun _ => rfl,
    fun before s b k hc _ _ => reg_countCycle before s b k hc, fun s b k ws hs hnew hr => ?_⟩
  · exact ⟨_, exec_halt s slot hslot hbit hnone hd, rfl, rfl, haltedBy_reg s slot⟩
  · exact fun unit hu hw hm => debugStop_stops s slot unit h hf hu hw hm
  · obtain ⟨hclass, hsame⟩ := choose_byClass s cs c hb h hfew d hd
    refine ⟨hclass, fun heq => ⟨(hsame heq).1, fun g k hg hk hl hfill => ?_⟩⟩
    exact pipeTurn_le s c d g k (hfill c (choose_mem s cs c h)) (hfill d hd) (hb d hd).1 ((hsame heq).2 g k hg hk hl)
  · intro size head used
    by_cases hfull : ringUsed s = ringOf s
    · obtain ⟨t, ht, hsam, hhost, hmem, hcount⟩ := sample_full s b k ws hs hnew hr hfull
      exact ⟨t, ht, hsam, hhost, fun _ => ⟨hmem, hcount⟩, fun hne => absurd hfull hne⟩
    · obtain ⟨t, ht, hsam, hhost, hmem, hhead⟩ := sample_room s b k ws hs hnew hr hfull
      exact ⟨t, ht, hsam, hhost, fun heq => absurd heq hfull, fun _ => ⟨hmem, hhead⟩⟩

end Sys2Proof
end

/-! ## The life of a launch

Queue entries and admission, rejections and the launches that records make, then dispatch, completion and pre-migration (R16, R324 to R330). -/

section

namespace Sys2Proof.Machine

/-! ### The entry that a queue takes (R324) -/

theorem rangeRead_of_noFlaws (s : State) (u : TlbUnit) (asid : Nat) (ptr : W64) (n : Nat) (h : s.flaws = []) : s.rangeRead u asid ptr n = s := by
  simp only [State.rangeRead, h, List.isEmpty_nil, if_true]

theorem recordRead_of_noFlaws (s : State) (asid : Nat) (ptr : W64) (h : s.flaws = []) : s.recordRead asid ptr = s := by
  simp only [State.recordRead, h, List.isEmpty_nil, if_true]

/-- What an entry without a patch block, of no child, makes of the entry in hand. -/
def Taken.plain (t : Taken) (e : List W64) : Taken :=
  { t with
    kind := fld (wordAt e 1) 56 8, child := false, acct := fld (wordAt e 1) 51 4, irq := bit (wordAt e 1) 50
    user := BitVec.ofNat 32 (fld (wordAt e 1) 0 32), ptr := wordAt e 0, head := wordAt e 0, doneP := wordAt e 3
    bad := if (wordAt e 3).toNat % 32 = 0 then none else some 2, entered := true, waiting := none }

/-- The entry in hand as it is when nothing of it has been read. -/
def Taken.first (s : State) (q : Nat) : Taken :=
  ⟨q, queueHead s q, queueAsid s q, 0, false, 0, 0, false, 0, 0, 0, 0, [], [], 0, false, none, none⟩

/-- The queue's state with an entry in hand. -/
def State.withTaken (s : State) (q : Nat) : State :=
  { s with taken := s.taken ++ [Taken.first s q], turns := insertBy (·.1) (q / 8, q) (s.turns.filter (·.1 != q / 8)) }

theorem enterEntry_plain (s : State) (t : Taken) (part : Nat) (bs : List Byte) (hflaws : s.flaws = [])
    (hread : readObj s t.asid (entryPtr s t.queue t.index) 32 = .bytes bs) (hkind : fld (wordAt (words8 bs) 1) 56 8 < 2)
    (hchild : bit (wordAt (words8 bs) 1) 55 = false) (hres : fld (wordAt (words8 bs) 1) 32 18 = 0) (hpatch : wordAt (words8 bs) 2 = 0) :
    ∃ d, s.enterEntry t part = (s.passHead t).putTaken { t.plain (words8 bs) with depth := d } := by
  refine ⟨((s.children.find? fun c => c.1 == t.queue && c.2.1 == t.index).map (·.2.2)).getD 0, ?_⟩
  unfold State.enterEntry
  simp only [hread, rangeRead_of_noFlaws s _ _ _ _ hflaws, hchild, hres]
  rw [if_neg (by simp; omega), if_pos hpatch]
  simp only [Taken.plain, State.passHead, ite_not]

theorem putTaken_passHead_find (s : State) (t u : Taken) (hu : u.queue = t.queue)
    (h : s.taken.find? (·.queue == t.queue) = some t) : ((s.passHead t).putTaken u).takenOf t.queue = some u := by
  rw [← hu] at h ⊢
  exact find?_replaced Taken.queue u t s.taken h

theorem passHead_qhead (s : State) (t : Taken) (u : Taken) (h : Canonical s) :
    fld (((s.passHead t).putTaken u).reg (regQhead t.queue)) 0 32 = (t.index + 1) % 2 ^ 32 := by
  have hreg : ((s.passHead t).putTaken u).reg (regQhead t.queue) = BitVec.ofNat 64 ((t.index + 1) % 2 ^ 32) :=
    (reg_of_win _ _ _ rfl rfl).trans (reg_setReg_same s _ _ h)
  rw [hreg, fld, BitVec.toNat_ofNat]
  omega

theorem exec_entryTake_new (s : State) (q part : Nat) (hserved : served s q = some part) (hnone : s.takenOf q = none)
    (hne : queueHead s q ≠ queueTail s q) : exec (.entryTake q) s = .next ((s.withTaken q).enterEntry (Taken.first s q) part) := by
  change execEntryTake q s = _
  simp only [execEntryTake, hserved, hnone, hne, if_false]
  rfl

theorem homeWord_withTaken (s : State) (q : Nat) : homeWord (s.withTaken q) = homeWord s := rfl
theorem errored_withTaken (s : State) (q : Nat) : errored (s.withTaken q) = errored s := rfl
theorem reg_withTaken (s : State) (q : Nat) : (s.withTaken q).reg = s.reg := rfl
theorem hostOwner_withTaken (s : State) (q : Nat) : hostOwner (s.withTaken q) = hostOwner s := rfl
theorem districtOwner_withTaken (s : State) (q : Nat) : districtOwner (s.withTaken q) = districtOwner s := rfl

theorem walkPage_withTaken (s : State) (q asid obj off part : Nat) (e : ObjEnt) (u : TlbUnit) :
    walkPage (s.withTaken q) asid obj off part e u = walkPage s asid obj off part e u := by
  unfold walkPage
  rw [homeWord_withTaken, errored_withTaken, hostOwner_withTaken, districtOwner_withTaken]

theorem walkObject_withTaken (s : State) (q asid obj : Nat) : walkObject (s.withTaken q) asid obj = walkObject s asid obj := by
  unfold walkObject
  rw [homeWord_withTaken, errored_withTaken, reg_withTaken]

/-- A translation does not regard which entries are in hand. -/
theorem walk_withTaken (s : State) (q : Nat) (u : TlbUnit) (asid : Nat) (ptr : W64) : walk (s.withTaken q) u asid ptr = walk s u asid ptr := by
  simp only [walk, walkObject_withTaken, walkPage_withTaken]

theorem xlat_withTaken (s : State) (q : Nat) (u : TlbUnit) (asid : Nat) (ptr : W64) : xlat (s.withTaken q) u asid ptr = xlat s u asid ptr := by
  have hhit : ∀ v, tlbHit (s.withTaken q) v asid ptr = tlbHit s v asid ptr := fun _ => rfl
  simp only [xlat, walk_withTaken, hhit]

theorem readPart_withTaken (s : State) (q asid : Nat) (p : W64 × Nat) : readPart (s.withTaken q) asid p = readPart s asid p := by
  unfold readPart
  rw [xlat_withTaken, errored_withTaken]
  rfl

theorem accessCause_withTaken (s : State) (q : Nat) (u : TlbUnit) (asid : Nat) (ptr : W64) (n a : Nat) (w : Need) :
    accessCause (s.withTaken q) u asid ptr n a w = accessCause s u asid ptr n a w := by
  simp only [accessCause, xlat_withTaken]

theorem readObj_withTaken (s : State) (q asid : Nat) (ptr : W64) (n : Nat) : readObj (s.withTaken q) asid ptr n = readObj s asid ptr n := by
  simp only [readObj, accessCause_withTaken, readPart_withTaken]

theorem entryTake_takes (s : State) (q part : Nat) (bs : List Byte) (hserved : served s q = some part) (hflaws : s.flaws = [])
    (hnone : s.takenOf q = none) (hne : queueHead s q ≠ queueTail s q)
    (hread : readObj s (queueAsid s q) (entryPtr s q (queueHead s q)) 32 = .bytes bs) (hkind : fld (wordAt (words8 bs) 1) 56 8 < 2)
    (hchild : bit (wordAt (words8 bs) 1) 55 = false) (hres : fld (wordAt (words8 bs) 1) 32 18 = 0) (hpatch : wordAt (words8 bs) 2 = 0) :
    ∃ (u : State) (d : Nat), exec (.entryTake q) s = .next u ∧ KeepsMemory s u
      ∧ u.takenOf q = some { (Taken.first s q).plain (words8 bs) with depth := d }
      ∧ (Canonical s → fld (u.reg (regQhead q)) 0 32 = (queueHead s q + 1) % 2 ^ 32) := by
  obtain ⟨d, hd⟩ := enterEntry_plain (s.withTaken q) (Taken.first s q) part bs hflaws
    ((readObj_withTaken s q _ _ 32).trans hread) hkind hchild hres hpatch
  refine ⟨_, d, (exec_entryTake_new s q part hserved hnone hne).trans (congrArg _ hd), ⟨rfl, rfl⟩, ?_, fun hc => ?_⟩
  · refine putTaken_passHead_find (s.withTaken q) (Taken.first s q) _ rfl ?_
    have hold : s.taken.find? (·.queue == q) = none := hnone
    simp [State.withTaken, List.find?_append, Taken.first, hold]
  · have hhead := passHead_qhead (s.withTaken q) (Taken.first s q) { (Taken.first s q).plain (words8 bs) with depth := d } hc
    exact hhead

/-! ### Admission (R326, R329) -/

/-- What admission does with the entry in hand by the verdict on its record. -/
def State.byVerdict (s : State) (t : Taken) (part : Nat) : Verdict → State
  | .reject n => s.rejectEntry t part n
  | .wait p _ => s.awaitPage t part p
  | .ok r => if quadsOwned s part = 0 ∨ mustFollow s t r ∨ exhausted s part (if t.child then t.acct else fld (wordAt r.w 4) 24 4) then s
    else s.admitRecord t part r

theorem exec_admission (s : State) (q part : Nat) (t : Taken) (v : Verdict) (hserved : served s q = some part) (ht : s.takenOf q = some t)
    (he : t.entered = true) (hflaws : s.flaws = []) (hv : verdictOf s t part = v) :
    exec (.admission q) s = .next (s.byVerdict t part v) := by
  change execAdmission q s = _
  simp only [execAdmission, ht, hserved, he, if_true, recordRead_of_noFlaws s _ _ hflaws, Bool.not_true, Bool.false_eq_true, if_false, hv]
  cases v <;> rfl

theorem exec_admissionWaitLimit (s : State) (q part : Nat) (t : Taken) (p : W64) (n since g : Nat) (hserved : served s q = some part)
    (ht : s.takenOf q = some t) (he : t.entered = true) (hv : verdictOf s t part = .wait p n) (hw : t.waiting = some (p, since, g))
    (hsince : since + waitLimit s part ≤ s.cycle) (habs : pageResident s ownUnit t.asid p = false) :
    exec (.admissionWaitLimit q) s = .next (s.rejectEntry t part n) := by
  change execAdmissionWaitLimit q s = _
  simp only [execAdmissionWaitLimit, ht, hserved, Option.getD_some, hw, he, hv, habs, Bool.not_true, Bool.or_false, Bool.false_eq_true, if_false,
    Nat.not_lt.mpr hsince, decide_false]

/-- Two states that differ at most in what admission changes beside the launches: the window, flaws, translations, interrupts, contexts and
the entries in hand. -/
def AdmitsOnly (s t : State) : Prop :=
  t = { s with win := t.win, poison := t.poison, flaws := t.flaws, tlb := t.tlb, irqs := t.irqs, contexts := t.contexts, taken := t.taken }

theorem AdmitsOnly.refl (s : State) : AdmitsOnly s s := rfl

theorem AdmitsOnly.trans {s t u : State} (h : AdmitsOnly s t) (k : AdmitsOnly t u) : AdmitsOnly s u := by
  unfold AdmitsOnly at h k ⊢
  rw [k, h]

theorem SameButReads.admitsOnly {s t : State} (h : SameButReads s t) : AdmitsOnly s t := by
  rw [h.eq]
  rfl

theorem foldl_admitsOnly {α : Type} (f : State → α → State) (h : ∀ s a, AdmitsOnly s (f s a)) (xs : List α) (s : State) :
    AdmitsOnly s (xs.foldl f s) :=
  foldl_rel AdmitsOnly AdmitsOnly.refl AdmitsOnly.trans f h xs s

theorem pageRequest_admitsOnly (s : State) (part asid obj page src : Nat) : AdmitsOnly s (s.pageRequest part asid obj page src).2 := by
  have hsent : ∀ (t : State) (b : Bool) (v : Nat), AdmitsOnly t (if b then t.interrupt v else t) := fun t b v => by
    split
    · rfl
    · exact AdmitsOnly.refl t
  unfold State.pageRequest
  extract_lets used
  split
  · exact AdmitsOnly.refl s
  · split
    · exact ((setReg_sameButWin _ _ _).trans (setField_sameButWin _ _ _ _ _)).sameButReads.admitsOnly.trans (hsent _ _ _)
    · exact ((setField_sameButWin _ _ _ _ _).trans (setField_sameButWin _ _ _ _ _)).sameButReads.admitsOnly

theorem request_admitsOnly (s : State) (u : TlbUnit) (part asid : Nat) (ptr : W64) (src : Nat) : AdmitsOnly s (s.request u part asid ptr src).2 := by
  unfold State.request
  split
  · rfl
  · exact (xlatted_sameButReads s u asid ptr).admitsOnly.trans (pageRequest_admitsOnly ..)

theorem descriptorRead_sameButReads (s : State) (asid : Nat) : SameButReads s (s.descriptorRead asid) := by
  have hread := readAll_sameButReads s (.dev (ctxAddr s asid)) 64
  simp only [State.descriptorRead]
  split
  · exact hread
  · exact hread.trans (setReg_sameButWin _ _ _).sameButReads

theorem meetContext_admitsOnly (s : State) (asid : Nat) : AdmitsOnly s (s.meetContext asid) := by
  unfold State.meetContext
  split
  · rfl
  · exact (descriptorRead_sameButReads s asid).admitsOnly.trans rfl

theorem requestRanges_admitsOnly (s : State) (l : Launch) : AdmitsOnly s (s.requestRanges l) :=
  foldl_admitsOnly _ (fun s _ => foldl_admitsOnly _ (fun s _ => request_admitsOnly s ..) _ s) _ s

theorem nextRecord_admitsOnly (s : State) (t : Taken) (r : Record) : AdmitsOnly s (s.nextRecord t r) := by
  unfold State.nextRecord
  split <;> rfl

/-- The state with one more launch, that an entry's record makes without a parameter object. -/
def State.launched (s : State) (t : Taken) (part : Nat) (r : Record) : State :=
  { s with launches := s.launches ++ [r.launch s t part none], nextLid := s.nextLid + 1, launchNo := s.launchNo + 1 }

theorem admitRecord_noParams (s : State) (t : Taken) (part : Nat) (r : Record) (h : r.parmObj = 0) :
    AdmitsOnly (s.launched t part r) (s.admitRecord t part r) := by
  have hopen : s.admitRecord t part r
      = (((s.launched t part r).meetContext t.asid).requestRanges (r.launch s t part none)).nextRecord t r := by
    simp only [State.admitRecord, h, if_true]
    rfl
  rw [hopen]
  exact ((meetContext_admitsOnly _ _).trans (requestRanges_admitsOnly _ _)).trans (nextRecord_admitsOnly _ _ _)

theorem admission_admits (s : State) (q part : Nat) (t : Taken) (r : Record) (hserved : served s q = some part) (ht : s.takenOf q = some t)
    (he : t.entered = true) (hflaws : s.flaws = []) (hv : verdictOf s t part = .ok r) (hq : quadsOwned s part ≠ 0)
    (hfollow : mustFollow s t r = false) (hparm : r.parmObj = 0)
    (hex : exhausted s part (if t.child then t.acct else fld (wordAt r.w 4) 24 4) = false) :
    ∃ u, exec (.admission q) s = .next u ∧ KeepsMemory s u ∧ u.launches = s.launches ++ [r.launch s t part none] ∧ u.cuts = s.cuts
      ∧ u.nextLid = s.nextLid + 1 := by
  refine ⟨s.admitRecord t part r, ?_, ?_⟩
  · rw [exec_admission s q part t _ hserved ht he hflaws hv]
    simp only [State.byVerdict, hq, hfollow, hex, Bool.false_eq_true, or_self, if_false]
  · have h := admitRecord_noParams s t part r hparm
    unfold AdmitsOnly at h
    rw [h]
    exact ⟨⟨rfl, rfl⟩, rfl, rfl, rfl⟩

/-! ### Rejection (R329) -/

theorem rejectEntry_launches (s : State) (t : Taken) (part n : Nat) :
    ∃ l, (s.rejectEntry t part n).launches.getLast? = some l ∧ l.state = .recording ∧ l.endState = 2 ∧ l.endReason = n ∧ l.user = t.user
      ∧ l.irq = t.irq ∧ l.doneP = t.doneP := by
  refine ⟨_, List.getLast?_concat .., rfl, rfl, rfl, rfl, rfl, rfl⟩

theorem rejectEntry_keeps (s : State) (t : Taken) (part n : Nat) (he : t.entered = true) :
    (s.rejectEntry t part n).cuts = s.cuts ∧ KeepsMemory s (s.rejectEntry t part n) := by
  simp only [State.rejectEntry, he, if_true, State.listRecorded, State.dropTaken, State.setField, State.setReg, KeepsMemory, and_self]

/-- What a rejection writes in QSTAT. -/
def State.rejectStat (s : State) (t : Taken) (n : Nat) : State :=
  (s.setField (regQstat t.queue) 48 8 n).setField (regQstat t.queue) 0 32 t.index

theorem rejectEntry_win (s : State) (t : Taken) (part n : Nat) (he : t.entered = true) :
    (s.rejectEntry t part n).win = (s.rejectStat t n).win ∧ (s.rejectEntry t part n).cycle = (s.rejectStat t n).cycle := by
  simp only [State.rejectEntry, he, if_true, State.listRecorded, State.dropTaken, State.rejectStat, and_self]

theorem rejectEntry_qstat (s : State) (t : Taken) (part n : Nat) (he : t.entered = true) (hc : Canonical s) (hn : n < 256)
    (hi : t.index < 2 ^ 32) :
    let r := (s.rejectEntry t part n).reg (regQstat t.queue)
    fld r 48 8 = n ∧ fld r 0 32 = t.index := by
  obtain ⟨hwin, hcycle⟩ := rejectEntry_win s t part n he
  have hreg : (s.rejectEntry t part n).reg (regQstat t.queue)
      = putFld (putFld (s.reg (regQstat t.queue)) 48 8 n) 0 32 t.index := by
    rw [reg_of_win _ _ _ hwin hcycle, State.rejectStat, reg_setField_same _ _ _ _ _ (setField_canonical s _ _ _ _ hc),
      reg_setField_same s _ _ _ _ hc]
  rw [hreg]
  refine ⟨?_, ?_⟩
  · rw [fld_putFld_disjoint _ _ _ _ _ _ (by decide) (by decide), fld_putFld_same _ _ _ _ (by decide)]
    exact Nat.mod_eq_of_lt hn
  · rw [fld_putFld_same _ _ _ _ (by decide)]
    exact Nat.mod_eq_of_lt hi

/-! ### The launch of a record (R325 to R327) -/

theorem Record.launch_mode (s : State) (t : Taken) (part : Nat) (r : Record) (slot : Option Nat) :
    (r.launch s t part slot).mode.toNat = fld (wordAt r.w 4) 32 32 := by
  change (BitVec.ofNat 32 _).toNat = _
  rw [BitVec.toNat_ofNat]
  exact Nat.mod_eq_of_lt (Nat.mod_lt _ (by decide))

/-- The identifier of a launch's bolts: its depth, its place in the list, its queue and its index (R327). -/
theorem Record.launch_boltId (s : State) (t : Taken) (part : Nat) (r : Record) (slot : Option Nat) (hd : t.depth < 16) (hr : t.recIdx < 256)
    (hq : t.queue < 2048) (hi : t.index < 2 ^ 32) :
    fld (r.launch s t part slot).boltId 60 4 = t.depth ∧ fld (r.launch s t part slot).boltId 43 8 = t.recIdx
      ∧ fld (r.launch s t part slot).boltId 32 11 = t.queue ∧ fld (r.launch s t part slot).boltId 0 32 = t.index := by
  have hword : (r.launch s t part slot).boltId.toNat = t.depth * 2 ^ 60 + t.recIdx * 2 ^ 43 + t.queue * 2 ^ 32 + t.index := by
    change (BitVec.ofNat 64 _).toNat = _
    rw [BitVec.toNat_ofNat]
    omega
  simp only [fld, hword, Nat.shiftRight_eq_div_pow]
  omega

end Sys2Proof.Machine
end

section

namespace Sys2Proof.Machine

/-! ### Bytes of words (R2) -/

theorem bytesLE_length (k n : Nat) : (bytesLE k n).length = k := by
  induction k generalizing n with
  | zero => rfl
  | succ k ih => rw [bytesLE, List.length_cons, ih]

theorem natLE_bytesLE (k n : Nat) : natLE (bytesLE k n) = n % 256 ^ k := by
  induction k generalizing n with
  | zero => rw [bytesLE, natLE, Nat.pow_zero, Nat.mod_one]
  | succ k ih => rw [bytesLE, natLE, ih, BitVec.toNat_ofNat, show 256 ^ (k + 1) = 256 * 256 ^ k from Nat.pow_succ', Nat.mod_mul]

/-! ### Dispatch (R16) -/

/-- The bolt that a launch begins as. -/
def Launch.bolt (s : State) (l : Launch) (b : Nat) : Cut :=
  Cut.atEntry s l s.nextUid .pattern ⟨⟨0, 0, 0⟩, l.extx, l.exty, l.extz⟩ [] (.foreman b)

theorem exec_dispatch (s : State) (l : Launch) (b : Nat) (hl : s.launches.find? (·.lid == l.lid) = some l) (ha : l.state = .admitted)
    (hb : freeForeman s l = some b) : exec (.dispatch l.lid) s
      = .next { s.putLaunch { l with state := .running } with cuts := s.cuts ++ [l.bolt s b], nextUid := s.nextUid + 1 } := by
  change execDispatch l.lid s = _
  simp only [execDispatch, hl, ha, if_true, hb]
  rfl

theorem launchOf_putLaunch (s : State) (l k : Launch) (h : s.launches.find? (·.lid == l.lid) = some k) : (s.putLaunch l).launchOf l.lid = l :=
  congrArg (·.getD Launch.absent) (find?_replaced Launch.lid l k s.launches h)

/-! ### Completion (R330) -/

theorem exec_launchCompletion_running (s : State) (l : Launch) (hl : s.launches.find? (·.lid == l.lid) = some l) (hr : l.state = .running)
    (hd : launchDone s l.lid = true) : exec (.launchCompletion l.lid) s = .next (s.finish l) := by
  change execLaunchCompletion l.lid s = _
  simp only [execLaunchCompletion, hl, hr, hd, if_true]

theorem exec_launchCompletion_recording (s : State) (l : Launch) (hl : s.launches.find? (·.lid == l.lid) = some l)
    (hr : l.state = .recording) : exec (.launchCompletion l.lid) s = .next (s.writeRecord l) := by
  change execLaunchCompletion l.lid s = _
  simp only [execLaunchCompletion, hl, hr]

/-- The launch of an entry of its own waits to write its record once it is complete. -/
theorem finish_alone (s : State) (l : Launch) (hl : s.launches.find? (·.lid == l.lid) = some l) (hp : l.listPtr = none) :
    (s.finish l).launchOf l.lid
      = { l with state := .recording, since := s.cycle, rgen := 0, endState := if l.endState = 0 then 1 else l.endState } := by
  have hnone : l.listPtr.isNone = true := by rw [hp]; rfl
  unfold State.finish
  extract_lets t k
  refine (congrArg (State.launchOf · l.lid) (if_pos hnone)).trans ?_
  exact launchOf_putLaunch { s with parmSlots := s.parmSlots.filter (·.2.2 != l.lid), qeff := s.qeff.filter (·.lid != l.lid) }
    { l with state := .recording, since := s.cycle, rgen := 0, endState := if l.endState = 0 then 1 else l.endState } l hl

theorem writeRecord_none (s : State) (l : Launch) (h : l.doneP = 0) : s.writeRecord l = s.recorded l := by
  simp only [State.writeRecord, h, if_true]

theorem writeRecord_there (s : State) (l : Launch) (ls : List Loc) (h : l.doneP ≠ 0) (hls : recordLocs s l = some ls)
    (hfree : ∀ p, Loc.dev p ∈ ls → flushHolds s (sectorOf p) = false) (herr : erroredAt s ls = false) (hbeyond : beyondAt ls = false) :
    s.writeRecord l = ((s.xlatted ownUnit l.asid l.doneP).putAt ls l.recordBytes).recorded l := by
  simp only [State.writeRecord, h, if_false, hls, herr, hbeyond, Bool.or_self, Bool.false_eq_true]
  rw [if_neg]
  rw [Bool.not_eq_true, List.any_eq_false]
  intro p hp
  split
  · next a => simpa using hfree a hp
  · simp

theorem exec_completionRecordWaitLimit (s : State) (l : Launch) (hl : s.launches.find? (·.lid == l.lid) = some l) (hr : l.state = .recording)
    (h : l.doneP ≠ 0) (hnone : recordLocs s l = none) (hsince : l.since + waitLimit s l.part ≤ s.cycle) :
    exec (.completionRecordWaitLimit l.lid) s = .next (s.dropRecord l) := by
  change execCompletionRecordWaitLimit l.lid s = _
  simp only [execCompletionRecordWaitLimit, hl, hr, h, hsince, hnone, Option.isNone_none, ne_eq, not_false_eq_true, and_self, if_true]

/-- A launch that leaves: its interrupt is sent, and nothing else changes. -/
theorem recorded_eq (s : State) (l : Launch) : s.recorded l = { s with
    launches := s.launches.filter (·.lid != l.lid)
    irqs := s.irqs ++ (if l.irq then [fld (s.reg (regQvec l.queue)) 0 16] else []) } := by
  cases h : l.irq with
  | true =>
    simp only [State.recorded, h, if_true]
    rfl
  | false => simp only [State.recorded, h, Bool.false_eq_true, if_false, List.append_nil]

theorem recordLimit_drops (s : State) (l : Launch) (hl : s.launches.find? (·.lid == l.lid) = some l) (hr : l.state = .recording)
    (h : l.doneP ≠ 0) (hnone : recordLocs s l = none) (hsince : l.since + waitLimit s l.part ≤ s.cycle) :
    ∃ t, exec (.completionRecordWaitLimit l.lid) s = .next t ∧ KeepsMemory s t ∧ t.launches = s.launches.filter (·.lid != l.lid)
      ∧ (Canonical s → bit (t.reg (regQstat l.queue)) 62 = true)
      ∧ (l.irq = false → t.irqs = s.irqs) ∧ (Canonical s → l.irq = true → t.irqs = s.irqs ++ [fld (s.reg (regQvec l.queue)) 0 16]) := by
  refine ⟨_, exec_completionRecordWaitLimit s l hl hr h hnone hsince, ?_⟩
  rw [State.dropRecord, recorded_eq]
  refine ⟨⟨rfl, rfl⟩, rfl, fun hc => ?_, fun hirq => ?_, fun _ hirq => ?_⟩
  · refine (congrArg (bit · 62) ((reg_of_win _ _ _ rfl rfl).trans (reg_setField_same s (regQstat l.queue) 62 1 1 hc))).trans ?_
    rw [bit_putFld_single _ _ _ (by decide)]
    rfl
  · simp only [hirq, Bool.false_eq_true, if_false, List.append_nil]
    rfl
  · simp only [hirq, if_true]
    rw [State.setField, reg_setReg_other _ _ _ _ (by simp only [regQstat, regQvec]; omega)]
    rfl

theorem recordBytes_layout (l : Launch) (hs : l.endState < 4) (hr : l.endReason < 64) : l.recordBytes.length = 32
    ∧ natLE (l.recordBytes.take 8) = l.endState * 2 ^ 62 + l.endReason * 2 ^ 56 + l.user.toNat
    ∧ natLE ((l.recordBytes.drop 8).take 8) = l.launchId.toNat := by
  have hu := l.user.isLt
  have hi := l.launchId.isLt
  have hopen : l.recordBytes = bytesLE 8 (l.endState * 2 ^ 62 + l.endReason * 2 ^ 56 + l.user.toNat) ++ (bytesLE 8 l.launchId.toNat
      ++ (bytesLE 8 l.charged ++ (bytesLE 8 0 ++ []))) := rfl
  rw [hopen]
  refine ⟨by simp [bytesLE_length], ?_, ?_⟩
  · rw [List.take_left' (bytesLE_length 8 _), natLE_bytesLE]
    omega
  · rw [List.drop_left' (bytesLE_length 8 _), List.take_left' (bytesLE_length 8 _), natLE_bytesLE]
    omega

/-! ### Pre-migration (R328) -/

/-- Where the entry of a page lies, and the frame that it names. -/
def pageEntry (e : ObjEnt) (ptr : W64) : Nat := e.plist + 8 * (offOf ptr / pageSize e.large)
def frameAt (s : State) (entry : Nat) : Nat := fld (BitVec.ofNat 64 (homeWord s entry 8)) 16 24 * 2 ^ 16

/-- A page of a range that may move to a frame: a resident one of a device object, from a far stack to a near one. -/
structure MayMigrate (s : State) (l : Launch) (range page frame : Nat) (p : W64 × W64) (ptr : W64) (e : ObjEnt) : Prop where
  admitted : l.state = .admitted
  range : l.ranges[range]? = some p
  page : (migratePages s l.asid p)[page]? = some ptr
  obj : objectOf s l.asid (objOf ptr) = some e
  kind : e.kind = 0
  resident : (walk s ownUnit l.asid ptr).loc.isSome = true
  far : dieOfStack (stackOf (frameAt s (pageEntry e ptr))) ∉ placedDies s l
  near : dieOfStack (stackOf frame) ∈ placedDies s l
  aligned : frame % pageSize e.large = 0
  device : isDevice frame = true
  owned : districtOwner s (districtOf frame) = some l.part

/-- The bytes of a page and its entry, moved to a frame. -/
def State.moved (s : State) (e : ObjEnt) (ptr : W64) (frame : Nat) : State :=
  (s.devPut frame (homeRead s (frameAt s (pageEntry e ptr)) (pageSize e.large))).devPut (pageEntry e ptr)
    (bytesLE 8 (putFld (BitVec.ofNat 64 (homeWord s (pageEntry e ptr) 8)) 16 24 (frame / 2 ^ 16)).toNat)

theorem moved_writesOnly (s : State) (e : ObjEnt) (ptr : W64) (frame : Nat) : WritesOnly s (s.moved e ptr frame) :=
  (devPut_writesOnly s _ _).trans (devPut_writesOnly _ _ _)

theorem exec_preMigration (s : State) (l : Launch) (range page frame : Nat) (p : W64 × W64) (ptr : W64) (e : ObjEnt)
    (hl : s.launchOf l.lid = l) (h : MayMigrate s l range page frame p ptr e) :
    ∃ t, exec (.preMigration l.lid range page frame) s = .next t
      ∧ t = { s.moved e ptr frame with l1 := t.l1, wbuf := t.wbuf, tlb := t.tlb, poison := t.poison } := by
  obtain ⟨hadm, hrange, hpage, hobj, hkind, hres, hfar, hnear, halign, hdev, hown⟩ := h
  have hthere : (walk s ownUnit l.asid ptr).loc.isNone = false := by
    rw [← Option.not_isSome, hres]
    rfl
  simp only [State.moved, frameAt, pageEntry] at hfar ⊢
  change ∃ t, execPreMigration l.lid range page frame s = .next t ∧ _
  simp only [execPreMigration, hl, hrange, hpage, hobj, Option.any_some, Option.map_some, Option.getD_some]
  rw [if_neg (by simp [-Nat.reducePow, hadm, hkind, hthere, hfar, hnear, halign, hdev, hown])]
  generalize (s.devPut frame _).devPut _ _ = u
  exact ⟨_, rfl, rfl⟩

theorem preMigration_moves (s : State) (l : Launch) (range page frame : Nat) (p : W64 × W64) (ptr : W64) (e : ObjEnt)
    (hl : s.launchOf l.lid = l) (h : MayMigrate s l range page frame p ptr e) :
    ∃ t, exec (.preMigration l.lid range page frame) s = .next t ∧ t.host = s.host ∧ t.cuts.length = s.cuts.length
      ∧ t.mem = (s.moved e ptr frame).mem := by
  obtain ⟨t, hexec, ht⟩ := exec_preMigration s l range page frame p ptr e hl h
  obtain ⟨hframe, f, hcuts, -⟩ := moved_writesOnly s e ptr frame
  refine ⟨t, hexec, ?_, ?_, by rw [ht]⟩
  · rw [ht]
    exact (congrArg State.host hframe :)
  · rw [ht]
    exact (congrArg List.length hcuts).trans (List.length_map f)

end Sys2Proof.Machine

namespace Sys2Proof
open Sys2Proof.Machine

/-- Settles O50: each stage of a launch's life in its cases, from the entry that a queue takes to the record that a launch leaves. -/
theorem launchLifecycle : Obligations.LaunchLifecycle := by
  unfold Obligations.LaunchLifecycle
  refine ⟨fun s q part hserved hflaws => ⟨?_, fun t ht he => ⟨fun n hv => ?_, fun p n hv => ⟨?_, ?_⟩, ?_⟩⟩, fun s t part n he => ?_,
    fun s t part r slot => ?_, fun s l hl => ⟨fun b ha hb => ?_, fun hr hd => ⟨?_, finish_alone s l hl⟩, fun hr => ⟨fun h => ?_, ?_, ?_⟩, ?_, ?_,
      recordBytes_layout l, ?_⟩⟩
  · intro bs hnone hne hread e hkind hchild hres hpatch
    obtain ⟨u, d, hu, hkeeps, htaken, hhead⟩ := entryTake_takes s q part bs hserved hflaws hnone hne hread hkind hchild hres hpatch
    exact ⟨u, _, hu, hkeeps, htaken, rfl, rfl, rfl, rfl, rfl, rfl, rfl, rfl, rfl, hhead⟩
  · exact exec_admission s q part t _ hserved ht he hflaws hv
  · exact exec_admission s q part t _ hserved ht he hflaws hv
  · exact fun since g hw hsince habs => exec_admissionWaitLimit s q part t p n since g hserved ht he hv hw hsince habs
  · exact fun r hv hq hfollow hparm hex => admission_admits s q part t r hserved ht he hflaws hv hq hfollow hparm hex
  · obtain ⟨l, hlast, hstate, hend, hreason, huser, hirq, hdone⟩ := rejectEntry_launches s t part n
    obtain ⟨hcuts, hkeeps⟩ := rejectEntry_keeps s t part n he
    exact ⟨l, hlast, hstate, hend, hreason, huser, hirq, hdone, hcuts, hkeeps, rejectEntry_qstat s t part n he⟩
  · refine ⟨rfl, rfl, rfl, rfl, rfl, Record.launch_mode s t part r slot, rfl, rfl, rfl, fun k hk => ?_, Record.launch_boltId s t part r slot⟩
    rw [hk]
    rfl
  · exact ⟨_, l.bolt s b, exec_dispatch s l b hl ha hb, ⟨rfl, rfl⟩, rfl,
      congrArg Launch.state (launchOf_putLaunch s { l with state := .running } l hl), rfl, rfl, rfl, rfl, rfl, rfl, rfl, rfl, rfl, rfl, rfl⟩
  · exact exec_launchCompletion_running s l hl hr hd
  · rw [exec_launchCompletion_recording s l hl hr, writeRecord_none s l h]
  · intro ls h hls hfree herr hbeyond
    rw [exec_launchCompletion_recording s l hl hr, writeRecord_there s l ls h hls hfree herr hbeyond]
  · exact fun h hnone hsince => recordLimit_drops s l hl hr h hnone hsince
  · rw [recorded_eq]
  · rw [recorded_eq]
  · intro range page frame p ptr e hadm hrange hpage hobj hkind hres size entry word old hfar hnear halign hdev hown
    have hof : s.launchOf l.lid = l := by rw [State.launchOf, hl]; rfl
    exact preMigration_moves s l range page frame p ptr e hof ⟨hadm, hrange, hpage, hobj, hkind, hres, hfar, hnear, halign, hdev, hown⟩

end Sys2Proof
end

/-! ## Pre-emption

Slice ends and deadlines, forced resets, saves and discards, resumption and the report (R36, R37, R351 to R355, R378, R380). -/

section

namespace Sys2Proof.Machine

/-! ### Slice ends (R380) -/

/-- The balance of an account once it is credited. -/
def creditedBal (s : State) (part a : Nat) : Int :=
  min ((s.reg (regAcctbal part a)).toInt + (fld (s.reg (regAcctcfg part a)) 32 32 : Int)) (2 ^ 10 * fld (s.reg (regAcctcfg part a)) 0 32 : Nat)

/-- One account is credited. -/
def State.creditOne (s : State) (part a : Nat) : State := s.setReg (regAcctbal part a) (BitVec.ofInt 64 (creditedBal s part a))

theorem credit_eq (s : State) (part : Nat) : s.credit part = (List.range 16).foldl (fun s a => s.creditOne part a) s := rfl

theorem foldl_sameButWin {α : Type} (f : State → α → State) (h : ∀ s a, SameButWin s (f s a)) (xs : List α) (s : State) :
    SameButWin s (xs.foldl f s) :=
  foldl_rel SameButWin (fun _ => rfl) SameButWin.trans f h xs s

theorem credit_sameButWin (s : State) (part : Nat) : SameButWin s (s.credit part) :=
  foldl_sameButWin _ (fun s _ => setReg_sameButWin s _ _) _ s

theorem creditOne_canonical (s : State) (part a : Nat) (h : Canonical s) : Canonical (s.creditOne part a) := setReg_canonical s _ _ h

theorem creditOne_reg_other (s : State) (part a off : Nat) (h : off ≠ regAcctbal part a) : (s.creditOne part a).reg off = s.reg off :=
  reg_setReg_other s _ _ off h

/-- Crediting other accounts leaves an account's registers. -/
theorem foldl_creditOne_reg (part off : Nat) (as : List Nat) (s : State) (h : ∀ a ∈ as, off ≠ regAcctbal part a) :
    (as.foldl (fun s a => s.creditOne part a) s).reg off = s.reg off := by
  induction as generalizing s with
  | nil => rfl
  | cons a as ih =>
    obtain ⟨ha, has⟩ := List.forall_mem_cons.mp h
    exact (ih _ has).trans (creditOne_reg_other s part a off ha)

theorem regAcctbal_ne (part a b : Nat) (h : a ≠ b) : regAcctbal part a ≠ regAcctbal part b := by
  simp only [regAcctbal]
  omega

theorem regAcctcfg_ne_bal (part a b : Nat) : regAcctcfg part a ≠ regAcctbal part b := by
  simp only [regAcctcfg, regAcctbal]
  omega

/-- The balance of an account after a credit of several, each once. -/
theorem foldl_creditOne_bal (part a : Nat) (as : List Nat) (hnd : as.Nodup) (ha : a ∈ as) (s : State) (hc : Canonical s) :
    (as.foldl (fun s a => s.creditOne part a) s).reg (regAcctbal part a) = BitVec.ofInt 64 (creditedBal s part a) := by
  induction as generalizing s with
  | nil => cases ha
  | cons b as ih =>
    obtain ⟨hb, hnd⟩ := List.nodup_cons.mp hnd
    rcases List.mem_cons.mp ha with rfl | hin
    · exact (foldl_creditOne_reg part _ as _ fun x hx => regAcctbal_ne part a x fun heq => hb (heq ▸ hx)).trans (reg_setReg_same s _ _ hc)
    · have hne : a ≠ b := fun heq => hb (heq ▸ hin)
      refine (ih hnd hin _ (creditOne_canonical s part b hc)).trans ?_
      rw [creditedBal, creditedBal, creditOne_reg_other s part b _ (regAcctbal_ne part a b hne),
        creditOne_reg_other s part b _ (regAcctcfg_ne_bal part a b)]

/-- A credited balance fits a register: a credit is not negative, and its limit is small. -/
theorem creditedBal_toInt (s : State) (part a : Nat) : (BitVec.ofInt 64 (creditedBal s part a)).toInt = creditedBal s part a := by
  have hlow := BitVec.le_toInt (s.reg (regAcctbal part a))
  have hlimit : fld (s.reg (regAcctcfg part a)) 0 32 < 2 ^ 32 := Nat.mod_lt _ (by decide)
  rw [BitVec.toInt_ofInt]
  unfold creditedBal
  generalize fld (s.reg (regAcctcfg part a)) 0 32 = m at hlimit ⊢
  generalize fld (s.reg (regAcctcfg part a)) 32 32 = n
  generalize (s.reg (regAcctbal part a)).toInt = b at hlow ⊢
  refine Int.bmod_eq_of_le ?_ ?_
  · rw [Int.le_min]
    omega
  · refine Int.lt_of_le_of_lt (Int.min_le_right ..) ?_
    omega

theorem credit_bal (s : State) (part a : Nat) (ha : a < 16) (hc : Canonical s) :
    ((s.credit part).reg (regAcctbal part a)).toInt = creditedBal s part a := by
  rw [credit_eq, foldl_creditOne_bal part a _ List.nodup_range (List.mem_range.mpr ha) s hc, creditedBal_toInt]

theorem sliceOf_part (s : State) (part : Nat) : (s.sliceOf part).part = part := by
  unfold State.sliceOf
  cases h : s.slices.find? (·.part == part) with
  | none => rfl
  | some x =>
    have hsome := List.find?_some h
    simpa using hsome

theorem sliceOf_putSlice (s : State) (x : Slice) : (s.putSlice x).sliceOf x.part = x := by
  unfold State.sliceOf State.putSlice
  by_cases h : s.slices.any (·.part == x.part) = true
  · obtain ⟨y, hy⟩ := Option.isSome_iff_exists.mp (List.find?_isSome.mpr (List.any_eq_true.mp h))
    rw [if_pos h, find?_replaced Slice.part x y s.slices hy]
    rfl
  · have hnone : s.slices.find? (·.part == x.part) = none := List.find?_eq_none.mpr fun y hy hb => h (List.any_eq_true.mpr ⟨y, hy, hb⟩)
    simp [h, List.find?_append, hnone]

/-- The state of a slice end before it pre-empts: the accounts are credited, and the next slice begins. -/
def State.nextSlice (s : State) (part : Nat) : State := (s.credit part).putSlice ⟨part, s.cycle, emptyAccounts (s.credit part) part, true⟩

theorem exec_sliceEnd (s : State) (part : Nat) (hon : bit (s.reg (regPcfg part)) 63 = true) (hr : (s.sliceOf part).reporting = false)
    (hlen : (s.sliceOf part).began + sliceLength s part ≤ s.cycle) :
    let ls := preempted (s.credit part) part (s.sliceOf part).began (emptyAccounts (s.credit part) part)
    exec (.sliceEnd part) s = .next ((distinct (ls.map (·.asid))).foldl (fun u a => u.preemptContext part a (ls.filter (·.asid == a)))
      (s.nextSlice part)) := by
  have hcycle : (s.credit part).cycle = s.cycle := (congrArg State.cycle (credit_sameButWin s part) :)
  change execSliceEnd part s = _
  simp only [execSliceEnd]
  rw [if_neg (by simp [hon, hr]; omega), hcycle]
  rfl

theorem nextSlice_keeps (s : State) (part : Nat) : (s.nextSlice part).sliceOf part = ⟨part, s.cycle, emptyAccounts (s.credit part) part, true⟩
    ∧ (s.nextSlice part).cuts = s.cuts ∧ KeepsMemory s (s.nextSlice part) := by
  refine ⟨sliceOf_putSlice _ ⟨part, s.cycle, emptyAccounts (s.credit part) part, true⟩, ?_⟩
  simp only [State.nextSlice, State.putSlice, KeepsMemory]
  have hcredit := credit_sameButWin s part
  unfold SameButWin at hcredit
  rw [hcredit]
  exact ⟨rfl, rfl, rfl⟩

/-! ### Deadlines (R352) -/

theorem exec_drainDeadline (s : State) (part : Nat) (p : Preempt) (took : Nat)
    (hdue : s.preempts.filter (fun q => q.part == part && q.action == 1 && !q.finished && !q.ended s
      && decide (q.since + deadlineOf s part / 2 ≤ s.cycle)) = [p])
    (htook : took = s.cycle - p.since + saveCost s (p.affected.map (·.1)) p.cluster) :
    exec (.drainDeadline part) s = .next (({ s with preempts := s.preempts.map fun (r : Preempt) =>
      if r.asid = p.asid ∧ r.cluster = p.cluster ∧ r.part = p.part ∧ !r.finished then { r with action := 2, took := took } else r }
      : State).takeAction { p with action := 2, took := took }) := by
  change execDrainDeadline part s = _
  subst htook
  simp only [execDrainDeadline, hdue, List.foldl_cons, List.foldl_nil]

theorem exec_preemptionDeadline (s : State) (part : Nat) (ps : List Preempt)
    (hdue : s.preempts.filter (fun q => q.part == part && !q.finished && !q.ended s && decide (q.since + deadlineOf s part ≤ s.cycle)) = ps) :
    exec (.preemptionDeadline part) s = .next ((distinct (ps.map (·.asid))).foldl State.forceReset s) := by
  change execPreemptionDeadline part s = _
  simp only [execPreemptionDeadline, hdue]

end Sys2Proof.Machine
end

section

namespace Sys2Proof.Machine

/-! ### A forced reset (R352)

What a reset does takes cuts and jobs away, and keeps the numbers of the launches. -/

/-- Two states of which the later holds no cut and no job of its own making, and the same launches by number. -/
structure TakesAway (s t : State) : Prop where
  cuts : ∀ d ∈ t.cuts, ∃ e ∈ s.cuts, e.uid = d.uid ∧ e.lid = d.lid
  launches : t.launches.map (·.lid) = s.launches.map (·.lid)
  jobs : ∀ j ∈ t.jobs, j ∈ s.jobs

theorem TakesAway.of_eq {s t : State} (hc : t.cuts = s.cuts) (hl : t.launches.map (·.lid) = s.launches.map (·.lid)) (hj : t.jobs = s.jobs) :
    TakesAway s t :=
  ⟨fun d hd => ⟨d, hc ▸ hd, rfl, rfl⟩, hl, fun _ h => hj ▸ h⟩

theorem TakesAway.refl (s : State) : TakesAway s s := TakesAway.of_eq rfl rfl rfl

theorem TakesAway.trans {s t u : State} (h : TakesAway s t) (k : TakesAway t u) : TakesAway s u := by
  refine ⟨fun d hd => ?_, k.launches.trans h.launches, fun j hj => h.jobs j (k.jobs j hj)⟩
  obtain ⟨e, he, heu, hel⟩ := k.cuts d hd
  obtain ⟨f, hf, hfu, hfl⟩ := h.cuts e he
  exact ⟨f, hf, hfu.trans heu, hfl.trans hel⟩

theorem foldl_takesAway {α : Type} (f : State → α → State) (h : ∀ s a, TakesAway s (f s a)) (xs : List α) (s : State) :
    TakesAway s (xs.foldl f s) :=
  foldl_rel TakesAway TakesAway.refl TakesAway.trans f h xs s

theorem WritesOnly.takesAway {s t : State} (h : WritesOnly s t) : TakesAway s t := by
  obtain ⟨ht, f, hf, hfc⟩ := h
  refine ⟨fun d hd => ?_, by rw [ht], fun j hj => by rw [ht] at hj; exact hj⟩
  rw [hf] at hd
  obtain ⟨e, he, rfl⟩ := List.mem_map.mp hd
  exact ⟨e, he, (hfc e).1.symm, (hfc e).2.symm⟩

theorem putLaunch_lids (s : State) (l : Launch) : (s.putLaunch l).launches.map (·.lid) = s.launches.map (·.lid) := by
  unfold State.putLaunch
  rw [List.map_map]
  refine List.map_congr_left fun d _ => ?_
  dsimp only [Function.comp]
  split
  · next h => exact h.symm
  · rfl

theorem putLaunch_takesAway (s : State) (l : Launch) : TakesAway s (s.putLaunch l) := TakesAway.of_eq rfl (putLaunch_lids s l) rfl

theorem faultRecord_writesOnly (s : State) (asid : Nat) (e : FaultEntry) : WritesOnly s (s.faultRecord asid e) := by
  unfold State.faultRecord
  extract_lets d head tail drop
  have hdrop : WritesOnly s (drop s) := devPut_writesOnly s _ _
  split
  · exact hdrop
  · extract_lets size base
    split
    · exact hdrop
    · exact (devPut_writesOnly s _ _).trans (devPut_writesOnly _ _ _)

theorem endCrew_takesAway (s : State) (k : Crew) : TakesAway s (s.endCrew k) := by
  unfold State.endCrew
  extract_lets l t n
  have ht : TakesAway s t := TakesAway.of_eq rfl rfl rfl
  exact ht.trans (putLaunch_takesAway t _)

theorem settleCrew_takesAway (s : State) (key : Nat) : TakesAway s (s.settleCrew key) := by
  unfold State.settleCrew
  split
  · exact TakesAway.refl s
  · split
    · exact endCrew_takesAway s _
    · split
      · exact TakesAway.refl s
      · exact TakesAway.of_eq rfl rfl rfl

theorem settleCrewOf_takesAway (s : State) (c : Cut) : TakesAway s (s.settleCrewOf c) := by
  unfold State.settleCrewOf
  split
  · exact TakesAway.refl s
  · unfold State.leftCrew
    extract_lets l t
    have ht : TakesAway s t := TakesAway.of_eq rfl rfl rfl
    split
    · exact ht.trans (settleCrew_takesAway t _)
    · exact settleCrew_takesAway s _

theorem ackMill_takesAway (s : State) (c : Cut) : TakesAway s (s.ackMill c) := by
  unfold State.ackMill
  split
  · exact TakesAway.refl s
  · exact (putLaunch_takesAway s _).trans (TakesAway.of_eq rfl rfl rfl)

theorem lived_takesAway (s : State) (c : Cut) : TakesAway s (s.lived c) := by
  unfold State.lived
  split
  · exact putLaunch_takesAway s _
  · exact TakesAway.refl s

/-- Settling a cut's fences stores the cut over the one of its number, and drops lines at most. -/
theorem settleFences_frame (s : State) (c : Cut) : ∃ k : Cut, k.uid = c.uid ∧ k.lid = c.lid
    ∧ s.settleFences c = { s.putCut k with l1 := (s.settleFences c).l1, wbuf := (s.settleFences c).wbuf } := by
  unfold State.settleFences
  extract_lets now flash ctx k t
  refine ⟨k, rfl, rfl, ?_⟩
  split <;> rfl

/-- A cut that ends is there no more, and takes no other's place. -/
theorem endCut_takes (s : State) (c : Cut) : TakesAway s (s.endCut c) ∧ ∀ d ∈ (s.endCut c).cuts, d.uid ≠ c.uid := by
  have hdropped : TakesAway s (((s.settleFences c).lived c).dropCut c.uid) ∧ ∀ d ∈ (((s.settleFences c).lived c).dropCut c.uid).cuts, d.uid ≠ c.uid := by
    obtain ⟨k, huid, hlid, hk⟩ := settleFences_frame s c
    have hlived := lived_takesAway (s.settleFences c) c
    have hcuts : ((s.settleFences c).lived c).cuts = (s.putCut k).cuts := by
      have hsame : ((s.settleFences c).lived c).cuts = (s.settleFences c).cuts := by
        unfold State.lived
        split <;> rfl
      rw [hsame, hk]
    have hgone : ∀ d ∈ (((s.settleFences c).lived c).dropCut c.uid).cuts, d.uid ≠ c.uid := fun d hd => by
      simpa using (List.mem_filter.mp hd).2
    refine ⟨⟨fun d hd => ?_, ?_, ?_⟩, hgone⟩
    · have hin := (List.mem_filter.mp hd).1
      rw [hcuts] at hin
      rcases mem_putCut s k d hin with rfl | ⟨hd', _⟩
      · exact absurd huid (hgone d hd)
      · exact ⟨d, hd', rfl, rfl⟩
    · refine hlived.launches.trans ?_
      rw [hk]
      rfl
    · intro j hj
      have hjobs := hlived.jobs j hj
      rw [hk] at hjobs
      exact hjobs
  obtain ⟨haway, hgone⟩ := hdropped
  have hrest : TakesAway (((s.settleFences c).lived c).dropCut c.uid) (s.endCut c) :=
    ((foldl_takesAway (fun (s : State) (f : LateFault) => s.lateRecord (s.launchOf c.lid) c.cutid f)
      (fun s f => (faultRecord_writesOnly s _ _).takesAway) c.late _).trans (settleCrewOf_takesAway _ c)).trans (ackMill_takesAway _ c)
  refine ⟨haway.trans hrest, fun d hd => ?_⟩
  obtain ⟨e, he, heu, _⟩ := hrest.cuts d hd
  exact heu ▸ hgone e he

/-- Cuts that end are there no more. -/
theorem foldl_endCut_takes (cs : List Cut) (s : State) : TakesAway s (cs.foldl (fun s c => s.endCut { c with late := [] }) s)
    ∧ ∀ d ∈ (cs.foldl (fun s c => s.endCut { c with late := [] }) s).cuts, ∀ c ∈ cs, d.uid ≠ c.uid := by
  induction cs generalizing s with
  | nil => exact ⟨TakesAway.refl s, by simp⟩
  | cons c cs ih =>
    obtain ⟨hfirst, hgone⟩ := endCut_takes s { c with late := [] }
    obtain ⟨hrest, hothers⟩ := ih (s.endCut { c with late := [] })
    refine ⟨hfirst.trans hrest, fun d hd => List.forall_mem_cons.mpr ⟨?_, hothers d hd⟩⟩
    obtain ⟨e, he, heu, _⟩ := hrest.cuts d hd
    exact heu ▸ hgone e he

/-! #### What a reset does with collectives, engines and claims -/

/-- Two states that differ at most in the communicators and the fabric. -/
def CommsOnly (s t : State) : Prop := t = { s with comms := t.comms, fabric := t.fabric }

theorem CommsOnly.refl (s : State) : CommsOnly s s := rfl

theorem CommsOnly.trans {s t u : State} (h : CommsOnly s t) (k : CommsOnly t u) : CommsOnly s u := by
  unfold CommsOnly at h k ⊢
  rw [k, h]

theorem CommsOnly.takesAway {s t : State} (h : CommsOnly s t) : TakesAway s t := by
  unfold CommsOnly at h
  rw [h]
  exact TakesAway.of_eq rfl rfl rfl

theorem foldl_commsOnly {α : Type} (f : State → α → State) (h : ∀ s a, CommsOnly s (f s a)) (xs : List α) (s : State) :
    CommsOnly s (xs.foldl f s) :=
  foldl_rel CommsOnly CommsOnly.refl CommsOnly.trans f h xs s

theorem putComm_commsOnly (s : State) (k : Comm) : CommsOnly s (s.putComm k) := rfl
theorem putOp_commsOnly (s : State) (cid : Nat) (o : CollOp) : CommsOnly s (s.putOp cid o) := rfl
theorem breakGen_commsOnly (s : State) (cid seq rank : Nat) : CommsOnly s (s.breakGen cid seq rank) := rfl

theorem send_commsOnly (s : State) (part : Nat) (m : FabMsg) : CommsOnly s (s.send part m) := by
  unfold State.send
  split <;> rfl

theorem tellAll_commsOnly (s : State) (k : Comm) (seq tag : Nat) (args : List Nat) (data : List Byte) :
    CommsOnly s (s.tellAll k seq tag args data) :=
  foldl_commsOnly _ (fun s _ => send_commsOnly s _ _) _ s

theorem endOp_commsOnly (s : State) (cid id : Nat) (word : W64) : CommsOnly s (s.endOp cid id word) := by
  unfold State.endOp
  extract_lets k
  split
  · exact CommsOnly.refl s
  · next o _ =>
    extract_lets t
    have ht : CommsOnly s t := by
      unfold t
      split
      · exact CommsOnly.refl s
      · exact putOp_commsOnly s _ _
    split
    · exact ht.trans (breakGen_commsOnly t _ _ _)
    · exact ht

theorem settled_commsOnly (s : State) (cid seq : Nat) (w : W64) : CommsOnly s (s.settled cid seq w) := by
  unfold State.settled
  extract_lets k
  split
  · exact endOp_commsOnly s _ _ _
  · split
    · exact CommsOnly.refl s
    · split
      · exact (putComm_commsOnly s _).trans (breakGen_commsOnly _ _ _ _)
      · exact putComm_commsOnly s _

theorem arbitrate_commsOnly (s : State) (cid seq : Nat) (rs : List Report) : CommsOnly s (s.arbitrate cid seq rs) := by
  unfold State.arbitrate
  split
  · exact CommsOnly.refl s
  · exact (tellAll_commsOnly s _ _ _ _ _).trans (settled_commsOnly _ _ _ _)

theorem report_commsOnly (s : State) (cid id reason failrank : Nat) : CommsOnly s (s.report cid id reason failrank) := by
  unfold State.report
  extract_lets k
  split
  · exact CommsOnly.refl s
  · extract_lets r p t
    have ht : CommsOnly s t := (putOp_commsOnly s _ _).trans (tellAll_commsOnly _ _ _ _ _ _)
    split
    · exact CommsOnly.refl s
    · split
      · exact ht.trans (arbitrate_commsOnly t _ _ _)
      · exact ht

theorem resetOps_takesAway (s : State) (asid : Nat) : TakesAway s (s.resetOps asid) :=
  (foldl_commsOnly _ (fun s _ => report_commsOnly s _ _ _ _) _ s).takesAway

theorem dropLoomWork_takesAway (s : State) (which : LoomOp → Bool) : TakesAway s (s.dropLoomWork which) := TakesAway.of_eq rfl rfl rfl

theorem map_lids (ls : List Launch) (f : Launch → Launch) (h : ∀ l, (f l).lid = l.lid) : (ls.map f).map (·.lid) = ls.map (·.lid) := by
  rw [List.map_map]
  exact List.map_congr_left fun l _ => h l

/-- The engines' work of some launches is dropped. -/
theorem dropEngines_takes (s : State) (lids : List Nat) : TakesAway s (s.dropEngines lids) ∧ ∀ j ∈ (s.dropEngines lids).jobs, j.lid ∉ lids := by
  refine ⟨⟨fun d hd => ⟨d, hd, rfl, rfl⟩, map_lids _ _ fun l => ?_, fun j hj => List.mem_of_mem_filter hj⟩, fun j hj => ?_⟩
  · split <;> rfl
  · simpa using (List.mem_filter.mp hj).2

/-! #### The reset -/

/-- The numbers of the launches that a reset of a context ends. -/
def resetLids (s : State) (asid : Nat) : List Nat := (s.launches.filter fun l => l.asid == asid && l.live).map (·.lid)

/-- A reset up to where its launches are marked: their cuts, claims, collectives, jobs and crews are gone. -/
def State.cleared (s : State) (asid : Nat) : State :=
  let lids := resetLids s asid
  let mine := s.cuts.filter fun c => decide (c.lid ∈ lids)
  let s : State := { s with assays := s.assays.map (Assay.forget mine) }
  let s : State := mine.foldl (fun s c => s.endCut { c with late := [] }) s
  let s := ((s.dropLoomWork fun o => decide (o.lid ∈ lids)).resetOps asid).dropEngines lids
  (s.crews.filter fun k => decide (k.lid ∈ lids)).foldl State.endCrew s

/-- A reset's launches are marked as ended by it, and so are the pre-emptions of its context. -/
def State.marked (s : State) (asid : Nat) (lids : List Nat) : State :=
  { s with
    launches := s.launches.map fun (l : Launch) =>
      if l.lid ∈ lids then { l with state := .running, endState := 3, endReason := 1 } else l
    preempts := s.preempts.map fun (p : Preempt) =>
      if p.asid = asid ∧ !p.finished then
        { p with forced := true, finished := true, took := s.cycle - p.since, affected := p.affected.map fun x => (x.1, x.2.1, 3) }
      else p }

theorem forceReset_eq (s : State) (asid : Nat) :
    s.forceReset asid = ((s.cleared asid).marked asid (resetLids s asid)).faultRecord asid ⟨4, 1, 0, 0, 0, 0, 0, 0⟩ := rfl

theorem cleared_takes (s : State) (asid : Nat) : TakesAway s (s.cleared asid)
    ∧ (∀ d ∈ (s.cleared asid).cuts, d.lid ∉ resetLids s asid) ∧ ∀ j ∈ (s.cleared asid).jobs, j.lid ∉ resetLids s asid := by
  unfold State.cleared
  extract_lets lids mine t u v
  have ht : TakesAway s t := TakesAway.of_eq rfl rfl rfl
  obtain ⟨hu, hgone⟩ := foldl_endCut_takes mine t
  obtain ⟨hv, hjobs⟩ := dropEngines_takes ((u.dropLoomWork fun o => decide (o.lid ∈ lids)).resetOps asid) lids
  have huv : TakesAway u v := ((dropLoomWork_takesAway u _).trans (resetOps_takesAway _ asid)).trans hv
  have hend := foldl_takesAway State.endCrew endCrew_takesAway (v.crews.filter fun k => decide (k.lid ∈ lids)) v
  refine ⟨((ht.trans hu).trans huv).trans hend, fun d hd hin => ?_, fun j hj => hjobs j (hend.jobs j hj)⟩
  obtain ⟨e, he, heu, hel⟩ := (huv.trans hend).cuts d hd
  obtain ⟨c, hc, hcu, hcl⟩ := (ht.trans hu).cuts e he
  refine hgone e he c (List.mem_filter.mpr ⟨hc, ?_⟩) hcu.symm
  rw [hcl, hel]
  exact decide_eq_true hin

/-- A forced reset of a context leaves none of its launches' cuts and jobs, and the launches as ended by it. -/
theorem forceReset_ends (s : State) (asid : Nat) (l : Launch) (hl : l ∈ s.launches) (ha : l.asid = asid) (hlive : l.live = true) :
    (∀ c ∈ (s.forceReset asid).cuts, c.lid ≠ l.lid) ∧ (∀ j ∈ (s.forceReset asid).jobs, j.lid ≠ l.lid)
      ∧ (∃ k ∈ (s.forceReset asid).launches, k.lid = l.lid)
      ∧ ∀ k ∈ (s.forceReset asid).launches, k.lid = l.lid → k.endState = 3 ∧ k.endReason = 1 := by
  have hin : l.lid ∈ resetLids s asid := List.mem_map.mpr ⟨l, List.mem_filter.mpr ⟨hl, by simp [ha, hlive]⟩, rfl⟩
  obtain ⟨haway, hcuts, hjobs⟩ := cleared_takes s asid
  have hrecord := faultRecord_writesOnly ((s.cleared asid).marked asid (resetLids s asid)) asid ⟨4, 1, 0, 0, 0, 0, 0, 0⟩
  rw [← forceReset_eq] at hrecord
  have hlast := hrecord.takesAway
  have hlaunches : (s.forceReset asid).launches = ((s.cleared asid).marked asid (resetLids s asid)).launches :=
    (congrArg State.launches hrecord.1 :)
  refine ⟨fun c hc heq => ?_, fun j hj heq => hjobs j (hlast.jobs j hj) (heq ▸ hin), ?_, fun k hk hkl => ?_⟩
  · obtain ⟨e, he, _, hel⟩ := hlast.cuts c hc
    exact hcuts e he (hel ▸ heq ▸ hin)
  · have hmem : l.lid ∈ (s.cleared asid).launches.map (·.lid) := haway.launches ▸ List.mem_map_of_mem hl
    obtain ⟨k, hk, hkl⟩ := List.mem_map.mp hmem
    refine ⟨_, by rw [hlaunches]; exact List.mem_map_of_mem hk, ?_⟩
    split <;> exact hkl
  · rw [hlaunches] at hk
    obtain ⟨m, _, rfl⟩ := List.mem_map.mp hk
    by_cases hm : m.lid ∈ resetLids s asid
    · rw [if_pos hm]
      exact ⟨rfl, rfl⟩
    · rw [if_neg hm] at hkl
      exact absurd (hkl ▸ hin) hm

end Sys2Proof.Machine
end

section

namespace Sys2Proof.Machine

/-! ### Saves (R36, R83) -/

theorem putCut_find (s : State) (k : Cut) (u : Nat) (h : ∃ d, s.cutOf u = some d) : ∃ d, (s.putCut k).cutOf u = some d := by
  obtain ⟨d, hd⟩ := h
  by_cases hu : u = k.uid
  · subst hu
    exact ⟨k, cutOf_putCut s k d hd⟩
  · exact ⟨d, (cutOf_putCut_ne s k u hu).trans hd⟩

/-- Settling fences changes the cuts and the L1s, keeps the clock, and loses no cut. -/
theorem foldl_settleFences (cs : List Cut) (s : State) (u : Nat) (h : ∃ d, s.cutOf u = some d) :
    cs.foldl State.settleFences s = { s with
        cuts := (cs.foldl State.settleFences s).cuts, l1 := (cs.foldl State.settleFences s).l1, wbuf := (cs.foldl State.settleFences s).wbuf }
      ∧ ∃ d, (cs.foldl State.settleFences s).cutOf u = some d := by
  induction cs generalizing s with
  | nil => exact ⟨rfl, h⟩
  | cons c cs ih =>
    obtain ⟨k, _, _, hk⟩ := settleFences_frame s c
    have hfind : ∃ d, (s.settleFences c).cutOf u = some d := by
      rw [hk]
      exact putCut_find s k u h
    obtain ⟨hframe, hlast⟩ := ih (s.settleFences c) hfind
    refine ⟨?_, hlast⟩
    rw [List.foldl_cons]
    generalize cs.foldl State.settleFences (s.settleFences c) = t at hframe ⊢
    generalize s.settleFences c = v at hk hframe
    rw [hframe, hk]
    rfl

theorem saveCut_alone (s : State) (c : Cut) (h : s.cutOf c.uid = some c) (hcrew : c.crew = none) (halone : togetherWith s c = [c])
    (ho : c.outst = []) : (s.saveCut c).cutOf c.uid = some (c.asSaved c.place.bench s.cycle) ∧ KeepsMemory s (s.saveCut c) := by
  obtain ⟨hframe, hfind⟩ := foldl_settleFences (s.cuts.filter fun d => !d.onMill && d.bench == c.place.bench) s c.uid ⟨c, h⟩
  have hopen : s.saveCut c = ((s.settleBench c.place.bench).saveClaims c).putCut
      (c.asSaved c.place.bench (s.settleBench c.place.bench).cycle) := by
    simp only [State.saveCut, halone, ho, hcrew, List.any_cons, List.any_nil, List.isEmpty_nil, Bool.not_true, Bool.or_self,
      Bool.false_eq_true, if_false, List.foldl_cons, List.foldl_nil, Option.bind_none]
  have hcycle : (s.settleBench c.place.bench).cycle = s.cycle := (congrArg State.cycle hframe :)
  rw [hopen, hcycle]
  obtain ⟨d, hd⟩ := hfind
  exact ⟨cutOf_putCut ((s.settleBench c.place.bench).saveClaims c) (c.asSaved c.place.bench s.cycle) d hd,
    (congrArg State.mem hframe :), (congrArg State.host hframe :)⟩

theorem saveCut_waits (s : State) (c : Cut) (halone : togetherWith s c = [c]) (ho : c.outst ≠ []) :
    s.saveCut c = s.putCut { c with leaving := true } := by
  simp [State.saveCut, halone, ho]

/-! ### Discards (R37) -/

theorem requeued_entry (s : State) (c : Cut) (items : List Item) (uid : Nat) : (c.requeued s items uid).uid = uid
    ∧ (c.requeued s items uid).lid = (s.launchOf c.lid).lid ∧ (c.requeued s items uid).place = .saved c.place.bench
    ∧ (c.requeued s items uid).ctx.pc = (s.launchOf c.lid).kcode ∧ (c.requeued s items uid).ctx.v = List.replicate 64 (uVal 0) := by
  unfold Cut.requeued
  extract_lets l b
  split <;> exact ⟨rfl, rfl, rfl, rfl, rfl⟩

theorem discardCut_pattern (s : State) (c : Cut) (h : s.cutOf c.uid = some c) (hp : c.isPattern = true) :
    ∃ items, (s.discardCut c).cuts = s.cuts.filter (fun d => !decide (d.uid ∈ [c.uid])) ++ [c.requeued s items s.nextUid]
      ∧ KeepsMemory s (s.discardCut c) := by
  refine ⟨sortBy (ilOf (s.launchOf c.lid)) ([c].flatMap Cut.activeItems), ?_⟩
  simp only [State.discardCut, h, hp, if_true]
  exact ⟨rfl, rfl, rfl⟩

/-! ### Resumption (R36, R284, R353) -/

theorem exec_cutResume_pattern (s : State) (c : Cut) (bench quad : Nat) (h : s.cutOf c.uid = some c) (hcrew : c.crew = none)
    (hs : c.isSaved = true) (hm : keptMill s c = none) (hp : c.isPattern = true) (hmay : mayResumeForeman s c bench = true) :
    exec (.cutResume c.uid bench quad) s
      = .next ((s.freshFor c.place.bench bench).putCut { c with place := .foreman bench, born := s.cycle }) := by
  change execCutResume c.uid bench quad s = _
  simp only [execCutResume, h, hs, hm, hcrew, hp, hmay, Bool.not_true, Bool.false_eq_true, if_false, if_true, Option.bind_none]

theorem exec_cutResume_lane (s : State) (c : Cut) (bench quad : Nat) (h : s.cutOf c.uid = some c) (hcrew : c.crew = none)
    (hs : c.isSaved = true) (hm : keptMill s c = none) (hp : c.isPattern = false) (hmay : mayResume s c bench quad = true) :
    exec (.cutResume c.uid bench quad) s = .next ((s.freshFor c.place.bench bench).placeFamily c (.quad bench quad)) := by
  change execCutResume c.uid bench quad s = _
  simp only [execCutResume, h, hs, hm, hcrew, hp, hmay, Bool.not_true, Bool.false_eq_true, if_false, if_true, Option.bind_none]

theorem exec_cutResume_mill (s : State) (c : Cut) (bench quad m : Nat) (h : s.cutOf c.uid = some c) (hs : c.isSaved = true)
    (hm : keptMill s c = some m) (hrun : millMayRun s (s.launchOf c.lid) = true) (hown : millOwner s m = some (s.launchOf c.lid).part) :
    exec (.cutResume c.uid bench quad) s = .next (s.placeFamily c (.mill m)) := by
  change execCutResume c.uid bench quad s = _
  simp only [execCutResume, h, hs, hm, hrun, hown, Bool.not_true, Bool.false_eq_true, if_false, beq_self_eq_true, Bool.and_self, if_true]

/-- A cut that comes to another Bench finds no older line there. -/
theorem freshFor_lines (s : State) (old new : Nat) (h : old ≠ new) : ∀ x ∈ (s.freshFor old new).l1, x.bench ≠ new := by
  intro x hx
  simp only [State.freshFor, h, if_false] at hx
  simpa using (List.mem_filter.mp hx).2

theorem freshFor_cutOf (s : State) (old new u : Nat) : (s.freshFor old new).cutOf u = s.cutOf u := by
  rw [freshFor_frame]
  rfl

theorem freshFor_cycle (s : State) (old new : Nat) : (s.freshFor old new).cycle = s.cycle := by
  rw [freshFor_frame]

theorem cutResume_lane (s : State) (c : Cut) (bench quad : Nat) (h : s.cutOf c.uid = some c) (hcrew : c.crew = none)
    (hs : c.isSaved = true) (hm : keptMill s c = none) (hp : c.isPattern = false) (hmay : mayResume s c bench quad = true) :
    ∃ t, exec (.cutResume c.uid bench quad) s = .next t ∧ t = { s with cuts := t.cuts, l1 := t.l1, wbuf := t.wbuf }
      ∧ (c.place.bench ≠ bench → ∀ x ∈ t.l1, x.bench ≠ bench)
      ∧ t.cutOf c.uid = some { c with place := .quad bench quad, born := s.cycle, age := s.cycle } := by
  have hfresh := freshFor_frame s c.place.bench bench
  have hlines := freshFor_lines s c.place.bench bench
  have hplaced := cutOf_placeFamily (s.freshFor c.place.bench bench) c (.quad bench quad)
    ((freshFor_cutOf s c.place.bench bench c.uid).trans h) hp
  rw [freshFor_cycle] at hplaced
  refine ⟨_, exec_cutResume_lane s c bench quad h hcrew hs hm hp hmay, ?_, hlines, hplaced⟩
  generalize s.freshFor c.place.bench bench = u at hfresh
  rw [hfresh]
  rfl

/-! ### A context read again (R378) -/

theorem exec_contextReload_none (s : State) (asid : Nat) (h : s.contextOf asid = none) : exec (.contextReload asid) s = .next s := by
  change execContextReload asid s = _
  simp only [execContextReload, h, Option.isSome_none, Bool.false_eq_true, if_false]

theorem exec_contextReload_some (s : State) (asid : Nat) (h : s.contextOf asid ≠ none) : exec (.contextReload asid) s
    = .next { s.descriptorRead asid with contexts := s.contexts.map fun x => if x.asid = asid then readContext s asid else x } := by
  change execContextReload asid s = _
  have hsome : (s.contextOf asid).isSome = true := Option.isSome_iff_ne_none.mpr h
  simp only [execContextReload, hsome, if_true]

/-! ### The report (R355) -/

/-- The report of a partition's pre-emptions. -/
def reportBytes (t : State) (part : Nat) : List Byte :=
  let mine := t.preempts.filter (·.part == part)
  ((List.range 16).flatMap (clusterRecord mine) ++ ((affectedLaunches t mine).take 240).flatMap fun p => [p.1.toNat, p.2 * 2 ^ 62]).flatMap (bytesLE 8)

/-- The status of a report: its count of launches, whether there were more, and one more report. -/
def State.reportStat (t : State) (part n : Nat) : State :=
  ((t.setField (regRptstat part) 32 32 (t.field (regRptstat part) 32 32 + 1)).setField (regRptstat part) 31 1 (if 240 < n then 1 else 0)).setField
    (regRptstat part) 0 8 (min 240 n)

/-- The records of a partition's pre-emptions are over, and its slice waits for no report. -/
def State.closeReport (v : State) (part : Nat) (x : Slice) : State :=
  ({ v with preempts := v.preempts.filter (·.part != part) } : State).putSlice x

theorem closeReport_frame (v : State) (part : Nat) (x : Slice) : (v.closeReport part x).mem = v.mem
    ∧ (v.closeReport part x).preempts = v.preempts.filter (·.part != part) ∧ ∀ off, (v.closeReport part x).reg off = v.reg off :=
  ⟨rfl, rfl, fun off => reg_of_win _ v off rfl rfl⟩

theorem closeReport_slice (v : State) (part : Nat) (x : Slice) : (v.closeReport part x).sliceOf x.part = x := sliceOf_putSlice _ x

/-- The state once a report is written. -/
def State.reported (t : State) (part : Nat) : State :=
  ((t.devPut (fld (t.reg (regPrpt part)) 12 28 * 2 ^ 12) (reportBytes t part)).reportStat part
    (affectedLaunches t (t.preempts.filter (·.part == part))).length).closeReport part { t.sliceOf part with reporting := false }

theorem exec_preemptionReport (s : State) (part : Nat) (hr : ((s.finishActions part).sliceOf part).reporting = true)
    (hf : ∀ p ∈ (s.finishActions part).preempts.filter (·.part == part), p.finished = true) :
    exec (.preemptionReport part) s = .next ((s.finishActions part).reported part) := by
  change execPreemptionReport part s = _
  generalize ht : s.finishActions part = t at hr hf
  have hany : ((t.preempts.filter (·.part == part)).any fun p => !p.finished) = false := by
    rw [List.any_eq_false]
    intro p hp
    simp [hf p hp]
  simp only [execPreemptionReport, ht, hr, hany, Bool.not_true, Bool.or_self, Bool.false_eq_true, if_false]
  rfl

theorem reportStat_word (t : State) (part n : Nat) (hc : Canonical t) : (t.reportStat part n).reg (regRptstat part)
    = putFld (putFld (putFld (t.reg (regRptstat part)) 32 32 (fld (t.reg (regRptstat part)) 32 32 + 1)) 31 1 (if 240 < n then 1 else 0)) 0 8
      (min 240 n) := by
  have hone := setField_canonical t (regRptstat part) 32 32 (t.field (regRptstat part) 32 32 + 1) hc
  have htwo := setField_canonical _ (regRptstat part) 31 1 (if 240 < n then 1 else 0) hone
  rw [State.reportStat, reg_setField_same _ _ _ _ _ htwo, reg_setField_same _ _ _ _ _ hone, reg_setField_same t _ _ _ _ hc]
  rfl

theorem reportStat_fields (w : W64) (n : Nat) :
    let r := putFld (putFld (putFld w 32 32 (fld w 32 32 + 1)) 31 1 (if 240 < n then 1 else 0)) 0 8 (min 240 n)
    fld r 0 8 = min 240 n ∧ bit r 31 = decide (240 < n) ∧ fld r 32 32 = (fld w 32 32 + 1) % 2 ^ 32 := by
  intro r
  refine ⟨?_, ?_, ?_⟩
  · rw [fld_putFld_same _ _ _ _ (by decide)]
    omega
  · rw [bit_putFld_outside _ _ _ _ _ (by decide) (by decide), bit_putFld_single _ _ _ (by decide)]
    by_cases h : 240 < n <;> simp [h]
  · rw [fld_putFld_disjoint _ _ _ _ _ _ (by decide) (by decide), fld_putFld_disjoint _ _ _ _ _ _ (by decide) (by decide),
      fld_putFld_same _ _ _ _ (by decide)]

theorem reportStat_sameButWin (t : State) (part n : Nat) : SameButWin t (t.reportStat part n) :=
  ((setField_sameButWin _ _ _ _ _).trans (setField_sameButWin _ _ _ _ _)).trans (setField_sameButWin _ _ _ _ _)

theorem reported_facts (t : State) (part : Nat) (hc : Canonical t) :
    (t.reported part).mem = (t.devPut (fld (t.reg (regPrpt part)) 12 28 * 2 ^ 12) (reportBytes t part)).mem
      ∧ (t.reported part).preempts = t.preempts.filter (·.part != part) ∧ ((t.reported part).sliceOf part).reporting = false
      ∧ let r := (t.reported part).reg (regRptstat part)
        let n := (affectedLaunches t (t.preempts.filter (·.part == part))).length
        fld r 0 8 = min 240 n ∧ bit r 31 = decide (240 < n) ∧ fld r 32 32 = (fld (t.reg (regRptstat part)) 32 32 + 1) % 2 ^ 32 := by
  generalize hb : fld (t.reg (regPrpt part)) 12 28 * 2 ^ 12 = base
  have hput := devPut_writesOnly t base (reportBytes t part)
  have hcan := devPut_canonical t base (reportBytes t part) hc
  have hreg := reg_devPut t base (reportBytes t part) (regRptstat part) hc fun n => by
    simp only [regRptstat, regMsum]
    omega
  generalize hn : (affectedLaunches t (t.preempts.filter (·.part == part))).length = n
  have hopen : t.reported part
      = ((t.devPut base (reportBytes t part)).reportStat part n).closeReport part { t.sliceOf part with reporting := false } := by
    rw [State.reported, hb, hn]
  rw [hopen]
  generalize t.devPut base (reportBytes t part) = u at hput hcan hreg ⊢
  have hword := reportStat_word u part n hcan
  have hwin := reportStat_sameButWin u part n
  generalize u.reportStat part n = v at hword hwin ⊢
  obtain ⟨hmem, hpreempts, hregs⟩ := closeReport_frame v part { t.sliceOf part with reporting := false }
  have hslice := closeReport_slice v part { t.sliceOf part with reporting := false }
  rw [show ({ t.sliceOf part with reporting := false } : Slice).part = part from sliceOf_part t part] at hslice
  refine ⟨hmem.trans (congrArg State.mem hwin :), hpreempts.trans (congrArg _ ?_), by rw [hslice], ?_⟩
  · exact (congrArg State.preempts hwin :).trans (congrArg State.preempts hput.1 :)
  · rw [hregs, hword, ← hreg]
    exact reportStat_fields _ n

end Sys2Proof.Machine

namespace Sys2Proof
open Sys2Proof.Machine

/-- Settles O56: each event of pre-emption in its cases; a forced reset takes cuts away and marks what is left of its launches. -/
theorem preemptionWork : Obligations.PreemptionWork := by
  unfold Obligations.PreemptionWork
  refine ⟨fun s part _ => ⟨fun hon hr hlen => ?_, fun hc a ha => credit_bal s part a ha hc⟩, fun s part p => ⟨fun hdue => ?_, fun hdue => ?_,
    fun hdue => ?_⟩, fun s asid l hl ha hlive => ⟨_, rfl, forceReset_ends s asid l hl ha hlive⟩, fun s c h hcrew =>
      ⟨fun halone => ⟨saveCut_alone s c h hcrew halone, saveCut_waits s c halone⟩, fun hp => ?_, fun bench quad hs hm => ⟨fun hp hmay => ?_,
        cutResume_lane s c bench quad h hcrew hs hm⟩, fun bench quad m hs hp hm hrun hown => ?_⟩,
      fun s part asid => ⟨exec_contextReload_none s asid, fun hsome => ?_, fun _ hr hf hc => ?_⟩⟩
  · have hexec := exec_sliceEnd s part hon hr hlen
    obtain ⟨hslice, hcuts, hkeeps⟩ := nextSlice_keeps s part
    refine ⟨hexec, fun hnone => ⟨s.nextSlice part, hexec.trans ?_, hslice, hcuts, hkeeps⟩⟩
    rw [hnone]
    rfl
  · intro took changed
    refine (exec_drainDeadline s part p took ?_ rfl).trans ?_
    · rw [← hdue]
      refine List.filter_congr fun q _ => ?_
      cases q.action == 1 <;> simp
    · simp only [Bool.not_eq_true']
      rfl
  · exact exec_preemptionDeadline s part [p] hdue
  · exact exec_preemptionDeadline s part [] hdue
  · obtain ⟨items, hcuts, hkeeps⟩ := discardCut_pattern s c h hp
    obtain ⟨huid, hlid, hplace, hpc, hv⟩ := requeued_entry s c items s.nextUid
    exact ⟨_, hcuts, huid, hlid, hplace, hpc, hv, hkeeps⟩
  · exact ⟨_, exec_cutResume_pattern s c bench quad h hcrew hs hm hp hmay, freshFor_frame s _ _, freshFor_lines s _ _⟩
  · exact ⟨_, exec_cutResume_mill s c bench quad m h hs hm hrun hown, rfl, cutOf_placeFamily s c _ h hp⟩
  · have hread := descriptorRead_sameButReads s asid
    exact ⟨_, exec_contextReload_some s asid hsome, hread.keepsMemory, hread.cuts, rfl⟩
  · obtain ⟨hmem, hpre, hslice, hstat⟩ := reported_facts (s.finishActions part) part hc
    exact ⟨_, exec_preemptionReport s part hr hf, hmem, hpre, hslice, hstat⟩

end Sys2Proof
end

/-! ## Rounded results by item

What a rounding instruction computes at each item, under the rounding of the item, and the flags it raises (R63, R64, R148 to R156). -/

section

namespace Sys2Proof.Machine

/-! ### What governs an instruction (R80) -/

/-- A uniform guard governs every active item or none; any other governs the items where it is true. -/
theorem gov_cases (c : Cut) : (c.gov = .all ∧ c.governed = c.positions) ∨ (c.gov = .none ∧ c.governed = []) ∨ c.gov = .some c.governed := by
  unfold Cut.gov Cut.governed
  split
  · next h => exact .inl ⟨rfl, by simp [guard_of_guardUni c true h]⟩
  · next h => exact .inr (.inl ⟨rfl, by simp [guard_of_guardUni c false h]⟩)
  · exact .inr (.inr rfl)

/-- A result in L form that some item receives is held lane by lane: its cut is not a pattern cut. -/
theorem isPattern_of_governed (c : Cut) (v : RegVal) (p : Nat) (hv : v.isL = true) (hn : c.needsLanes c.gov v = false)
    (hp : p ∈ c.governed) : c.isPattern = false := by
  rcases gov_cases c with ⟨hg, -⟩ | ⟨-, hnone⟩ | hg
  · simpa [Cut.needsLanes, hg, hv] using hn
  · simp [hnone] at hp
  · simpa [Cut.needsLanes, hg] using hn

theorem positions_of_governed (c : Cut) (p : Nat) (hp : p ∈ c.governed) : p ∈ c.positions := (List.mem_filter.mp hp).1

/-! ### Results over the items of a cut (R19, R63) -/

/-- A rounded result of uniform inputs is one value, with the rounding of item index 0. -/
theorem rounded_uniform (s : State) (c : Cut) (f : Rnd → Nat → W64 × Nat) (p : Nat) :
    (c.valAt (c.rounded s true f).v p, (c.rounded s true f).flagsAt p) = f (c.rnd s 0 0) 0 := by
  simp [Cut.rounded, Rounded.flagsAt]

theorem rounded_isL (s : State) (c : Cut) (f : Rnd → Nat → W64 × Nat) : (c.rounded s false f).v.isL = true := rfl

/-- A rounded result held lane by lane has in each lane its own value, with the rounding of the lane's item index. -/
theorem rounded_lane (s : State) (c : Cut) (f : Rnd → Nat → W64 × Nat) (p : Nat) (hl : c.isPattern = false) (hp : p ∈ c.positions) :
    (c.valAt (c.rounded s false f).v p, (c.rounded s false f).flagsAt p) = f (c.rnd s (c.ilAt s p) 0) p := by
  rw [positions_of_lanes c hl, mem_lanesOf] at hp
  have hlt := lt_of_inMask _ p hp
  have hval : c.valAt (c.rounded s false f).v p = (f (c.rnd s (c.ilAt s p) 0) p).1 := by
    simp [Cut.rounded, Cut.valAt, RegVal.at, hp, hlt]
  have hflags : (c.rounded s false f).flagsAt p = (f (c.rnd s (c.ilAt s p) 0) p).2 := by
    unfold Rounded.flagsAt
    split
    · next hone => simpa [Cut.rounded] using congrArg List.length hone
    · simp [Cut.rounded, hp, hlt]
  rw [hval, hflags]

/-- A rounded result that a cut can hold has at each governed item what `f` gives there. -/
theorem rounded_at (s : State) (c : Cut) (u : Bool) (f : Rnd → Nat → W64 × Nat) (p : Nat)
    (hn : c.needsLanes c.gov (c.rounded s u f).v = false) (hp : p ∈ c.governed) :
    (c.valAt (c.rounded s u f).v p, (c.rounded s u f).flagsAt p) = f (c.rnd s (if u then 0 else c.ilAt s p) 0) (if u then 0 else p) := by
  cases u with
  | true => exact rounded_uniform s c f p
  | false => exact rounded_lane s c f p (isPattern_of_governed c _ p (rounded_isL s c f) hn hp) (positions_of_governed c p hp)

/-- An input that is U where the result is asked for once is the value of the item. -/
theorem inAt_eq (c : Cut) (u : Bool) (v : RegVal) (p : Nat) (h : u = true → v.isU = true) : c.inAt u v (if u then 0 else p) = c.valAt v p := by
  cases u with
  | true => exact (valAt_of_isU c v p (h rfl)).symm
  | false => rfl

/-! ### The rounding instructions (R148) -/

/-- The rounded result of an instruction over the items of a cut. -/
def RoundOp.result (s : State) (c : Cut) (op : RoundOp) : Rounded :=
  c.rounded s (c.inputsU s op.srcs) fun r i => op.val c.et r ((c.inputs s op.srcs).map fun x => c.inAt (c.inputsU s op.srcs) x i)

theorem RoundOp.result_at (s : State) (c : Cut) (op : RoundOp) (p : Nat) (hn : c.needsLanes c.gov (op.result s c).v = false)
    (hp : p ∈ c.governed) :
    (c.valAt (op.result s c).v p, (op.result s c).flagsAt p) = op.val c.et (c.rndAt s op.srcs p) (c.inputsAt s op.srcs p) := by
  refine (rounded_at s c _ _ p hn hp).trans (congrArg (op.val c.et _) (List.map_congr_left fun x hx => ?_))
  exact inAt_eq c _ x p fun hu => List.all_eq_true.mp hu x hx

theorem round1_result (s : State) (c : Cut) (d a : Opnd) (f : Nat → Rnd → W64 → W64 × Nat) :
    (round1 d a f).result s c = c.round1 s (f c.et) (c.read s a []) := by
  simp [RoundOp.result, round1, Cut.round1, Cut.inputsU, Cut.inputs, Cut.inputsAfter]

theorem round2_result (s : State) (c : Cut) (d a b : Opnd) (f : Nat → Rnd → W64 → W64 → W64 × Nat) :
    (round2 d a b f).result s c = c.round2 s (f c.et) (c.read s a []) (c.read s b [a]) := by
  simp [RoundOp.result, round2, Cut.round2, Cut.inputsU, Cut.inputs, Cut.inputsAfter]

theorem round3_result (s : State) (c : Cut) (d a b e : Opnd) (f : Nat → Rnd → W64 → W64 → W64 → W64 × Nat) :
    (round3 d a b e f).result s c = c.round3 s (f c.et) (c.read s a []) (c.read s b [a]) (c.read s e [a, b]) := by
  simp [RoundOp.result, round3, Cut.round3, Cut.inputsU, Cut.inputs, Cut.inputsAfter, Bool.and_assoc]

theorem exec_round1 {i : Instr} {s : State} {c : Cut} {d a : Opnd} (f : Nat → Rnd → W64 → W64 × Nat)
    (h : exec i s = .next (s.float1 c d a (f c.et))) :
    exec i s = .next (s.writeRounded c (round1 d a f).srcs (round1 d a f).dst ((round1 d a f).result s c)) :=
  h.trans (by rw [round1_result]; rfl)

theorem exec_round2 {i : Instr} {s : State} {c : Cut} {d a b : Opnd} (f : Nat → Rnd → W64 → W64 → W64 × Nat)
    (h : exec i s = .next (s.float2 c d a b (f c.et))) :
    exec i s = .next (s.writeRounded c (round2 d a b f).srcs (round2 d a b f).dst ((round2 d a b f).result s c)) :=
  h.trans (by rw [round2_result]; rfl)

theorem exec_round3 {i : Instr} {s : State} {c : Cut} {d a b e : Opnd} (f : Nat → Rnd → W64 → W64 → W64 → W64 × Nat)
    (h : exec i s = .next (s.float3 c d a b e (f c.et))) :
    exec i s = .next (s.writeRounded c (round3 d a b e f).srcs (round3 d a b e f).dst ((round3 d a b e f).result s c)) :=
  h.trans (by rw [round3_result]; rfl)

/-- A rounding instruction of short latency writes its rounded result. -/
theorem exec_roundOp (i : Instr) (op : RoundOp) (s : State) (c : Cut) (hop : roundOp i = some op) (hr : Runs s c i) :
    exec i s = .next (s.writeRounded c op.srcs op.dst (op.result s c)) := by
  unfold roundOp at hop
  split at hop <;> cases hop
  case h_1 => exact exec_round2 opFadd (operate_runs _ s _ c hr)
  case h_2 => exact exec_round2 opFsub (operate_runs _ s _ c hr)
  case h_3 => exact exec_round2 opFmul (operate_runs _ s _ c hr)
  case h_4 => exact exec_round2 (opMinMax false false) (operate_runs _ s _ c hr)
  case h_5 => exact exec_round2 (opMinMax true false) (operate_runs _ s _ c hr)
  case h_6 => exact exec_round2 (opMinMax false true) (operate_runs _ s _ c hr)
  case h_7 => exact exec_round2 (opMinMax true true) (operate_runs _ s _ c hr)
  case h_8 => exact exec_round1 opFrnd (operate_runs _ s _ c hr)
  case h_9 => exact exec_round1 opFfrac (operate_runs _ s _ c hr)
  case h_10 => exact exec_round2 opFscale (operate_runs _ s _ c hr)
  case h_11 => exact exec_round1 opFexpo (operate_runs _ s _ c hr)
  case h_12 t d a => exact exec_round1 (fun et r x => convert t.toNat et r x) (operate_runs _ s _ c hr)
  case h_13 => exact exec_round1 (fun et r x => convert et 6 r x) (operate_runs _ s _ c hr)
  case h_14 => exact exec_round1 (fun et r x => convert et 7 r x) (operate_runs _ s _ c hr)
  case h_15 => exact exec_round1 (fun et r x => convert 6 et r x) (operate_runs _ s _ c hr)
  case h_16 => exact exec_round1 (fun et r x => convert 7 et r x) (operate_runs _ s _ c hr)
  case h_17 => exact exec_round3 opFma (operate_runs _ s _ c hr)
  case h_18 => exact exec_round3 opFnma (operate_runs _ s _ c hr)

/-! ### Flags (R64, R149, R150) -/

/-- Raising flags ORs them into ASF and changes nothing else. -/
theorem raiseFlags_eq (c : Cut) (fl : Nat) : c.raiseFlags fl = { c with ctx := { c.ctx with asf := c.ctx.asf ||| BitVec.ofNat 64 fl } } := by
  unfold Cut.raiseFlags
  split
  · next h => simp [h]
  · rfl

/-- The flags of lanes are those of each governed lane together. -/
theorem flagsOf_governed (c : Cut) (fls : List Nat) (h : fls.length ≠ 1) :
    c.flagsOf c.gov fls = c.governed.foldl (fun m p => m ||| fls.getD p 0) 0 := by
  unfold Cut.flagsOf
  split
  · exact (foldl_or_same 0 c.governed _ fun _ _ => by simp).symm
  · simp at h
  · rcases gov_cases c with ⟨hg, hpos⟩ | ⟨hg, hnone⟩ | hg
    · rw [hg, hpos]
    · rw [hg, hnone]
    · rw [hg]

end Sys2Proof.Machine

namespace Sys2Proof
open Sys2Proof.Machine

/-- Settles O10: the result of each rounding instruction is its table's at every governed item, and its flags join those of ASF. -/
theorem floatResults : Obligations.FloatResults := by
  unfold Obligations.FloatResults
  refine ⟨fun i op s c hop hr => ⟨op.result s c, exec_roundOp i op s c hop hr, fun hn p hp _ => op.result_at s c p hn hp⟩, fun c fls => ?_⟩
  exact ⟨raiseFlags_eq c _, flagsOf_governed c fls⟩

end Sys2Proof
end

/-! ## Reductions, scans and dot products

The fixed pairings of RED and SCAN add modulo the width of an integer type, and what a dot product gives each lane (R70, R71, R161, R162). -/

section

namespace Sys2Proof.Machine

/-! ### Integers modulo the width of a type (R53, R61) -/

/-- What the low bits that a type reads of a register are, modulo the type's width (R53). -/
def residue (et : Nat) (v : W64) : ZMod (2 ^ width et) := (v.toNat : ZMod (2 ^ width et))

theorem width_dvd (et : Nat) : 2 ^ width et ∣ 2 ^ 64 := by
  refine Nat.pow_dvd_pow 2 ?_
  unfold width
  split <;> omega

/-- Arithmetic modulo 2^64 is arithmetic modulo a type's width. -/
theorem cast_emod_word (et : Nat) (n : Int) : ((n % (2 ^ 64 : Nat) : Int) : ZMod (2 ^ width et)) = (n : ZMod (2 ^ width et)) := by
  rw [ZMod.intCast_eq_intCast_iff]
  exact (Int.mod_modEq n _).of_dvd (Int.natCast_dvd_natCast.mpr (width_dvd et))

theorem residue_ofInt (et : Nat) (n : Int) : residue et (BitVec.ofInt 64 n) = (n : ZMod (2 ^ width et)) := by
  rw [residue, BitVec.toNat_ofInt, ← cast_emod_word et n, ← Int.cast_natCast, Int.toNat_of_nonneg (Int.emod_nonneg _ (by simp))]

theorem residue_ofNat (et n : Nat) : residue et (BitVec.ofNat 64 (n % 2 ^ width et)) = (n : ZMod (2 ^ width et)) := by
  rw [← BitVec.ofInt_natCast, residue_ofInt, Int.cast_natCast, ZMod.natCast_mod]

theorem residue_signFill (et n : Nat) : residue et (signFill (width et) n) = (n : ZMod (2 ^ width et)) := by
  unfold signFill
  split
  · exact residue_ofNat et n
  · rw [residue_ofInt, Int.cast_sub, Int.cast_natCast, Int.cast_natCast, ZMod.natCast_mod, ZMod.natCast_self, sub_zero]

/-- Filling a result keeps it modulo the type's width. -/
theorem residue_extend (et n : Nat) : residue et (extend et n) = (n : ZMod (2 ^ width et)) := by
  unfold extend
  split
  · exact residue_signFill et n
  · exact residue_ofNat et n

theorem residue_wrapTo (et : Nat) (n : Int) : residue et (wrapTo et n) = (n : ZMod (2 ^ width et)) := by
  rw [wrapTo, residue_extend, ← Int.cast_natCast, Int.toNat_of_nonneg (Int.emod_nonneg _ (by simp)), ZMod.intCast_mod]

/-- An integer type reads an integer that is the register modulo the type's width. -/
theorem intValue_cast (et : Nat) (v : W64) : ((intValue et v : Int) : ZMod (2 ^ width et)) = residue et v := by
  unfold intValue signedOf lowBits residue
  split
  · split
    · rw [Int.cast_natCast, ZMod.natCast_mod]
    · rw [Int.cast_sub, Int.cast_natCast, Int.cast_natCast, ZMod.natCast_mod, ZMod.natCast_self, sub_zero]
  · rw [Int.cast_natCast, ZMod.natCast_mod]

theorem extend_congr (et m n : Nat) (h : m % 2 ^ width et = n % 2 ^ width et) : extend et m = extend et n := by
  unfold extend signFill
  rw [h]

/-- A register filled from its low bits is any integer that it is modulo the type's width, wrapped. -/
theorem extend_of_residue (et : Nat) (v : W64) (n : Int) (h : residue et v = (n : ZMod (2 ^ width et))) : extend et v.toNat = wrapTo et n := by
  refine extend_congr et _ _ ((ZMod.natCast_eq_natCast_iff' _ _ _).mp ?_)
  rw [← Int.cast_natCast (n % _).toNat, Int.toNat_of_nonneg (Int.emod_nonneg _ (by simp)), ZMod.intCast_mod]
  exact h

/-! ### Stages (R70, R71) -/

/-- The sum of the first lanes of a list. -/
def lanesSum (et : Nat) (t : List W64) (n : Nat) : ZMod (2 ^ width et) := ∑ i ∈ Finset.range n, residue et (t.getD i 0)

@[simp] theorem stage_length (t : List W64) (fl lo hi : Nat) (f : Nat → W64 × Nat) : (stage t fl lo hi f).1.length = t.length := by
  simp [stage]

/-- A stage changes the lanes that pair and no other. -/
theorem stage_getD (t : List W64) (fl lo hi : Nat) (f : Nat → W64 × Nat) (i : Nat) (h : i < t.length) :
    (stage t fl lo hi f).1.getD i 0 = if lo ≤ i ∧ i < hi then (f i).1 else t.getD i 0 := by
  simp only [stage, List.map_map]
  rw [getD_range_map _ _ _ _ h]
  dsimp only [Function.comp_apply]
  split <;> rfl

/-- An integer pairing of an addition that wraps adds modulo the type's width. -/
theorem residue_pair_add (et : Nat) (r : Rnd) (a b : W64) (hint : isInt et = true) (hsat : r.sat = false) :
    residue et (pair 0 et r a b).1 = residue et a + residue et b := by
  have hpair : pair 0 et r a b = (opAdd et a b, 0) := by
    unfold pair
    rw [if_pos hint]
    exact congrArg (·, 0) (if_neg (by simp [hsat]))
  rw [hpair, opAdd, residue_wrapTo, Int.cast_add, intValue_cast, intValue_cast]

theorem rnd_sat (s : State) (c : Cut) (il j : Nat) : (c.rnd s il j).sat = modeSAT c.ctx.mode := rfl

/-- The spans of a tree over 2^k lanes (R70), and of the Kogge–Stone order from a span on (R71). -/
def treeSpans : Nat → List Nat
  | 0 => []
  | k + 1 => 2 ^ k :: treeSpans k
def scanSpans (h : Nat) : Nat → List Nat
  | 0 => []
  | k + 1 => h :: scanSpans (2 * h) k

section
variable (s : State) (c : Cut) (et : Nat) (hint : isInt et = true) (hsat : modeSAT c.ctx.mode = false)
include hint hsat

/-- A tree of additions gives the sum of its lanes modulo the type's width. -/
theorem residue_tree (k st : Nat) (t : List W64) (fl : Nat) (hk : 2 ^ k ≤ t.length) :
    residue et (tree s c 0 et (treeSpans k) st t fl).1 = lanesSum et t (2 ^ k) := by
  induction k generalizing st t fl with
  | zero => simp [treeSpans, tree, lanesSum]
  | succ k ih =>
    have hlen : 2 ^ k + 2 ^ k ≤ t.length := by rw [← Nat.two_mul, ← Nat.pow_succ']; exact hk
    refine (ih _ _ _ (by rw [stage_length]; omega)).trans ?_
    rw [Nat.pow_succ', Nat.two_mul, lanesSum, lanesSum, Finset.sum_range_add, ← Finset.sum_add_distrib]
    refine Finset.sum_congr rfl fun i hi => ?_
    have hi := Finset.mem_range.mp hi
    rw [stage_getD _ _ _ _ _ _ (by omega), if_pos ⟨by omega, hi⟩, residue_pair_add et _ _ _ hint (by rw [rnd_sat, hsat]), Nat.add_comm i]

/-- A scan of additions gives each lane the sum of the lanes up to it, less what lies further below than its spans reach: here `x` is
what the scan began with, of which each lane holds the sum of the `h` lanes that end at it. -/
theorem residue_koggeStone (x : List W64) (k h st : Nat) (t : List W64) (fl i : Nat) (hlen : t.length = 32) (hi : i < 32)
    (ht : ∀ j, j < 32 → residue et (t.getD j 0) = lanesSum et x (j + 1) - lanesSum et x (j + 1 - h)) :
    residue et ((koggeStone s c 0 et (scanSpans h k) st t fl).1.getD i 0) = lanesSum et x (i + 1) - lanesSum et x (i + 1 - h * 2 ^ k) := by
  induction k generalizing h st t fl with
  | zero => simpa [scanSpans, koggeStone] using ht i hi
  | succ k ih =>
    have hspan : 2 * h * 2 ^ k = h * 2 ^ (k + 1) := by rw [Nat.pow_succ]; ring
    refine (ih (2 * h) _ _ _ (by rw [stage_length, hlen]) fun j hj => ?_).trans (by rw [hspan])
    rw [stage_getD _ _ _ _ _ _ (by omega)]
    split
    · next hpair =>
      obtain ⟨hlow, -⟩ := hpair
      rw [residue_pair_add et _ _ _ hint (by rw [rnd_sat, hsat]), ht j hj, ht (j - h) (by omega)]
      have hmid : j - h + 1 = j + 1 - h := by omega
      have hend : j - h + 1 - h = j + 1 - 2 * h := by omega
      rw [hend, hmid]
      ring
    · next halone =>
      have hlow : j < h := by omega
      rw [ht j hj, Nat.sub_eq_zero_of_le (by omega), Nat.sub_eq_zero_of_le (by omega)]

end

/-! ### The inputs of a reduction (R161) -/

@[simp] theorem laneInputs_length (c : Cut) (op et : Nat) (v : RegVal) : (c.laneInputs op et v).length = 32 := by simp [Cut.laneInputs]

theorem mem_governed (c : Cut) (p : Nat) (hl : c.isPattern = false) : p ∈ c.governed ↔ (inMask c.ctx.active p && c.guard p) = true := by
  rw [Cut.governed, List.mem_filter, positions_of_lanes c hl, mem_lanesOf, Bool.and_eq_true]

/-- A lane that is not governed gives the identity. -/
theorem laneInputs_getElem? (c : Cut) (op et : Nat) (v : RegVal) (p : Nat) (hl : c.isPattern = false) (hp : p < 32) :
    (c.laneInputs op et v)[p]? = some (if p ∈ c.governed then c.valAt v p else identity op et) := by
  simp [Cut.laneInputs, hp, mem_governed c p hl]

/-- The sum of the governed lanes below a lane, as the spec writes it. -/
def Cut.sumBelow (c : Cut) (et : Nat) (v : RegVal) (hi : Nat) : Int :=
  (c.governed.filter fun p => decide (0 ≤ p ∧ p < hi)).foldl (fun (n : Int) p => n + intValue et (c.valAt v p)) 0

theorem foldl_add_eq_sum (f : Nat → Int) (xs : List Nat) : xs.foldl (fun n p => n + f p) 0 = (xs.map f).sum := by
  rw [List.sum_eq_foldl, List.foldl_map]

theorem governed_nodup (c : Cut) (hl : c.isPattern = false) : c.governed.Nodup := by
  rw [Cut.governed, positions_of_lanes c hl]
  exact ((List.nodup_range).filter _).filter _

/-- The inputs of an addition have the sum of the governed lanes modulo the type's width. -/
theorem lanesSum_laneInputs (c : Cut) (et : Nat) (v : RegVal) (n : Nat) (hl : c.isPattern = false) (hint : isInt et = true) (hn : n ≤ 32) :
    lanesSum et (c.laneInputs 0 et v) n = (c.sumBelow et v n : ZMod (2 ^ width et)) := by
  rw [Cut.sumBelow, foldl_add_eq_sum, ← List.sum_toFinset _ ((governed_nodup c hl).filter _), Int.cast_sum, lanesSum]
  have hset : (c.governed.filter fun p => decide (0 ≤ p ∧ p < n)).toFinset = (Finset.range n).filter (· ∈ c.governed) := by
    ext p
    simp [and_comm]
  rw [hset, Finset.sum_filter]
  refine Finset.sum_congr rfl fun p hp => ?_
  have hp := Finset.mem_range.mp hp
  rw [List.getD_eq_getElem?_getD, laneInputs_getElem? c 0 et v p hl (by omega), Option.getD_some]
  split
  · exact (intValue_cast et _).symm
  · simp [identity, hint, residue]

/-! ### What a reduction and a scan write (R161) -/

/-- An integer reduction that adds gives the wrapped sum of the governed lanes. -/
theorem tree_sum (s : State) (c : Cut) (et : Nat) (v : RegVal) (hl : c.isPattern = false) (hint : isInt et = true)
    (hsat : modeSAT c.ctx.mode = false) :
    extend et (tree s c 0 et [16, 8, 4, 2, 1] 0 (c.laneInputs 0 et v) 0).1.toNat = wrapTo et (c.sumBelow et v 32) := by
  refine extend_of_residue et _ _ ((residue_tree s c et hint hsat 5 0 _ 0 (by simp)).trans ?_)
  exact lanesSum_laneInputs c et v 32 hl hint (Nat.le_refl _)

/-- An integer scan that adds gives each lane the wrapped sum of the governed lanes up to it. -/
theorem koggeStone_sum (s : State) (c : Cut) (et : Nat) (v : RegVal) (i : Nat) (hl : c.isPattern = false) (hint : isInt et = true)
    (hsat : modeSAT c.ctx.mode = false) (hi : i < 32) :
    extend et ((koggeStone s c 0 et [1, 2, 4, 8, 16] 0 (c.laneInputs 0 et v) 0).1.getD i 0).toNat = wrapTo et (c.sumBelow et v (i + 1)) := by
  refine extend_of_residue et _ _ ((residue_koggeStone s c et hint hsat (c.laneInputs 0 et v) 5 1 0 _ 0 i (by simp) hi fun j _ => ?_).trans ?_)
  · simp [lanesSum, Finset.sum_range_succ]
  · rw [Nat.sub_eq_zero_of_le (by omega), lanesSum_laneInputs c et v (i + 1) hl hint (by omega)]
    simp [lanesSum]

/-- What a scan makes of a pairing at a lane: the pairing itself, or for an exclusive scan the one at the lane below (R161). -/
def scanned (op et : Nat) (t : List W64) (i : Nat) : W64 :=
  if op < 8 then t.getD i 0 else if i = 0 then identity (op % 8) et else t.getD (i - 1) 0

theorem asResult_int (ftz : Bool) (et : Nat) (v : W64) (hint : isInt et = true) : asResult ftz et v = extend et v.toNat := by
  simp [asResult, hint]

theorem scanned_sum (s : State) (c : Cut) (et op : Nat) (v : RegVal) (i : Nat) (hl : c.isPattern = false) (hop : op % 8 = 0)
    (hint : isInt et = true) (hsat : modeSAT c.ctx.mode = false) (hi : i < 32) :
    asResult (modeFTZ c.ctx.mode) et
      (scanned op et (koggeStone s c (op % 8) et [1, 2, 4, 8, 16] 0 (c.laneInputs (op % 8) et v) 0).1 i)
      = wrapTo et (c.sumBelow et v (if op < 8 then i + 1 else i)) := by
  rw [asResult_int _ _ _ hint, scanned, hop]
  split
  · exact koggeStone_sum s c et v i hl hint hsat hi
  · cases i with
    | zero => simp [identity, hint, Cut.sumBelow, wrapTo]
    | succ j => exact koggeStone_sum s c et v j hl hint hsat (by omega)

/-! ### Instructions that name lanes (R171) -/

/-- An instruction that names lanes goes on only in a cut that has them: a pattern cut materializes first. -/
theorem isPattern_of_lanes (s : State) (c : Cut) (i : Instr) (hr : Runs s c i) (hu : (c.usesOf i).lanes = true) : c.isPattern = false := by
  obtain ⟨-, hgate⟩ := hr
  cases hp : c.isPattern with
  | false => rfl
  | true =>
    unfold gate at hgate
    simp only [hp, hu, Bool.true_or, Bool.and_self, if_true] at hgate
    split_ifs at hgate

theorem lt_of_position (c : Cut) (p : Nat) (hl : c.isPattern = false) (hp : p ∈ c.positions) : p < 32 := by
  rw [positions_of_lanes c hl, mem_lanesOf] at hp
  exact lt_of_inMask _ p hp

theorem needsLanes_of_lane (c : Cut) (g : Gov) (v : RegVal) (hl : c.isPattern = false) : c.needsLanes g v = false := by
  simp [Cut.needsLanes, hl]

/-- A long-latency result whose guard is false everywhere leaves nothing outstanding, and zero shifts in (R77). -/
theorem writeLong_none (s : State) (c : Cut) (srcs : List Opnd) (d : Opnd) (la : Nat) (v : RegVal) (fls : List Nat)
    (hl : c.isPattern = false) (hg : c.gov = .none) :
    s.writeLong c srcs d la v none fls = s.complete c srcs (if isResult d then c.shift (.val (uVal 0)) else c) := by
  simp [State.writeLong, needsLanes_of_lane c _ v hl, hg]

/-- Otherwise a long-latency result becomes outstanding. -/
theorem writeLong_await (s : State) (c : Cut) (srcs : List Opnd) (d : Opnd) (la : Nat) (v : RegVal) (fls : List Nat)
    (hl : c.isPattern = false) (hg : c.gov ≠ .none) :
    s.writeLong c srcs d la v none fls = s.await c srcs c.gov { Outst.of d c.et la (.value v none) with flags := fls, uniform := v.isU } := by
  simp [State.writeLong, needsLanes_of_lane c _ v hl, hg, Outst.of, Cut.et]

theorem exec_red (s : State) (c : Cut) (l : BitVec 4) (d a b : Opnd) (hr : Runs s c (.red l d a b)) :
    let r := tree s c (constOf b) c.et [16, 8, 4, 2, 1] 0 (c.laneInputs (constOf b) c.et (c.read s a [])) 0
    exec (.red l d a b) s = .next (s.writeLong c [a] d l.toNat (uVal (extend c.et r.1.toNat)) none [r.2]) :=
  operate_runs _ s _ c hr

theorem exec_scan (s : State) (c : Cut) (l : BitVec 4) (d a b : Opnd) (hr : Runs s c (.scan l d a b)) :
    let r := koggeStone s c (constOf b % 8) c.et [1, 2, 4, 8, 16] 0 (c.laneInputs (constOf b % 8) c.et (c.read s a [])) 0
    exec (.scan l d a b) s = .next (s.writeLong c [a] d l.toNat
      (c.overLanes fun i => asResult (modeFTZ c.ctx.mode) c.et (scanned (constOf b) c.et r.1 i)) none [r.2]) :=
  operate_runs _ s _ c hr

/-- A dot product of integers is written in L form (R162). -/
theorem dot_int (s : State) (c : Cut) (d a b : Opnd) (size t out : Nat) (h : c.et < 8) : s.dot c d a b size t out
    = s.write c [a, b] c.gov d (c.overLanes fun i => wrapTo out (c.dotInt size t (c.read s a []) (c.read s b [a]) i)) :=
  if_pos h

/-- A dot product of floats is rounded lane by lane, and raises the flags of its governed lanes (R162). -/
theorem dot_float (s : State) (c : Cut) (d a b : Opnd) (size t out : Nat) (hl : c.isPattern = false) (h : 8 ≤ c.et) :
    let r := c.rounded s false fun r i => c.dotFloat size c.et r (c.read s a []) (c.read s b [a]) i
    s.dot c d a b size t out = s.write (c.raiseFlags (c.flagsOf c.gov r.fl)) [a, b] c.gov d r.v := by
  intro r
  refine (if_neg (Nat.not_lt.mpr h)).trans (if_neg ?_)
  simp [needsLanes_of_lane c _ _ hl]

end Sys2Proof.Machine

namespace Sys2Proof
open Sys2Proof.Machine

/-- Settles O17: the pairings of RED and SCAN add modulo the width of an integer type, by induction on their stages. -/
theorem laneReductions : Obligations.LaneReductions := by
  unfold Obligations.LaneReductions
  refine ⟨fun s c l d a b => ⟨fun hr => ?_, fun hr => ?_⟩, fun c op v => ⟨laneInputs_length c op c.et v, fun hl p hp =>
    laneInputs_getElem? c op c.et v p hl hp⟩, fun i s c d a b size t out hi hr => ?_⟩
  · have hl := isPattern_of_lanes s c _ hr rfl
    refine ⟨_, _, fun hg => (exec_red s c l d a b hr).trans (congrArg _ (writeLong_none s c _ _ _ _ _ hl hg)),
      fun hg => (exec_red s c l d a b hr).trans (congrArg _ (writeLong_await s c _ _ _ _ _ hl hg)), ⟨rfl, rfl⟩, fun hop hint hsat => ?_⟩
    rw [hop]
    exact tree_sum s c c.et _ hl hint hsat
  · have hl := isPattern_of_lanes s c _ hr rfl
    refine ⟨_, _, rfl, fun hg => (exec_scan s c l d a b hr).trans (congrArg _ (writeLong_none s c _ _ _ _ _ hl hg)),
      fun hg => (exec_scan s c l d a b hr).trans (congrArg _ (writeLong_await s c _ _ _ _ _ hl hg)),
      ⟨rfl, fun p hp => valAt_overLanes c _ p hl hp⟩, fun hop hint hsat p hp => ?_⟩
    rw [valAt_overLanes c _ p hl hp]
    exact scanned_sum s c c.et (constOf b) _ p hl hop hint hsat (lt_of_position c p hl hp)
  · obtain ⟨hl, hexec⟩ : c.isPattern = false ∧ exec i s = .next (s.dot c d a b size t out) := by
      simp only [List.mem_cons, Prod.mk.injEq, List.not_mem_nil, or_false] at hi
      rcases hi with ⟨rfl, rfl, rfl, rfl⟩ | ⟨rfl, rfl, rfl, rfl⟩ | ⟨rfl, rfl, rfl, rfl⟩ <;>
        exact ⟨isPattern_of_lanes s c _ hr rfl, operate_runs _ s _ c hr⟩
    refine ⟨fun het => ⟨_, rfl, hexec.trans (congrArg _ (dot_int s c d a b size t out het)), fun p hp => valAt_overLanes c _ p hl hp⟩,
      fun het => ⟨_, rounded_isL s c _, hexec.trans (congrArg _ (dot_float s c d a b size t out hl het)), fun p hp => rounded_lane s c _ p hl hp⟩⟩

end Sys2Proof
end

/-! ## The sequencer of a Loom

What its operations do to its accumulators, what its drains store, and its self-test (R68, R69, R243, R247 to R249, R251, R253, R257). -/

section

namespace Sys2Proof.Machine

/-! ### A Loom and its accumulators (R233) -/

@[simp] theorem loomOf_num (s : State) (n : Nat) : (s.loomOf n).num = n := by
  unfold State.loomOf
  cases h : s.looms.find? (·.num == n) with
  | none => rfl
  | some m =>
    have hsome := List.find?_some h
    simpa using hsome

theorem loomOf_putLoom (s : State) (m : Loom) : (s.putLoom m).loomOf m.num = m := by
  unfold State.loomOf State.putLoom
  by_cases h : s.looms.any (·.num == m.num) = true
  · obtain ⟨y, hy⟩ := Option.isSome_iff_exists.mp (List.find?_isSome.mpr (List.any_eq_true.mp h))
    rw [if_pos h, find?_replaced Loom.num m y s.looms hy]
    rfl
  · have hnone : s.looms.find? (·.num == m.num) = none := List.find?_eq_none.mpr fun y hy hb => h (List.any_eq_true.mpr ⟨y, hy, hb⟩)
    simp [h, List.find?_append, hnone]

theorem loomOf_putLoom_of_num (s : State) (m : Loom) (n : Nat) (h : m.num = n) : (s.putLoom m).loomOf n = m := h ▸ loomOf_putLoom s m

theorem loomOf_congr {s t : State} (h : t.looms = s.looms) (n : Nat) : t.loomOf n = s.loomOf n := by
  unfold State.loomOf
  rw [h]

theorem acc_setAcc_same (m : Loom) (a : Nat) (x : Acc) (h : a < m.accs.length) : (m.setAcc a x).acc a = x := by
  rw [Loom.acc, Loom.setAcc, List.getD_eq_getElem?_getD, List.getElem?_set_self h, Option.getD_some]

theorem acc_setAcc_ne (m : Loom) (a b : Nat) (x : Acc) (h : a ≠ b) : (m.setAcc a x).acc b = m.acc b := by
  rw [Loom.acc, Loom.acc, Loom.setAcc, List.getD_eq_getElem?_getD, List.getD_eq_getElem?_getD, List.getElem?_set_ne h]

@[simp] theorem marked_elems (x : Acc) : x.marked.elems = x.elems := by unfold Acc.marked; split <;> rfl
@[simp] theorem marked_kindI (x : Acc) : x.marked.kindI = x.kindI := by unfold Acc.marked; split <;> rfl
@[simp] theorem marked_err (x : Acc) : x.marked.err = x.err := by unfold Acc.marked; split <;> rfl

/-- A step adds to each element the products of its row and its column (R68, R69, R243). -/
theorem step_elem (x : Acc) (et fmt : Nat) (ta tb : Tile) (i j : Nat) (hi : i < 16) (hj : j < 16) :
    (x.step et fmt ta tb).elems[16 * i + j]? = some (if x.kindI
      then accI (x.elems.getD (16 * i + j) 0) ((List.range 32).map fun k =>
        termI fmt ((ta.el.getD i []).getD k none) ((tb.el.getD j []).getD k none))
      else accF (x.elems.getD (16 * i + j) 0) ((List.range 32).map fun k =>
        termF et fmt (ta.sc.getD i 127) (tb.sc.getD j 127) ((ta.el.getD i []).getD k none) ((tb.el.getD j []).getD k none))) := by
  have hdiv : (16 * i + j) / 16 = i := by omega
  have hmod : (16 * i + j) % 16 = j := by omega
  rw [Acc.step, marked_elems, List.getElem?_map, List.getElem?_range (by omega), Option.map_some, hdiv, hmod]

theorem step_err (x : Acc) (et fmt : Nat) (ta tb : Tile) : (x.step et fmt ta tb).err = (x.err || ta.err || tb.err) := by
  rw [Acc.step, marked_err]

/-! ### A running head (R243, R251) -/

/-- A Loom whose head operation runs alone: neither slaved nor due for a test, and no phase of a crew awaits reads. -/
structure HeadRuns (s : State) (n : Nat) (o : LoomOp) (rest : List LoomOp) : Prop where
  conds : ∀ k ∈ s.crews, ∀ b ∈ k.barriers, b.conds = []
  ops : (s.loomOf n).ops = o :: rest
  slave : (s.loomOf n).slave = false
  test : (s.loomOf n).test = []
  asked : (s.loomOf n).asked = none
  accs : (s.loomOf n).accs.length = 4
  acc : o.acc < 4
  halted : haltedAt s o.asid (n / 4) = false
  alone : o.slaved = false

theorem settleConds_of_none (s : State) (h : ∀ k ∈ s.crews, ∀ b ∈ k.barriers, b.conds = []) : s.settleConds = s := by
  have hnone : (s.crews.filter fun k => k.barriers.any fun b => !b.conds.isEmpty) = [] := by
    refine List.filter_eq_nil_iff.mpr fun k hk hany => ?_
    obtain ⟨b, hb, hcond⟩ := List.any_eq_true.mp hany
    simp [h k hk b hb] at hcond
  rw [State.settleConds, hnone, List.foldl_nil]

/-- A Loom after its head operation has retired (R251, R257). -/
def Loom.retired (m : Loom) (o : LoomOp) : Loom :=
  { m with ops := m.ops.drop 1, test := if o.op == 1 || o.op == 2 then o.accs.map fun a => (m.claim.getD (0, 0), a) else m.test }

theorem retireOp_alone (s : State) (n : Nat) (o : LoomOp) (h : o.slaved = false) : s.retireOp n o = s.putLoom ((s.loomOf n).retired o) := by
  unfold State.retireOp
  dsimp only
  rw [if_neg (by simp [h])]
  rfl

theorem loomOf_retireOp (s : State) (n : Nat) (o : LoomOp) (h : o.slaved = false) : (s.retireOp n o).loomOf n = (s.loomOf n).retired o := by
  rw [retireOp_alone s n o h]
  exact loomOf_putLoom_of_num _ _ n (loomOf_num s n)

theorem putLoom_keepsMemory (s : State) (m : Loom) : KeepsMemory s (s.putLoom m) := ⟨rfl, rfl⟩

theorem retireOp_keepsMemory (s : State) (n : Nat) (o : LoomOp) (h : o.slaved = false) : KeepsMemory s (s.retireOp n o) := by
  rw [retireOp_alone s n o h]
  exact putLoom_keepsMemory _ _

theorem retireOp_crews (s : State) (n : Nat) (o : LoomOp) (h : o.slaved = false) : (s.retireOp n o).crews = s.crews := by
  rw [retireOp_alone s n o h, putLoom_crews]

theorem retireOp_storeQ (s : State) (n : Nat) (o : LoomOp) (h : o.slaved = false) : (s.retireOp n o).storeQ = s.storeQ := by
  rw [retireOp_alone s n o h, putLoom_storeQ]

/-- What a Loom's head operation does by its kind. -/
def State.runHead (s : State) (n : Nat) (o : LoomOp) : State :=
  match o.op with
  | 0 => s.loadStep n o
  | 3 => (s.putLoom ((s.loomOf n).setAcc o.acc (zeroAcc (o.et == 4)))).retireOp n o
  | 4 => s
  | _ => match s.beginPair n o with
    | some (s, o) => s.productStep n o
    | none => s

section
variable {s : State} {n : Nat} {o : LoomOp} {rest : List LoomOp} (h : HeadRuns s n o rest)
include h

/-- The sequencer takes up its head operation. -/
theorem loomStep_head : s.loomStep n = s.runHead n o := by
  unfold State.loomStep
  dsimp only
  rw [if_neg (by simp [h.slave, h.test, h.asked]), h.ops]
  dsimp only
  rw [if_neg (by simp [h.halted])]
  rfl

theorem exec_loomStep (t : State) (hstep : s.runHead n o = t) (hcrews : t.crews = s.crews) : exec (.loomStep n) s = .next t := by
  have hconds : t.settleConds = t := settleConds_of_none t (by rw [hcrews]; exact h.conds)
  have hexec : exec (.loomStep n) s = .next (s.loomStep n).settleConds := rfl
  rw [hexec, loomStep_head h, hstep, hconds]

/-! ### MZERO (R247) -/

/-- MZERO sets its accumulator to zero of a kind. -/
theorem loomStep_zeroes (hop : o.op = 3) : ∃ t, exec (.loomStep n) s = .next t ∧ t = { s with looms := t.looms }
    ∧ t.loomOf n = { (s.loomOf n).setAcc o.acc (zeroAcc (o.et == 4)) with ops := rest } := by
  have hrun : s.runHead n o = (s.putLoom ((s.loomOf n).setAcc o.acc (zeroAcc (o.et == 4)))).retireOp n o := by
    simp only [State.runHead, hop]
  have hput : (s.putLoom ((s.loomOf n).setAcc o.acc (zeroAcc (o.et == 4)))).loomOf n = (s.loomOf n).setAcc o.acc (zeroAcc (o.et == 4)) :=
    loomOf_putLoom_of_num _ _ n (loomOf_num s n)
  refine ⟨_, exec_loomStep h _ hrun ?_, ?_, ?_⟩
  · rw [retireOp_crews _ n o h.alone, putLoom_crews]
  · rw [retireOp_alone _ n o h.alone]; rfl
  · rw [loomOf_retireOp _ n o h.alone, hput]
    simp [Loom.retired, Loom.setAcc, hop, h.ops]

end

/-! ### What an operand fetch leaves alone (R245, R253, R363) -/

/-- Two states that differ at most in what the fetches of a Loom's operands change: the caches of translations, flaws and poison, registers,
the weight buffers, and the requests to other devices. -/
def FetchesOnly (s t : State) : Prop :=
  t = { s with win := t.win, poison := t.poison, flaws := t.flaws, tlb := t.tlb, fabric := t.fabric, nextId := t.nextId
               remotes := t.remotes, wbuf := t.wbuf }

theorem FetchesOnly.refl (s : State) : FetchesOnly s s := rfl

theorem FetchesOnly.trans {s t u : State} (h : FetchesOnly s t) (k : FetchesOnly t u) : FetchesOnly s u := by
  unfold FetchesOnly at h k ⊢
  rw [k, h]

theorem SameButReads.fetchesOnly {s t : State} (h : SameButReads s t) : FetchesOnly s t := by
  unfold FetchesOnly
  rw [h.eq]

theorem foldl_fetchesOnly {α : Type} (f : State → α → State) (h : ∀ s a, FetchesOnly s (f s a)) (xs : List α) (s : State) :
    FetchesOnly s (xs.foldl f s) :=
  foldl_rel FetchesOnly FetchesOnly.refl FetchesOnly.trans f h xs s

section
variable {s t : State} (h : FetchesOnly s t)
include h

theorem FetchesOnly.eq : t = { s with win := t.win, poison := t.poison, flaws := t.flaws, tlb := t.tlb, fabric := t.fabric
                                      nextId := t.nextId, remotes := t.remotes, wbuf := t.wbuf } := h
theorem FetchesOnly.looms : t.looms = s.looms := by rw [h.eq]
theorem FetchesOnly.crews : t.crews = s.crews := by rw [h.eq]
theorem FetchesOnly.loomOf (n : Nat) : t.loomOf n = s.loomOf n := loomOf_congr h.looms n
theorem FetchesOnly.keepsMemory : KeepsMemory s t := ⟨by rw [h.eq], by rw [h.eq]⟩

end

theorem send_fetchesOnly (s : State) (part : Nat) (m : FabMsg) : FetchesOnly s (s.send part m) := by
  unfold State.send
  split <;> rfl

theorem askPieces_fetchesOnly (s : State) (n : Nat) (o : LoomOp) (rows : List Row) : FetchesOnly s (s.askPieces n o rows) := by
  refine foldl_fetchesOnly _ (fun s p => ?_) _ s
  have hxlat := (xlatted_sameButReads s (LoomOp.unit n) o.asid p.1).fetchesOnly
  dsimp only
  split
  · split
    · exact hxlat
    · exact (hxlat.trans (send_fetchesOnly _ _ _)).trans rfl
  · exact hxlat.trans (readAll_sameButReads _ _ _).fetchesOnly
  · exact hxlat

theorem bringTile_fetchesOnly (s : State) (n : Nat) (o : LoomOp) (m : TileMap) (l0 k0 : Nat) : FetchesOnly s (s.bringTile n o m l0 k0) := by
  unfold State.bringTile
  split
  · rfl
  · rfl
  · split
    · rfl
    · have hkeep : ∀ t : WTile, FetchesOnly s (s.keepTile t) := fun _ => rfl
      exact (hkeep _).trans (foldl_fetchesOnly _ (fun s _ => (readAll_sameButReads s _ _).fetchesOnly) _ _)

theorem operandError_fetchesOnly (s : State) (n : Nat) (err : Bool) : FetchesOnly s (s.operandError n err) := by
  cases err with
  | true => exact (setField_sameButWin s _ _ _ _).sameButReads.fetchesOnly
  | false => rfl

/-! ### MLD (R248) -/

/-- The rows that an MLD reads. -/
def LoomOp.loadRow (o : LoomOp) (r : Nat) : Row := ⟨ptrAdd o.a (r * o.b.toNat), 16 * elemBytes o.et, .read, elemBytes o.et⟩
def LoomOp.loadRows (o : LoomOp) : List Row := (List.range 16).map o.loadRow

/-- An element as MLD converts it. -/
def loadElem (et : Nat) (bs : List Byte) : W32 :=
  let x := BitVec.ofNat 64 (natLE bs)
  if et = 4 then x.setWidth 32 else BitVec.ofNat 32 (roundTo 10 (rne false) (value et x)).1

/-- The accumulator that an MLD makes of the bytes it has read. -/
def loadedAcc (et : Nat) (bs : List Byte) : Acc :=
  ({ zeroAcc (et == 4) with elems := (List.range 256).map fun j => loadElem et ((bs.drop (j * elemBytes et)).take (elemBytes et)) } : Acc).marked

/-- Rows that have come without error have none. -/
theorem any_err_of_got (rows : List Row) (g : Row → List Byte) (err : Fetched → Bool) (herr : ∀ bs, err (.got bs false) = false) :
    ((rows.map fun r => Fetched.got (g r) false).any err) = false := by
  simp [herr]

/-- An MLD whose rows have all come without error loads what they hold. -/
theorem loadStep_got (s : State) (n : Nat) (o : LoomOp) (g : Row → List Byte)
    (h : ∀ r ∈ o.loadRows, o.row (s.askPieces n o o.loadRows) n r.ptr r.len = .got (g r) false) :
    let q := s.askPieces n o o.loadRows
    s.loadStep n o = (q.putLoom ((q.loomOf n).setAcc o.acc (loadedAcc o.et (o.loadRows.flatMap g)))).retireOp n o := by
  intro q
  have hgot : (o.loadRows.map fun r => o.row q n r.ptr r.len) = o.loadRows.map fun r => .got (g r) false := List.map_congr_left h
  have hrows : ((List.range 16).map fun r => (⟨ptrAdd o.a (r * o.b.toNat), 16 * elemBytes o.et, .read, elemBytes o.et⟩ : Row)) = o.loadRows := rfl
  unfold State.loadStep
  dsimp only
  rw [hrows, hgot, if_neg (by simp), List.flatMap_map, any_err_of_got _ g _ fun _ => rfl]
  rfl

/-- What lies within one part of a list of equal parts. -/
theorem part_of_flatMap {α β : Type} (pre post : List α) (x : α) (g : α → List β) (len k m : Nat) (hlen : ∀ y ∈ pre ++ x :: post, (g y).length = len)
    (hk : k + m ≤ len) : (((pre ++ x :: post).flatMap g).drop (pre.length * len + k)).take m = ((g x).drop k).take m := by
  have hpre : (pre.flatMap g).length = pre.length * len := by
    rw [List.length_flatMap, List.map_congr_left (g := fun _ => len) fun y hy => hlen y (by simp [hy])]
    simp
  have hx : (g x).length = len := hlen x (by simp)
  rw [List.flatMap_append, List.flatMap_cons, ← hpre, ← List.drop_drop, List.drop_left' rfl, List.drop_append_of_le_length (by omega),
    List.take_append_of_le_length (by rw [List.length_drop]; omega)]

theorem range_split (n r : Nat) (h : r < n) : ∃ post, List.range n = List.range r ++ r :: post := by
  refine ⟨(List.range (n - r - 1)).map fun i => r + (i + 1), ?_⟩
  have hn : n = r + (n - r - 1 + 1) := by omega
  conv_lhs => rw [hn, List.range_add, List.range_succ_eq_map, List.map_cons, List.map_map]
  rfl

/-- Each element of a loaded accumulator is the one that its row has read, converted. -/
theorem loadedAcc_elem (o : LoomOp) (g : Row → List Byte) (r j : Nat) (hr : r < 16) (hj : j < 16)
    (hlen : ∀ x ∈ o.loadRows, (g x).length = 16 * elemBytes o.et) :
    (loadedAcc o.et (o.loadRows.flatMap g)).elems[16 * r + j]?
      = some (loadElem o.et (((g (o.loadRow r)).drop (j * elemBytes o.et)).take (elemBytes o.et))) := by
  obtain ⟨post, hsplit⟩ := range_split 16 r hr
  have hrows : o.loadRows = (List.range r).map o.loadRow ++ o.loadRow r :: post.map o.loadRow := by
    rw [LoomOp.loadRows, hsplit, List.map_append, List.map_cons]
  have hroom : j * elemBytes o.et + elemBytes o.et ≤ 16 * elemBytes o.et := by
    rw [← Nat.succ_mul]
    exact Nat.mul_le_mul_right _ hj
  have hpos : (16 * r + j) * elemBytes o.et = ((List.range r).map o.loadRow).length * (16 * elemBytes o.et) + j * elemBytes o.et := by
    rw [List.length_map, List.length_range]
    ring
  rw [loadedAcc, marked_elems, List.getElem?_map, List.getElem?_range (by omega), Option.map_some, hpos, hrows,
    part_of_flatMap _ _ _ g _ _ _ (hrows ▸ hlen) hroom]

theorem loadedAcc_kindI (et : Nat) (bs : List Byte) : (loadedAcc et bs).kindI = (et == 4) := by rw [loadedAcc, marked_kindI]; rfl
theorem loadedAcc_err (et : Nat) (bs : List Byte) : (loadedAcc et bs).err = false := by rw [loadedAcc, marked_err]; rfl

/-- An accumulator that a Loom's head operation stores before it retires is the Loom's, and the operations behind it are left. -/
theorem retired_after_put (q : State) (n : Nat) (o : LoomOp) (m : Loom) (hm : m.num = n) (halone : o.slaved = false) :
    ((q.putLoom m).retireOp n o).loomOf n = m.retired o := by
  rw [loomOf_retireOp _ n o halone, loomOf_putLoom_of_num q m n hm]

theorem acc_retired (m : Loom) (o : LoomOp) (a : Nat) : (m.retired o).acc a = m.acc a := rfl

section
variable {s : State} {n : Nat} {o : LoomOp} {rest : List LoomOp} (h : HeadRuns s n o rest)
include h

/-- MLD loads its accumulator from the rows that it reads. -/
theorem loomStep_loads (hop : o.op = 0) (g : Row → List Byte)
    (hrows : ∀ r ∈ o.loadRows, o.row (s.askPieces n o o.loadRows) n r.ptr r.len = .got (g r) false) :
    ∃ t, exec (.loomStep n) s = .next t ∧ KeepsMemory s t ∧ (t.loomOf n).ops = rest
      ∧ (t.loomOf n).acc o.acc = loadedAcc o.et (o.loadRows.flatMap g) := by
  have hq := askPieces_fetchesOnly s n o o.loadRows
  have hrun : s.runHead n o = s.loadStep n o := by simp only [State.runHead, hop]
  have hloom := retired_after_put (s.askPieces n o o.loadRows) n o
    (((s.askPieces n o o.loadRows).loomOf n).setAcc o.acc (loadedAcc o.et (o.loadRows.flatMap g))) (loomOf_num _ n) h.alone
  refine ⟨_, exec_loomStep h _ (hrun.trans (loadStep_got s n o g hrows)) ?_, ?_, ?_, ?_⟩
  · rw [retireOp_crews _ n o h.alone, putLoom_crews, hq.crews]
  · exact (hq.keepsMemory.trans (putLoom_keepsMemory _ _)).trans (retireOp_keepsMemory _ n o h.alone)
  · rw [hloom, hq.loomOf n]
    exact congrArg (List.drop 1) h.ops
  · rw [hloom, acc_retired, acc_setAcc_same _ _ _ (by rw [hq.loomOf n, h.accs]; exact h.acc)]

end

/-! ### MMA (R243) -/

theorem accs_single (o : LoomOp) (h : o.op = 1) : o.accs = [o.acc] := by
  rw [LoomOp.accs, if_neg (by omega)]

theorem fetcher_first (o : LoomOp) (n : Nat) : o.fetcher n 0 = n := if_neg (by omega)

/-- The B tile of an MMA comes through its own Loom's fetcher. -/
theorem bringB_single (s : State) (n : Nat) (o : LoomOp) (mb : TileMap) (h : o.op = 1) :
    s.bringB n o mb = s.bringTile n o mb (mb.line0 o.b) (mb.elem0 o.b + 32 * o.step) := by
  rw [State.bringB, accs_single o h]
  exact congrArg (fun f => s.bringTile f o mb _ _) (fetcher_first o n)

theorem tilesB_single (s : State) (n : Nat) (o : LoomOp) (mb : TileMap) (tb : Tile) (h : o.op = 1)
    (htb : o.tile s n mb (mb.line0 o.b) (mb.elem0 o.b + 32 * o.step) = some tb) : o.tilesB s n mb = some [tb] := by
  rw [LoomOp.tilesB, accs_single o h]
  simp [List.range_succ, fetcher_first, htb]

theorem rowsB_single (o : LoomOp) (mb : TileMap) (h : o.op = 1) :
    ((List.range o.accs.length).flatMap fun k => mb.rowsOf (mb.line0 o.b + 16 * k) (mb.elem0 o.b + 32 * o.step) .read)
      = mb.rowsOf (mb.line0 o.b) (mb.elem0 o.b + 32 * o.step) .read := by
  rw [accs_single o h]
  simp [List.range_succ]

/-- What the operands of an MMA's step are fetched from. -/
def State.fetchMma (s : State) (n : Nat) (o : LoomOp) (ma mb : TileMap) : State :=
  (s.askPieces n o (ma.rowsOf (ma.line0 o.a) (ma.elem0 o.a + 32 * o.step) .read
    ++ mb.rowsOf (mb.line0 o.b) (mb.elem0 o.b + 32 * o.step) .read)).bringTile n o mb (mb.line0 o.b) (mb.elem0 o.b + 32 * o.step)

theorem fetchMma_fetchesOnly (s : State) (n : Nat) (o : LoomOp) (ma mb : TileMap) : FetchesOnly s (s.fetchMma n o ma mb) :=
  (askPieces_fetchesOnly s n o _).trans (bringTile_fetchesOnly _ n o mb _ _)

/-- A Loom after a step of an MMA that leaves steps to do. -/
def Loom.stepped (m : Loom) (o : LoomOp) (fmt : Nat) (ta tb : Tile) : Loom :=
  { m.setAcc o.acc ((m.acc o.acc).step o.et fmt ta tb) with ops := { o with step := o.step + 1 } :: m.ops.drop 1 }

/-- A step of an MMA on its accumulator, before the operation retires. -/
def State.multiplied (s : State) (n : Nat) (o : LoomOp) (fmt : Nat) (ta tb : Tile) : State :=
  (s.putLoom ((s.loomOf n).stepped o fmt ta tb)).operandError n (ta.err || tb.err)

theorem multiplied_fetchesOnly (s : State) (n : Nat) (o : LoomOp) (fmt : Nat) (ta tb : Tile) :
    FetchesOnly (s.putLoom ((s.loomOf n).stepped o fmt ta tb)) (s.multiplied n o fmt ta tb) := operandError_fetchesOnly _ n _

theorem loomOf_multiplied (s : State) (n : Nat) (o : LoomOp) (fmt : Nat) (ta tb : Tile) :
    (s.multiplied n o fmt ta tb).loomOf n = (s.loomOf n).stepped o fmt ta tb :=
  ((multiplied_fetchesOnly s n o fmt ta tb).loomOf n).trans (loomOf_putLoom_of_num _ _ n (loomOf_num s n))

theorem applyStep_single (s : State) (n : Nat) (o : LoomOp) (fmt : Nat) (ta tb : Tile) (h : o.op = 1) :
    s.applyStep n o fmt ta [tb] = if o.steps ≤ o.step + 1 then (s.multiplied n o fmt ta tb).retireOp n { o with step := o.step + 1 }
      else s.multiplied n o fmt ta tb := by
  unfold State.applyStep
  simp [accs_single o h, List.range_succ, State.multiplied, Loom.stepped, Loom.setAcc]

/-- The head operation MMA fetches its operands and, once their tiles have come, applies its step. -/
theorem runHead_mma (s : State) (n : Nat) (o : LoomOp) (ma mb : TileMap) (ta tb : Tile) (hop : o.op = 1) (hstream : o.stream = none)
    (hstep : o.step < o.steps) (hmb : (s.launchOf o.lid).mapOf o.b 1 = some mb) (hma : (s.launchOf o.lid).mapOf o.a 0 = some ma)
    (htb : o.tile (s.fetchMma n o ma mb) n mb (mb.line0 o.b) (mb.elem0 o.b + 32 * o.step) = some tb)
    (hta : o.tile (s.fetchMma n o ma mb) n ma (ma.line0 o.a) (ma.elem0 o.a + 32 * o.step) = some ta) :
    s.runHead n o = (s.fetchMma n o ma mb).applyStep n o mb.fmt ta [tb] := by
  have hhead : s.runHead n o = s.productStep n o := by simp [State.runHead, State.beginPair, hop]
  have hfetch : ((s.askPieces n o (ma.rowsOf (ma.line0 o.a) (ma.elem0 o.a + 32 * o.step) .read
      ++ mb.rowsOf (mb.line0 o.b) (mb.elem0 o.b + 32 * o.step) .read)).bringB n o mb) = s.fetchMma n o ma mb := bringB_single _ n o mb hop
  rw [hhead, State.productStep]
  dsimp only
  rw [hmb]
  dsimp only
  rw [if_neg (by omega), hstream, hma, rowsB_single o mb hop]
  dsimp only
  rw [hfetch, tilesB_single _ n o mb tb hop htb, hta]

section
variable {s : State} {n : Nat} {o : LoomOp} {rest : List LoomOp} (h : HeadRuns s n o rest)
include h

/-- A step of an MMA whose tiles have come adds their products to its accumulator, and the last retires it. -/
theorem loomStep_multiplies (ma mb : TileMap) (ta tb : Tile) (hop : o.op = 1) (hstream : o.stream = none) (hstep : o.step < o.steps)
    (hmb : (s.launchOf o.lid).mapOf o.b 1 = some mb) (hma : (s.launchOf o.lid).mapOf o.a 0 = some ma)
    (htb : o.tile (s.fetchMma n o ma mb) n mb (mb.line0 o.b) (mb.elem0 o.b + 32 * o.step) = some tb)
    (hta : o.tile (s.fetchMma n o ma mb) n ma (ma.line0 o.a) (ma.elem0 o.a + 32 * o.step) = some ta) :
    ∃ t, exec (.loomStep n) s = .next t ∧ KeepsMemory s t
      ∧ (t.loomOf n).acc o.acc = ((s.loomOf n).acc o.acc).step o.et mb.fmt ta tb
      ∧ (t.loomOf n).ops = if o.step + 1 < o.steps then { o with step := o.step + 1 } :: rest else rest := by
  have hq := fetchMma_fetchesOnly s n o ma mb
  have hrun := runHead_mma s n o ma mb ta tb hop hstream hstep hmb hma htb hta
  rw [applyStep_single _ n o mb.fmt ta tb hop] at hrun
  have hu := multiplied_fetchesOnly (s.fetchMma n o ma mb) n o mb.fmt ta tb
  have hloom := loomOf_multiplied (s.fetchMma n o ma mb) n o mb.fmt ta tb
  rw [hq.loomOf n] at hloom
  generalize (s.fetchMma n o ma mb).multiplied n o mb.fmt ta tb = u at hrun hu hloom
  have hacc : ((s.loomOf n).stepped o mb.fmt ta tb).acc o.acc = ((s.loomOf n).acc o.acc).step o.et mb.fmt ta tb :=
    acc_setAcc_same _ _ _ (by rw [h.accs]; exact h.acc)
  have hkeeps : KeepsMemory s u := hq.keepsMemory.trans hu.keepsMemory
  have hcrews : u.crews = s.crews := hu.crews.trans hq.crews
  have hrest : (s.loomOf n).ops.drop 1 = rest := congrArg (List.drop 1) h.ops
  by_cases hlast : o.steps ≤ o.step + 1
  · rw [if_pos hlast] at hrun
    have hret := loomOf_retireOp u n { o with step := o.step + 1 } h.alone
    refine ⟨_, exec_loomStep h _ hrun ((retireOp_crews u n _ h.alone).trans hcrews), hkeeps.trans (retireOp_keepsMemory u n _ h.alone), ?_, ?_⟩
    · rw [hret, acc_retired, hloom, hacc]
    · rw [hret, hloom, if_neg (by omega)]
      exact hrest
  · rw [if_neg hlast] at hrun
    refine ⟨u, exec_loomStep h _ hrun hcrews, hkeeps, by rw [hloom, hacc], ?_⟩
    rw [hloom, if_pos (by omega), ← hrest]
    rfl

end

/-! ### The stores of a drain (R128, R249, R253) -/

/-- The parts of a drain's writes, none across a sector. -/
def drainParts (ws : List (W64 × List Byte)) : List (W64 × List Byte) :=
  ws.flatMap fun p => (sectorPieces p.1 p.2.length).map fun q => (q.1, (p.2.drop (q.1.toNat - p.1.toNat)).take q.2)

/-- The state of a drain once the addresses of its parts are translated. -/
def State.drainXlat (s : State) (n : Nat) (o : LoomOp) (parts : List (W64 × List Byte)) : State :=
  parts.foldl (fun (s : State) p => s.xlatted (.bench (n / 4)) o.asid p.1) s

/-- The bytes that a drain stores, each at its location; parts whose pages are absent store none. -/
def LoomOp.drainSent (u : State) (n : Nat) (o : LoomOp) (parts : List (W64 × List Byte)) : List StoredByte :=
  parts.flatMap fun p => match (xlat u (.bench (n / 4)) o.asid p.1).loc with
    | none => []
    | some l => (List.range p.2.length).map fun i => ⟨locAt l (locOff l + i), p.2.getD i 0, o.il, ptrAdd p.1 i⟩

/-- The records of a drain's stores. -/
def LoomOp.drainRecords (u : State) (n : Nat) (o : LoomOp) (sent : List StoredByte) : List Store :=
  ((List.range (gather sent).length).zip (gather sent)).map fun p => o.storeOf (u.nextId + p.1) (n / 4) p.2

/-- The records enter the store queue, or in quantum mode await the commit. -/
def State.queueDrain (u : State) (n : Nat) (o : LoomOp) (recs : List Store) : State :=
  let s : State := { u with nextId := u.nextId + recs.length }
  if (s.launchOf o.lid).qm then
    { s with qeff := s.qeff ++ recs.map fun w => (⟨o.lid, o.uid, o.cutid, o.seq, o.il, o.pc, n / 4, o.asid, .store w⟩ : QEntry) }
  else { s with storeQ := s.storeQ ++ recs }

/-- A late fault of a drain at an address. -/
def State.lateDrain (s : State) (o : LoomOp) (ptr : W64) : State :=
  s.holdLate o.lid o.cutid ⟨o.uid, o.seq, o.il, BitVec.ofNat 64 causeLSF, ptr, itemLanes s o.lid o.il, o.pc, 0⟩

theorem drainStores_eq (s : State) (n : Nat) (o : LoomOp) (ws : List (W64 × List Byte)) :
    let parts := drainParts ws
    let u := s.drainXlat n o parts
    let v := u.queueDrain n o (o.drainRecords u n (o.drainSent u n parts))
    s.drainStores n o ws = (parts.filter fun p => (xlat v (.bench (n / 4)) o.asid p.1).loc.isNone).foldl (fun s p => s.lateDrain o p.1) v := by
  intro parts u v
  unfold State.drainStores
  extract_lets p1 unit1 s1 bytes1 recs1 s2 s3
  have hbytes : bytes1 = o.drainSent u n parts := List.flatMap_congr fun p _ => by
    change (match (xlat u (.bench (n / 4)) o.asid p.1).loc with | some l => _ | none => _) = _
    cases (xlat u (.bench (n / 4)) o.asid p.1).loc <;> rfl
  have hrecs : recs1 = o.drainRecords u n (o.drainSent u n parts) := by rw [← hbytes]; rfl
  have hput : s3 = v := by
    change u.queueDrain n o recs1 = u.queueDrain n o _
    rw [hrecs]
  rw [hput]
  rfl

/-! ### Late faults of a drain (R128, R341) -/

/-- Two states that differ at most in what a late fault changes: the cuts, or what the fault record writes. -/
def FaultsOnly (s t : State) : Prop :=
  t = { s with mem := t.mem, stale := t.stale, views := t.views, poison := t.poison, win := t.win, cuts := t.cuts }

theorem FaultsOnly.trans {s t u : State} (h : FaultsOnly s t) (k : FaultsOnly t u) : FaultsOnly s u := by
  unfold FaultsOnly at h k ⊢
  rw [k, h]

section
variable {s t : State} (h : FaultsOnly s t)
include h

theorem FaultsOnly.eq : t = { s with mem := t.mem, stale := t.stale, views := t.views, poison := t.poison, win := t.win, cuts := t.cuts } := h
theorem FaultsOnly.looms : t.looms = s.looms := by rw [h.eq]
theorem FaultsOnly.crews : t.crews = s.crews := by rw [h.eq]
theorem FaultsOnly.storeQ : t.storeQ = s.storeQ := by rw [h.eq]

end

theorem holdLate_faultsOnly (s : State) (lid : Nat) (cutid : W64) (f : LateFault) : FaultsOnly s (s.holdLate lid cutid f) := by
  unfold State.holdLate
  split
  · rfl
  · exact (faultRecord_writesOnly s _ _).1

theorem foldl_lateDrain_faultsOnly (o : LoomOp) (ps : List (W64 × List Byte)) (s : State) :
    FaultsOnly s (ps.foldl (fun s p => s.lateDrain o p.1) s) :=
  foldl_rel FaultsOnly (fun _ => rfl) FaultsOnly.trans _ (fun s _ => holdLate_faultsOnly s _ _ _) ps s

/-- Some cut holds the item that an operation was issued for. -/
def LoomOp.Held (s : State) (o : LoomOp) : Prop :=
  ∃ c ∈ s.cuts, c.lid = o.lid ∧ c.isOf o.uid = true ∧ ∃ i ∈ c.positions, c.ilAt s i = o.il

theorem LoomOp.Held.congr {s t : State} {o : LoomOp} (h : o.Held s) (hc : t.cuts = s.cuts) (hl : t.launches = s.launches) : o.Held t := by
  obtain ⟨c, hmem, hlid, hof, i, hi, hil⟩ := h
  refine ⟨c, hc ▸ hmem, hlid, hof, i, hi, ?_⟩
  rw [← hil, Cut.ilAt, Cut.ilAt, State.launchOf, State.launchOf, hl]

/-- A late fault whose item some cut holds is that cut's, and memory stays. -/
theorem lateDrain_held (s : State) (o : LoomOp) (ptr : W64) (h : o.Held s) : KeepsMemory s (s.lateDrain o ptr) ∧ o.Held (s.lateDrain o ptr) := by
  obtain ⟨d, hd, hlid, hof, i, hi, hil⟩ := h
  unfold State.lateDrain State.holdLate
  split
  · next c hfind =>
    have hp := List.find?_some hfind
    simp only [Bool.and_eq_true, beq_iff_eq, List.any_eq_true] at hp
    obtain ⟨⟨hclid, hcof⟩, j, hj, hcil⟩ := hp
    exact ⟨⟨rfl, rfl⟩, _, List.mem_map.mpr ⟨c, List.mem_of_find?_eq_some hfind, if_pos rfl⟩, hclid, hcof, j, hj, hcil⟩
  · next hnone =>
    refine absurd (List.find?_eq_none.mp hnone d hd) ?_
    simp only [hlid, hof, beq_self_eq_true, Bool.and_true, Bool.true_and, List.any_eq_true, beq_iff_eq, not_not]
    exact ⟨i, hi, hil⟩

theorem foldl_lateDrain_held (o : LoomOp) (ps : List (W64 × List Byte)) (s : State) (h : o.Held s) :
    KeepsMemory s (ps.foldl (fun s p => s.lateDrain o p.1) s) := by
  induction ps generalizing s with
  | nil => exact ⟨rfl, rfl⟩
  | cons p ps ih =>
    obtain ⟨hmem, hheld⟩ := lateDrain_held s o p.1 h
    exact hmem.trans (ih _ hheld)

/-! ### What a drain's stores leave and add (R249, R253) -/

theorem drainXlat_sameButReads (s : State) (n : Nat) (o : LoomOp) (parts : List (W64 × List Byte)) : SameButReads s (s.drainXlat n o parts) := by
  unfold State.drainXlat
  exact foldl_sameButReads _ (fun s p => xlatted_sameButReads s _ _ _) _ s

theorem queueDrain_frame (u : State) (n : Nat) (o : LoomOp) (recs : List Store) :
    let v := u.queueDrain n o recs
    v.looms = u.looms ∧ v.crews = u.crews ∧ v.cuts = u.cuts ∧ v.launches = u.launches ∧ v.mem = u.mem ∧ v.host = u.host := by
  unfold State.queueDrain
  dsimp only
  split <;> exact ⟨rfl, rfl, rfl, rfl, rfl, rfl⟩

theorem queueDrain_storeQ (u : State) (n : Nat) (o : LoomOp) (recs : List Store) (h : (u.launchOf o.lid).qm = false) :
    (u.queueDrain n o recs).storeQ = u.storeQ ++ recs := by
  have hqm : (State.launchOf { u with nextId := u.nextId + recs.length } o.lid).qm = false := h
  unfold State.queueDrain
  dsimp only
  rw [if_neg (by simp [hqm])]

theorem drainRecords_writes (u : State) (n : Nat) (o : LoomOp) (sent : List StoredByte) :
    (o.drainRecords u n sent).map (fun w => (w.loc, w.op)) = (gather sent).map fun w => (w.loc, w.op) := by
  rw [LoomOp.drainRecords, List.map_map]
  have hsnd : ((fun w : Store => (w.loc, w.op)) ∘ fun p : Nat × Write => o.storeOf (u.nextId + p.1) (n / 4) p.2)
      = (fun w : Write => (w.loc, w.op)) ∘ Prod.snd := rfl
  rw [hsnd, ← List.map_map, List.map_snd_zip (by simp)]

theorem drainRecords_maker (u : State) (n : Nat) (o : LoomOp) (sent : List StoredByte) (w : Store) (h : w ∈ o.drainRecords u n sent) :
    w.uid = o.uid ∧ w.seq = o.seq ∧ w.scope = o.scope ∧ w.order = o.order := by
  obtain ⟨p, -, rfl⟩ := List.mem_map.mp h
  exact ⟨rfl, rfl, rfl, rfl⟩

/-- A drain's stores leave the Looms, the crews and, while a cut holds their item, memory, and add records to the store queue. -/
theorem drainStores_facts (s : State) (n : Nat) (o : LoomOp) (ws : List (W64 × List Byte)) :
    let parts := drainParts ws
    let u := s.drainXlat n o parts
    let t := s.drainStores n o ws
    t.looms = s.looms ∧ t.crews = s.crews ∧ (o.Held s → KeepsMemory s t)
      ∧ ((s.launchOf o.lid).qm = false → t.storeQ = s.storeQ ++ o.drainRecords u n (o.drainSent u n parts)) := by
  intro parts u t
  have hu : SameButReads s u := drainXlat_sameButReads s n o parts
  obtain ⟨hlooms, hcrews, hcuts, hlaunches, hmem, hhost⟩ := queueDrain_frame u n o (o.drainRecords u n (o.drainSent u n parts))
  have hqueue := queueDrain_storeQ u n o (o.drainRecords u n (o.drainSent u n parts))
  have ht : t = _ := drainStores_eq s n o ws
  clear_value t
  subst ht
  generalize u.queueDrain n o (o.drainRecords u n (o.drainSent u n parts)) = v at *
  have hf := foldl_lateDrain_faultsOnly o (parts.filter fun p => (xlat v (.bench (n / 4)) o.asid p.1).loc.isNone) v
  have hul : u.looms = s.looms := by rw [hu.eq]
  have huc : u.crews = s.crews := by rw [hu.eq]
  have hulaunches : u.launches = s.launches := by rw [hu.eq]
  have huq : u.storeQ = s.storeQ := by rw [hu.eq]
  refine ⟨hf.looms.trans (hlooms.trans hul), hf.crews.trans (hcrews.trans huc), fun hheld => ?_, fun hqm => ?_⟩
  · have hv : o.Held v := hheld.congr (hcuts.trans hu.cuts) (hlaunches.trans hulaunches)
    exact hu.keepsMemory.trans (KeepsMemory.trans ⟨hmem, hhost⟩ (foldl_lateDrain_held o _ v hv))
  · have hl : u.launchOf o.lid = s.launchOf o.lid := by rw [State.launchOf, State.launchOf, hulaunches]
    rw [hf.storeQ, hqueue (by rw [hl, hqm]), huq]

/-! ### MDRN (R249) -/

/-- A Loom whose accumulator is zeroed, its kind kept. -/
def Loom.zeroed (m : Loom) (a : Nat) : Loom := m.setAcc a (zeroAcc (m.acc a).kindI)

/-- A Loom after a drain: the pair zeroed, and the claim released, as the drain's flags tell. -/
def Loom.drained (m : Loom) (n : Nat) (o : LoomOp) : Loom :=
  let m := if bit o.b 0 then (m.zeroed o.acc).zeroed (o.acc + 1) else m
  if bit o.b 1 then { m with claim := none, accs := (freshLoom n).accs } else m

theorem drained_num (m : Loom) (n : Nat) (o : LoomOp) : (m.drained n o).num = m.num := by
  unfold Loom.drained
  split <;> split <;> rfl

theorem drained_ops (m : Loom) (n : Nat) (o : LoomOp) : (m.drained n o).ops = m.ops := by
  unfold Loom.drained
  split <;> split <;> rfl

theorem drained_released (m : Loom) (n : Nat) (o : LoomOp) (h : bit o.b 1 = true) :
    (m.drained n o).claim = none ∧ (m.drained n o).accs = (freshLoom n).accs := by
  simp [Loom.drained, h]

theorem drained_claim (m : Loom) (n : Nat) (o : LoomOp) (h : bit o.b 1 = false) : (m.drained n o).claim = m.claim := by
  unfold Loom.drained
  rw [h]
  split <;> rfl

theorem drained_kept (m : Loom) (n : Nat) (o : LoomOp) (h : bit o.b 1 = false) (hz : bit o.b 0 = false) : (m.drained n o).accs = m.accs := by
  simp [Loom.drained, h, hz]

theorem drained_zeroed (m : Loom) (n : Nat) (o : LoomOp) (j : Nat) (h : bit o.b 1 = false) (hz : bit o.b 0 = true) (hlen : m.accs.length = 4)
    (ha : o.acc < 3) (hj : j < 2) : (m.drained n o).acc (o.acc + j) = zeroAcc (m.acc (o.acc + j)).kindI := by
  have hdrained : m.drained n o = (m.zeroed o.acc).zeroed (o.acc + 1) := by simp [Loom.drained, h, hz]
  have hlen' : (m.zeroed o.acc).accs.length = 4 := by rw [← hlen]; exact List.length_set
  rw [hdrained]
  obtain rfl | rfl : j = 0 ∨ j = 1 := by omega
  · refine (acc_setAcc_ne _ _ _ _ (by omega)).trans ?_
    exact acc_setAcc_same _ _ _ (by omega)
  · refine (acc_setAcc_same _ _ _ (by omega)).trans ?_
    rw [Loom.zeroed, acc_setAcc_ne _ _ _ _ (by omega)]

section
variable {s : State} {n : Nat} {o : LoomOp} {rest : List LoomOp} (h : HeadRuns s n o rest)
include h

/-- A drain makes its stores, and retires. -/
theorem exec_loomDrain (d : TileMap) (hop : o.op = 4) (hd : (s.launchOf o.lid).mapOf o.a 2 = some d) (v : State)
    (hv : s.drainStores n o (o.drainWrites s n d) = v) (hcrews : v.crews = s.crews) :
    exec (.loomDrain n) s = .next ((v.retireOp n o).putLoom (((v.retireOp n o).loomOf n).drained n o)) := by
  have hexec : exec (.loomDrain n) s = .next ((v.retireOp n o).putLoom (((v.retireOp n o).loomOf n).drained n o)).settleConds := by
    refine congrArg Host.Outcome.next ?_
    dsimp only
    rw [h.ops]
    dsimp only
    rw [if_neg (by simp [hop, h.slave, h.test, h.asked, h.halted]), hd]
    dsimp only
    rw [hv]
    rfl
  rw [hexec, settleConds_of_none _ (by rw [putLoom_crews, retireOp_crews v n o h.alone, hcrews]; exact h.conds)]

/-- What a drain leaves: its records queued, its operation retired, and its accumulators and claim as its flags tell. -/
theorem loomDrain_drains (d : TileMap) (hop : o.op = 4) (hd : (s.launchOf o.lid).mapOf o.a 2 = some d) :
    let parts := drainParts (o.drainWrites s n d)
    let u := s.drainXlat n o parts
    ∃ t : State, exec (.loomDrain n) s = .next t ∧ (o.Held s → KeepsMemory s t) ∧ t.loomOf n = ((s.loomOf n).retired o).drained n o
      ∧ ((s.launchOf o.lid).qm = false → t.storeQ = s.storeQ ++ o.drainRecords u n (o.drainSent u n parts)) := by
  intro parts u
  obtain ⟨hlooms, hcrews, hmem, hqueue⟩ := drainStores_facts s n o (o.drainWrites s n d)
  have hexec := fun v hv => exec_loomDrain h d hop hd v hv
  generalize s.drainStores n o (o.drainWrites s n d) = v at *
  refine ⟨_, hexec v rfl hcrews, fun hheld => ?_, ?_, fun hqm => ?_⟩
  · exact ((hmem hheld).trans (retireOp_keepsMemory v n o h.alone)).trans (putLoom_keepsMemory _ _)
  · rw [loomOf_retireOp v n o h.alone, loomOf_congr hlooms]
    exact loomOf_putLoom_of_num _ _ n ((drained_num _ n o).trans (loomOf_num s n))
  · rw [putLoom_storeQ, retireOp_storeQ v n o h.alone]
    exact hqueue hqm

end

/-! ### What a drain writes (R67, R237, R249) -/

/-- Each row of a drain's tile is written, its scale first where it has one. -/
theorem mem_drainWrites (s : State) (n : Nat) (o : LoomOp) (d : TileMap) (i : Nat) (hi : i ∈ (d.window (d.line0 o.a) (d.elem0 o.a)).1) :
    let e := o.drainRow s d ((s.loomOf n).acc o.acc) ((s.loomOf n).acc (o.acc + 1)) i (d.window (d.line0 o.a) (d.elem0 o.a)).2
    let ptr := d.elemPtr (d.line0 o.a + i) (d.elem0 o.a)
    (ptr, o.packRow s n d ptr e.1) ∈ o.drainWrites s n d
      ∧ ∀ sc, e.2 = some sc → (d.scalePtr (d.line0 o.a + i) (d.elem0 o.a), [BitVec.ofNat 8 sc]) ∈ o.drainWrites s n d := by
  intro e ptr
  refine ⟨List.mem_flatMap.mpr ⟨i, hi, List.mem_append_right _ (List.mem_singleton.mpr rfl)⟩, fun sc hsc => ?_⟩
  refine List.mem_flatMap.mpr ⟨i, hi, List.mem_append_left _ ?_⟩
  have he : (o.drainRow s d ((s.loomOf n).acc o.acc) ((s.loomOf n).acc (o.acc + 1)) i (d.window (d.line0 o.a) (d.elem0 o.a)).2).2 = some sc := hsc
  simp [he]

theorem packRow_bytes (s : State) (n : Nat) (o : LoomOp) (d : TileMap) (ptr : W64) (es : List Nat) (h : width d.fmt ≠ 4) :
    o.packRow s n d ptr es = es.flatMap fun e => bytesLE (elemBytes d.fmt) e := if_neg h

/-- The element of an accumulator pair at a row and a column. -/
def pairElem (x y : Acc) (i j : Nat) : W32 := (if j < 16 then x else y).elems.getD (16 * i + j % 16) 0

theorem drainRow_int (s : State) (o : LoomOp) (d : TileMap) (x y : Acc) (i n : Nat) (h : x.kindI = true) :
    o.drainRow s d x y i n = ((List.range n).map fun j => (pairElem x y i j).toNat, none) := if_pos h

theorem drainRow_float (s : State) (o : LoomOp) (d : TileMap) (x y : Acc) (i n : Nat) (h : x.kindI = false) (hmx : d.mx = false) :
    o.drainRow s d x y i n = ((List.range n).map fun j => (roundTo d.fmt
      ⟨o.rm, o.sat, false, if o.rm = 5 then dither (s.launchOf o.lid).seed o.off o.dil (32 * i + j) else 0⟩
      (value 10 ((pairElem x y i j).setWidth 64))).1, none) := by
  unfold LoomOp.drainRow
  rw [if_neg (by simp [h])]
  dsimp only
  rw [if_neg (by simp [hmx])]
  refine congrArg (·, none) (List.map_congr_left fun j hj => ?_)
  rw [getD_range_map _ _ _ _ (List.mem_range.mp hj)]
  rfl

theorem drainRow_scale (s : State) (o : LoomOp) (d : TileMap) (x y : Acc) (i n : Nat) (h : x.kindI = false) (hmx : d.mx = true) :
    (o.drainRow s d x y i n).2 = some (drainScale d.fmt ((List.range n).map fun j => value 10 ((pairElem x y i j).setWidth 64))).1 := by
  unfold LoomOp.drainRow
  rw [if_neg (by simp [h])]
  dsimp only
  rw [if_pos hmx]
  split <;> next heq => exact (congrArg (fun p => some p.1) heq).symm

/-! ### The self-test (R257) -/

theorem lanesOf_nodup (m : W32) : (lanesOf m).Nodup := List.nodup_range.filter _

/-- A mask's lanes are at most one more than another's of which it has every lane but one. -/
theorem lanesOf_length_le (m k : W32) (i : Nat) (h : ∀ j, inMask m j = true → j = i ∨ inMask k j = true) :
    (lanesOf m).length ≤ (lanesOf k).length + 1 := by
  have hsub : lanesOf m ⊆ i :: lanesOf k := fun j hj => by
    rcases h j ((mem_lanesOf m j).mp hj) with rfl | hk
    · exact List.mem_cons_self
    · exact List.mem_cons_of_mem _ ((mem_lanesOf k j).mpr hk)
  exact (List.subperm_of_subset (lanesOf_nodup m) hsub).length_le

/-- The fenced sub-arrays of a Loom, as a mask. -/
def fencedMask (w : W64) : W32 := (w.setWidth 16).setWidth 32

theorem inMask_fencedMask (w : W64) (i : Nat) : inMask (fencedMask w) i = (decide (i < 16) && bit w i) := by
  unfold fencedMask inMask bit
  rw [BitVec.testBit_toNat, BitVec.getLsbD_setWidth, BitVec.getLsbD_setWidth, BitVec.testBit_toNat]
  by_cases hi : i < 16
  · have : i < 32 := by omega
    simp [hi, this]
  · simp [hi]

theorem fencedMask_eq (w : W64) : BitVec.ofNat 32 (fld w 0 16) = fencedMask w := by
  refine mask_ext _ _ fun i => ?_
  rw [inMask_fencedMask, inMask, BitVec.toNat_ofNat, Nat.testBit_mod_two_pow, testBit_fld, Nat.zero_add, bit]
  by_cases hi : i < 16
  · have : i < 32 := by omega
    simp [hi, this]
  · simp [hi]

theorem fenced_eq (w : W64) : BitVec.ofNat 16 (fld w 0 16) = w.setWidth 16 := by
  refine BitVec.eq_of_toNat_eq ?_
  simp [fld]

theorem bit_fence (w : W64) (i j : Nat) (hi : i < 64) : bit (w ||| BitVec.ofNat 64 (2 ^ i)) j = (bit w j || decide (i = j)) := by
  have hpow : (BitVec.ofNat 64 (2 ^ i)).toNat = 2 ^ i := by
    rw [BitVec.toNat_ofNat, Nat.mod_eq_of_lt (Nat.pow_lt_pow_right (by omega) hi)]
  rw [bit, BitVec.toNat_or, Nat.testBit_or, hpow, Nat.testBit_two_pow]
  rfl

/-- Fencing sub-arrays within the limit sets their bits in the Loom's health register and changes nothing else. -/
theorem fenceSubs_fences (n : Nat) (subs : List Nat) (s : State) (hc : Canonical s) (hsubs : ∀ i ∈ subs, i < 16)
    (hroom : (lanesOf (fencedMask (s.reg (regLhealth n)))).length + subs.length ≤ 8) :
    SameButWin s (s.fenceSubs n subs)
      ∧ ∀ j, bit ((s.fenceSubs n subs).reg (regLhealth n)) j = (bit (s.reg (regLhealth n)) j || decide (j ∈ subs)) := by
  induction subs generalizing s with
  | nil => exact ⟨rfl, fun j => by simp [State.fenceSubs]⟩
  | cons i subs ih =>
    have hi : i < 16 := hsubs i List.mem_cons_self
    rw [List.length_cons] at hroom
    have hstep : s.fenceSubs n (i :: subs) = (s.setReg (regLhealth n) (s.reg (regLhealth n) ||| BitVec.ofNat 64 (2 ^ i))).fenceSubs n subs := by
      refine congrArg (fun t => State.fenceSubs t n subs) (if_pos ?_)
      change (lanesOf (fencedMask (s.reg (regLhealth n)))).length < 8
      omega
    have hreg := reg_setReg_same s (regLhealth n) (s.reg (regLhealth n) ||| BitVec.ofNat 64 (2 ^ i)) hc
    have hlen : (lanesOf (fencedMask (s.reg (regLhealth n) ||| BitVec.ofNat 64 (2 ^ i)))).length
        ≤ (lanesOf (fencedMask (s.reg (regLhealth n)))).length + 1 := by
      refine lanesOf_length_le _ _ i fun j hj => ?_
      rw [inMask_fencedMask, bit_fence _ _ _ (by omega)] at hj
      rw [inMask_fencedMask]
      simp only [Bool.and_eq_true, Bool.or_eq_true, decide_eq_true_eq] at hj ⊢
      obtain ⟨hlt, hbit | rfl⟩ := hj
      · exact .inr ⟨hlt, hbit⟩
      · exact .inl rfl
    obtain ⟨hframe, hbits⟩ := ih _ (setReg_canonical s _ _ hc) (fun j hj => hsubs j (List.mem_cons_of_mem _ hj)) (by rw [hreg]; omega)
    rw [hstep]
    refine ⟨(setReg_sameButWin s _ _).trans hframe, fun j => ?_⟩
    rw [hbits, hreg, bit_fence _ _ _ (by omega), Bool.or_assoc]
    simp [eq_comm]

/-- Two states that differ at most in the Looms and the saved claims. -/
def LoomsOnly (s t : State) : Prop := t = { s with looms := t.looms, savedClaims := t.savedClaims }

theorem LoomsOnly.trans {s t u : State} (h : LoomsOnly s t) (k : LoomsOnly t u) : LoomsOnly s u := by
  unfold LoomsOnly at h k ⊢
  rw [k, h]

section
variable {s t : State} (h : LoomsOnly s t)
include h

theorem LoomsOnly.eq : t = { s with looms := t.looms, savedClaims := t.savedClaims } := h
theorem LoomsOnly.keepsMemory : KeepsMemory s t := ⟨by rw [h.eq], by rw [h.eq]⟩
theorem LoomsOnly.cuts : t.cuts = s.cuts := by rw [h.eq]
theorem LoomsOnly.reg (off : Nat) : t.reg off = s.reg off := reg_of_win s t off (by rw [h.eq]) (by rw [h.eq])
theorem LoomsOnly.canonical (hc : Canonical s) : Canonical t := canonical_of_eq s t (by rw [h.eq]) (by rw [h.eq]) (by rw [h.eq]) hc

end

theorem suspectAcc_loomsOnly (s : State) (key : Nat × Nat) (a : Nat) : LoomsOnly s (s.suspectAcc key a) := rfl

/-- The suspect accumulators of a test are marked. -/
def State.suspectAll (s : State) (test : List ((Nat × Nat) × Nat)) : State := test.foldl (fun t p => t.suspectAcc p.1 p.2) s

theorem suspectAll_loomsOnly (s : State) (test : List ((Nat × Nat) × Nat)) : LoomsOnly s (s.suspectAll test) :=
  foldl_rel LoomsOnly (fun _ => rfl) LoomsOnly.trans (fun t (p : (Nat × Nat) × Nat) => t.suspectAcc p.1 p.2)
    (fun t p => suspectAcc_loomsOnly t p.1 p.2) test s

/-- A claim's accumulator is marked in the Loom that holds the claim. -/
theorem suspectAcc_loomOf (s : State) (key : Nat × Nat) (a n : Nat) (h : (s.loomOf n).claim = some key) :
    (s.suspectAcc key a).loomOf n = (s.loomOf n).setAcc a { (s.loomOf n).acc a with suspect := true } := by
  cases hfind : s.looms.find? (·.num == n) with
  | none =>
    have hfresh : (s.loomOf n).claim = none := by rw [State.loomOf, hfind]; rfl
    rw [hfresh] at h
    cases h
  | some m =>
    have hm : s.loomOf n = m := by rw [State.loomOf, hfind]; rfl
    rw [hm] at h ⊢
    have hnum : ((·.num == n) ∘ fun m : Loom => if m.claim = some key then m.setAcc a { m.acc a with suspect := true } else m)
        = fun m : Loom => m.num == n := by
      funext m
      dsimp only [Function.comp_apply]
      split <;> rfl
    have hmap : (s.suspectAcc key a).looms.find? (·.num == n) = some (m.setAcc a { m.acc a with suspect := true }) := by
      refine List.find?_map.trans ?_
      rw [hnum, hfind, Option.map_some, if_pos h]
    rw [State.loomOf, hmap]
    rfl

theorem SameButWin.looms {s t : State} (h : SameButWin s t) : t.looms = s.looms := by
  unfold SameButWin at h
  rw [h]

/-- The sub-arrays that fail a test, those already fenced left out. -/
def failing (w : W64) (first : BitVec 16) : List Nat := lanesOf ((first &&& ~~~(w.setWidth 16)).setWidth 32)

/-- A Loom whose test has come to an end. -/
def Loom.tested (m : Loom) (asked : Bool) (fails : Nat) : Loom := { m with test := [], found := if asked then some fails else none }

/-- A self-test's count, marks and outcome, before it fences. -/
def State.countTest (s : State) (n : Nat) (fail again : List Nat) : State :=
  let t := s.countUp (regLhealth n) 48 16 (fail.length - again.length)
  let t := if fail.isEmpty then t else t.suspectAll (s.loomOf n).test
  t.putLoom ((t.loomOf n).tested (s.loomOf n).asked.isSome fail.length)

theorem exec_selfTest (s : State) (n : Nat) (first second : BitVec 16) (hdue : (s.loomOf n).test ≠ [] ∨ (s.loomOf n).asked.isSome = true)
    (hfound : (s.loomOf n).found = none) :
    let fail := failing (s.reg (regLhealth n)) first
    let again := fail.filter fun i => second.getLsbD i
    let t := s.countTest n fail again
    exec (.selfTest n first second) s
      = .next (if loomWorks t n && !loomWorks (t.fenceSubs n again) n then (t.fenceSubs n again).evictLoom n else t.fenceSubs n again) := by
  intro fail again t
  refine congrArg Host.Outcome.next (if_neg ?_)
  intro ⟨htest, hasked⟩
  rcases hdue with h | h
  · exact h (List.isEmpty_iff.mp htest)
  · simp [Option.isNone_iff_eq_none.mp (hasked.resolve_right (by simp [hfound]))] at h

theorem inMask_setWidth (x : BitVec 16) (i : Nat) (h : i < 32) : inMask (x.setWidth 32) i = x.getLsbD i := by
  rw [inMask, BitVec.testBit_toNat, BitVec.getLsbD_setWidth]
  simp [h]

theorem failing_eq (w : W64) (first : BitVec 16) :
    failing w first = lanesOf ((first &&& ~~~(BitVec.ofNat 16 (fld w 0 16))).setWidth 32) := by rw [failing, fenced_eq]

/-- The sub-arrays that fail again are those of the failing ones that the second mask names. -/
theorem failing_again (w : W64) (first second : BitVec 16) : (failing w first).filter (fun i => second.getLsbD i)
    = lanesOf ((first &&& second &&& ~~~(BitVec.ofNat 16 (fld w 0 16))).setWidth 32) := by
  rw [failing, lanesOf, lanesOf, List.filter_filter, fenced_eq]
  refine List.filter_congr fun i hi => ?_
  have hi := List.mem_range.mp hi
  rw [inMask_setWidth _ _ hi, inMask_setWidth _ _ hi]
  simp only [BitVec.getLsbD_and]
  cases first.getLsbD i <;> cases second.getLsbD i <;> rfl

theorem lt_of_failing (w : W64) (first : BitVec 16) (i : Nat) (h : i ∈ failing w first) : i < 16 := by
  have hin := (mem_lanesOf _ i).mp h
  rw [inMask_setWidth _ _ (lt_of_inMask _ i hin)] at hin
  exact BitVec.lt_of_getLsbD hin

/-- Some sub-array fails where the first mask names one that is not fenced. -/
theorem failing_ne_nil (w : W64) (first : BitVec 16) (h : first &&& ~~~(BitVec.ofNat 16 (fld w 0 16)) ≠ 0) : failing w first ≠ [] := by
  intro hnil
  refine h (BitVec.eq_of_getLsbD_eq fun i hi => ?_)
  rw [failing_eq] at hnil
  have hout : i ∉ lanesOf ((first &&& ~~~(BitVec.ofNat 16 (fld w 0 16))).setWidth 32) := by rw [hnil]; exact List.not_mem_nil
  rw [mem_lanesOf, inMask_setWidth _ _ (by omega)] at hout
  simpa using hout

section
variable (s : State) (n : Nat) (fail again : List Nat)

/-- The count of a test, with its marks. -/
def State.markTest (s : State) (n : Nat) (fail again : List Nat) : State :=
  if fail.isEmpty then s.countUp (regLhealth n) 48 16 (fail.length - again.length)
  else (s.countUp (regLhealth n) 48 16 (fail.length - again.length)).suspectAll (s.loomOf n).test

theorem countTest_eq : s.countTest n fail again
    = (s.markTest n fail again).putLoom (((s.markTest n fail again).loomOf n).tested (s.loomOf n).asked.isSome fail.length) := rfl

theorem markTest_loomsOnly : LoomsOnly (s.countUp (regLhealth n) 48 16 (fail.length - again.length)) (s.markTest n fail again) := by
  unfold State.markTest
  split
  · rfl
  · exact suspectAll_loomsOnly _ _

theorem countTest_loomsOnly : LoomsOnly (s.countUp (regLhealth n) 48 16 (fail.length - again.length)) (s.countTest n fail again) :=
  (markTest_loomsOnly s n fail again).trans rfl

theorem countTest_loomOf : (s.countTest n fail again).loomOf n
    = ((s.markTest n fail again).loomOf n).tested (s.loomOf n).asked.isSome fail.length := by
  rw [countTest_eq]
  exact loomOf_putLoom_of_num _ _ n (loomOf_num _ n)

theorem countTest_reg (hc : Canonical s) : (s.countTest n fail again).reg (regLhealth n) = putFld (s.reg (regLhealth n)) 48 16
    (Nat.min (2 ^ 16 - 1) (fld (s.reg (regLhealth n)) 48 16 + (fail.length - again.length))) :=
  ((countTest_loomsOnly s n fail again).reg _).trans (reg_setField_same s _ _ _ _ hc)

/-- A test that some sub-array fails marks the accumulator that it is due for. -/
theorem markTest_suspect (key : Nat × Nat) (a : Nat) (hfail : fail ≠ []) (hclaim : (s.loomOf n).claim = some key)
    (htest : (s.loomOf n).test = [(key, a)]) (hlen : a < (s.loomOf n).accs.length) :
    (((s.markTest n fail again).loomOf n).acc a).suspect = true := by
  have hloom : (s.countUp (regLhealth n) 48 16 (fail.length - again.length)).loomOf n = s.loomOf n := loomOf_congr rfl n
  have hmark : (s.markTest n fail again).loomOf n = (s.loomOf n).setAcc a { (s.loomOf n).acc a with suspect := true } := by
    rw [State.markTest, if_neg (by simp [hfail]), htest, ← hloom]
    exact suspectAcc_loomOf _ key a n (by rw [hloom, hclaim])
  rw [hmark, acc_setAcc_same _ _ _ hlen]

end

/-- A self-test within the limit counts and marks, and fences the sub-arrays that failed again. -/
theorem selfTest_fences (s : State) (n : Nat) (first second : BitVec 16) (hc : Canonical s)
    (hdue : (s.loomOf n).test ≠ [] ∨ (s.loomOf n).asked.isSome = true) (hfound : (s.loomOf n).found = none) :
    let w := s.reg (regLhealth n)
    let fail := failing w first
    let again := fail.filter fun i => second.getLsbD i
    (lanesOf (fencedMask w)).length + again.length ≤ 8 → ∃ t, exec (.selfTest n first second) s = .next t
      ∧ SameButWin (s.countTest n fail again) t ∧ ∀ j, bit (t.reg (regLhealth n)) j
        = (bit (putFld w 48 16 (Nat.min (2 ^ 16 - 1) (fld w 48 16 + (fail.length - again.length)))) j || decide (j ∈ again)) := by
  intro w fail again hroom
  have hexec := exec_selfTest s n first second hdue hfound
  have hreg : (s.countTest n fail again).reg (regLhealth n) = _ := countTest_reg s n fail again hc
  have hcan : Canonical (s.countTest n fail again) :=
    (countTest_loomsOnly s n fail again).canonical (countUp_canonical s _ _ _ _ hc)
  have hbelow : ∀ i ∈ again, i < 16 := fun i hi => lt_of_failing w first i (List.mem_filter.mp hi).1
  change exec (.selfTest n first second) s = .next (if loomWorks (s.countTest n fail again) n
    && !loomWorks ((s.countTest n fail again).fenceSubs n again) n then _ else (s.countTest n fail again).fenceSubs n again) at hexec
  generalize s.countTest n fail again = u at *
  have hmask : fencedMask (u.reg (regLhealth n)) = fencedMask w := by
    refine mask_ext _ _ fun i => ?_
    rw [inMask_fencedMask, inMask_fencedMask, hreg]
    by_cases hi : i < 16
    · rw [bit_putFld_outside _ _ _ _ _ (by omega) (by omega)]
    · simp [hi]
  obtain ⟨hframe, hbits⟩ := fenceSubs_fences n again u hcan hbelow (by rw [hmask]; exact hroom)
  have hworks : loomWorks (u.fenceSubs n again) n = loomWorks u n := by
    have hout : 16 ∉ again := fun h => absurd (hbelow 16 h) (by omega)
    rw [loomWorks, loomWorks, hbits, decide_eq_false hout, Bool.or_false]
  rw [hworks, Bool.and_not_self, if_neg Bool.false_ne_true] at hexec
  exact ⟨_, hexec, hframe, fun j => hreg ▸ hbits j⟩

/-- The health register of a Loom after a self-test that its fences leave in service. -/
theorem selfTest_counts (w v : W64) (m : Nat) (again : List Nat) (hagain : ∀ i ∈ again, i < 16)
    (hbits : ∀ j, bit v j = (bit (putFld w 48 16 (Nat.min (2 ^ 16 - 1) m)) j || decide (j ∈ again))) :
    fld v 48 16 = min 65535 m ∧ ∀ i, i < 16 → (bit v i = true ↔ bit w i = true ∨ i ∈ again) := by
  refine ⟨?_, fun i hi => ?_⟩
  · have hsame : fld v 48 16 = fld (putFld w 48 16 (Nat.min (2 ^ 16 - 1) m)) 48 16 := by
      refine Nat.eq_of_testBit_eq fun j => ?_
      have hout : 48 + j ∉ again := fun h => absurd (hagain _ h) (by omega)
      have hj := hbits (48 + j)
      rw [decide_eq_false hout, Bool.or_false] at hj
      rw [testBit_fld, testBit_fld]
      exact congrArg _ hj
    rw [hsame, fld_putFld_same _ _ _ _ (by omega)]
    exact Nat.mod_eq_of_lt (Nat.lt_of_le_of_lt (Nat.min_le_left _ _) (by omega))
  · rw [hbits, bit_putFld_outside _ _ _ _ _ (by omega) (by omega)]
    simp

end Sys2Proof.Machine

namespace Sys2Proof
open Sys2Proof.Machine

/-- Settles O53: each operation at the head of a Loom in its cases, the sums of a step, the rows of a drain, and the self-test. -/
theorem loomWork : Obligations.LoomWork := by
  unfold Obligations.LoomWork
  refine ⟨fun s n o rest hconds _ hops hslave htest hasked haccs hacc hhalted halone => ?_,
    fun x et fmt ta tb i j hi hj => ⟨step_elem x et fmt ta tb i j hi hj, step_err x et fmt ta tb⟩, fun s n o d i hi => ?_,
    fun s n first second _ _ hc hdue hfound hroom => ?_⟩
  · have h : HeadRuns s n o rest := ⟨hconds, hops, hslave, htest, hasked, haccs, hacc, hhalted, halone⟩
    refine ⟨loomStep_zeroes h, fun hop hrows => ?_, fun ma mb ta tb hop hstream hstep hmb hma htb hta =>
      loomStep_multiplies h ma mb ta tb hop hstream hstep hmb hma htb hta, fun d hop hpair hd => ?_⟩
    · choose! g hgot hlen using hrows
      obtain ⟨t, hexec, hmem, hrest, hloaded⟩ := loomStep_loads h hop g hgot
      refine ⟨t, hexec, hmem, hrest, by rw [hloaded, loadedAcc_kindI], by rw [hloaded, loadedAcc_err], fun r j bs hr hj hbs => ?_⟩
      have hsame : g (o.loadRow r) = bs := by
        have hrow := hgot (o.loadRow r) (List.mem_map.mpr ⟨r, List.mem_range.mpr hr, rfl⟩)
        exact (Fetched.got.inj (hrow.symm.trans hbs)).1
      rw [hloaded, loadedAcc_elem o g r j hr hj hlen, hsame]
      rfl
    · obtain ⟨t, hexec, hmem, hloom, hqueue⟩ := loomDrain_drains h d hop hd
      refine ⟨t, _, hexec, hmem, ?_, fun hqm => ⟨hqueue hqm, drainRecords_writes _ n o _, drainRecords_maker _ n o _⟩, ?_, ?_⟩
      · rw [hloom, drained_ops]
        exact congrArg (List.drop 1) hops
      · rw [hloom]
        exact drained_released _ n o
      · rw [hloom]
        exact fun hkeep => ⟨drained_claim _ n o hkeep, fun hz j hj => drained_zeroed _ n o j hkeep hz haccs hpair hj, drained_kept _ n o hkeep⟩
  · obtain ⟨hrow, hscale⟩ := mem_drainWrites s n o d i hi
    refine ⟨fun hkind hfmt => ?_, fun hkind hmx hwidth => ?_, fun hkind hmx => hscale _ (drainRow_scale s o d _ _ i _ hkind hmx)⟩
    · rw [drainRow_int s o d _ _ i _ hkind, packRow_bytes _ _ _ _ _ _ (by rw [hfmt]; decide), List.flatMap_map, hfmt] at hrow
      exact hrow
    · rw [drainRow_float s o d _ _ i _ hkind hmx, packRow_bytes _ _ _ _ _ _ hwidth, List.flatMap_map] at hrow
      exact hrow
  · rw [fencedMask_eq, ← failing_again] at hroom
    obtain ⟨t, hexec, hframe, hbits⟩ := selfTest_fences s n first second hc hdue hfound hroom
    obtain ⟨hcount, hfences⟩ := selfTest_counts _ _ _ _ (fun i hi => lt_of_failing _ first i (List.mem_filter.mp hi).1) hbits
    have hlooms := countTest_loomsOnly s n (failing (s.reg (regLhealth n)) first)
      ((failing (s.reg (regLhealth n)) first).filter fun i => second.getLsbD i)
    have hloom := countTest_loomOf s n (failing (s.reg (regLhealth n)) first)
      ((failing (s.reg (regLhealth n)) first).filter fun i => second.getLsbD i)
    rw [← loomOf_congr hframe.looms n] at hloom
    rw [← failing_eq, ← failing_again]
    refine ⟨t, hexec, hlooms.keepsMemory.trans hframe.sameButReads.keepsMemory, by rw [hloom]; rfl, hframe.sameButReads.cuts.trans hlooms.cuts,
      by rw [hloom]; rfl, hcount, hfences, fun key a hclaim htest hlen ha hfails => ?_⟩
    rw [hloom]
    exact markTest_suspect s n _ _ key a (failing_ne_nil _ first hfails) hclaim htest (by omega)

end Sys2Proof
end

/-! ## Words and instructions (R72, R73, R85)

The fields that a decoder reads, joined, are the word; so the encoder gives back what each layout's decoder read. -/

section

namespace Sys2Proof

/-! ### Neighbouring fields -/

theorem append_of_neighbours {n : Nat} (w : BitVec n) (lo len hi mid : Nat) (h : mid = lo + len) :
    w.extractLsb' mid hi ++ w.extractLsb' lo len = w.extractLsb' lo (hi + len) := by
  subst h
  rw [BitVec.extractLsb'_append_extractLsb'_eq_extractLsb' rfl]

theorem pred_of_high {d : BitVec 7} (h : d.extractLsb' 3 4 = 0#4) : 0#4 ++ d.extractLsb' 0 3 = d := by
  rw [← h, append_of_neighbours d 0 3 4 3 rfl, cut_whole]

theorem pair_of_high {a : BitVec 7} (h : a.extractLsb' 4 3 = 0#3) : 0#3 ++ a.extractLsb' 3 1 ++ a.extractLsb' 0 3 = a := by
  rw [← h, append_of_neighbours a 3 1 3 4 rfl, append_of_neighbours a 0 3 4 3 rfl, cut_whole]

theorem kind_of_high {d : BitVec 7} (h : d.extractLsb' 5 2 = 0#2) : 0#2 ++ d.extractLsb' 3 2 ++ d.extractLsb' 0 3 = d := by
  rw [← h, append_of_neighbours d 3 2 2 5 rfl, append_of_neighbours d 0 3 4 3 rfl, cut_whole]

theorem cond_append (d : BitVec 7) : d.extractLsb' 3 4 ++ d.extractLsb' 0 3 = d := by
  rw [append_of_neighbours d 0 3 4 3 rfl, cut_whole]

theorem sense_append (f : BitVec 4) : f.extractLsb' 3 1 ++ f.extractLsb' 0 3 = f := by
  rw [append_of_neighbours f 0 3 1 3 rfl, cut_whole]

theorem fence_append (f : BitVec 4) : f.extractLsb' 3 1 ++ f.extractLsb' 2 1 ++ f.extractLsb' 0 2 = f := by
  rw [append_of_neighbours f 2 1 1 3 rfl, append_of_neighbours f 0 2 2 2 rfl, cut_whole]

/-! ### A word is its fields in each layout (R73) -/

section
variable (w : W32)

theorem wordR_of_bits : wordR (bitsOf w 25 7) (bitsOf w 21 4) (bitsOf w 14 7) (bitsOf w 7 7) (bitsOf w 0 7) = w := by
  unfold wordR bitsOf
  rw [append_of_neighbours w 21 4 7 25 rfl, append_of_neighbours w 14 7 11 21 rfl, append_of_neighbours w 7 7 18 14 rfl,
    append_of_neighbours w 0 7 25 7 rfl, cut_whole]

theorem wordI_of_bits : wordI (bitsOf w 25 7) (bitsOf w 18 7) (bitsOf w 11 7) (bitsOf w 0 11) = w := by
  unfold wordI bitsOf
  rw [append_of_neighbours w 18 7 7 25 rfl, append_of_neighbours w 11 7 14 18 rfl, append_of_neighbours w 0 11 21 11 rfl, cut_whole]

theorem wordW_of_bits : wordW (bitsOf w 25 7) (bitsOf w 18 7) (bitsOf w 0 18) = w := by
  unfold wordW bitsOf
  rw [append_of_neighbours w 18 7 7 25 rfl, append_of_neighbours w 0 18 14 18 rfl, cut_whole]

theorem wordJ_of_bits : wordJ (bitsOf w 25 7) (bitsOf w 21 4) (bitsOf w 0 21) = w := by
  unfold wordJ bitsOf
  rw [append_of_neighbours w 21 4 7 25 rfl, append_of_neighbours w 0 21 11 21 rfl, cut_whole]

theorem wordK_of_bits : wordK (bitsOf w 25 7) (bitsOf w 18 7) (bitsOf w 4 14) (bitsOf w 0 4) = w := by
  unfold wordK bitsOf
  rw [append_of_neighbours w 18 7 7 25 rfl, append_of_neighbours w 4 14 14 18 rfl, append_of_neighbours w 0 4 28 4 rfl, cut_whole]

theorem wordP_of_bits : wordP (bitsOf w 25 7) (bitsOf w 14 11) (bitsOf w 0 14) = w := by
  unfold wordP bitsOf
  rw [append_of_neighbours w 14 11 7 25 rfl, append_of_neighbours w 0 14 18 14 rfl, cut_whole]

theorem wordC_of_bits : wordC (bitsOf w 25 7) (bitsOf w 21 4) (bitsOf w 14 7) (bitsOf w 0 14) = w := by
  unfold wordC bitsOf
  rw [append_of_neighbours w 21 4 7 25 rfl, append_of_neighbours w 14 7 11 21 rfl, append_of_neighbours w 0 14 18 14 rfl, cut_whole]

theorem wordQ_of_bits : wordQ (bitsOf w 30 2) (bitsOf w 28 2) (bitsOf w 21 7) (bitsOf w 14 7) (bitsOf w 7 7) (bitsOf w 0 7) = w := by
  unfold wordQ bitsOf
  rw [append_of_neighbours w 28 2 2 30 rfl, append_of_neighbours w 21 7 4 28 rfl, append_of_neighbours w 14 7 11 21 rfl,
    append_of_neighbours w 7 7 18 14 rfl, append_of_neighbours w 0 7 25 7 rfl, cut_whole]

end

/-! ### What a decoder reads is encoded as the fields it read

One case for each opcode, each minor function, and the fixed bits that its arm asks for. -/

section
variable {op d a b c : BitVec 7} {f r : BitVec 4} {i : Instr}

theorem encodeWord_of_decR (h : decR op f d a b = some i) : encodeWord i = some (wordR op f d a b) := by
  unfold decR at h
  split at h
  all_goals repeat' split at h
  all_goals cases h
  all_goals simp_all only [encodeWord, pred_of_high, pair_of_high, kind_of_high, fence_append]

theorem encodeWord_of_decI {n : BitVec 11} (h : decI op d a n = some i) : encodeWord i = some (wordI op d a n) := by
  unfold decI at h
  split at h
  all_goals repeat' split at h
  all_goals cases h
  all_goals simp_all only [encodeWord, cond_append]

theorem encodeWord_of_decW {n : BitVec 18} (h : decW op d n = some i) : encodeWord i = some (wordW op d n) := by
  unfold decW at h
  split at h
  all_goals repeat' split at h
  all_goals cases h
  all_goals simp_all only [encodeWord]

theorem encodeWord_of_decJ {o : BitVec 21} (h : decJ op f o = some i) : encodeWord i = some (wordJ op f o) := by
  unfold decJ at h
  split at h
  all_goals repeat' split at h
  all_goals cases h
  all_goals simp_all only [encodeWord, sense_append]

theorem encodeWord_of_decK {n : BitVec 14} (h : decK op c n r = some i) : encodeWord i = some (wordK op c n r) := by
  unfold decK at h
  split at h
  all_goals repeat' split at h
  all_goals cases h
  all_goals simp_all only [encodeWord]

theorem encodeWord_of_decP {n : BitVec 11} {m : BitVec 14} (h : decP op n m = some i) : encodeWord i = some (wordP op n m) := by
  unfold decP at h
  split at h
  all_goals cases h
  all_goals rfl

theorem encodeWord_of_decC {m : BitVec 14} (h : decC op f a m = some i) : encodeWord i = some (wordC op f a m) := by
  unfold decC at h
  split at h
  all_goals repeat' split at h
  all_goals cases h
  all_goals simp_all only [encodeWord]

theorem encodeWord_of_decQ {k : BitVec 2} (h : decQ k d a b c = some i) : encodeWord i = some (wordQ 3#2 k d a b c) := by
  unfold decQ at h
  split at h
  all_goals cases h
  all_goals rfl

end

/-- What a word decodes to is encoded as that word: the decoder of its layout reads every bit. -/
theorem encode_decode (w : W32) (i : Instr) (h : decodeWord w = some i) : encodeWord i = some w := by
  unfold decodeWord at h
  split at h
  next hq => rw [encodeWord_of_decQ h, ← hq, wordQ_of_bits]
  next =>
    dsimp only at h
    generalize hop : bitsOf w 25 7 = op at h
    split at h
    case h_1 | h_2 | h_3 | h_4 => rw [encodeWord_of_decW h, ← hop, wordW_of_bits]
    case h_5 | h_6 | h_7 => rw [encodeWord_of_decJ h, ← hop, wordJ_of_bits]
    case h_8 => rw [encodeWord_of_decK h, ← hop, wordK_of_bits]
    case h_9 => rw [encodeWord_of_decP h, ← hop, wordP_of_bits]
    case h_10 | h_11 | h_12 | h_13 | h_14 | h_15 | h_16 | h_17 | h_18 | h_19 | h_20 => rw [encodeWord_of_decI h, ← hop, wordI_of_bits]
    case h_21 | h_22 | h_23 => rw [encodeWord_of_decC h, ← hop, wordC_of_bits]
    case h_24 => rw [encodeWord_of_decR h, ← hop, wordR_of_bits]

/-! ### What an instruction is encoded as decodes to it -/

/-- Each constructor by its own law; events have no word. -/
theorem Laws.RoundTrip.every (i : Instr) : Statement i := by
  cases i with
  | nop => exact nop | yield => exact yield | exit => exact exit | seam => exact seam | tfence => exact tfence | haltd => exact haltd
  | bkpt => exact bkpt | ret => exact ret | mode => exact mode _ | modei => exact modei _ | br => exact br _ _ _ | jmp => exact jmp _
  | call => exact call _ | jmpr => exact jmpr _ | callr => exact callr _ | loop => exact loop _ _ | loopi => exact loopi _ _
  | lbrk => exact lbrk | trap => exact trap _ | pand => exact pand _ _ _ _ _ | por => exact por _ _ _ _ _ | pxor => exact pxor _ _ _ _ _
  | pandn => exact pandn _ _ _ _ _ | pnot => exact pnot _ _ _ | pmov => exact pmov _ _ _ | pany => exact pany _ _ _
  | pall => exact pall _ _ _ | pcnt => exact pcnt _ _ _ | pmask => exact pmask _ _ _ | pfrom => exact pfrom _ _ | cmp => exact cmp _ _ _ _
  | cmpi => exact cmpi _ _ _ _ | form => exact form _ _ | matl => exact matl _ _ | pget => exact pget _ _ _ | pmake => exact pmake _ _ _ _
  | kill => exact kill _ _ _ | cutid => exact cutid _ | parid => exact parid _ | cutbox => exact cutbox _ _ | add => exact add _ _ _
  | sub => exact sub _ _ _ | and => exact and _ _ _ | or => exact or _ _ _ | xor => exact xor _ _ _ | andn => exact andn _ _ _
  | shl => exact shl _ _ _ | shr => exact shr _ _ _ | sar => exact sar _ _ _ | rol => exact rol _ _ _ | min => exact min _ _ _
  | max => exact max _ _ _ | minu => exact minu _ _ _ | maxu => exact maxu _ _ _ | absd => exact absd _ _ _ | neg => exact neg _ _
  | mul => exact mul _ _ _ | mulhi => exact mulhi _ _ _ | mulhiu => exact mulhiu _ _ _ | mulw => exact mulw _ _ _
  | mulwu => exact mulwu _ _ _ | clz => exact clz _ _ | ctz => exact ctz _ _ | popc => exact popc _ _ | brev => exact brev _ _
  | bswap => exact bswap _ _ | bfe => exact bfe _ _ _ | bfeu => exact bfeu _ _ _ | bfi => exact bfi _ _ _ | addw => exact addw _ _ _
  | addwu => exact addwu _ _ _ | subw => exact subw _ _ _ | accw => exact accw _ _ _ | accwu => exact accwu _ _ _
  | satadd => exact satadd _ _ _ | satsub => exact satsub _ _ _ | narrow => exact narrow _ _ | sext => exact sext _ _
  | zext => exact zext _ _ | mov => exact mov _ _ | sel => exact sel _ _ _ | addi => exact addi _ _ _ | andi => exact andi _ _ _
  | ori => exact ori _ _ _ | xori => exact xori _ _ _ | shli => exact shli _ _ _ | shri => exact shri _ _ _ | sari => exact sari _ _ _
  | muli => exact muli _ _ _ | movx => exact movx _ _ | movi => exact movi _ _ | div => exact div _ _ _ _ | divu => exact divu _ _ _ _
  | fadd => exact fadd _ _ _ | fsub => exact fsub _ _ _ | fmul => exact fmul _ _ _ | fmin => exact fmin _ _ _ | fmax => exact fmax _ _ _
  | fminn => exact fminn _ _ _ | fmaxn => exact fmaxn _ _ _ | fabs => exact fabs _ _ | fneg => exact fneg _ _
  | fcpsgn => exact fcpsgn _ _ _ | fclass => exact fclass _ _ | frnd => exact frnd _ _ | ffrac => exact ffrac _ _
  | fscale => exact fscale _ _ _ | fexpo => exact fexpo _ _ | twosum => exact twosum _ _ _ | fcvt => exact fcvt _ _ _
  | f2i => exact f2i _ _ | f2u => exact f2u _ _ | i2f => exact i2f _ _ | u2f => exact u2f _ _ | frcp => exact frcp _ _ _
  | frsq => exact frsq _ _ _ | fsqrt => exact fsqrt _ _ _ | fexp2 => exact fexp2 _ _ _ | flog2 => exact flog2 _ _ _
  | fsin => exact fsin _ _ _ | fcos => exact fcos _ _ _ | fdiv => exact fdiv _ _ _ _ | shfl => exact shfl _ _ _
  | shflx => exact shflx _ _ _ | shflu => exact shflu _ _ _ | shfld => exact shfld _ _ _ | bcast => exact bcast _ _ _
  | vote => exact vote _ _ | compact => exact compact _ _ | lidx => exact lidx _ | red => exact red _ _ _ _ | scan => exact scan _ _ _ _
  | dp4 => exact dp4 _ _ _ | dp4u => exact dp4u _ _ _ | dp2 => exact dp2 _ _ _ | ld => exact ld _ _ _ _ | st => exact st _ _ _
  | ldb => exact ldb _ _ _ _ | lda => exact lda _ _ _ _ | stl => exact stl _ _ _ | ldt => exact ldt _ _ _ _ | lds => exact lds _ _ _ _
  | sts => exact sts _ _ _ | atom => exact atom _ _ _ _ | ared => exact ared _ _ | pgreq => exact pgreq _ _ _ | pgwait => exact pgwait _ _
  | pgtest => exact pgtest _ _ | pref => exact pref _ _ | salloc => exact salloc _ _ _ | sfree => exact sfree _ _
  | spin => exact spin _ _ _ | sunpin => exact sunpin _ _ | spgq => exact spgq _ _ _ | ldm => exact ldm _ _ _ _ | stm => exact stm _ _ _
  | fence => exact fence _ _ _ _ | fwait => exact fwait _ | ftest => exact ftest _ _ | bar => exact bar _ | bara => exact bara _ _
  | barw => exact barw _ | cnew => exact cnew _ _ | cjoin => exact cjoin _ _ | cleave => exact cleave | csize => exact csize _
  | crank => exact crank _ | role => exact role _ | qbind => exact qbind _ _ _ | qunbind => exact qunbind _ | qcnt => exact qcnt _ _
  | qclose => exact qclose _ | sbind => exact sbind _ _ | srel => exact srel _ _ | scnt => exact scnt _ _ | cpy => exact cpy _ _
  | cpyt => exact cpyt _ _ | cpym => exact cpym _ _ _ | cwait => exact cwait _ _ _ _ | cadd => exact cadd _ _ | evwait => exact evwait _
  | evpeek => exact evpeek _ | coll => exact coll _ _ _ _ | cstat => exact cstat _ _ _ | cabort => exact cabort _
  | launch => exact launch _ _ _ _ | mld => exact mld _ _ _ | mwb => exact mwb _ _ | mma => exact mma _ _ _ | mmap => exact mmap _ _
  | mzero => exact mzero _ | mdrn => exact mdrn _ _ _ | mstat => exact mstat _ _ | mtest => exact mtest _ | mfenced => exact mfenced _
  | thmake => exact thmake _ _ _ | thoff => exact thoff _ _ | thshape => exact thshape _ _ | msect => exact msect _ _
  | mcommit => exact mcommit _ _ | msend => exact msend _ _ _ | mrcnt => exact mrcnt _ | msig => exact msig _ _ _
  | mstate => exact mstate _ | mesc => exact mesc _ _ | csrr => exact csrr _ _ | csrw => exact csrw _ _ | tret => exact tret
  | flags => exact flags _ _ | flagc => exact flagc _ _ | tlbinv => exact tlbinv _ _ | scrinv => exact scrinv _ _ | clock => exact clock _
  | perf => exact perf _ _ | fma => exact fma _ _ _ _ | fnma => exact fnma _ _ _ _ | madw => exact madw _ _ _ _
  | madl => exact madl _ _ _ _
  | _ => exact fun _ h => nomatch h

/-- Settles O1: each constructor's round trip, and each layout's decoder reads every bit of the word. -/
theorem encodingsAgree : Obligations.EncodingsAgree := ⟨fun i w h => Laws.RoundTrip.every i w h, encode_decode⟩

/-- Settles O2: each word is decoded by evaluation. -/
theorem writtenWordsDecode : Obligations.WrittenWordsDecode := by
  unfold Obligations.WrittenWordsDecode
  decide

end Sys2Proof

end

/-! ## What every instruction checks first (R74, R87) -/

section

namespace Sys2Proof.Machine

/-- Every instruction with a word is its own meaning behind the shared checks. -/
theorem exec_eq_operate (i : Instr) (w : W32) (s : State) (hw : encodeWord i = some w) : ∃ body, exec i s = operate i s body := by
  cases i
  all_goals cases hw
  all_goals exact ⟨_, rfl⟩

theorem gate_of_not_legal (s : State) (c : Cut) (i : Instr) (h : c.legal i (c.usesOf i) = false) : gate s c i = some (s.ill c) := by
  simp [gate, h]

theorem exec_illegalInstruction (w : W32) (s : State) (c : Cut) (hc : s.executing = some c) :
    exec (.illegalInstruction w) s = .next (if (decodeWord w).any staticOk then s else s.ill c) := by
  simp only [exec, execIllegalInstruction, hc]

end Sys2Proof.Machine

namespace Sys2Proof
open Sys2Proof.Machine

/-- Settles O4: an instruction is its own meaning behind the gate, which a word that is not legal does not pass. -/
theorem sharedChecksDecide : Obligations.SharedChecksDecide := by
  unfold Obligations.SharedChecksDecide
  refine ⟨fun i s hi => ?_, fun w s c hc hw => ?_⟩
  · obtain ⟨w, hw⟩ := Option.isSome_iff_exists.mp hi
    obtain ⟨body, hbody⟩ := exec_eq_operate i w s hw
    rw [hbody]
    exact ⟨operate_noCut i s body, fun c t hc hg => operate_gate i s body c t hc hg,
      fun c hc hl => operate_gate i s body c _ hc (gate_of_not_legal s c i hl)⟩
  · rw [exec_illegalInstruction w s c hc, hw, if_neg Bool.false_ne_true]

end Sys2Proof

end

/-! ## Governed results, retirement and MODE (R76 to R81, R98, R107) -/

section

namespace Sys2Proof.Machine

/-! ### Results merged under the guard (R78, R80) -/

/-- A position of a cut that holds a merged result is a lane. -/
theorem lt_of_merged (c : Cut) (v : RegVal) (is : List Nat) (p : Nat) (hg : c.gov = .some is) (hn : c.needsLanes c.gov v = false)
    (hp : p < c.span) : p < 32 := by
  have hl : c.isPattern = false := by simpa [Cut.needsLanes, hg] using hn
  simpa [Cut.span, hl, Config.lanes] using hp

/-- A merged value is the new one in the governed items and the old one elsewhere. -/
theorem valAt_merge (c : Cut) (new old : RegVal) (p : Nat) (hn : c.needsLanes c.gov new = false) (hp : p ∈ c.positions)
    (hspan : p < c.span) : c.valAt (c.merge c.gov new old) p = if c.guard p then c.valAt new p else c.valAt old p := by
  have hmem : p ∈ c.governed ↔ c.guard p = true := by simp [Cut.governed, hp]
  rcases gov_cases c with ⟨hg, hall⟩ | ⟨hg, hnone⟩ | hg
  · rw [if_pos (hmem.mp (hall ▸ hp)), hg]
    rfl
  · rw [if_neg fun h => by simp [hnone] at hmem; exact absurd h (by simp [hmem]), hg]
    rfl
  · have hlt := lt_of_merged c new _ p hg hn hspan
    rw [hg]
    simp [Cut.merge, Cut.valAt, RegVal.at, hlt, hmem]

theorem result_z (c : Cut) (g : Gov) (d : Opnd) (v : RegVal) (h : d = 0x4A#7) : c.result g d v = c := by
  subst h
  rfl

/-- A register result changes the registers and the last-result file of a cut, and nothing else. -/
theorem setReg_eq (c : Cut) (d : Opnd) (v : RegVal) :
    c.setReg d v = { c with ctx := { c.ctx with v := (c.setReg d v).ctx.v, o := (c.setReg d v).ctx.o } } := by
  unfold Cut.setReg
  dsimp only
  split_ifs <;> rfl

theorem result_of_ne_z (c : Cut) (g : Gov) (d : Opnd) (v : RegVal) (h : d ≠ 0x4A#7) :
    c.result g d v = { c with ctx := { c.ctx with
      v := (c.setReg d (c.merge g v (c.oldReg d))).ctx.v
      o := (c.setReg d (c.merge g v (c.oldReg d))).ctx.o
      l0 := .val (c.merge g v (uVal 0))
      l1 := c.ctx.l0 } } := by
  rw [Cut.result, if_pos (by simp [isResult, h]), setReg_eq]
  rfl

theorem setReg_v (c : Cut) (d : Opnd) (v : RegVal) : (c.setReg d v).ctx.v = if d.toNat < 0x40 then c.ctx.v.set d.toNat v else c.ctx.v := by
  unfold Cut.setReg
  dsimp only
  split_ifs <;> rfl

theorem setReg_o (c : Cut) (d : Opnd) (v : RegVal) :
    (c.setReg d v).ctx.o = if 0x40 ≤ d.toNat ∧ d.toNat < 0x48 then c.ctx.o.set (d.toNat - 0x40) v else c.ctx.o := by
  unfold Cut.setReg
  dsimp only
  by_cases hv : d.toNat < 0x40
  · rw [if_pos hv, if_neg (by omega)]
  · by_cases ho : d.toNat < 0x48
    · rw [if_neg hv, if_pos ho, if_pos ⟨by omega, ho⟩]
    · rw [if_neg hv, if_neg ho, if_neg (by omega)]

theorem result_v_ne (c : Cut) (g : Gov) (d : Opnd) (v : RegVal) (n : Nat) (h : n ≠ d.toNat) :
    (c.result g d v).ctx.v.getD n (uVal 0) = c.ctx.v.getD n (uVal 0) := by
  by_cases hz : d = 0x4A#7
  · rw [result_z c g d v hz]
  · rw [result_of_ne_z c g d v hz]
    dsimp only
    rw [setReg_v]
    split
    · simp [List.getElem?_set_ne h.symm]
    · rfl

theorem result_o_ne (c : Cut) (g : Gov) (d : Opnd) (v : RegVal) (n : Nat) (h : n + 0x40 ≠ d.toNat) :
    (c.result g d v).ctx.o.getD n (uVal 0) = c.ctx.o.getD n (uVal 0) := by
  by_cases hz : d = 0x4A#7
  · rw [result_z c g d v hz]
  · rw [result_of_ne_z c g d v hz]
    dsimp only
    rw [setReg_o]
    split
    · simp [List.getElem?_set_ne (show d.toNat - 0x40 ≠ n by omega)]
    · rfl

theorem ne_z_of_toNat {d : Opnd} (h : d.toNat < 0x48) : d ≠ 0x4A#7 := by
  rintro rfl
  exact absurd h (by decide)

theorem result_v_same (c : Cut) (g : Gov) (d : Opnd) (v : RegVal) (h : d.toNat < 0x40) (hlen : d.toNat < c.ctx.v.length) :
    (c.result g d v).ctx.v.getD d.toNat (uVal 0) = c.merge g v (c.ctx.v.getD d.toNat (uVal 0)) := by
  rw [result_of_ne_z c g d v (ne_z_of_toNat (by omega))]
  dsimp only
  rw [setReg_v, if_pos h]
  simp [hlen, Cut.oldReg, h]

theorem result_o_same (c : Cut) (g : Gov) (d : Opnd) (v : RegVal) (hlo : 0x40 ≤ d.toNat) (hhi : d.toNat < 0x48)
    (hlen : d.toNat - 0x40 < c.ctx.o.length) :
    (c.result g d v).ctx.o.getD (d.toNat - 0x40) (uVal 0) = c.merge g v (c.ctx.o.getD (d.toNat - 0x40) (uVal 0)) := by
  rw [result_of_ne_z c g d v (ne_z_of_toNat hhi)]
  dsimp only
  rw [setReg_o, if_pos ⟨hlo, hhi⟩]
  simp [hlen, Cut.oldReg, hhi, Nat.not_lt.mpr hlo]

/-! ### Retirement (R81, R107) -/

theorem advance_eq (s : State) (c : Cut) : s.advance c = s.putCut (c.advance.quota (s.launchOf c.lid)) := by
  rw [State.advance, State.retired, advance_eq_goTo]
  rfl

/-- What retiring a word makes of its cut. -/
theorem advance_quota_eq (l : Launch) (c : Cut) : c.advance.quota l = { c with
    ctx := { c.ctx with pc := (c.advance.quota l).ctx.pc, loops := (c.advance.quota l).ctx.loops }
    outst := c.outst.map fun o => { o with la := o.la - 1 }
    retired := c.retired + 1, wait := (c.advance.quota l).wait, replay := 0, part := (c.advance.quota l).part, issuing := [], haltPc := false } := by
  obtain ⟨w, hw⟩ := quota_eq l c.advance
  rw [hw, advance_eq_goTo]
  rfl

/-! ### MODE (R98) -/

/-- A value that is the same in every active item is uniform of it. -/
theorem uniformOf_of_same (c : Cut) (v : RegVal) (x : W64) (hne : c.positions ≠ []) (h : ∀ p ∈ c.positions, c.valAt v p = x) :
    c.uniformOf v = some x := by
  obtain ⟨i, is, his⟩ := List.exists_cons_of_ne_nil hne
  have hi : c.valAt v i = x := h i (his ▸ List.mem_cons_self ..)
  unfold Cut.uniformOf
  split
  · next b => rw [← hi]; exact congrArg some (valAt_uVal c b i).symm
  · rw [his]
    dsimp only
    rw [if_pos (List.all_eq_true.mpr fun j hj => by simp [hi, h j (his ▸ List.mem_cons_of_mem i hj)]), hi]

/-- A value that differs in two active items is not uniform. -/
theorem uniformOf_of_differs (c : Cut) (v : RegVal) (p q : Nat) (hp : p ∈ c.positions) (hq : q ∈ c.positions) (h : c.valAt v p ≠ c.valAt v q) :
    c.uniformOf v = none := by
  unfold Cut.uniformOf
  split
  · next b => exact absurd ((valAt_uVal c b p).trans (valAt_uVal c b q).symm) h
  · split
    · next hnil => simp [hnil] at hp
    · next i is his =>
      refine if_neg fun hall => h ?_
      have hsame : ∀ j ∈ c.positions, c.valAt v j = c.valAt v i := by
        intro j hj
        rcases List.mem_cons.mp (his ▸ hj) with rfl | hj
        · rfl
        · simpa using List.all_eq_true.mp hall j hj
      rw [hsame p hp, hsame q hq]

theorem length_governed_ne (c : Cut) (h : c.governed ≠ c.positions) : c.governed.length ≠ c.positions.length :=
  fun hlen => h (List.filter_sublist.eq_of_length hlen)

section
variable {s : State} {c : Cut} {a : Opnd} (hr : Runs s c (.mode a))
include hr

theorem exec_mode_none (hg : c.governed = []) : exec (.mode a) s = .next (s.complete c [a] c) :=
  (operate_runs _ s _ c hr).trans (by simp [hg])

theorem exec_mode_mixed (hne : c.governed ≠ []) (hall : c.governed ≠ c.positions) :
    exec (.mode a) s = .next (s.raiseAll c causeMOD 0) :=
  (operate_runs _ s _ c hr).trans (by simp [hne, length_governed_ne c hall])

theorem exec_mode_all (hne : c.positions ≠ []) (hall : c.governed = c.positions) : exec (.mode a) s = .next (
    match c.uniformOf (c.read s a []) with
    | some x => if modeLegal (x.setWidth 32) then s.complete c [a] (c.setMode (x.setWidth 32)) else s.raiseAll c causeMOD 0
    | none => s.raiseAll c causeMOD 0) := by
  refine (operate_runs _ s _ c hr).trans ?_
  simp only [hall, List.isEmpty_iff, hne, Cut.common32]
  cases c.uniformOf (c.read s a []) <;> simp

end

end Sys2Proof.Machine

namespace Sys2Proof
open Sys2Proof.Machine

/-- Settles O6: the destination and `l0` are the result merged under the guard, and every other register stands. -/
theorem governedResult : Obligations.GovernedResult := by
  unfold Obligations.GovernedResult
  intro s c srcs d v hs hd _ hn
  refine ⟨c.result c.gov d v, write_noQ s c srcs c.gov d v hs hd hn, ?_, result_z c c.gov d v, fun hz => ?_, result_v_ne c c.gov d v,
    result_o_ne c c.gov d v, fun h hlen p hp hspan => ?_, fun hlo hhi hlen p hp hspan => ?_⟩
  · by_cases hz : d = 0x4A#7
    · rw [result_z c c.gov d v hz]
    · rw [result_of_ne_z c c.gov d v hz]
  · rw [result_of_ne_z c c.gov d v hz]
    refine ⟨rfl, _, rfl, fun p hp hspan => ?_⟩
    rw [valAt_merge c v _ p hn hp hspan, valAt_uVal]
  · rw [result_v_same c c.gov d v h (hlen ▸ h), valAt_merge c v _ p hn hp hspan]
  · rw [result_o_same c c.gov d v hlo hhi (by omega), valAt_merge c v _ p hn hp hspan]

/-- Settles O7: retiring a word stores the cut it makes over its own number. -/
theorem retirementFrame : Obligations.RetirementFrame := by
  unfold Obligations.RetirementFrame
  intro s c
  refine ⟨c.advance.quota (s.launchOf c.lid), advance_eq s c, advance_quota_eq _ c, fun u hu => ?_, rfl⟩
  rw [advance_eq]
  exact cutOf_putCut_ne s _ u (by rw [quota_uid, advance_uid]; exact hu)

/-- Settles O20: the guard's three cases, and where it is true everywhere whether the value is one and a legal MODE. -/
theorem modeSetsMode : Obligations.ModeSetsMode := by
  unfold Obligations.ModeSetsMode
  intro s c a hr hne v
  refine ⟨exec_mode_none hr, exec_mode_mixed hr, fun x hall hx => ?_, fun p hp q hq hall hdiff => ?_⟩
  · have hexec := exec_mode_all hr hne hall
    rw [uniformOf_of_same c v x hne hx] at hexec
    exact ⟨fun hm => hexec.trans (congrArg _ (if_pos hm)), fun hm => hexec.trans (congrArg _ (if_neg (ne_true_of_eq_false hm)))⟩
  · rw [exec_mode_all hr hne hall, uniformOf_of_differs c v p q hp hq hdiff]

end Sys2Proof

end

/-! ## The arrival of results

Where a result arrives, what its delivery makes of its cut, and what stands (R77, R81, R129, R133, R192, R194). -/

section

namespace Sys2Proof.Machine

/-! ### Fences that settle first (R181, R192) -/

/-- A cut whose fences have settled. -/
def Cut.settled (s : State) (c : Cut) : Cut := { c with ctx := { c.ctx with
  fences := c.ctx.fences.map fun o => o.map fun (f : Fence) => if !f.done && fenceDone s f then { f with done := true } else f } }

theorem settleFences_cuts (s : State) (c : Cut) : (s.settleFences c).cuts = (s.putCut (c.settled s)).cuts := by
  unfold State.settleFences
  extract_lets now flash ctx k t
  split <;> rfl

/-- A cut without fences settles to itself. -/
theorem settled_of_none (s : State) (c : Cut) (h : c.ctx.fences.all (·.isNone) = true) : c.settled s = c := by
  have hmap : ∀ g : Fence → Fence, (c.ctx.fences.map fun o => o.map g) = c.ctx.fences := fun g => by
    refine (List.map_congr_left fun o ho => ?_).trans (List.map_id _)
    rw [Option.isNone_iff_eq_none.mp (List.all_eq_true.mp h o ho)]
    rfl
  unfold Cut.settled
  rw [hmap]

theorem cutOf_congr {s t : State} (h : t.cuts = s.cuts) (u : Nat) : t.cutOf u = s.cutOf u := by
  unfold State.cutOf
  rw [h]

theorem settleFences_cutOf (s : State) (c d : Cut) (hc : s.cutOf c.uid = some c) (hf : c.ctx.fences.all (·.isNone) = true)
    (hd : d.uid = c.uid → d = c) : (s.settleFences d).cutOf c.uid = some c := by
  rw [cutOf_congr (settleFences_cuts s d)]
  by_cases hu : d.uid = c.uid
  · rw [hd hu, settled_of_none s c hf]
    exact cutOf_putCut s c c hc
  · exact (cutOf_putCut_ne s (d.settled s) c.uid (Ne.symm hu)).trans hc

theorem foldl_settleFences_cutOf (cs : List Cut) (s : State) (c : Cut) (hc : s.cutOf c.uid = some c)
    (hf : c.ctx.fences.all (·.isNone) = true) (hcs : ∀ d ∈ cs, d.uid = c.uid → d = c) :
    (cs.foldl State.settleFences s).cutOf c.uid = some c := by
  induction cs generalizing s with
  | nil => exact hc
  | cons d cs ih =>
    exact ih (s.settleFences d) (settleFences_cutOf s c d hc hf (hcs d (List.mem_cons_self ..)))
      fun e he => hcs e (List.mem_cons_of_mem d he)

/-- What the settling of fences before an arrival makes of a state. -/
def State.settledFor (s : State) (c : Cut) : State := if c.onMill then s.settleFences c else s.settleBench c.bench

/-- What settling fences may change. -/
def SettlesOnly (s t : State) : Prop := t = { s with cuts := t.cuts, l1 := t.l1, wbuf := t.wbuf }

theorem mem_of_cutOf (s : State) (u : Nat) (c : Cut) (h : s.cutOf u = some c) : c ∈ s.cuts := List.mem_of_find?_eq_some h

theorem settledFor_settlesOnly (s : State) (c : Cut) (hc : s.cutOf c.uid = some c) : SettlesOnly s (s.settledFor c) := by
  unfold State.settledFor
  split
  · exact (foldl_settleFences [c] s c.uid ⟨c, hc⟩).1
  · exact (foldl_settleFences _ s c.uid ⟨c, hc⟩).1

theorem settledFor_cutOf (s : State) (c : Cut) (hc : s.cutOf c.uid = some c) (hu : ∀ x ∈ s.cuts, x.uid = c.uid → x = c)
    (hf : c.ctx.fences.all (·.isNone) = true) : (s.settledFor c).cutOf c.uid = some c := by
  unfold State.settledFor
  split
  · exact settleFences_cutOf s c c hc hf fun _ => rfl
  · exact foldl_settleFences_cutOf _ s c hc hf fun d hd => hu d (List.mem_filter.mp hd).1

/-- A cut that differs from one of a list in its fences alone. -/
def FencesOf (cs : List Cut) (d : Cut) : Prop := ∃ e ∈ cs, ∃ fs, d = { e with ctx := { e.ctx with fences := fs } }

theorem foldl_settleFences_fencesOf (cs : List Cut) (s : State) (base : List Cut) (hs : ∀ d ∈ s.cuts, FencesOf base d)
    (hcs : ∀ d ∈ cs, d ∈ base) : ∀ d ∈ (cs.foldl State.settleFences s).cuts, FencesOf base d := by
  induction cs generalizing s with
  | nil => exact hs
  | cons c cs ih =>
    refine ih (s.settleFences c) (fun d hd => ?_) fun e he => hcs e (List.mem_cons_of_mem c he)
    rw [settleFences_cuts] at hd
    rcases mem_putCut s _ d hd with rfl | ⟨hmem, -⟩
    · exact ⟨c, hcs c (List.mem_cons_self ..), _, rfl⟩
    · exact hs d hmem

theorem settledFor_fencesOf (s : State) (c : Cut) (hc : s.cutOf c.uid = some c) : ∀ d ∈ (s.settledFor c).cuts, FencesOf s.cuts d := by
  have hself : ∀ d ∈ s.cuts, FencesOf s.cuts d := fun d hd => ⟨d, hd, d.ctx.fences, rfl⟩
  unfold State.settledFor
  split
  · exact foldl_settleFences_fencesOf [c] s s.cuts hself fun d hd => by
      rw [List.mem_singleton.mp hd]
      exact mem_of_cutOf s c.uid c hc
  · exact foldl_settleFences_fencesOf _ s s.cuts hself fun d hd => (List.mem_filter.mp hd).1

/-! ### What follows a delivery (R83, R194) -/

/-- What barriers that complete may change. -/
def CrewsOnly (s t : State) : Prop := t = { s with crews := t.crews, launches := t.launches }

theorem CrewsOnly.refl (s : State) : CrewsOnly s s := rfl
theorem CrewsOnly.trans {s t u : State} (h : CrewsOnly s t) (k : CrewsOnly t u) : CrewsOnly s u := by
  unfold CrewsOnly at *
  rw [k, h]

theorem settleCrew_crewsOnly (s : State) (key : Nat) : CrewsOnly s (s.settleCrew key) := by
  unfold State.settleCrew
  split
  · exact CrewsOnly.refl s
  · split
    · rfl
    · split <;> rfl

theorem settleConds_crewsOnly (s : State) : CrewsOnly s s.settleConds :=
  foldl_rel CrewsOnly CrewsOnly.refl CrewsOnly.trans (fun (s : State) (k : Crew) => s.settleCrew k.key)
    (fun s k => settleCrew_crewsOnly s k.key) _ s

theorem saveLeaving_stays (s : State) (u : Nat) (k : Cut) (h : s.cutOf u = some k) (hl : k.leaving = false) : s.saveLeaving u = s := by
  simp [State.saveLeaving, h, hl]

/-- After a delivery that leaves the cut where it is, barriers may complete, and nothing of memory or of the cut changes. -/
theorem settleConds_saveLeaving (s : State) (u : Nat) (k : Cut) (h : s.cutOf u = some k) (hl : k.leaving = false) :
    KeepsMemory s (s.settleConds.saveLeaving u) ∧ (s.settleConds.saveLeaving u).cutOf u = some k := by
  have hframe := settleConds_crewsOnly s
  have hcut : s.settleConds.cutOf u = some k := (cutOf_congr (by rw [hframe]) u).trans h
  rw [saveLeaving_stays _ u k hcut hl]
  exact ⟨⟨by rw [hframe], by rw [hframe]⟩, hcut⟩

theorem exec_resultArrival (s : State) (c : Cut) (o : Outst) (hc : s.cutOf c.uid = some c) (hu : ∀ x ∈ s.cuts, x.uid = c.uid → x = c)
    (hh : c.halted s = false) (hf : c.ctx.fences.all (·.isNone) = true) (ho : c.outst.find? (·.id == o.id) = some o) :
    exec (.resultArrival c.uid o.id) s = .next (((s.settledFor c).arrive c o).settleConds.saveLeaving c.uid) := by
  have harrival : s.arrival c.uid o.id = ((s.settledFor c).arrive c o).settleConds := by
    have hcut := settledFor_cutOf s c hc hu hf
    unfold State.settledFor at hcut ⊢
    simp only [State.arrival, hc, hh, Bool.false_eq_true, if_false, hcut, ho]
  exact congrArg (fun t : State => Host.Outcome.next (t.saveLeaving c.uid)) harrival

/-! ### What a delivery makes of its cut (R77, R133) -/

/-- A cut that has received the first registers of a result. -/
def Cut.received (c : Cut) (o : Outst) (vals : List RegVal) (n : Nat) : Cut :=
  (List.range n).foldl (fun (k : Cut) j =>
    k.setReg (BitVec.ofNat 7 (o.dst.toNat + j))
      (c.merge (o.govIn c) (vals.getD j (uVal 0)) (c.oldReg (BitVec.ofNat 7 (o.dst.toNat + j))))) c

theorem received_succ (c : Cut) (o : Outst) (vals : List RegVal) (n : Nat) : c.received o vals (n + 1) = (c.received o vals n).setReg
    (BitVec.ofNat 7 (o.dst.toNat + n)) (c.merge (o.govIn c) (vals.getD n (uVal 0)) (c.oldReg (BitVec.ofNat 7 (o.dst.toNat + n)))) := by
  simp [Cut.received, List.range_succ]

theorem received_eq (c : Cut) (o : Outst) (vals : List RegVal) (n : Nat) : c.received o vals n
    = { c with ctx := { c.ctx with v := (c.received o vals n).ctx.v, o := (c.received o vals n).ctx.o } } := by
  induction n with
  | zero => rfl
  | succ n ih => rw [received_succ, setReg_eq, ih]

/-- Registers of the main file receive their values, and the others stand. -/
theorem received_v (c : Cut) (o : Outst) (vals : List RegVal) (n : Nat) (hn : o.dst.toNat + n ≤ 0x40) (hlen : c.ctx.v.length = 64) :
    (c.received o vals n).ctx.v.length = 64 ∧ ∀ r, (c.received o vals n).ctx.v.getD r (uVal 0)
      = if o.dst.toNat ≤ r ∧ r < o.dst.toNat + n then c.merge (o.govIn c) (vals.getD (r - o.dst.toNat) (uVal 0)) (c.ctx.v.getD r (uVal 0))
        else c.ctx.v.getD r (uVal 0) := by
  induction n with
  | zero => exact ⟨hlen, fun r => by rw [if_neg (by omega)]; rfl⟩
  | succ n ih =>
    obtain ⟨ihlen, ih⟩ := ih (by omega)
    have hnum : (BitVec.ofNat 7 (o.dst.toNat + n)).toNat = o.dst.toNat + n := by simp; omega
    have hv : (c.received o vals (n + 1)).ctx.v = (c.received o vals n).ctx.v.set (o.dst.toNat + n)
        (c.merge (o.govIn c) (vals.getD n (uVal 0)) (c.ctx.v.getD (o.dst.toNat + n) (uVal 0))) := by
      rw [received_succ, setReg_v, hnum, if_pos (by omega), Cut.oldReg, hnum, if_pos (by omega)]
    rw [hv]
    refine ⟨by rw [List.length_set]; exact ihlen, fun r => ?_⟩
    by_cases hr : r = o.dst.toNat + n
    · rw [hr, if_pos (by omega), Nat.add_sub_cancel_left, List.getD_eq_getElem?_getD, List.getElem?_set_self (by omega)]
      rfl
    · rw [List.getD_eq_getElem?_getD, List.getElem?_set_ne (Ne.symm hr), ← List.getD_eq_getElem?_getD, ih r]
      by_cases hin : o.dst.toNat ≤ r ∧ r < o.dst.toNat + n
      · rw [if_pos hin, if_pos (by omega)]
      · rw [if_neg hin, if_neg (by omega)]

theorem setPred_eq (c : Cut) (n : Nat) (q : PredVal) : ∃ ps, c.setPred n q = { c with ctx := { c.ctx with preds := ps } } := by
  unfold Cut.setPred
  split
  · exact ⟨c.ctx.preds, rfl⟩
  · exact ⟨_, rfl⟩

/-- Flagged lanes change predicates alone (R126). -/
theorem setFlagged_eq (c : Cut) (p : Option Nat) (uniform : Bool) (m : W32) :
    ∃ ps, c.setFlagged p uniform m = { c with ctx := { c.ctx with preds := ps } } := by
  unfold Cut.setFlagged
  split
  · exact ⟨c.ctx.preds, rfl⟩
  · split
    · exact ⟨c.ctx.preds, rfl⟩
    · split
      · exact setPred_eq c _ _
      · exact setPred_eq c _ _

/-- What the delivery of a result makes of its cut. -/
theorem deliver_eq (c : Cut) (o : Outst) (vals : List RegVal) (second : Option RegVal) (flagged : W32) :
    let last := c.merge (o.govIn c) (vals.getLastD (uVal 0)) (uVal 0)
    let snd := c.merge (o.govIn c) (second.getD (uVal 0)) (uVal 0)
    ∃ ps, c.deliver o vals second flagged = { c with
      ctx := { c.ctx with
        v := (c.received o vals vals.length).ctx.v, o := (c.received o vals vals.length).ctx.o, preds := ps
        l0 := c.ctx.l0.fill o.id last snd, l1 := c.ctx.l1.fill o.id last snd
        asf := c.ctx.asf ||| BitVec.ofNat 64 (c.flagsOf (o.govIn c) o.flags) }
      outst := c.outst.filter (·.id != o.id), wait := if c.wait = .results then .none else c.wait } := by
  intro last snd
  have hregs := received_eq c o vals vals.length
  unfold Cut.deliver
  change ∃ ps, Cut.setFlagged (Cut.raiseFlags { c.received o vals vals.length with
    ctx := { (c.received o vals vals.length).ctx with
      l0 := (c.received o vals vals.length).ctx.l0.fill o.id last snd, l1 := (c.received o vals vals.length).ctx.l1.fill o.id last snd }
    outst := c.outst.filter (·.id != o.id), wait := if c.wait = .results then .none else c.wait } _) _ _ _ = _
  generalize c.received o vals vals.length = k at hregs ⊢
  rw [hregs, raiseFlags_eq]
  exact setFlagged_eq _ _ _ _

/-! ### A delivery that only writes its cut -/

theorem deliver_uid (c : Cut) (o : Outst) (vals : List RegVal) (second : Option RegVal) (flagged : W32) :
    (c.deliver o vals second flagged).uid = c.uid := by
  obtain ⟨ps, h⟩ := deliver_eq c o vals second flagged
  rw [h]

theorem deliver_leaving (c : Cut) (o : Outst) (vals : List RegVal) (second : Option RegVal) (flagged : W32) :
    (c.deliver o vals second flagged).leaving = c.leaving := by
  obtain ⟨ps, h⟩ := deliver_eq c o vals second flagged
  rw [h]

theorem deliver_outst (c : Cut) (o : Outst) (vals : List RegVal) (second : Option RegVal) (flagged : W32) :
    (c.deliver o vals second flagged).outst = c.outst.filter (·.id != o.id) := by
  obtain ⟨ps, h⟩ := deliver_eq c o vals second flagged
  rw [h]

theorem deliver_v (c : Cut) (o : Outst) (vals : List RegVal) (second : Option RegVal) (flagged : W32) :
    (c.deliver o vals second flagged).ctx.v = (c.received o vals vals.length).ctx.v := by
  obtain ⟨ps, h⟩ := deliver_eq c o vals second flagged
  rw [h]

/-- A result for no `q` register, of an instruction that has retired, in time: its cut is stored, and errors are counted. -/
theorem deliverTo_plain (s : State) (c : Cut) (o : Outst) (a : Arrival) (hq : isQ o.dst = false) (hp : o.piece = false)
    (hlate : ∀ r ∈ o.what.reads, r.overdue = false) :
    ∃ u, s.deliverTo c o a = u.putCut (c.deliver o a.vals a.second a.flagged) ∧ SameButWin s u := by
  have hnone : o.what.reads.filter (·.overdue) = [] := List.filter_eq_nil_iff.mpr fun r hr => ne_true_of_eq_false (hlate r hr)
  refine ⟨if c.onMill then s else s.countUp (regBrerr c.bench) 48 16 (readLanes a.errs).length, ?_, ?_⟩
  · simp only [State.deliverTo, hq, hp, hnone, Bool.false_and, Bool.false_eq_true, if_false, List.isEmpty_nil, Bool.not_true, Bool.not_false,
      if_true]
  · split
    · rfl
    · exact setField_sameButWin s _ _ _ _

/-- A result that its state binds without change is delivered: memory stands, and the cut is what the delivery makes of it. -/
theorem arrival_delivers (s : State) (c : Cut) (o : Outst) (hc : s.cutOf c.uid = some c) (hu : ∀ x ∈ s.cuts, x.uid = c.uid → x = c)
    (hh : c.halted s = false) (hleaving : c.leaving = false) (hf : c.ctx.fences.all (·.isNone) = true)
    (ho : c.outst.find? (·.id == o.id) = some o) (hmay : mayArrive (s.settledFor c) c o = true)
    (hafter : ((s.settledFor c).bound c o).after = s.settledFor c) (hq : isQ o.dst = false) (hp : o.piece = false)
    (hlate : ∀ r ∈ o.what.reads, r.overdue = false) :
    let a := (s.settledFor c).bound c o
    ∃ t, exec (.resultArrival c.uid o.id) s = .next t ∧ KeepsMemory s t ∧ t.cutOf c.uid = some (c.deliver o a.vals a.second a.flagged) := by
  intro a
  have hcut := settledFor_cutOf s c hc hu hf
  have harrive : (s.settledFor c).arrive c o = (s.settledFor c).deliverTo c o a := by
    simp only [State.arrive, hmay, if_true]
    rw [hafter, hcut]
    rfl
  obtain ⟨u, hplain, hwin⟩ := deliverTo_plain (s.settledFor c) c o a hq hp hlate
  have hcutu : u.cutOf c.uid = some c := (cutOf_congr (by rw [hwin]) c.uid).trans hcut
  have hput : (u.putCut (c.deliver o a.vals a.second a.flagged)).cutOf c.uid = some (c.deliver o a.vals a.second a.flagged) := by
    have hself := cutOf_putCut u (c.deliver o a.vals a.second a.flagged) c (by rw [deliver_uid]; exact hcutu)
    rwa [deliver_uid] at hself
  obtain ⟨hkeeps, hlast⟩ := settleConds_saveLeaving _ c.uid _ hput ((deliver_leaving c o _ _ _).trans hleaving)
  have hsettled := settledFor_settlesOnly s c hc
  refine ⟨_, exec_resultArrival s c o hc hu hh hf ho, ?_, ?_⟩
  · rw [harrive, hplain]
    have hmem : KeepsMemory s (u.putCut (c.deliver o a.vals a.second a.flagged)) := by
      rw [hwin]
      exact ⟨by rw [hsettled]; rfl, by rw [hsettled]; rfl⟩
    exact hmem.trans hkeeps
  · rw [harrive, hplain]
    exact hlast

/-! ### Computed values (R77) -/

theorem mayArrive_value (s : State) (c : Cut) (o : Outst) (v : RegVal) (second : Option RegVal) (h : o.what = .value v second)
    (hq : isQ o.dst = false) : mayArrive s c o = true := by
  simp [mayArrive, pushRoom, h, hq]

theorem bound_value (s : State) (c : Cut) (o : Outst) (v : RegVal) (second : Option RegVal) (h : o.what = .value v second) :
    s.bound c o = ⟨s, [v], second, 0, []⟩ := by
  simp [State.bound, h]

theorem value_delivers (s : State) (c : Cut) (o : Outst) (v : RegVal) (second : Option RegVal) (hc : s.cutOf c.uid = some c)
    (hu : ∀ x ∈ s.cuts, x.uid = c.uid → x = c) (hh : c.halted s = false) (hleaving : c.leaving = false)
    (hf : c.ctx.fences.all (·.isNone) = true) (ho : c.outst.find? (·.id == o.id) = some o) (hw : o.what = .value v second)
    (hq : isQ o.dst = false) (hp : o.piece = false) :
    ∃ t, exec (.resultArrival c.uid o.id) s = .next t ∧ KeepsMemory s t ∧ t.cutOf c.uid = some (c.deliver o [v] second 0) := by
  have hbound := bound_value (s.settledFor c) c o v second hw
  have h := arrival_delivers s c o hc hu hh hleaving hf ho (mayArrive_value _ c o v second hw hq) (by rw [hbound]) hq hp
    (by simp [hw, Pending.reads])
  rwa [hbound] at h

end Sys2Proof.Machine

end

/-! ## Long-latency results (R76, R77, R118, R153, R157, R158) -/

section

namespace Sys2Proof.Machine

/-! ### Special functions and FDIV (R157) -/

/-- A special function becomes outstanding with its rounded result. -/
theorem exec_specialOp (i : Instr) (op : RoundOp) (la : Nat) (s : State) (c : Cut) (hop : specialOp i = some (op, la)) (hr : Runs s c i) :
    exec i s = .next (s.writeLong c op.srcs op.dst la (op.result s c).v none (op.result s c).fl) := by
  unfold specialOp at hop
  split at hop <;> cases hop
  case h_8 => exact (operate_runs _ s _ c hr).trans (by rw [round2_result]; rfl)
  all_goals exact (operate_runs _ s _ c hr).trans (by rw [round1_result]; rfl)

theorem writeLong_of_none (s : State) (c : Cut) (srcs : List Opnd) (d : Opnd) (la : Nat) (v : RegVal) (second : Option RegVal) (fls : List Nat)
    (hg : c.gov = .none) : s.writeLong c srcs d la v second fls = s.complete c srcs (if isResult d then
      (if second.isSome then (c.shift (.val (uVal 0))).shift (.val (uVal 0)) else c.shift (.val (uVal 0))) else c) := by
  simp [State.writeLong, Cut.needsLanes, hg]

theorem writeLong_needsLanes (s : State) (c : Cut) (srcs : List Opnd) (d : Opnd) (la : Nat) (v : RegVal) (second : Option RegVal)
    (fls : List Nat) (hn : c.needsLanes c.gov v = true) : s.writeLong c srcs d la v second fls = s.lanesOnly c := by
  simp [State.writeLong, hn]

theorem writeLong_outstanding (s : State) (c : Cut) (srcs : List Opnd) (d : Opnd) (la : Nat) (v : RegVal) (second : Option RegVal)
    (fls : List Nat) (hn : c.needsLanes c.gov v = false) (hg : c.gov ≠ .none) : s.writeLong c srcs d la v second fls
      = s.await c srcs c.gov { Outst.of d c.et la (.value v second) with second := second.isSome, flags := fls, uniform := v.isU } := by
  simp [State.writeLong, hn, hg, Cut.et]

/-! ### TWOSUM (R153) -/

/-- The error of a rounded sum at a position, and over the items of a cut. -/
def Cut.errorAt (c : Cut) (u : Bool) (x y : RegVal) (r : Rnd) (i : Nat) : W64 × Nat :=
  (sumError c.et r c.ctx.mode (c.inAt u x i) (c.inAt u y i) (opFadd c.et r (c.inAt u x i) (c.inAt u y i)).1, 0)
def Cut.twosumErr (s : State) (c : Cut) (x y : RegVal) : RegVal := (c.rounded s (x.isU && y.isU) (c.errorAt (x.isU && y.isU) x y)).v

theorem exec_twosum (s : State) (c : Cut) (d a b : Opnd) (hr : Runs s c (.twosum d a b)) (hd : isResult d = true) :
    let r := c.round2 s (opFadd c.et) (c.read s a []) (c.read s b [a])
    exec (.twosum d a b) s = .next (if c.needsLanes c.gov r.v then s.lanesOnly c else
      s.write ((c.shift (.val (c.merge c.gov (c.twosumErr s (c.read s a []) (c.read s b [a])) (uVal 0)))).raiseFlags (c.flagsOf c.gov r.fl))
        [a, b] c.gov d r.v) := by
  intro r
  refine (operate_runs _ s _ c hr).trans (congrArg Host.Outcome.next ?_)
  simp only [hd, if_true]
  cases hn : c.needsLanes c.gov r.v with
  | true => exact if_pos hn
  | false => exact (if_neg (ne_true_of_eq_false hn)).trans (if_neg (ne_true_of_eq_false hn))

theorem rounded_isL_eq (s : State) (c : Cut) (u : Bool) (f g : Rnd → Nat → W64 × Nat) : (c.rounded s u f).v.isL = (c.rounded s u g).v.isL := by
  cases u <;> rfl

theorem needsLanes_congr (c : Cut) (g : Gov) (v w : RegVal) (h : v.isL = w.isL) : c.needsLanes g v = c.needsLanes g w := by
  unfold Cut.needsLanes
  rw [h]

theorem rndAt_two (s : State) (c : Cut) (a b : Opnd) (p : Nat) : c.rndAt s [a, b] p
    = c.rnd s (if (c.read s a []).isU && (c.read s b [a]).isU then 0 else c.ilAt s p) 0 := by
  simp [Cut.rndAt, Cut.inputsU, Cut.inputs, Cut.inputsAfter]

/-- The sum and the error of TWOSUM at a governed item. -/
theorem twosum_at (s : State) (c : Cut) (a b : Opnd) (p : Nat)
    (hn : c.needsLanes c.gov (c.round2 s (opFadd c.et) (c.read s a []) (c.read s b [a])).v = false) (hp : p ∈ c.governed) :
    let x := c.valAt (c.read s a []) p
    let y := c.valAt (c.read s b [a]) p
    let rn := c.rndAt s [a, b] p
    let r := c.round2 s (opFadd c.et) (c.read s a []) (c.read s b [a])
    (c.valAt r.v p, r.flagsAt p) = opFadd c.et rn x y
      ∧ c.valAt (c.twosumErr s (c.read s a []) (c.read s b [a])) p = sumError c.et rn c.ctx.mode x y (opFadd c.et rn x y).1 := by
  intro x y rn r
  have hx := inAt_eq c ((c.read s a []).isU && (c.read s b [a]).isU) (c.read s a []) p fun h => (Bool.and_eq_true_iff.mp h).1
  have hy := inAt_eq c ((c.read s a []).isU && (c.read s b [a]).isU) (c.read s b [a]) p fun h => (Bool.and_eq_true_iff.mp h).2
  constructor
  · refine (rounded_at s c _ _ p hn hp).trans ?_
    rw [hx, hy, ← rndAt_two]
  · have hnerr : c.needsLanes c.gov (c.twosumErr s (c.read s a []) (c.read s b [a])) = false :=
      (needsLanes_congr c c.gov _ _ (rounded_isL_eq s c _ _ _)).trans hn
    refine (congrArg Prod.fst (rounded_at s c _ _ p hnerr hp)).trans ?_
    unfold Cut.errorAt
    rw [hx, hy, ← rndAt_two]

/-! ### Division (R118) -/

theorem legal_of_runs (s : State) (c : Cut) (i : Instr) (hr : Runs s c i) : c.legal i (c.usesOf i) = true := by
  obtain ⟨-, hgate⟩ := hr
  by_contra h
  rw [gate_of_not_legal s c i (eq_false_of_ne_true h)] at hgate
  cases hgate

theorem typesOk_of_runs (s : State) (c : Cut) (i : Instr) (hr : Runs s c i) :
    typesOk i c.et (modeAOP c.ctx.mode) (modeSC c.ctx.mode) = true := by
  have h := legal_of_runs s c i hr
  simp only [Cut.legal, Bool.and_eq_true] at h
  exact h.1.1.2

/-- The two integer types of an integer type's width have that width (R110). -/
theorem width_intType (et : Nat) (signed : Bool) (h : et ≤ 7) : width (intType (width et) signed) = width et := by
  interval_cases et <;> cases signed <;> rfl

theorem intValue_emod (t : Nat) (v : W64) : intValue t v % (2 ^ width t : Nat) = (lowBits t v : Int) := by
  unfold intValue signedOf lowBits
  have hself : ((v.toNat % 2 ^ width t : Nat) : Int) % (2 ^ width t : Nat) = (v.toNat % 2 ^ width t : Nat) := by
    exact_mod_cast Nat.mod_mod _ _
  split_ifs
  · exact hself
  · rw [Int.sub_emod_right, hself]
  · exact hself

theorem intValue_of_lowBits_zero (t : Nat) (v : W64) (h : lowBits t v = 0) : intValue t v = 0 := by
  unfold lowBits at h
  simp [intValue, signedOf, lowBits, h]

theorem quotRem_zero (signed : Bool) (et : Nat) (x y : W64) (het : et ≤ 7) (hy : lowBits et y = 0) :
    quotRem signed et x y = (if signed then -1 else ((2 ^ width et : Nat) : Int) - 1, intValue (intType (width et) signed) x) := by
  have hw := width_intType et signed het
  have hzero : intValue (intType (width et) signed) y = 0 := intValue_of_lowBits_zero _ y (by rw [lowBits, hw]; exact hy)
  cases signed
  · exact if_pos hzero
  · exact if_pos hzero

/-- A zero divisor gives all ones and the dividend (R118). -/
theorem divide_by_zero (signed : Bool) (et : Nat) (x y : W64) (het : et ≤ 7) (hy : lowBits et y = 0) :
    opQuot signed et x y = wrapTo et (if signed then -1 else ((2 ^ width et : Nat) : Int) - 1)
      ∧ opRem signed et x y = extend et (lowBits et x) := by
  rw [opQuot, opRem, quotRem_zero signed et x y het hy]
  refine ⟨rfl, ?_⟩
  have hmod := intValue_emod (intType (width et) signed) x
  rw [lowBits, width_intType et signed het] at hmod
  rw [wrapTo, hmod]
  rfl

/-- The flags of a division: DZ where the divisor is zero. -/
def Cut.divFlags (c : Cut) (x y : RegVal) : List Nat :=
  let dz := fun (v : W64) => if lowBits c.et v = 0 then flagDZ else 0
  if x.isU && y.isU then [dz y.base] else (List.range 32).map fun i => dz (c.valAt y i)

theorem exec_divide (signed : Bool) (l : BitVec 4) (d a b : Opnd) (s : State) (c : Cut)
    (hr : Runs s c (if signed then .div l d a b else .divu l d a b)) :
    let x := c.read s a []
    let y := c.read s b [a]
    exec (if signed then .div l d a b else .divu l d a b) s = .next (s.writeLong c [a, b] d l.toNat (c.map2 (opQuot signed c.et) x y)
      (some (c.map2 (opRem signed c.et) x y)) (c.divFlags x y)) := by
  cases signed
  · exact operate_runs _ s _ c hr
  · exact operate_runs _ s _ c hr

theorem map2_isU (c : Cut) (f : W64 → W64 → W64) (x y : RegVal) : (c.map2 f x y).isU = (x.isU && y.isU) := by
  unfold Cut.map2
  split
  · next h => rw [h]; rfl
  · next h => rw [eq_false_of_ne_true h]; rfl

theorem map2_isL (c : Cut) (f : W64 → W64 → W64) (x y : RegVal) : (c.map2 f x y).isL = !(x.isU && y.isU) := by
  unfold Cut.map2
  split
  · next h => rw [h]; rfl
  · next h => rw [eq_false_of_ne_true h]; rfl

/-- A result of two inputs is computed item by item. -/
theorem map2_at (c : Cut) (f : W64 → W64 → W64) (x y : RegVal) (p : Nat) (hp : p ∈ c.positions)
    (hl : (x.isU && y.isU) = false → c.isPattern = false) : c.valAt (c.map2 f x y) p = f (c.valAt x p) (c.valAt y p) := by
  unfold Cut.map2
  split
  · next h =>
    obtain ⟨hx, hy⟩ := Bool.and_eq_true_iff.mp h
    rw [valAt_uVal, valAt_of_isU c x p hx, valAt_of_isU c y p hy]
  · next h => exact valAt_overLanes c _ p (hl (eq_false_of_ne_true h)) hp

theorem divFlags_at (c : Cut) (x y : RegVal) (p : Nat) (hp : p ∈ c.positions) (hl : (x.isU && y.isU) = false → c.isPattern = false) :
    (if x.isU && y.isU then (c.divFlags x y).getD 0 0 else (c.divFlags x y).getD p 0)
      = if lowBits c.et (c.valAt y p) = 0 then flagDZ else 0 := by
  unfold Cut.divFlags
  cases h : x.isU && y.isU with
  | true => rw [valAt_of_isU c y p (Bool.and_eq_true_iff.mp h).2]; rfl
  | false => simpa using getD_range_map (fun i => if lowBits c.et (c.valAt y i) = 0 then flagDZ else 0) 32 p 0 (lt_of_position c p (hl h) hp)

/-- DIV reserves both slots of the last-result file (R77). -/
theorem await_second (s : State) (c : Cut) (srcs : List Opnd) (o : Outst) (hd : isResult o.dst = true) (h2 : o.second = true)
    (hs : srcs.any isQ = false) : s.await c srcs c.gov o = ({ s with nextId := s.nextId + 1, nextSeq := s.nextSeq + 1 } : State).advance
      { c with
        outst := c.outst ++ [{ o with
          id := if o.id = 0 then s.nextId else o.id, seq := s.nextSeq, pc := c.ctx.pc, gov := c.gov.mask c, whole := c.gov == .all
          la := o.la + 1, scope := modeSC c.ctx.mode }]
        ctx := { c.ctx with l0 := .rsv (if o.id = 0 then s.nextId else o.id) false, l1 := .rsv (if o.id = 0 then s.nextId else o.id) true } } := by
  unfold State.await
  simp only [popAll_none s c srcs hs, popped_none c srcs hs, hd, h2, Bool.not_true, Bool.false_eq_true, if_false, if_true]
  rfl

end Sys2Proof.Machine

namespace Sys2Proof
open Sys2Proof.Machine

/-- Settles O11: the rounded result of each special function at every governed item, and TWOSUM's sum with its error. -/
theorem specialFunctionResults : Obligations.SpecialFunctionResults := by
  unfold Obligations.SpecialFunctionResults
  refine ⟨fun i op la s c hop hr => ?_, fun d a b s c hr hd => ?_⟩
  · have hexec := exec_specialOp i op la s c hop hr
    exact ⟨op.result s c, hexec, fun hn p hp _ => op.result_at s c p hn hp,
      fun hn hg => hexec.trans (congrArg _ (writeLong_outstanding s c _ _ _ _ _ _ hn hg)),
      fun hg hd => hexec.trans (congrArg _ ((writeLong_of_none s c _ _ _ _ _ _ hg).trans (by rw [if_pos hd]; rfl)))⟩
  · exact ⟨_, _, exec_twosum s c d a b hr hd, fun hn p hp _ => twosum_at s c a b p hn hp⟩

/-- Settles O9: quotient and remainder item by item, the two slots they reserve, and what their arrival fills and flags. -/
theorem divisionResults : Obligations.DivisionResults := by
  unfold Obligations.DivisionResults
  refine ⟨?_, fun s c srcs o hd h2 hs => ⟨_, await_second s c srcs o hd h2 hs, rfl, rfl⟩, ?_⟩
  · intro signed l d a b s c i u hr
    have hexec := exec_divide signed l d a b s c hr
    let x := c.read s a []
    let y := c.read s b [a]
    refine ⟨c.map2 (opQuot signed c.et) x y, c.map2 (opRem signed c.et) x y, c.divFlags x y, map2_isU c _ _ _, map2_isU c _ _ _, map2_isL c _ _ _, map2_isL c _ _ _,
      fun hg => hexec.trans (congrArg _ (writeLong_of_none s c _ _ _ _ _ _ hg)),
      fun _ hn => hexec.trans (congrArg _ (writeLong_needsLanes s c _ _ _ _ _ _ hn)), fun hg hn => ?_, fun hn p hp => ?_⟩
    · rw [hexec, writeLong_outstanding s c _ _ _ _ _ _ hn hg, map2_isU]
      rfl
    · have hpos := positions_of_governed c p hp
      have hl : u = false → c.isPattern = false := fun h =>
        isPattern_of_governed c _ p ((map2_isL c _ _ _).trans (congrArg Bool.not h)) hn hp
      refine ⟨map2_at c _ _ _ p hpos hl, map2_at c _ _ _ p hpos hl, divFlags_at c _ _ p hpos hl, fun hy => ?_⟩
      have het : c.et ≤ 7 := by
        have h := typesOk_of_runs s c i hr
        cases signed <;> simpa [i, typesOk] using h
      rw [map2_at c _ _ _ p hpos hl, map2_at c _ _ _ p hpos hl]
      exact divide_by_zero signed c.et _ _ het hy
  · intro s c o v r hc hu hh hleaving hf ho hw hq hp hflag g
    obtain ⟨t, hexec, hkeeps, hcut⟩ := value_delivers s c o v (some r) hc hu hh hleaving hf ho hw hq hp
    obtain ⟨ps, hk⟩ := deliver_eq c o [v] (some r) 0
    refine ⟨t, _, hexec, hkeeps, hcut, ?_, ?_, ?_, ?_⟩
    all_goals rw [hk]
    all_goals rfl

end Sys2Proof

end

/-! ## Loads

What a load makes of the machine when it issues (R124, R126, R129 to R133, R136). -/

section

namespace Sys2Proof.Machine

/-- A load of the model is its operation over what it asks for. -/
theorem exec_loadOp (i : Instr) (op : LoadOp) (addr : Nat → W64) (s : State) (c : Cut) (hop : loadOp s c i = some (op, addr))
    (hr : Runs s c i) : exec i s = .next (s.load c op addr) := by
  cases i <;> simp only [loadOp, Option.some.injEq, Prod.mk.injEq, reduceCtorEq] at hop
  all_goals
    obtain ⟨rfl, rfl⟩ := hop
    exact operate_runs _ s _ c hr

theorem performed_of_no_replay (c : Cut) (h : c.replay = 0) (i : Nat) : c.performed i = false := by
  simp [Cut.performed, h, bit]

theorem keptReads_of_no_replay (c : Cut) (d : Opnd) (n : Nat) (h : c.replay = 0) : c.keptReads d n = [] := by
  simp [Cut.keptReads, performed_of_no_replay c h]

theorem translated_sameButReads (s : State) (c : Cut) (q : Ask) (as : List ItemAcc) : SameButReads s (s.translated c q as) :=
  foldl_sameButReads _ (fun s _ => foldl_sameButReads _ (fun s _ => xlatted_sameButReads s _ _ _) _ s) as s

/-- The accesses that a load makes. -/
def LoadOp.made (o : LoadOp) (c : Cut) (addr : Nat → W64) : List ItemAcc := if o.uniform then (c.accesses addr).take 1 else c.accesses addr

/-- The items that a failing access names: every governed one where the access is U. -/
def LoadOp.failing (o : LoadOp) (c : Cut) (bad : List Nat) : List Nat := if o.uniform then c.governed else bad

theorem checkAccess_clean (s : State) (c : Cut) (q : Ask) (load store : Bool) (as : List ItemAcc) (f : List Nat → List Nat)
    (h : Clean s c q load store as) : checkAccess s c q load store as f = none := by
  obtain ⟨hmill, has, hwatch⟩ := h
  have hbad : (as.filter fun a => a.cause s c q != 0) = [] := List.filter_eq_nil_iff.mpr fun a ha => by simp [(has a ha).1]
  unfold checkAccess
  rw [hbad, hwatch, hmill]
  rfl

theorem checkAccess_fails (s : State) (c : Cut) (q : Ask) (load store : Bool) (as : List ItemAcc) (f : List Nat → List Nat)
    (a : ItemAcc) (rest : List ItemAcc) (hl : c.isPattern = false) (h : (as.filter fun x => x.cause s c q != 0) = a :: rest) :
    checkAccess s c q load store as f = some ((s.translated c q as).stop c
      (c.cause ((a :: rest).foldl (fun m x => m ||| x.cause s c q) 0) a.ptr (lanesWord (f ((a :: rest).map (·.pos)))))) := by
  unfold checkAccess
  rw [h, hl]
  rfl

section
variable (s : State) (c : Cut) (op : LoadOp) (addr : Nat → W64)

theorem load_ungoverned (hg : c.gov = .none) : s.load c op addr = s.write c op.srcs .none op.dst (uVal 0) := if_pos hg

/-- The load of a governed cut that is not a Mill: the checks, and then the accesses. -/
theorem load_checked (hmill : c.onMill = false) (hreplay : c.replay = 0) (hg : c.gov ≠ .none)
    (hn : c.needsLanes c.gov (if op.uniform then uVal 0 else .lanes []) = false) :
    s.load c op addr = (checkAccess s c op.ask true false (op.made c addr) (op.failing c)).getD
      ((s.translated c op.ask (op.made c addr)).loadGo c op ((op.made c addr).filter fun a => (a.locs s c op.ask).isSome)
        ((op.made c addr).filter fun a => (a.locs s c op.ask).isNone)) := by
  unfold State.load LoadOp.made LoadOp.failing
  simp only [hreplay, BEq.rfl, Bool.and_true, hmill, Bool.false_eq_true, if_false]
  rw [if_neg hg, hn, if_neg Bool.false_ne_true]
  split
  · next h => rw [h]; rfl
  · next h => rw [h]; rfl

theorem load_fails (hmill : c.onMill = false) (hreplay : c.replay = 0) (hg : c.gov ≠ .none) (hl : c.isPattern = false) (a : ItemAcc)
    (rest : List ItemAcc) (hbad : ((op.made c addr).filter fun x => x.cause s c op.ask != 0) = a :: rest) :
    s.load c op addr = (s.translated c op.ask (op.made c addr)).stop c
      (c.cause ((a :: rest).foldl (fun m x => m ||| x.cause s c op.ask) 0) a.ptr (lanesWord (op.failing c ((a :: rest).map (·.pos))))) := by
  rw [load_checked s c op addr hmill hreplay hg (needsLanes_of_lane c _ _ hl), checkAccess_fails s c op.ask true false _ _ a rest hl hbad]
  rfl

theorem load_clean (hreplay : c.replay = 0) (hg : c.gov ≠ .none) (hn : c.needsLanes c.gov (if op.uniform then uVal 0 else .lanes []) = false)
    (hclean : Clean s c op.ask true false (op.made c addr)) :
    s.load c op addr = (s.translated c op.ask (op.made c addr)).loadGo c op (op.made c addr) [] := by
  have hpresent : ((op.made c addr).filter fun a => (a.locs s c op.ask).isSome) = op.made c addr :=
    List.filter_eq_self.mpr fun a ha => (hclean.2.1 a ha).2
  have habsent : ((op.made c addr).filter fun a => (a.locs s c op.ask).isNone) = [] :=
    List.filter_eq_nil_iff.mpr fun a ha => by simp [Option.isSome_iff_ne_none.mp (hclean.2.1 a ha).2]
  rw [load_checked s c op addr hclean.1 hreplay hg hn, checkAccess_clean s c op.ask true false _ _ hclean, hpresent, habsent]
  rfl

/-- A load whose items are all present becomes outstanding. -/
theorem loadGo_present (as : List ItemAcc) (hmill : c.onMill = false) (hreplay : c.replay = 0)
    (hecc : modeLF c.ctx.mode = 1 ∨ eccOn s (c.asid s) = false) (hreply : awaitsReply (readsOf s c op.ask as) = false) :
    s.loadGo c op as [] = s.await c op.srcs c.gov
      { Outst.of op.dst c.et op.la (.load op.l1 op.acquire op.ask.size op.ask.elems (readsOf s c op.ask as)) with
        uniform := op.uniform, flagPred := c.flagPred } := by
  have hdelivers : (!(modeLF c.ctx.mode == 1) && eccOn s (c.asid s)) = false := by
    rcases hecc with h | h <;> simp [h]
  unfold State.loadGo
  simp only [hmill, hdelivers, keptReads_of_no_replay c _ _ hreplay, List.nil_append, hreply, Bool.and_false, Bool.false_and,
    Bool.or_false, Bool.false_eq_true, if_false]
  rfl

end

end Sys2Proof.Machine

end

/-! ## Loads that arrive -/

section

namespace Sys2Proof.Machine

/-! ### What settling fences leaves of translations and of an arrival -/

section
variable {s t : State} (h : SettlesOnly s t)
include h

theorem SettlesOnly.homeWord : homeWord t = homeWord s := by rw [h]; rfl
theorem SettlesOnly.viewAt : viewAt t = viewAt s := by rw [h]; rfl
theorem SettlesOnly.errored : errored t = errored s := by rw [h]; rfl
theorem SettlesOnly.launchOf : t.launchOf = s.launchOf := by rw [h]; rfl

theorem SettlesOnly.walkPage (asid obj off part : Nat) (e : ObjEnt) (u : TlbUnit) : walkPage t asid obj off part e u = walkPage s asid obj off part e u := by
  have hhost : hostOwner t = hostOwner s := by rw [h]; rfl
  have hdistrict : districtOwner t = districtOwner s := by rw [h]; rfl
  unfold Machine.walkPage
  rw [h.homeWord, h.errored, hhost, hdistrict]

theorem SettlesOnly.walkObject (asid obj : Nat) : walkObject t asid obj = walkObject s asid obj := by
  have hreg : t.reg = s.reg := by rw [h]; rfl
  unfold Machine.walkObject
  rw [h.homeWord, h.errored, hreg]

theorem SettlesOnly.walk (u : TlbUnit) (asid : Nat) (ptr : W64) : walk t u asid ptr = walk s u asid ptr := by
  simp only [Machine.walk, h.walkObject, h.walkPage]

theorem SettlesOnly.ilAt (c : Cut) (i : Nat) : c.ilAt t i = c.ilAt s i := by rw [h]; rfl

/-- A claim that stands once fences have settled stood before. -/
theorem SettlesOnly.claimLive (hcuts : ∀ d ∈ t.cuts, FencesOf s.cuts d) (k : Nat × Nat) (hk : claimLive t k = true) : claimLive s k = true := by
  obtain ⟨d, hd, hholds⟩ := List.any_eq_true.mp hk
  obtain ⟨e, he, fs, rfl⟩ := hcuts d hd
  refine List.any_eq_true.mpr ⟨e, he, ?_⟩
  rw [← hholds, Cut.holds, Cut.holds]
  simp only [h.ilAt]
  rfl

theorem SettlesOnly.loomOps (hcuts : ∀ d ∈ t.cuts, FencesOf s.cuts d) (o : LoomOp) (ho : o ∈ loomOps t) : o ∈ loomOps s := by
  have hlooms : t.looms = s.looms := by rw [h]
  have hsaved : t.savedClaims = s.savedClaims := by rw [h]
  simp only [Machine.loomOps, hlooms, hsaved, List.mem_append, List.mem_flatMap, List.mem_filter] at ho ⊢
  refine ho.imp_right fun ⟨x, ⟨hx, hlive⟩, hox⟩ => ⟨x, ⟨hx, h.claimLive hcuts _ hlive⟩, hox⟩

theorem SettlesOnly.drainsMeet (hcuts : ∀ d ∈ t.cuts, FencesOf s.cuts d) (uids : List Nat) (seq : Nat) (l : Loc) (n : Nat)
    (hs : drainsMeet s uids seq l n = false) : drainsMeet t uids seq l n = false := by
  refine eq_false_of_ne_true fun ht => ne_true_of_eq_false hs ?_
  obtain ⟨o, ho, hmeets⟩ := List.any_eq_true.mp ht
  simp only [h.walk] at hmeets
  exact List.any_eq_true.mpr ⟨o, h.loomOps hcuts o ho, hmeets⟩

theorem SettlesOnly.writesAhead (hcuts : ∀ d ∈ t.cuts, FencesOf s.cuts d) (c : Cut) (seq : Nat) (l : Loc) (n : Nat)
    (hs : writesAhead s c seq l n = false) : writesAhead t c seq l n = false := by
  have hstore : t.storeQ = s.storeQ := by rw [h]
  have hremotes : t.remotes = s.remotes := by rw [h]
  unfold Machine.writesAhead at hs ⊢
  rw [hstore, hremotes]
  rw [Bool.or_eq_false_iff] at hs ⊢
  exact ⟨hs.1, h.drainsMeet hcuts _ _ _ _ hs.2⟩

theorem SettlesOnly.behindOwn (hcuts : ∀ d ∈ t.cuts, FencesOf s.cuts d) (c : Cut) (o : Outst) (size : Nat) (reads : List LaneRead)
    (hs : behindOwn s c o size reads = false) : behindOwn t c o size reads = false := by
  unfold Machine.behindOwn at hs ⊢
  rw [Bool.or_eq_false_iff] at hs ⊢
  refine ⟨hs.1, List.any_eq_false.mpr fun r hr => ?_⟩
  have hr' := List.any_eq_false.mp hs.2 r hr
  rw [Bool.not_eq_true] at hr' ⊢
  exact h.writesAhead hcuts c o.seq r.loc size hr'

theorem SettlesOnly.readMayBind (c : Cut) (o : Outst) (hf : c.ctx.fences.all (·.isNone) = true) : readMayBind t c o = readMayBind s c o := by
  have hnone : ∀ u : State, c.openFences u = [] := fun u => by
    unfold Cut.openFences
    rw [List.filterMap_eq_nil_iff (f := id) |>.mpr fun f hfm => Option.isNone_iff_eq_none.mp (List.all_eq_true.mp hf f hfm)]
    rfl
  have hstore : t.storeQ = s.storeQ := by rw [h]
  have hremotes : t.remotes = s.remotes := by rw [h]
  unfold Machine.readMayBind Cut.quantum
  rw [hnone t, hnone s, hstore, hremotes, h.launchOf]

/-- A load that may arrive may still once the fences before it have settled. -/
theorem SettlesOnly.mayArrive (hcuts : ∀ d ∈ t.cuts, FencesOf s.cuts d) (c : Cut) (o : Outst) (l1 acquire : Bool) (size elems : Nat)
    (reads : List LaneRead) (hw : o.what = .load l1 acquire size elems reads) (hf : c.ctx.fences.all (·.isNone) = true)
    (hq : isQ o.dst = false) (hs : mayArrive s c o = true) : mayArrive t c o = true := by
  unfold Machine.mayArrive at hs ⊢
  rw [hw] at hs ⊢
  simp only [pushRoom, hq, Bool.not_false, Bool.true_or, Bool.true_and, Bool.and_eq_true, Bool.not_eq_true', h.readMayBind c o hf] at hs ⊢
  obtain ⟨⟨hbind, hown⟩, hreply⟩ := hs
  exact ⟨⟨hbind, h.behindOwn hcuts c o size reads hown⟩, hreply⟩

end

/-! ### How plain reads are bound (R129, R190) -/

theorem fillView_of_no_view (s : State) (p : Nat) (h : viewAt s p = none) : s.fillView p = s := by simp [State.fillView, h]

theorem readFlaw_of_no_flaws (s : State) (p : Nat) (h : s.flaws = []) : s.readFlaw p = s := by simp [State.readFlaw, h]

theorem foldl_id {α β : Type} (f : β → α → β) (xs : List α) (b : β) (h : ∀ x ∈ xs, f b x = b) : xs.foldl f b = b := by
  induction xs with
  | nil => rfl
  | cons x xs ih => rw [List.foldl_cons, h x (List.mem_cons_self ..), ih fun y hy => h y (List.mem_cons_of_mem x hy)]

/-- A read that is still open, of a device address that no window decodes and no error holds. -/
def LaneRead.Plain (s : State) (r : LaneRead) : Prop := r.got = none ∧ ∃ q, r.loc = .dev q ∧ viewAt s q = none ∧ Machine.errored s q = false

/-- What a plain read returns at its home. -/
def LaneRead.homed (s : State) (size : Nat) (r : LaneRead) : LaneRead :=
  { r with got := some (homeRead s (locOff r.loc) size), errored := false }

/-- Where nothing is queued, a load around L1 finds the bytes of the home. -/
theorem loadBytes_home (s : State) (c : Cut) (seq q n : Nat) (hstore : s.storeQ = []) (hq : s.qeff = []) :
    loadBytes s c seq false (.dev q) n = homeRead s q n := by
  simp [loadBytes, seenOver, seenWrites, hstore, hq, locOff, locAt, pathByte, homeRead]

theorem bind_plain (s : State) (c : Cut) (seq size : Nat) (r : LaneRead) (h : r.Plain s) (hstore : s.storeQ = []) (hq : s.qeff = []) :
    r.bind s c seq false size = r.homed s size := by
  obtain ⟨hgot, q, hloc, -, herr⟩ := h
  have hok : erroredFor s c seq q = false := by simp [erroredFor, herr]
  unfold LaneRead.bind
  rw [hgot, hloc]
  simp only [hok, Bool.false_eq_true, if_false, loadBytes_home s c seq q size hstore hq]
  rw [LaneRead.homed, hloc]
  rfl

theorem view_of_openAddrs (s : State) (reads : List LaneRead) (h : ∀ r ∈ reads, r.Plain s) (p : Nat) (hp : p ∈ openAddrs reads) :
    viewAt s p = none := by
  obtain ⟨r, hr, hrp⟩ := List.mem_filterMap.mp hp
  obtain ⟨hgot, q, hloc, hview, -⟩ := h r hr
  rw [hgot, hloc] at hrp
  cases hrp
  exact hview

theorem bindReads_plain (s : State) (c : Cut) (seq size : Nat) (reads : List LaneRead) (h : ∀ r ∈ reads, r.Plain s)
    (hstore : s.storeQ = []) (hq : s.qeff = []) (hflaws : s.flaws = []) :
    s.bindReads c seq false false size reads = (s, reads.map (LaneRead.homed s size)) := by
  have hbring : s.bringIn c false false reads = s :=
    foldl_id State.fillView _ s fun p hp => fillView_of_no_view s p (view_of_openAddrs s reads h p hp)
  have hflaw : (openAddrs reads).foldl State.readFlaw s = s := foldl_id State.readFlaw _ s fun p _ => readFlaw_of_no_flaws s p hflaws
  simp only [State.bindReads, hbring, hflaw]
  rw [List.map_congr_left fun r hr => bind_plain s c seq size r (h r hr) hstore hq]

theorem bound_load (s : State) (c : Cut) (o : Outst) (size elems : Nat) (reads : List LaneRead)
    (hw : o.what = .load false false size elems reads) (h : ∀ r ∈ reads, r.Plain s) (hstore : s.storeQ = []) (hq : s.qeff = [])
    (hflaws : s.flaws = []) : ∃ flagged, s.bound c o = ⟨s, o.values size elems (reads.map (LaneRead.homed s size)), none, flagged, []⟩ := by
  have herrs : ((reads.map (LaneRead.homed s size)).filter (·.errored)) = [] := by
    refine List.filter_eq_nil_iff.mpr fun r hr => ?_
    obtain ⟨r', -, rfl⟩ := List.mem_map.mp hr
    exact Bool.false_ne_true
  unfold State.bound
  rw [hw]
  simp only [bindReads_plain s c o.seq size reads h hstore hq hflaws, herrs, Bool.false_and, Bool.false_eq_true, if_false]
  exact ⟨_, rfl⟩

/-! ### The values of a load item by item (R129, R133) -/

theorem homed_value (s : State) (r : LaneRead) (et size : Nat) : (r.homed s size).value et size = extend et (homeWord s (locOff r.loc) size) := by
  simp [LaneRead.homed, LaneRead.value, homeRead, homeWord]

theorem values_length (o : Outst) (size elems : Nat) (reads : List LaneRead) : (o.values size elems reads).length = elems := by
  simp [Outst.values]

/-- The value of an element of a lane is that of its read. -/
theorem values_at (s : State) (c : Cut) (o : Outst) (size elems : Nat) (reads : List LaneRead) (j p : Nat) (hj : j < elems) (hp : p < 32)
    (hu : o.uniform = false) (r : LaneRead) (hr : (reads.find? fun r => r.elem == j && r.lane == p) = some r) :
    c.valAt ((o.values size elems (reads.map (LaneRead.homed s size))).getD j (uVal 0)) p = extend o.et (homeWord s (locOff r.loc) size) := by
  have hsound : ∀ rs : List LaneRead, ((rs.map (LaneRead.homed s size)).filter fun r =>
      !(rs.map (LaneRead.homed s size)).any fun q => q.lane == r.lane && q.errored) = rs.map (LaneRead.homed s size) := fun rs => by
    refine List.filter_eq_self.mpr fun r _ => ?_
    simp [LaneRead.homed]
  have hfind : ((reads.map (LaneRead.homed s size)).filter fun r => r.elem == j).find? (·.lane == p) = some (r.homed s size) := by
    rw [List.find?_filter, List.find?_map, ← Option.map_some, ← hr]
    congr 2
    funext x
    change decide ((x.elem == j) = true ∧ (x.lane == p) = true) = (x.elem == j && x.lane == p)
    rw [Bool.decide_and, Bool.decide_eq_true, Bool.decide_eq_true]
  unfold Outst.values
  simp only [hsound, hu, Bool.false_eq_true, if_false]
  rw [getD_range_map _ elems j _ hj]
  change (List.map _ (List.range 32)).getD p 0 = _
  rw [getD_range_map _ 32 p 0 hp, hfind]
  exact homed_value s r o.et size

/-! ### Deliveries item by item -/

theorem isQ_of_main (d : Opnd) (h : d.toNat ≤ 0x40) : isQ d = false := by
  simp [isQ]
  omega

/-- A read that nothing has answered is no answer that came too late. -/
theorem overdue_of_open (r : LaneRead) (h : r.got = none) : r.overdue = false := by simp [LaneRead.overdue, h]

/-- What a delivery leaves at an item: the new value in the governed lanes, and the old one elsewhere (R77). -/
theorem valAt_merge_govIn (c : Cut) (o : Outst) (new old : RegVal) (p : Nat) (hl : c.isPattern = false) (hp : p ∈ c.positions) (hlt : p < 32) :
    c.valAt (c.merge (o.govIn c) new old) p
      = if (inMask c.ctx.active p && (o.whole || inMask o.gov p)) = true then c.valAt new p else c.valAt old p := by
  have hactive : inMask c.ctx.active p = true := by
    rw [Cut.positions, hl, if_neg Bool.false_ne_true] at hp
    exact (mem_lanesOf _ _).mp hp
  cases hw : o.whole with
  | true => simp [Outst.govIn, hw, hactive, Cut.merge]
  | false =>
    have hmem : p ∈ (lanesOf o.gov).filter (inMask c.ctx.active) ↔ inMask o.gov p = true := by
      rw [List.mem_filter, mem_lanesOf, hactive, and_iff_left rfl]
    simp [Outst.govIn, hw, hactive, Cut.merge, Cut.valAt, RegVal.at, hlt, mem_lanesOf]

/-- The registers of a cut after a delivery: those of the destination merged, the others as they were (R77, R133). -/
theorem deliver_registers (c : Cut) (o : Outst) (vals : List RegVal) (second : Option RegVal) (flagged : W32) (hl : c.isPattern = false)
    (hfit : o.dst.toNat + vals.length ≤ 0x40) (hlen : c.ctx.v.length = 64) :
    (∀ j, j < vals.length → ∀ p ∈ c.positions, p < 32 →
      c.valAt ((c.deliver o vals second flagged).ctx.v.getD (o.dst.toNat + j) (uVal 0)) p
        = if (inMask c.ctx.active p && (o.whole || inMask o.gov p)) = true then c.valAt (vals.getD j (uVal 0)) p
          else c.valAt (c.ctx.v.getD (o.dst.toNat + j) (uVal 0)) p)
    ∧ ∀ r, (r < o.dst.toNat ∨ o.dst.toNat + vals.length ≤ r) →
      (c.deliver o vals second flagged).ctx.v.getD r (uVal 0) = c.ctx.v.getD r (uVal 0) := by
  have hv := (received_v c o vals vals.length hfit hlen).2
  rw [deliver_v]
  refine ⟨fun j hj p hp hlt => ?_, fun r hr => ?_⟩
  · rw [hv, if_pos (by omega), Nat.add_sub_cancel_left]
    exact valAt_merge_govIn c o _ _ p hl hp hlt
  · rw [hv, if_neg (by omega)]

end Sys2Proof.Machine

namespace Sys2Proof
open Sys2Proof.Machine

/-- Settles O27: the issue of a load by the branches of its checks, and its arrival, register by register and item by item. -/
theorem loadsReturn : Obligations.LoadsReturn := by
  unfold Obligations.LoadsReturn
  refine ⟨?_, ?_⟩
  · intro i op addr s c hop hr hmill hreplay as t reads
    have hexec := exec_loadOp i op addr s c hop hr
    refine ⟨fun hg => hexec.trans (congrArg _ (load_ungoverned s c op addr hg)), fun hg hn hclean hecc hreply => ?_,
      (translated_sameButReads s c op.ask as).keepsMemory, fun hg hl a rest hbad => ?_⟩
    · rw [hexec, load_clean s c op addr hreplay hg hn hclean]
      exact congrArg _ (loadGo_present t c op as hmill hreplay hecc hreply)
    · exact ⟨_, _, hexec.trans (congrArg _ (load_fails s c op addr hmill hreplay hg hl a rest hbad)), rfl⟩
  · intro s c o hc hu hh hleaving hmill hl hf ho hp hlen at_ on
    refine ⟨fun v second hw hdst => ?_, fun size elems reads hw hsize hfit huni hstore hqeff hflaws hmay hplain => ?_⟩
    · obtain ⟨t, hexec, hkeeps, hcut⟩ := value_delivers s c o v second hc hu hh hleaving hf ho hw (isQ_of_main o.dst hdst.le) hp
      obtain ⟨hin, hout⟩ := deliver_registers c o [v] second 0 hl hdst hlen
      exact ⟨t, _, hexec, hkeeps, hcut, deliver_outst .., hin 0 Nat.one_pos, fun r hr => hout r (by simp; omega)⟩
    · have hsettled := settledFor_settlesOnly s c hc
      have hcuts := settledFor_fencesOf s c hc
      have hq := isQ_of_main o.dst (by omega)
      have hplain' : ∀ r ∈ reads, r.Plain (s.settledFor c) := fun r hr => by
        unfold LaneRead.Plain
        rw [hsettled.viewAt, hsettled.errored]
        exact hplain r hr
      obtain ⟨flagged, hbound⟩ := bound_load (s.settledFor c) c o size elems reads hw hplain' (by rw [hsettled]; exact hstore)
        (by rw [hsettled]; exact hqeff) (by rw [hsettled]; exact hflaws)
      obtain ⟨t, hexec, hkeeps, hcut⟩ := arrival_delivers s c o hc hu hh hleaving hf ho
        (hsettled.mayArrive hcuts c o false false size elems reads hw hf hq hmay) (by rw [hbound]) hq hp
        (fun r hr => by rw [hw] at hr; exact overdue_of_open r (hplain r hr).1)
      rw [hbound] at hcut
      have hvals := values_length o size elems (reads.map (LaneRead.homed (s.settledFor c) size))
      obtain ⟨hin, hout⟩ := deliver_registers c o (o.values size elems (reads.map (LaneRead.homed (s.settledFor c) size))) none flagged hl
        (by rw [hvals]; exact hfit) hlen
      rw [hvals] at hin hout
      refine ⟨t, _, hexec, hkeeps, hcut, deliver_outst .., fun j hj p hpos hlt r q hr hloc => (hin j hj p hpos hlt).trans ?_, hout⟩
      rw [values_at (s.settledFor c) c o size elems reads j p hj hlt huni r hr, hloc, hsettled.homeWord]
      rfl

end Sys2Proof

end

/-! ## Engine jobs

The issue of `CPY`, `CPYT` and `CPYM`, and the events of their jobs (R84, R225 to R229, R231). -/

section

namespace Sys2Proof.Machine

/-! ### Reading a card (R225 stage 1) -/

theorem countUp_sameButReads (s : State) (off lo len n : Nat) : SameButReads s (s.countUp off lo len n) :=
  (setField_sameButWin s off lo len _).sameButReads

/-- A card that a Bench reads leaves translations, flaws and counters alone to change. -/
theorem cardRead_sameButReads (s : State) (c : Cut) (n : Nat) (ptr : W64) (hmill : c.onMill = false) : SameButReads s (s.cardRead c n ptr) := by
  have hx := xlatted_sameButReads s c.unit (c.asid s) ptr
  unfold State.cardRead
  dsimp only
  split
  · rw [hmill, if_neg Bool.false_ne_true]
    exact (hx.trans (countUp_sameButReads _ _ _ _ _)).trans (readFlaw_sameButReads _ _)
  · exact hx.trans (readAll_sameButReads _ _ _)
  · exact hx

theorem walkRead_canonical (s : State) (u : TlbUnit) (asid : Nat) (ptr : W64) (h : Canonical s) : Canonical (s.walkRead u asid ptr) := by
  unfold State.walkRead
  split
  · exact h
  · have hdir := readAll_canonical s (.dev (fld (s.reg regAstbase) 18 22 * 2 ^ 18 + 32 * asid)) 32 h
    dsimp only
    split
    · split
      · exact readAll_canonical _ _ _ hdir
      · exact hdir
    · split
      · exact readAll_canonical _ _ _ hdir
      · exact readAll_canonical _ _ _ (readAll_canonical _ _ _ hdir)

theorem xlatted_canonical (s : State) (u : TlbUnit) (asid : Nat) (ptr : W64) (h : Canonical s) : Canonical (s.xlatted u asid ptr) := by
  have hwalk := walkRead_canonical s u asid ptr h
  have hfill : Canonical (match (xlat s u asid ptr).fill with
      | some t => { s.walkRead u asid ptr with
          tlb := (tlbChain u).foldl (fun tlb v => tlbAdd tlb { t with unit := v }) (s.walkRead u asid ptr).tlb }
      | none => s.walkRead u asid ptr) := by
    split
    · exact hwalk
    · exact hwalk
  unfold State.xlatted
  dsimp only
  split
  · exact hfill
  · exact setReg_canonical _ _ _ hfill

theorem cardRead_canonical (s : State) (c : Cut) (n : Nat) (ptr : W64) (hmill : c.onMill = false) (h : Canonical s) : Canonical (s.cardRead c n ptr) := by
  have hx := xlatted_canonical s c.unit (c.asid s) ptr h
  unfold State.cardRead
  dsimp only
  split
  · rw [hmill, if_neg Bool.false_ne_true]
    exact readFlaw_canonical _ _ (countUp_canonical _ _ _ _ _ hx)
  · exact readAll_canonical _ _ _ hx
  · exact hx

/-! ### Issuing (R225, R226) -/

theorem addJob_frame (s : State) (m : Maker) (op : Nat) (card : List W64) (coord : BitVec 14) :
    ∃ j : Job, s.addJob m op card coord = { s with jobs := s.jobs ++ [j], nextId := s.nextId + 1, crews := (s.addJob m op card coord).crews }
      ∧ j.id = s.nextId ∧ j.op = op ∧ j.card = card ∧ j.copies = (if op = 2 then (lanesOf (BitVec.ofNat 32 (coordMask coord))).length else 1)
      ∧ j.uid = m.uid ∧ j.lid = m.lid ∧ j.asid = m.asid ∧ j.seq = m.seq ∧ j.il = m.il ∧ j.pc = m.pc ∧ j.crew = m.crew
      ∧ j.bench = m.bench ∧ j.die = dieOfBench m.bench ∧ j.state = .issued ∧ j.status = 0 := by
  unfold State.addJob
  extract_lets copies x to_ own deliver j t
  refine ⟨j, ?_, rfl, rfl, rfl, rfl, rfl, rfl, rfl, rfl, rfl, rfl, rfl, rfl, rfl, rfl, rfl⟩
  split <;> rfl

theorem exec_job (i : Instr) (op : Nat) (coord : BitVec 14) (l : BitVec 4) (a : Opnd) (s : State) (c : Cut)
    (hi : (i, op, coord) ∈ [(Instr.cpy l a, 0, 0), (Instr.cpyt l a, 1, 0), (Instr.cpym l a coord, 2, coord)]) (hr : Runs s c i) :
    exec i s = .next (s.issueJobs c op a coord) := by
  simp only [List.mem_cons, Prod.mk.injEq, List.not_mem_nil, or_false] at hi
  obtain ⟨rfl, rfl, rfl⟩ | ⟨rfl, rfl, rfl⟩ | ⟨rfl, rfl, -⟩ := hi
  all_goals exact operate_runs _ s _ c hr

theorem cardItems_of_ungoverned (c : Cut) (v : RegVal) (h : c.governed = []) : c.cardItems v = [] := by
  simp [Cut.cardItems, h]

/-- How many copies the operation of a card makes (R226). -/
def cardCopies (op : Nat) (coord : BitVec 14) : Nat := if op = 2 then (lanesOf (BitVec.ofNat 32 (coordMask coord))).length else 1

section
variable (s : State) (c : Cut) (op : Nat) (a : Opnd) (coord : BitVec 14)

theorem issueJobs_ungoverned (hi : c.issuing = []) (h : c.governed = []) : s.issueJobs c op a coord = s.complete c [a] c := by
  simp [State.issueJobs, hi, cardItems_of_ungoverned c _ h]

theorem jobRoom_congr {s t : State} (h : SameButReads s t) (c : Cut) (hmill : c.onMill = false) : c.jobRoom t = c.jobRoom s := by
  simp only [Cut.jobRoom, Cut.engineBench, hmill, Bool.false_eq_true, if_false, outstanding, queuedJobs]
  rw [h.eq]

section
variable (p : Nat) (ptr : W64) (hissuing : c.issuing = []) (hmill : c.onMill = false) (heffect : effectMayIssue s c = true)
  (hclear : c.cardsClear s (c.read s a []) = true) (hitems : c.cardItems (c.read s a []) = [(p, ptr)]) (hroom : c.jobRoom s ≠ 0)
include hissuing hmill heffect hclear hitems hroom

/-- One card to check, with room for its job: it fails, or it issues. -/
theorem issueJobs_one : s.issueJobs c op a coord
    = if (jobCheck s c op (cardCopies op coord) coord ptr).cause != 0
      then s.cardsFail c (c.read s a []) [((p, ptr), jobCheck s c op (cardCopies op coord) coord ptr)]
      else (s.cardRead c (c.cardLanes (c.read s a []) ptr) ptr).issueSome c [a] (c.jobRoom s) .jobs
        [(p, (jobCheck s c op (cardCopies op coord) coord ptr).card)] fun t xs =>
          t.issueCards c op coord (fun t m card => t.addJob m op card coord) (fun card => .job op card coord c.crew) xs := by
  unfold State.issueJobs
  simp only [hissuing, hitems, heffect, hclear, hmill]
  simp [State.cardsIssue, hroom, hmill, jobRoom_congr (cardRead_sameButReads s c _ ptr hmill) c hmill, cardCopies]

end
end

theorem inOpenSection_of_bench (c : Cut) (hmill : c.onMill = false) : c.inOpenSection = false := by simp [Cut.inOpenSection, hmill]

/-- One card with room issues, and its instruction completes. -/
theorem issueSome_one (t : State) (c : Cut) (srcs : List Opnd) (room : Nat) (full : Wait) (x : Nat × List W64)
    (issue : State → List (Nat × List W64) → State) (hmill : c.onMill = false) (hroom : room ≠ 0)
    (hcut : (issue t [x]).cutOf c.uid = some c) :
    t.issueSome c srcs room full [x] issue = (issue t [x]).complete c.effect srcs c.effect := by
  have hmin : Nat.min room 1 = 1 := Nat.min_eq_right (Nat.one_le_iff_ne_zero.mpr hroom)
  simp [State.issueSome, inOpenSection_of_bench c hmill, hmin, hcut]

/-- A card that has been checked becomes a job. -/
theorem issueCards_now (t : State) (c : Cut) (op : Nat) (coord : BitVec 14) (eff : List W64 → QEffect) (p : Nat) (card : List W64)
    (hmill : c.onMill = false) (hq : c.quantum t = false) :
    t.issueCards c op coord (fun t m card => t.addJob m op card coord) eff [(p, card)]
      = { t.addJob (c.maker t p) op card coord with nextSeq := (t.addJob (c.maker t p) op card coord).nextSeq + 1 } := by
  simp [State.issueCards, inOpenSection_of_bench c hmill, hq]

/-- In quantum mode its issue joins the effects that await the commit. -/
theorem issueCards_quantum (t : State) (c : Cut) (op : Nat) (coord : BitVec 14) (go : State → Maker → List W64 → State)
    (eff : List W64 → QEffect) (p : Nat) (card : List W64) (hmill : c.onMill = false) (hq : c.quantum t = true) :
    t.issueCards c op coord go eff [(p, card)] = { t with
      qeff := t.qeff ++ [⟨c.lid, c.uid, c.cutid, t.nextSeq, c.ilAt t p, c.ctx.pc, c.bench, c.asid t, eff card⟩], nextSeq := t.nextSeq + 1 } := by
  simp [State.issueCards, inOpenSection_of_bench c hmill, hq, Cut.engineBench, hmill]

/-- A card that fails stops its instruction, after the reading and the record of a rejection (R225). -/
theorem cardsFail_one (s : State) (c : Cut) (v : RegVal) (p : Nat) (ptr : W64) (k : CardCheck) (hl : c.isPattern = false) (hk : k.cause ≠ 0) :
    s.cardsFail c v [((p, ptr), k)] = (if k.reason ≠ 0 then (s.cardRead c (c.cardLanes v ptr) ptr).rejected c k.reason ptr
        else s.cardRead c (c.cardLanes v ptr) ptr).stop c
      (c.cause k.cause k.addr (lanesWord (c.governed.filter fun i => !c.performed i && c.valAt v i == ptr))) := by
  have hbad : ([((p, ptr), k)].filter fun x => x.2.cause != 0) = [((p, ptr), k)] := by simp [hk]
  have hlanes : (c.governed.filter fun i => !c.performed i && [((p, ptr), k)].any fun x => x.1.2 == c.valAt v i)
      = c.governed.filter fun i => !c.performed i && c.valAt v i == ptr :=
    List.filter_congr fun i _ => by simp [BEq.comm]
  unfold State.cardsFail
  simp only [hbad, hlanes, hl]
  by_cases hr : k.reason = 0
  · simp [hr]
  · simp [hr]

section
variable {s t : State} (h : SameButReads s t)
include h
theorem SameButReads.jobs : t.jobs = s.jobs := by rw [h.eq]
theorem SameButReads.qeff : t.qeff = s.qeff := by rw [h.eq]
theorem SameButReads.nextId : t.nextId = s.nextId := by rw [h.eq]
theorem SameButReads.nextSeq : t.nextSeq = s.nextSeq := by rw [h.eq]
theorem SameButReads.ilAt (c : Cut) (p : Nat) : c.ilAt t p = c.ilAt s p := by rw [h.eq]; rfl
theorem SameButReads.asid (c : Cut) : c.asid t = c.asid s := by rw [h.eq]; rfl
theorem SameButReads.quantum (c : Cut) : c.quantum t = c.quantum s := by rw [h.eq]; rfl
theorem SameButReads.cutOf (u : Nat) : t.cutOf u = s.cutOf u := cutOf_congr h.cuts u
end

/-- A Bench's record of a rejection is of a register (R225). -/
theorem rejected_of_bench (s : State) (c : Cut) (reason : Nat) (ptr : W64) (hmill : c.onMill = false) :
    s.rejected c reason ptr = s.setReg (regCrej c.bench) (BitVec.ofNat 64 (reason * 2 ^ 56 + fld ptr 0 44)) := by
  simp [State.rejected, hmill]

/-- The first failing check of a copy to quadrants of another partition, once its card is sound (R84, R225; log 100). -/
theorem jobCheck_foreign (s : State) (c : Cut) (copies : Nat) (coord : BitVec 14) (ptr : W64) (w : List W64) (q : Nat)
    (hread : readCard s c ptr = .words w) (hsound : cardReason 2 copies c.crew.isSome w = 0) (hq : q < 4)
    (hbit : (coordMask coord).testBit q = true) (howner : quadOwner s (4 * coordBench coord + q) ≠ some (s.launchOf c.lid).part) :
    jobCheck s c 2 copies coord ptr = ⟨causeRGT, 0, 0, []⟩ := by
  have hmine : coordMine s c coord = false := by
    refine List.all_eq_false.mpr ⟨q, List.mem_range.mpr hq, ?_⟩
    simp [hbit, howner]
  simp [jobCheck, hread, hsound, hmine]

theorem cutOf_of_runs (s : State) (c : Cut) (i : Instr) (hr : Runs s c i) : s.cutOf c.uid = some c := by
  rw [cutOf_uid s s.cur c hr.1]
  exact hr.1

section
variable (s : State) (c : Cut) (op : Nat) (a : Opnd) (coord : BitVec 14) (p : Nat) (ptr : W64) (i : Instr)
  (hexec : exec i s = .next (s.issueJobs c op a coord))
  (hissuing : c.issuing = []) (hmill : c.onMill = false) (heffect : effectMayIssue s c = true)
  (hclear : c.cardsClear s (c.read s a []) = true) (hitems : c.cardItems (c.read s a []) = [(p, ptr)]) (hroom : c.jobRoom s ≠ 0)
include hexec hissuing hmill heffect hclear hitems hroom

/-- A card that passes its checks becomes a job at once outside quantum mode (R226). -/
theorem job_issues (hcut : s.cutOf c.uid = some c) (hok : (jobCheck s c op (cardCopies op coord) coord ptr).cause = 0)
    (hq : c.quantum s = false) : ∃ (u : State) (j : Job), exec i s = .next (u.complete c.effect [a] c.effect)
      ∧ KeepsMemory s u ∧ u.cuts = s.cuts ∧ u.jobs = s.jobs ++ [j] ∧ j.id = s.nextId ∧ j.op = op
      ∧ j.card = (jobCheck s c op (cardCopies op coord) coord ptr).card ∧ j.copies = cardCopies op coord ∧ j.uid = c.uid ∧ j.lid = c.lid
      ∧ j.asid = c.asid s ∧ j.seq = s.nextSeq ∧ j.il = c.ilAt s p ∧ j.pc = c.ctx.pc ∧ j.crew = c.crew ∧ j.bench = c.bench
      ∧ j.die = dieOfBench c.bench ∧ j.state = .issued ∧ j.status = 0 := by
  have hread := cardRead_sameButReads s c (c.cardLanes (c.read s a []) ptr) ptr hmill
  have hone := issueJobs_one s c op a coord p ptr hissuing hmill heffect hclear hitems hroom
  rw [hok] at hone
  generalize s.cardRead c (c.cardLanes (c.read s a []) ptr) ptr = t at hread hone
  generalize (jobCheck s c op (cardCopies op coord) coord ptr).card = card at hone ⊢
  have hbench : c.engineBench t = c.bench := by simp [Cut.engineBench, hmill]
  have hissue := issueCards_now t c op coord (fun card => .job op card coord c.crew) p card hmill ((hread.quantum c).trans hq)
  obtain ⟨j, hadd, hid, hop, hcard, hcopies, huid, hlid, hasid, hseq, hil, hpc, hcrew, hjbench, hdie, hstate, hstatus⟩ :=
    addJob_frame t (c.maker t p) op card coord
  have hcuts : (t.addJob (c.maker t p) op card coord).cuts = s.cuts := by rw [hadd]; exact hread.cuts
  have hcomplete := issueSome_one t c [a] (c.jobRoom s) .jobs (p, card)
    (fun t xs => t.issueCards c op coord (fun t m card => t.addJob m op card coord) (fun card => .job op card coord c.crew) xs) hmill hroom
    (by rw [hissue]; exact (cutOf_congr hcuts c.uid).trans hcut)
  refine ⟨_, j, hexec.trans (congrArg _ (hone.trans (hcomplete.trans (congrArg (fun u : State => u.complete c.effect [a] c.effect) hissue)))), ?_⟩
  refine ⟨?_, hcuts, ?_, hid.trans hread.nextId, hop, hcard, hcopies, huid, hlid, hasid.trans (hread.asid c), hseq.trans hread.nextSeq,
    hil.trans (hread.ilAt c p), hpc, hcrew, hjbench.trans hbench, hdie.trans (congrArg _ hbench), hstate, hstatus⟩
  · rw [hadd]
    exact hread.keepsMemory
  · rw [hadd, ← hread.jobs]

/-- In quantum mode its issue joins the effects that await the commit (R38). -/
theorem job_queues (hcut : s.cutOf c.uid = some c) (hok : (jobCheck s c op (cardCopies op coord) coord ptr).cause = 0)
    (hq : c.quantum s = true) : ∃ u : State, exec i s = .next (u.complete c.effect [a] c.effect)
      ∧ KeepsMemory s u ∧ u.cuts = s.cuts ∧ u.jobs = s.jobs ∧ u.qeff = s.qeff ++ [⟨c.lid, c.uid, c.cutid, s.nextSeq, c.ilAt s p, c.ctx.pc,
        c.bench, c.asid s, .job op (jobCheck s c op (cardCopies op coord) coord ptr).card coord c.crew⟩] := by
  have hread := cardRead_sameButReads s c (c.cardLanes (c.read s a []) ptr) ptr hmill
  have hone := issueJobs_one s c op a coord p ptr hissuing hmill heffect hclear hitems hroom
  rw [hok] at hone
  generalize s.cardRead c (c.cardLanes (c.read s a []) ptr) ptr = t at hread hone
  generalize (jobCheck s c op (cardCopies op coord) coord ptr).card = card at hone ⊢
  have hissue := issueCards_quantum t c op coord (fun t m card => t.addJob m op card coord) (fun card => .job op card coord c.crew) p card hmill
    ((hread.quantum c).trans hq)
  have hcomplete := issueSome_one t c [a] (c.jobRoom s) .jobs (p, card)
    (fun t xs => t.issueCards c op coord (fun t m card => t.addJob m op card coord) (fun card => .job op card coord c.crew) xs) hmill hroom
    (by rw [hissue]; exact (hread.cutOf c.uid).trans hcut)
  refine ⟨_, hexec.trans (congrArg _ (hone.trans (hcomplete.trans (congrArg (fun u : State => u.complete c.effect [a] c.effect) hissue)))),
    hread.keepsMemory, hread.cuts, hread.jobs, ?_⟩
  rw [← hread.qeff, ← hread.nextSeq, ← hread.ilAt c p, ← hread.asid c]

/-- A card that fails its checks stops the instruction with its cause, and a rejection is recorded (R225). -/
theorem card_fails (hbad : (jobCheck s c op (cardCopies op coord) coord ptr).cause ≠ 0) (hl : c.isPattern = false) :
    let chk := jobCheck s c op (cardCopies op coord) coord ptr
    ∃ u : State, KeepsMemory s u ∧ u.cuts = s.cuts ∧ u.jobs = s.jobs
      ∧ exec i s = .next (u.stop c (c.cause chk.cause chk.addr
          (lanesWord (c.governed.filter fun i => !c.performed i && c.valAt (c.read s a []) i == ptr))))
      ∧ (Canonical s → chk.reason ≠ 0 → u.reg (regCrej c.bench) = BitVec.ofNat 64 (chk.reason * 2 ^ 56 + fld ptr 0 44)) := by
  intro chk
  have hread := cardRead_sameButReads s c (c.cardLanes (c.read s a []) ptr) ptr hmill
  have hcanonical := cardRead_canonical s c (c.cardLanes (c.read s a []) ptr) ptr hmill
  have hone := issueJobs_one s c op a coord p ptr hissuing hmill heffect hclear hitems hroom
  rw [if_pos (bne_iff_ne.mpr hbad), cardsFail_one s c _ p ptr _ hl hbad, rejected_of_bench _ c _ _ hmill] at hone
  rw [hone] at hexec
  refine ⟨_, ?_, ?_, ?_, hexec, fun hc hreason => ?_⟩
  · split <;> exact hread.keepsMemory
  · split <;> exact hread.cuts
  · split <;> exact hread.jobs
  · rw [if_pos hreason]
    exact reg_setReg_same _ _ _ (hcanonical hc)

end

/-! ### What translations leave (R360, R370) -/

/-- Where nothing is flawed, a translation finds no flaw. -/
theorem xlatted_flaws (s : State) (u : TlbUnit) (asid : Nat) (ptr : W64) (h : s.flaws = []) : (s.xlatted u asid ptr).flaws = [] := by
  have hwalk : s.walkRead u asid ptr = s := by simp [State.walkRead, h]
  unfold State.xlatted
  rw [hwalk]
  dsimp only
  split <;> split <;> exact h

/-- A job's pages translated. -/
def Job.xlatted (s : State) (j : Job) : State := j.touched.foldl (fun (s : State) p => s.xlatted j.unit j.asid p.1) s

theorem Job.xlatted_sameButReads (s : State) (j : Job) : SameButReads s (j.xlatted s) :=
  foldl_sameButReads _ (fun s _ => Machine.xlatted_sameButReads s _ _ _) j.touched s

theorem Job.xlatted_flaws (s : State) (j : Job) (h : s.flaws = []) : (j.xlatted s).flaws = [] := by
  unfold Job.xlatted
  generalize j.touched = ps
  induction ps generalizing s with
  | nil => exact h
  | cons p ps ih => exact ih _ (Machine.xlatted_flaws s _ _ _ h)

/-! ### The start of a job (R222, R227, R228) -/

/-- Where the rows of a job land: the bytes it stores, by the translations of its destination. -/
def Job.sent (t : State) (j : Job) (row : Nat → List Byte) : List StoredByte :=
  j.copy.destRows.flatMap fun d => (segments d.2 j.copy.writeRow).flatMap fun q => match (xlat t j.unit j.asid q.1).loc with
    | none => []
    | some l => (List.range q.2).map fun n =>
        (⟨locAt l (locOff l + n), (row d.1).getD (q.1.toNat - d.2.toNat + n) 0, j.il, ptrAdd q.1 n⟩ : StoredByte)

/-- The store queue entries of a job's writes. -/
def Job.stores (t : State) (j : Job) (ws : List Write) : List Store :=
  ((List.range ws.length).zip ws).map fun p => j.storeOf t (t.nextId + p.1) p.2

theorem row_lt_of_destRows (x : Copy) (d : Nat × W64) (h : d ∈ x.destRows) : d.1 < x.rows := by
  obtain ⟨k, -, hd⟩ := List.mem_flatMap.mp h
  obtain ⟨r, hr, rfl⟩ := List.mem_map.mp hd
  exact List.mem_range.mp hr

theorem sent_congr (t : State) (j : Job) (f g : Nat → List Byte) (h : ∀ r, r < j.copy.rows → f r = g r) : j.sent t f = j.sent t g :=
  List.flatMap_congr fun d hd => by rw [h d.1 (row_lt_of_destRows _ d hd)]

/-- A job's writes in the store queue. -/
def State.queueJob (t : State) (j : Job) (bytes : List StoredByte) : State :=
  { t with nextId := t.nextId + (gather bytes).length, storeQ := t.storeQ ++ j.stores t (gather bytes) }

/-- A row that a job writes: what it read, and zeros in the clipped part (R228). -/
def Copy.rowOf (x : Copy) (rows : List (List Byte)) (r : Nat) : List Byte := fitBytes x.writeRow (rows.getD r [])

/-- Rows for an object go into the store queue, one write for each sector (R228). -/
theorem sendRows_object (t : State) (j : Job) (rows : List (List Byte)) (hd : j.copy.dscr = false) :
    t.sendRows j rows = t.queueJob j (j.sent t (j.copy.rowOf rows)) := by
  have hrows : j.sent t (fun r => (j.copy.rowsOf rows).getD r []) = j.sent t (j.copy.rowOf rows) :=
    sent_congr t j _ _ fun r hr => getD_range_map _ j.copy.rows r [] hr
  rw [← hrows]
  exact if_neg (ne_true_of_eq_false hd)

theorem stores_writes (t : State) (j : Job) (ws : List Write) :
    ((j.stores t ws).map fun w => (w.loc, w.op)) = ws.map fun w => (w.loc, w.op) := by
  have hsnd : ((List.range ws.length).zip ws).map Prod.snd = ws := List.map_snd_zip (by simp)
  conv_rhs => rw [← hsnd]
  simp [Job.stores, Job.storeOf, Function.comp_def]

theorem stores_maker (t : State) (j : Job) (ws : List Write) (w : Store) (h : w ∈ j.stores t ws) :
    w.job = some j.id ∧ w.seq = j.seq ∧ w.scope = j.copy.scope := by
  obtain ⟨p, -, rfl⟩ := List.mem_map.mp h
  exact ⟨rfl, rfl, rfl⟩

theorem sourceRead_of_no_flaws (t : State) (j : Job) (hs : j.copy.sscr = false) (h : t.flaws = []) : t.sourceRead j = t := by
  simp [State.sourceRead, hs, h]

/-- Rows that were all read hold no error, and no read of another device. -/
theorem find?_of_bytes (rows : List (List Byte)) (f : SourceGot → Bool) (h : ∀ bs, f (.bytes bs) = false) :
    (rows.map SourceGot.bytes).find? f = none := by simp [List.find?_eq_none, h]

theorem any_of_bytes (rows : List (List Byte)) (f : SourceGot → Bool) (h : ∀ bs, f (.bytes bs) = false) :
    (rows.map SourceGot.bytes).any f = false := by simp [List.any_eq_false, h]

theorem map_of_bytes (rows : List (List Byte)) (f : SourceGot → List Byte) (h : ∀ bs, f (.bytes bs) = bs) :
    (rows.map SourceGot.bytes).map f = rows := by simp [Function.comp_def, h]

/-- What a started job leaves: its writes queued, and itself writing. -/
def Job.started (t : State) (j : Job) (rows : List (List Byte)) : State :=
  let u := t.sendRows j rows
  ({ u with remotes := u.remotes.filter fun r => !(r.kind == 4 && r.lane == j.id) } : State).putJob { j with state := .writing }

section
variable (s : State) (j : Job) (hj : s.jobs.find? (·.id == j.id) = some j) (hstrm : j.copy.strm = false)
include hj hstrm

theorem startJob_starts (rows : List (List Byte)) (hstate : j.state = .issued) (hstatus : j.status = 0)
    (hfirst : j.id ∈ (sortBy id (outstanding s j.lid j.die)).take 256)
    (hedges : edgesHold s j.lid j.id (j.copy.reads j.handle) j.copy.writes = false) (hmissing : j.missing s = []) (hflaws : s.flaws = [])
    (hs : j.copy.sscr = false) (hrows : j.copy.sourceRows.map (readRow (j.xlatted s) j) = rows.map .bytes) :
    s.startJob j = j.started (j.xlatted s) rows := by
  have hcredit : s.takeCredit j = some s := by simp [State.takeCredit, hstrm]
  have hread : (j.xlatted s).sourceRead j = j.xlatted s := sourceRead_of_no_flaws _ j hs (j.xlatted_flaws s hflaws)
  have hfold : j.touched.foldl (fun (s : State) p => s.xlatted j.unit j.asid p.1) s = j.xlatted s := rfl
  unfold State.startJob
  rw [if_neg (by simp [hstate]), if_neg (by simp [hstate, hstatus, hedges, Config.jobsPerDie, hfirst])]
  simp only [hcredit, hj, Option.getD_some, hmissing, List.isEmpty_nil, Bool.not_true, Bool.false_eq_true, if_false, hfold, hrows, hread]
  rw [find?_of_bytes, any_of_bytes]
  · exact congrArg (fun bs => j.started (j.xlatted s) bs) (map_of_bytes rows _ fun _ => rfl)
  · exact fun _ => rfl
  · exact fun _ => rfl

end

/-- What a started job changes: its pages are translated, its writes queued, and it is writing. -/
theorem started_facts (s : State) (j : Job) (rows : List (List Byte)) (hd : j.copy.dscr = false) :
    let u := j.started (j.xlatted s) rows
    let new := j.stores (j.xlatted s) (gather (j.sent (j.xlatted s) (j.copy.rowOf rows)))
    KeepsMemory s u ∧ u.storeQ = s.storeQ ++ new ∧ ∀ k ∈ u.jobs, k.id = j.id → k = { j with state := .writing } := by
  have hframe := j.xlatted_sameButReads s
  simp only [Job.started, sendRows_object _ j rows hd]
  generalize hsent : gather (j.sent (j.xlatted s) (j.copy.rowOf rows)) = ws
  generalize j.xlatted s = t at *
  refine ⟨hframe.keepsMemory, ?_, fun k hk hid => ?_⟩
  · change t.storeQ ++ j.stores t (gather _) = _
    rw [hsent, hframe.eq]
  · obtain ⟨k', -, rfl⟩ := List.mem_map.mp hk
    by_cases h : k'.id = j.id
    · exact if_pos h
    · rw [if_neg h] at hid
      exact absurd hid h

/-! ### The end of a job (R229, R231) -/

/-- A job leaves. -/
def State.dropJob (s : State) (id : Nat) : State := { s with jobs := s.jobs.filter (·.id != id) }

/-- A job without a counter leaves at once. -/
theorem addAndEnd_without_counter (s : State) (j : Job) (h : j.copy.cnt = 0) : s.addAndEnd j = s.dropJob j.id := if_pos h

theorem tag_lt (x : List W64) (op copies : Nat) : (copyOf op copies x).tag < 2 ^ 32 := Nat.mod_lt _ (by decide)

theorem record_tag (j : Job) : fld j.record 0 32 = j.copy.tag := by
  have htag : j.copy.tag < 2 ^ 32 := tag_lt ..
  rw [Job.record, fld, BitVec.toNat_ofNat, Nat.shiftRight_zero]
  omega

/-- What an event record says of its job (R231). -/
theorem record_status (j : Job) (h : j.status ≤ 2) : bit j.record 63 = true ∧ fld j.record 56 7 = j.status := by
  have htag : j.copy.tag < 2 ^ 32 := tag_lt ..
  have hval : j.record.toNat = (1 * 2 ^ 7 + j.status) * 2 ^ 56 + j.copy.tag := by
    rw [Job.record, BitVec.toNat_ofNat]
    omega
  refine ⟨?_, fld_of_toNat _ 56 7 1 j.status j.copy.tag hval (by omega) (by omega)⟩
  rw [bit, hval, Nat.testBit_eq_decide_div_mod_eq]
  exact decide_eq_true (by omega)

/-- A crew whose event queue took one more record, with the posts that still wait. -/
def Crew.posted (k : Crew) (rest : List Nat) (rec : W64) (scope : Nat) : Crew :=
  { k with postWait := rest, events := k.events ++ [(rec, scope)] }

section
variable (s : State) (j : Job) (hj : s.jobs.find? (·.id == j.id) = some j)
include hj

section
variable (hqm : (s.launchOf j.lid).qm = false) (hstate : j.state = .writing) (hwrites : jobWrites s j.id = false)
  (hstrm : j.copy.strm = false) (hcnt : j.copy.cnt = 0)
include hqm

theorem exec_jobCompletion : exec (.jobCompletion j.id) s = .next (s.completeJob j) := by
  change execJobCompletion j.id s = _
  simp only [execJobCompletion, hj, hqm, Bool.false_eq_true, if_false]

include hstate hwrites hstrm hcnt

theorem jobCompletion_silent (hevt : j.copy.evt = false) : exec (.jobCompletion j.id) s = .next (s.dropJob j.id) := by
  have hpush : s.streamPush j = some s := by simp [State.streamPush, hstrm]
  rw [exec_jobCompletion s j hj hqm]
  simp [State.completeJob, hstate, hwrites, hpush, hevt, addAndEnd_without_counter s j hcnt]

/-- A job with an event enters its record where the crew's queue has room (R231). -/
theorem jobCompletion_posts (hevt : j.copy.evt = true) (k : Crew) (hk : j.crew.bind s.crewOf = some k) (hwait : k.postWait = [])
    (hroom : k.events.length < 64) :
    exec (.jobCompletion j.id) s = .next ((s.putCrew (k.posted [] j.record j.copy.scope)).dropJob j.id) := by
  have hpush : s.streamPush j = some s := by simp [State.streamPush, hstrm]
  have hpost : s.postEvent j.crew j.record j.copy.scope = some (s.putCrew (k.posted [] j.record j.copy.scope)) := by
    simp [State.postEvent, hk, hwait, hroom, Config.eventQueue, Crew.posted]
  rw [exec_jobCompletion s j hj hqm]
  simp [State.completeJob, hstate, hwrites, hpush, hevt, hpost, addAndEnd_without_counter _ j hcnt]

end

/-- A job whose page stays absent fails with a late fault, and its writes are dropped (R228). -/
theorem jobFailure_fails (p : W64) (rest : List W64) (hstate : j.state = .waiting) (hmissing : j.missing s = p :: rest)
    (hlimit : j.since + waitLimit s (s.launchOf j.lid).part ≤ s.cycle) (hstatus : j.status = 0) :
    exec (.jobFailure j.id) s = .next (({ s with
        jobs := s.jobs.map fun (k : Job) => if k.id = j.id then { k with status := 1 } else k
        storeQ := s.storeQ.filter (·.job != some j.id)
        scratchW := s.scratchW.filter (·.job != j.id) } : State).holdLate j.lid j.cutid
      ⟨j.uid, j.seq, j.il, BitVec.ofNat 64 causeLSF, p, itemLanes s j.lid j.il, j.pc, 2⟩) := by
  change execJobFailure j.id s = _
  simp only [execJobFailure, hj, hmissing, hstate, hlimit, BEq.rfl, Bool.true_or, decide_true, Bool.and_true, if_true, State.failJob, hstatus,
    ne_eq, not_true_eq_false, if_false]
  rfl

/-- The first post that waits enters its crew's queue once there is room (R229, R231). -/
theorem eventPost_posts (k : Crew) (rest : List Nat) (hk : s.crewOf k.key = some k) (hqm : (s.launchOf k.lid).qm = false)
    (hwait : k.postWait = j.id :: rest) (hroom : k.events.length < 64) (hcnt : j.copy.cnt = 0) :
    exec (.eventPost k.key) s = .next ((s.putCrew (k.posted rest j.record j.copy.scope)).dropJob j.id) := by
  change execEventPost k.key s = _
  have hfull : ¬ Config.eventQueue ≤ k.events.length := not_le.mpr hroom
  simp only [execEventPost, hk, hqm, Bool.false_eq_true, if_false, State.postNext, hwait, hfull, hj]
  exact congrArg _ (addAndEnd_without_counter _ { j with state := .adding } hcnt)

end

theorem crewOf_bind (s : State) (c : Option Nat) (k : Crew) (h : c.bind s.crewOf = some k) : s.crewOf k.key = some k := by
  obtain ⟨n, -, hn⟩ := Option.bind_eq_some_iff.mp h
  have hkey : k.key = n := by simpa using List.find?_some hn
  rw [hkey]
  exact hn

/-- What a post leaves: the record at the end of its crew's queue, and its job gone. -/
theorem posted_crew (s : State) (k : Crew) (rest : List Nat) (rec : W64) (scope id : Nat) (hk : s.crewOf k.key = some k) :
    ((s.putCrew (k.posted rest rec scope)).dropJob id).crewOf k.key = some (k.posted rest rec scope) := crewOf_putCrew s (k.posted rest rec scope) k hk

end Sys2Proof.Machine

namespace Sys2Proof
open Sys2Proof.Machine

/-- Settles O41: one card by the branches of its checks, and the events of its job by what each finds. -/
theorem jobsRun : Obligations.JobsRun := by
  unfold Obligations.JobsRun
  refine ⟨?_, ?_⟩
  · intro i op coord l a s c hi hr hissuing v copies
    have hexec := exec_job i op coord l a s c hi hr
    refine ⟨fun hg => hexec.trans (congrArg _ (issueJobs_ungoverned s c op a coord hissuing hg)), ?_⟩
    intro p ptr hmill heffect hclear hitems hroom chk
    have hcut : s.cutOf c.uid = some c := cutOf_of_runs s c i hr
    refine ⟨fun hok hq => ?_, fun hok hq => ?_, fun hbad hl => ?_, fun w q hop hcard hsound hlt hbit howner => ?_⟩
    · exact job_issues s c op a coord p ptr i hexec hissuing hmill heffect hclear hitems hroom hcut hok hq
    · exact job_queues s c op a coord p ptr i hexec hissuing hmill heffect hclear hitems hroom hcut hok hq
    · exact card_fails s c op a coord p ptr i hexec hissuing hmill heffect hclear hitems hroom hbad hl
    · subst hop
      have hforeign := jobCheck_foreign s c copies coord ptr w q hcard hsound hlt hbit howner
      exact ⟨congrArg CardCheck.cause hforeign, congrArg CardCheck.addr hforeign⟩
  · intro s j hj hqm hstrm x first t
    refine ⟨?_, ?_, ?_, ?_⟩
    · intro rows hstate hstatus hfirst hedges hmissing hflaws hs hd hrows sent
      obtain ⟨hkeeps, hstore, hjobs⟩ := started_facts s j rows hd
      refine ⟨_, _, congrArg Host.Outcome.next ?_, hkeeps, hstore, stores_writes _ j _, fun w hw => ⟨(stores_maker _ j _ w hw).1,
        (stores_maker _ j _ w hw).2.1, (stores_maker _ j _ w hw).2.2⟩, hjobs⟩
      rw [hj]
      exact startJob_starts s j hj hstrm rows hstate hstatus hfirst hedges hmissing hflaws hs hrows
    · intro hstate hwrites hcnt hstatus
      refine ⟨jobCompletion_silent s j hj hqm hstate hwrites hstrm hcnt, fun k hevt hk hwait hroom => ?_⟩
      have hcrew := posted_crew s k [] j.record x.scope j.id (crewOf_bind s j.crew k hk)
      obtain ⟨hbit, hfield⟩ := record_status j hstatus
      exact ⟨_, j.record, jobCompletion_posts s j hj hqm hstate hwrites hstrm hcnt hevt k hk hwait hroom, ⟨rfl, rfl⟩, rfl,
        congrArg _ hcrew, record_tag j, hbit, hfield⟩
    · exact fun p rest hstate hmissing hlimit hstatus => jobFailure_fails s j hj p rest hstate hmissing hlimit hstatus
    · intro k rest hk hqm hwait hroom hcnt
      have hcrew := posted_crew s k rest j.record x.scope j.id hk
      exact ⟨_, j.record, eventPost_posts s j hj k rest hk hqm hwait hroom hcnt, ⟨rfl, rfl⟩, rfl, congrArg _ hcrew, record_tag j⟩

end Sys2Proof

end

/-! ## Control, loops and modes

The ends of words (R105 to R108), the loop instructions, and `MODEI` (R99). -/

section

namespace Sys2Proof.Machine

/-! ### End processing (R107) -/

theorem endLoops_elsewhere (pc : W64) (l : Level) (rest : List Level) (h : l.stop ≠ pc) : endLoops pc (l :: rest) = (l :: rest, none) :=
  if_neg h

theorem endLoops_again (pc : W64) (l : Level) (rest : List Level) (h : l.stop = pc) (hcnt : l.cnt ≠ 1) :
    endLoops pc (l :: rest) = ({ l with cnt := l.cnt - 1 } :: rest, some l.start) :=
  (if_pos h).trans (if_neg hcnt)

theorem endLoops_last (pc : W64) (l : Level) (rest : List Level) (h : l.stop = pc) (hcnt : l.cnt = 1) :
    endLoops pc (l :: rest) = endLoops pc rest :=
  (if_pos h).trans (if_pos hcnt)

section
variable (c : Cut)

/-- A word that retires goes on where a level loops back to, and at the next word where none does. -/
theorem advance_pc : c.advance.ctx.pc = (endLoops c.ctx.pc c.ctx.loops).2.getD (c.ctx.pc + 4) := by
  unfold Cut.advance
  rcases endLoops c.ctx.pc c.ctx.loops with ⟨ls, _ | start⟩ <;> rfl

theorem advance_loops : c.advance.ctx.loops = (endLoops c.ctx.pc c.ctx.loops).1 := by
  unfold Cut.advance
  rcases endLoops c.ctx.pc c.ctx.loops with ⟨ls, _ | start⟩ <;> rfl

end

/-! ### Opening a level (R106) -/

theorem loopBarred_of_atEnd (c : Cut) (body : Nat) (h : c.atEnd = true) : c.loopBarred body = true := by
  rw [Cut.loopBarred, h, Bool.true_or]

theorem loopBarred_beyond (c : Cut) (body : Nat) (l : Level) (hl : c.ctx.loops.find? (·.body c.ctx.pc) = some l)
    (h : l.stop.toNat < (c.ctx.pc + BitVec.ofNat 64 (4 * body)).toNat) : c.loopBarred body = true := by
  rw [Cut.loopBarred, hl]
  exact Bool.or_eq_true_iff.mpr (.inr (decide_eq_true h))

theorem loopBarred_within (c : Cut) (body : Nat) (hend : c.atEnd = false)
    (h : ∀ l, c.ctx.loops.find? (·.body c.ctx.pc) = some l → (c.ctx.pc + BitVec.ofNat 64 (4 * body)).toNat ≤ l.stop.toNat) :
    c.loopBarred body = false := by
  rw [Cut.loopBarred, hend, Bool.false_or]
  cases hl : c.ctx.loops.find? (·.body c.ctx.pc) with
  | none => rfl
  | some l => exact decide_eq_false (Nat.not_lt.mpr (h l hl))

section
variable (s : State) (c : Cut) (srcs : List Opnd) (body : Nat) (n : Int)

theorem openLoop_barred (h : c.loopBarred body = true) : s.openLoop c srcs body n = s.ill c := if_pos h

theorem openLoop_over (h : c.loopBarred body = false) (hn : n ≤ 0) : s.openLoop c srcs body n
    = (s.popAll c srcs).retired ((c.popped srcs).goTo (c.ctx.pc + BitVec.ofNat 64 (4 * body) + 4) c.ctx.loops) :=
  (if_neg (ne_true_of_eq_false h)).trans (if_pos hn)

theorem openLoop_opens (h : c.loopBarred body = false) (hn : 0 < n) (hroom : c.ctx.loops.length < 4) : s.openLoop c srcs body n
    = (s.popAll c srcs).retired ((c.popped srcs).goTo (c.ctx.pc + 4)
        (⟨c.ctx.pc + 4, c.ctx.pc + BitVec.ofNat 64 (4 * body), BitVec.ofInt 64 n⟩ :: c.ctx.loops)) :=
  ((if_neg (ne_true_of_eq_false h)).trans (if_neg (by omega))).trans (if_neg (by omega))

theorem openLoop_full (h : c.loopBarred body = false) (hn : 0 < n) (hfull : 4 ≤ c.ctx.loops.length) :
    s.openLoop c srcs body n = s.raiseAll c causeLOV 0 :=
  ((if_neg (ne_true_of_eq_false h)).trans (if_neg (by omega))).trans (if_pos hfull)

end

/-- The signed low half of a register at a position, as a loop counts (R106). -/
def Cut.countAt (c : Cut) (v : RegVal) (p : Nat) : Int := ((c.valAt v p).setWidth 32).toInt

theorem commonLow_of_same (c : Cut) (v : RegVal) (n : Int) (hne : c.positions ≠ []) (h : ∀ p ∈ c.positions, c.countAt v p = n) :
    ∃ x, c.commonLow v = some x ∧ x.toInt = n := by
  obtain ⟨i, is, his⟩ := List.exists_cons_of_ne_nil hne
  have hi : c.countAt v i = n := h i (his ▸ List.mem_cons_self ..)
  refine ⟨(c.valAt v i).setWidth 32, ?_, hi⟩
  have hsame : is.all (fun j => (c.valAt v j).setWidth 32 == (c.valAt v i).setWidth 32) = true := by
    refine List.all_eq_true.mpr fun j hj => beq_iff_eq.mpr (BitVec.eq_of_toInt_eq ?_)
    exact (h j (his ▸ List.mem_cons_of_mem i hj)).trans hi.symm
  simp only [Cut.commonLow, his, hsame, Bool.or_true, if_true]

theorem commonLow_of_differs (c : Cut) (v : RegVal) (p q : Nat) (hu : v.isU = false) (hp : p ∈ c.positions) (hq : q ∈ c.positions)
    (h : c.countAt v p ≠ c.countAt v q) : c.commonLow v = none := by
  cases hpos : c.positions with
  | nil => rw [hpos] at hp; cases hp
  | cons i is =>
    have hdiff : is.all (fun j => (c.valAt v j).setWidth 32 == (c.valAt v i).setWidth 32) = false := by
      refine Bool.eq_false_iff.mpr fun hall => h ?_
      have hsame : ∀ j ∈ c.positions, c.countAt v j = c.countAt v i := by
        intro j hj
        rcases List.mem_cons.mp (hpos ▸ hj) with rfl | hj
        · rfl
        · exact congrArg BitVec.toInt (beq_iff_eq.mp (List.all_eq_true.mp hall j hj))
      rw [hsame p hp, hsame q hq]
    simp only [Cut.commonLow, hpos, hu, hdiff, Bool.or_false, Bool.false_eq_true, if_false]

section
variable {s : State} {c : Cut} {e : Opnd} {n : BitVec 14}

theorem exec_loop_of_count (hr : Runs s c (.loop e n)) {x : W32} (h : c.commonLow (c.read s e []) = some x) :
    exec (.loop e n) s = .next (s.openLoop c [e] n.toNat x.toInt) := by
  refine (operate_runs _ s _ c hr).trans ?_
  rw [h]

theorem exec_loop_of_no_count (hr : Runs s c (.loop e n)) (h : c.commonLow (c.read s e []) = none) :
    exec (.loop e n) s = .next (s.ill c) := by
  refine (operate_runs _ s _ c hr).trans ?_
  rw [h]

theorem exec_loop_barred (hr : Runs s c (.loop e n)) (h : c.loopBarred n.toNat = true) : exec (.loop e n) s = .next (s.ill c) := by
  cases hx : c.commonLow (c.read s e []) with
  | none => exact exec_loop_of_no_count hr hx
  | some x => exact (exec_loop_of_count hr hx).trans (congrArg _ (openLoop_barred s c [e] n.toNat x.toInt h))

theorem exec_loopi {imm : BitVec 11} (hr : Runs s c (.loopi imm n)) : exec (.loopi imm n) s = .next (s.openLoop c [] n.toNat imm.toInt) :=
  operate_runs _ s _ c hr

end

/-- A call or a loop at a live LEND raises ILL (R107). -/
theorem exec_ill_of_atEnd (s : State) (c : Cut) (i : Instr) (hend : c.atEnd = true) (hr : Runs s c i)
    (hi : (∃ off, i = .call off) ∨ (∃ a, i = .callr a) ∨ (∃ e n, i = .loop e n) ∨ (∃ m n, i = .loopi m n)) :
    exec i s = .next (s.ill c) := by
  rcases hi with ⟨off, rfl⟩ | ⟨a, rfl⟩ | ⟨e, n, rfl⟩ | ⟨m, n, rfl⟩
  case inl | inr.inl => exact (operate_runs _ s _ c hr).trans (congrArg _ (if_pos hend))
  · exact exec_loop_barred hr (loopBarred_of_atEnd c _ hend)
  · exact (exec_loopi hr).trans (congrArg _ (openLoop_barred s c [] _ _ (loopBarred_of_atEnd c _ hend)))

/-! ### Leaving levels (R108) -/

/-- Whether a transfer leaves a level: from within its body to outside it. -/
def Level.leftBy (src dst : W64) (l : Level) : Bool := l.body src && !l.body dst

theorem unwind_keeps (src dst : W64) (ls : List Level) (l : Level) (h : l ∈ unwind src dst ls) : l.leftBy src dst = false := by
  induction ls with
  | nil => cases h
  | cons m rest ih =>
    unfold unwind at h
    split at h
    · exact ih h
    · next hnone => exact Bool.eq_false_iff.mpr fun hl => hnone (List.any_eq_true.mpr ⟨l, h, hl⟩)

/-- A transfer unwinds a front of the stack, of which the outermost level is one that it leaves. -/
theorem unwind_front (src dst : W64) (ls : List Level) : ∃ gone, ls = gone ++ unwind src dst ls
    ∧ (gone = [] ∨ ∃ l, gone.getLast? = some l ∧ l.leftBy src dst = true) := by
  induction ls with
  | nil => exact ⟨[], rfl, .inl rfl⟩
  | cons m rest ih =>
    unfold unwind
    split
    · next hany =>
      obtain ⟨gone, hsplit, hlast⟩ := ih
      refine ⟨m :: gone, congrArg (m :: ·) hsplit, .inr ?_⟩
      rcases hlast with rfl | ⟨l, hl, hleft⟩
      · obtain ⟨l, hl, hleft⟩ := List.any_eq_true.mp hany
        rcases List.mem_cons.mp hl with rfl | hrest
        · exact ⟨l, rfl, hleft⟩
        · rw [List.nil_append] at hsplit
          have hkept := unwind_keeps src dst rest l (hsplit ▸ hrest)
          exact absurd hleft (ne_true_of_eq_false hkept)
      · exact ⟨l, by rw [List.getLast?_cons, hl]; rfl, hleft⟩
    · exact ⟨[], rfl, .inl rfl⟩

section
variable {s : State} {c : Cut} (hr : Runs s c .lbrk)
include hr

theorem exec_lbrk_none (h : c.ctx.loops = []) : exec .lbrk s = .next (s.ill c) := by
  refine (operate_runs _ s _ c hr).trans ?_
  rw [h]

theorem exec_lbrk_some (l : Level) (rest : List Level) (h : c.ctx.loops = l :: rest) :
    exec .lbrk s = .next (s.retired (c.goTo ((endLoops l.stop rest).2.getD (l.stop + 4)) (endLoops l.stop rest).1)) := by
  refine (operate_runs _ s _ c hr).trans ?_
  rw [h]
  dsimp only
  rcases endLoops l.stop rest with ⟨ls, _ | start⟩ <;> rfl

end

/-! ### MODEI (R99) -/

/-- A word of an upper and a lower part is the upper one over zeros with the lower one filled in. -/
theorem append_eq_or_setWidth (hi : BitVec 14) (lo : BitVec 18) : hi ++ lo = ((hi ++ 0#18) ||| lo.setWidth 32 : W32) := by
  ext i hlt
  rw [BitVec.getElem_or, BitVec.getElem_append, BitVec.getElem_append, BitVec.getElem_setWidth]
  split
  · next h => rw [BitVec.getElem_zero, Bool.false_or, BitVec.getLsbD_eq_getElem]
  · next h => rw [BitVec.getLsbD_of_ge lo i (by omega), Bool.or_false]

theorem extract_append_zero (m : W32) : m.extractLsb' 18 14 ++ 0#18 = (m &&& 0xFFFC_0000#32 : W32) := by
  have hmask : ∀ i, i < 32 → (0xFFFC_0000#32).getLsbD i = decide (18 ≤ i) := by decide
  ext i hlt
  rw [BitVec.getElem_and, BitVec.getElem_append, ← BitVec.getLsbD_eq_getElem (x := 0xFFFC_0000#32), hmask i hlt]
  split
  · next h => simp [Nat.not_le.mpr h]
  · next h => simp [Nat.not_lt.mp h, BitVec.getLsbD_eq_getElem hlt]

theorem encodeWord_modei (n : BitVec 18) : encodeWord (.modei n) = some (0x0400_0000#32 ||| n.setWidth 32) :=
  congrArg some (append_eq_or_setWidth (2#7 ++ 0#7) n)

theorem exec_modei (s : State) (c : Cut) (n : BitVec 18) (hr : Runs s c (.modei n)) :
    let m : W32 := (c.ctx.mode &&& 0xFFFC_0000#32) ||| n.setWidth 32
    exec (.modei n) s = .next (if modeLegal m then s.advance (c.setMode m) else s.raiseAll c causeMOD 0) := by
  intro m
  have hm : c.ctx.mode.extractLsb' 18 14 ++ n = m := by rw [append_eq_or_setWidth, extract_append_zero]
  rw [← hm]
  exact operate_runs _ s _ c hr

end Sys2Proof.Machine

namespace Sys2Proof
open Sys2Proof.Machine

/-- Settles O19: the new MODE is the old one's upper part over the immediate, and it is legal or not. -/
theorem modeiSetsLowBits : Obligations.ModeiSetsLowBits := by
  unfold Obligations.ModeiSetsLowBits
  refine fun n => ⟨encodeWord_modei n, fun s c hr => ?_⟩
  intro m
  have hexec := exec_modei s c n hr
  exact ⟨fun hm => hexec.trans (congrArg _ (if_pos hm)), fun hm => hexec.trans (congrArg _ (if_neg (ne_true_of_eq_false hm)))⟩

/-- Settles O22: what a loop opens by its count, the front of the stack that a transfer unwinds, and `LBRK` as end processing. -/
theorem loopInstructions : Obligations.LoopInstructions := by
  unfold Obligations.LoopInstructions
  refine ⟨?_, fun src dst ls => ?_, fun s c hr => ⟨exec_lbrk_none hr, fun l rest hl => ?_⟩⟩
  · intro s c e n imm reg count i srcs stop go at_ hr hne
    have hbarred : c.loopBarred n.toNat = true → exec i s = .next (s.ill c) := by
      intro hb
      cases reg with
      | true => exact exec_loop_barred hr hb
      | false => exact (exec_loopi hr).trans (congrArg _ (openLoop_barred s c [] _ _ hb))
    refine ⟨fun hreg hu hdiff => ?_, fun hbeyond => ?_, fun hend hcount hwithin => ?_⟩
    · subst hreg
      obtain ⟨p, hp, q, hq, hpq⟩ := hdiff
      exact exec_loop_of_no_count hr (commonLow_of_differs c _ p q hu hp hq hpq)
    · obtain ⟨l, hl, hlt⟩ := hbeyond
      exact hbarred (loopBarred_beyond c _ l hl hlt)
    · have hopen : exec i s = .next (s.openLoop c srcs n.toNat count) := by
        rcases hcount with ⟨rfl, hsame⟩ | ⟨rfl, rfl⟩
        · obtain ⟨x, hx, rfl⟩ := commonLow_of_same c _ count hne hsame
          exact exec_loop_of_count hr hx
        · exact exec_loopi hr
      have hfree := loopBarred_within c n.toNat hend hwithin
      exact ⟨fun hn => hopen.trans (congrArg _ (openLoop_over s c srcs _ _ hfree hn)),
        fun hn hroom => hopen.trans (congrArg _ (openLoop_opens s c srcs _ _ hfree hn hroom)),
        fun hn hfull => hopen.trans (congrArg _ (openLoop_full s c srcs _ _ hfree hn hfull))⟩
  · obtain ⟨gone, hsplit, hlast⟩ := unwind_front src dst ls
    refine ⟨gone, hsplit, fun l hl hsrc => ?_, hlast.imp_right fun ⟨l, hl, hleft⟩ => ⟨l, hl, ?_⟩⟩
    · have hkept := unwind_keeps src dst ls l hl
      simpa [Level.leftBy, hsrc] using hkept
    · simpa [Level.leftBy] using hleft
  · intro k
    rw [advance_pc, advance_loops]
    exact exec_lbrk_some hr l rest hl

/-- Settles O23: each case of end processing, where retiring a word goes on, and what is barred at a LEND. -/
theorem endProcessing : Obligations.EndProcessing := by
  unfold Obligations.EndProcessing
  intro s c
  refine ⟨fun hl => ?_, fun l rest hl hstop => ?_, fun l rest hl hstop hcnt => ?_, fun l rest hl hstop hcnt => ?_, ?_, fun t => ⟨rfl, rfl⟩,
    fun hend i hi hr => exec_ill_of_atEnd s c i hend hr hi⟩
  · rw [advance_pc, advance_loops, hl]
    exact ⟨rfl, rfl⟩
  · rw [advance_pc, advance_loops, hl, endLoops_elsewhere _ l rest hstop]
    exact ⟨rfl, rfl⟩
  · rw [advance_pc, advance_loops, hl, endLoops_again _ l rest hstop hcnt]
    exact ⟨rfl, rfl⟩
  · intro k
    rw [advance_pc, advance_loops, hl, endLoops_last _ l rest hstop hcnt, advance_pc k, advance_loops k]
    exact ⟨rfl, rfl⟩
  · rw [advance_eq_goTo]
    rfl

end Sys2Proof

end

/-! ## Words that end or yield

`NOP` and `YIELD` (R94, R265), and the items that `EXIT` ends (R95). -/

section

namespace Sys2Proof.Machine

/-! ### NOP and YIELD (R94, R265) -/

section
variable {s : State} {c : Cut}

theorem exec_nop (hr : Runs s c .nop) : exec .nop s = .next (s.advance c) := operate_runs _ s _ c hr

theorem exec_yield_bench (hr : Runs s c .yield) (h : c.onMill = false) :
    exec .yield s = .next (s.retired { c.advance with wait := .yield (s.cycle + 16) }) :=
  (operate_runs _ s _ c hr).trans (congrArg _ (if_neg (ne_true_of_eq_false h)))

theorem exec_yield_mill (hr : Runs s c .yield) (h : c.onMill = true) : exec .yield s = .next (s.retired c.advance) :=
  (operate_runs _ s _ c hr).trans (congrArg _ (if_pos h))

theorem exec_yieldExpiry (till : Nat) (hc : s.cutOf c.uid = some c) (hw : c.wait = .yield till) (h : till ≤ s.cycle) :
    exec (.yieldExpiry c.uid) s = .next (s.putCut { c with wait := .none }) := by
  have hdef : exec (.yieldExpiry c.uid) s = execYieldExpiry c.uid s := rfl
  rw [hdef, execYieldExpiry, hc]
  dsimp only
  rw [hw]
  exact congrArg _ (if_pos h)

end

/-! ### The cuts of a state by number -/

/-- The numbers of the cuts that live. -/
def State.uids (s : State) : List Nat := s.cuts.map (·.uid)

theorem isSome_cutOf (s : State) (u : Nat) : (s.cutOf u).isSome = decide (u ∈ s.uids) := by
  rw [Bool.eq_iff_iff, decide_eq_true_eq, State.cutOf, List.find?_isSome, State.uids, List.mem_map]
  simp only [beq_iff_eq]

theorem uids_putCut (s : State) (c : Cut) : (s.putCut c).uids = s.uids := by
  unfold State.uids State.putCut
  rw [List.map_map]
  refine List.map_congr_left fun d _ => ?_
  dsimp only [Function.comp]
  split
  · next h => exact h.symm
  · rfl

theorem uids_dropCut (s : State) (u : Nat) : (s.dropCut u).uids = s.uids.filter (· != u) := by
  unfold State.uids State.dropCut
  rw [List.filter_map]
  rfl

theorem WritesOnly.uids {s t : State} (h : WritesOnly s t) : t.uids = s.uids := by
  obtain ⟨_, f, hf, hfc⟩ := h
  rw [State.uids, State.uids, hf, List.map_map]
  exact List.map_congr_left fun d _ => (hfc d).1

/-! ### What the end of items leaves of the cuts (R29, R342) -/

theorem lateRecord_writesOnly (s : State) (l : Launch) (cutid : W64) (f : LateFault) : WritesOnly s (s.lateRecord l cutid f) :=
  faultRecord_writesOnly s _ _

/-- Late faults that no cut takes go to the fault record. -/
def State.lateRecords (s : State) (c : Cut) (fs : List LateFault) : State :=
  fs.foldl (fun s f => s.lateRecord (s.launchOf c.lid) c.cutid f) s

theorem lateRecords_writesOnly (s : State) (c : Cut) (fs : List LateFault) : WritesOnly s (s.lateRecords c fs) :=
  foldl_writesOnly _ (fun s f => lateRecord_writesOnly s _ _ f) fs s

theorem settleCrewOf_cuts (s : State) (c : Cut) : (s.settleCrewOf c).cuts = s.cuts := by
  have hsettle : ∀ (t : State) (key : Nat), (t.settleCrew key).cuts = t.cuts := fun t key => by rw [settleCrew_crewsOnly t key]
  unfold State.settleCrewOf State.leftCrew
  split
  · rfl
  · extract_lets l t
    rw [hsettle]
    split <;> rfl

theorem ackMill_cuts (s : State) (c : Cut) : (s.ackMill c).cuts = s.cuts := by
  unfold State.ackMill
  split <;> rfl

theorem lived_cuts (s : State) (c : Cut) : (s.lived c).cuts = s.cuts := by
  unfold State.lived
  split <;> rfl

/-- The cut that ends is gone, and every other cut lives on. -/
theorem uids_endCut (s : State) (c : Cut) : (s.endCut c).uids = s.uids.filter (· != c.uid) := by
  have hrest : (s.endCut c).uids = ((((s.settleFences c).lived c).dropCut c.uid).lateRecords c c.late).uids :=
    congrArg (List.map _) ((ackMill_cuts _ c).trans (settleCrewOf_cuts _ c))
  have hfences : ((s.settleFences c).lived c).uids = s.uids := by
    rw [State.uids, lived_cuts, settleFences_cuts]
    exact uids_putCut s _
  rw [hrest, (lateRecords_writesOnly _ c c.late).uids, uids_dropCut, hfences]

/-- One cut is gone, and every other lives on. -/
theorem gone_of_uids {s t : State} {u : Nat} (h : t.uids = s.uids.filter (· != u)) :
    t.cutOf u = none ∧ ∀ v, v ≠ u → (t.cutOf v).isSome = (s.cutOf v).isSome := by
  refine ⟨?_, fun v hv => ?_⟩
  · rw [← Option.not_isSome_iff_eq_none, isSome_cutOf, h]
    simp
  · rw [isSome_cutOf, isSome_cutOf, h]
    simp [hv]

/-! ### EXIT (R95) -/

/-- The active items where the guard is false: those that an `EXIT` leaves (R95). -/
def Cut.spared (c : Cut) : List Nat := c.positions.filter fun p => !c.guard p

theorem filter_not_governed (c : Cut) : (c.positions.filter fun i => !decide (i ∈ c.governed)) = c.spared := by
  refine List.filter_congr fun p hp => congrArg _ ?_
  rw [Bool.eq_iff_iff, decide_eq_true_eq, Cut.governed, List.mem_filter, and_iff_right hp]

theorem inMask_and (m n : W32) (i : Nat) : inMask (m &&& n) i = (inMask m i && inMask n i) := BitVec.getLsbD_and

theorem inMask_not (m : W32) (i : Nat) : inMask (~~~m) i = (decide (i < 32) && !inMask m i) := BitVec.getLsbD_not

section
variable (c : Cut) (hl : c.isPattern = false)
include hl

/-- The lanes that stay where the governed ones leave. -/
theorem spared_mask : c.ctx.active &&& ~~~maskOf 32 (· ∈ c.governed) = maskOf 32 fun p => decide (p ∈ c.spared) := by
  refine mask_ext _ _ fun i => ?_
  rw [inMask_and, inMask_not, inMask_maskOf, inMask_maskOf, Cut.governed, Cut.spared, positions_of_lanes c hl]
  cases hi : inMask c.ctx.active i with
  | false => simp [mem_lanesOf, hi]
  | true => simp [mem_lanesOf, hi, lt_of_inMask _ i hi]

theorem spared_mask_zero : c.ctx.active &&& ~~~maskOf 32 (· ∈ c.governed) = 0 ↔ c.spared = [] := by
  rw [spared_mask c hl]
  refine ⟨fun h => ?_, fun h => ?_⟩
  · refine List.eq_nil_iff_forall_not_mem.mpr fun p hp => ?_
    have hpos : p ∈ lanesOf c.ctx.active := positions_of_lanes c hl ▸ (List.mem_filter.mp hp).1
    have hin : inMask (maskOf 32 fun p => decide (p ∈ c.spared)) p = true := by
      rw [inMask_maskOf]
      simp [hp, lt_of_inMask _ p ((mem_lanesOf _ p).mp hpos)]
    rw [h, inMask_zero] at hin
    cases hin
  · refine mask_ext _ _ fun i => ?_
    rw [inMask_maskOf, inMask_zero, h]
    simp

end

theorem cutOf_retired (s : State) (k d : Cut) (h : s.cutOf k.uid = some d) :
    (s.retired k).cutOf k.uid = some (k.quota (s.launchOf k.lid)) := by
  have hput := cutOf_putCut s (k.quota (s.launchOf k.lid)) d (by rwa [quota_uid])
  rwa [quota_uid] at hput

section
variable (s : State) (c : Cut) (m : W32)

/-- Where every lane leaves, the cut ends. -/
theorem uids_exitLanes (h : c.ctx.active &&& ~~~m = 0) : (s.exitLanes c m).uids = s.uids.filter (· != c.uid) := by
  unfold State.exitLanes
  extract_lets left ils gone t d
  have huids : t.uids = s.uids := (lateRecords_writesOnly s c gone).uids
  rw [if_pos h, uids_endCut, huids]

/-- Where lanes stay, the cut goes on with them as it would have with all. -/
theorem cutOf_exitLanes (h : c.ctx.active &&& ~~~m ≠ 0) (hc : s.cutOf c.uid = some c) : ∃ k, (s.exitLanes c m).cutOf c.uid = some k
    ∧ k.ctx.active = c.ctx.active &&& ~~~m ∧ k.ctx.pc = c.advance.ctx.pc ∧ k.cutid = c.cutid ∧ k.ctx.v = c.ctx.v
    ∧ k.ctx.preds = c.ctx.preds := by
  unfold State.exitLanes
  extract_lets left ils gone t d ctx k
  have huids : t.uids = s.uids := (lateRecords_writesOnly s c gone).uids
  have hlives : (t.cutOf c.uid).isSome = true := by
    rw [isSome_cutOf, huids, ← isSome_cutOf, hc]
    rfl
  obtain ⟨x, hx⟩ := Option.isSome_iff_exists.mp hlives
  have huid : k.advance.uid = c.uid := advance_uid k
  have hput := cutOf_retired t k.advance x (huid ▸ hx)
  rw [huid] at hput
  refine ⟨k.advance.quota (t.launchOf k.advance.lid), ?_, ?_⟩
  · rw [if_neg h, cutOf_congr (settleCrewOf_cuts _ k)]
    exact hput
  · have hpc : k.advance.ctx.pc = c.advance.ctx.pc := advance_pc_congr c k rfl rfl
    obtain ⟨w, hw⟩ := quota_eq (t.launchOf k.advance.lid) k.advance
    rw [hw, advance_eq_goTo k, hpc]
    exact ⟨rfl, rfl, rfl, rfl, rfl⟩

end

section
variable {s : State} {c : Cut} (hr : Runs s c .exit)
include hr

theorem exec_exit_waits (ho : c.outst ≠ []) : exec .exit s = .next (s.hold c .results) := by
  refine (operate_runs _ s _ c hr).trans (congrArg _ (if_pos ?_))
  simpa using ho

section
variable (ho : c.outst = [])
include ho

theorem exec_exit_none (hg : c.governed = []) : exec .exit s = .next (s.advance c) := by
  refine (operate_runs _ s _ c hr).trans (congrArg _ ((if_neg ?_).trans (if_pos ?_)))
  · simp [ho]
  · simp [hg]

section
variable (hg : c.governed ≠ [])
include hg

/-- The items that `EXIT` ends by the kind of their cut. -/
theorem exec_exit_some : exec .exit s = .next (
    if c.isPattern then
      if c.spared = [] then s.endCut c
      else if (boundingBox (c.spared.map c.item)).size = (c.spared.map c.item).length then s.exitBox c (boundingBox (c.spared.map c.item))
      else s.lanesOnly c
    else if c.spared = [] ∧ c.sec.state ≠ .out ∧ (familyOf s c).length = 1 then s.exitSection c
    else s.exitLanes c (maskOf 32 (· ∈ c.governed))) := by
  refine (operate_runs _ s _ c hr).trans (congrArg _ ?_)
  simp only [filter_not_governed, List.isEmpty_iff, ho, hg, Bool.not_true, Bool.false_eq_true, if_false, List.isEmpty_nil]

theorem exec_exit_lanes (hl : c.isPattern = false) (h : c.spared ≠ [] ∨ c.sec.state = .out) :
    exec .exit s = .next (s.exitLanes c (maskOf 32 (· ∈ c.governed))) := by
  refine (exec_exit_some hr ho hg).trans (congrArg _ ((if_neg (ne_true_of_eq_false hl)).trans (if_neg ?_)))
  rintro ⟨hnone, hopen, _⟩
  exact h.elim (· hnone) hopen

/-- An `EXIT` of every item ends the cut, outside a section. -/
theorem exec_exit_all (hall : c.spared = []) (hsec : c.sec.state = .out) :
    ∃ t, exec .exit s = .next t ∧ t.uids = s.uids.filter (· != c.uid) := by
  cases hp : c.isPattern with
  | true => exact ⟨_, (exec_exit_some hr ho hg).trans (congrArg _ ((if_pos hp).trans (if_pos hall))), uids_endCut s c⟩
  | false => exact ⟨_, exec_exit_lanes hr ho hg hp (.inr hsec), uids_exitLanes s c _ ((spared_mask_zero c hp).mpr hall)⟩

theorem exec_exit_pattern (hp : c.isPattern = true) (hrest : c.spared ≠ []) : exec .exit s = .next (
    if (boundingBox (c.spared.map c.item)).size = (c.spared.map c.item).length then s.exitBox c (boundingBox (c.spared.map c.item))
    else s.lanesOnly c) :=
  (exec_exit_some hr ho hg).trans (congrArg _ ((if_pos hp).trans (if_neg hrest)))

end
end
end

end Sys2Proof.Machine

namespace Sys2Proof
open Sys2Proof.Machine

/-- Settles O18: `NOP` and `YIELD` by the place of their cut, and `EXIT` by what it leaves of its own. -/
theorem endingInstructions : Obligations.EndingInstructions := by
  unfold Obligations.EndingInstructions
  refine ⟨fun s c => ⟨exec_nop, exec_yield_bench, exec_yield_mill, exec_yieldExpiry⟩, fun s c hr => ?_⟩
  refine ⟨exec_exit_waits hr, exec_exit_none hr, fun ho hg hall _ hsec => ?_, fun ho hg hrest hl => ?_, fun ho hg hrest hp =>
    exec_exit_pattern hr ho hg hp hrest⟩
  · obtain ⟨t, ht, huids⟩ := exec_exit_all hr ho hg hall hsec
    exact ⟨t, ht, gone_of_uids huids⟩
  · obtain ⟨k, hk, hactive, hgoes⟩ := cutOf_exitLanes s c _ (fun h => hrest ((spared_mask_zero c hl).mp h)) (cutOf_of_runs s c _ hr)
    exact ⟨_, k, exec_exit_lanes hr ho hg hl (.inl hrest), hk, hactive.trans (spared_mask c hl), hgoes⟩

end Sys2Proof

end

/-! ## Trap instructions

`TFENCE`, `BKPT`, `TRAP`, `HALTD` (R96, R97) and the return from a handler (R348). -/

section

namespace Sys2Proof.Machine

/-- What an instruction raises that has done all its items: `TRET` resumes after it (R96, R97, R348). -/
def Cut.causeDone (c : Cut) (causes : Nat) (addr lanes : W64) : TrapPend := { c.cause causes addr lanes with done := c.allLanes }

/-! ### Stops that are done (R96, R97) -/

section
variable {s : State} {c : Cut}

theorem exec_tfence (hr : Runs s c .tfence) (h : c.outst.any Outst.mayFlag = false) : exec .tfence s
    = .next (if c.ctx.asf &&& c.ctx.tenable ≠ 0 then s.stop c (c.causeDone causeARI 0 c.allLanes) else s.advance c) := by
  refine (operate_runs _ s _ c hr).trans (congrArg _ ((if_neg (ne_true_of_eq_false h)).trans ?_))
  simp only [Cut.flagTrap, bne_iff_ne]
  rfl

theorem exec_bkpt (hr : Runs s c .bkpt) : exec .bkpt s = .next (s.stop c (c.causeDone causeBKP 0 c.allLanes)) :=
  operate_runs _ s _ c hr

theorem exec_haltd_unarmed (hr : Runs s c .haltd) (h : c.armed s = none) : exec .haltd s = .next (s.advance c) := by
  refine (operate_runs _ s _ c hr).trans ?_
  rw [h]

theorem exec_haltd_armed (hr : Runs s c .haltd) (slot : Nat) (h : c.armed s = some slot) :
    exec .haltd s = .next (s.triggerAt c slot 3 0) := by
  refine (operate_runs _ s _ c hr).trans ?_
  rw [h]

end

/-! ### TRAP (R97) -/

section
variable {s : State} {c : Cut} {n : BitVec 18} (hr : Runs s c (.trap n))
include hr

theorem exec_trap_none (hg : c.governed = []) : exec (.trap n) s = .next (s.advance c) :=
  (operate_runs _ s _ c hr).trans (congrArg _ (if_pos (List.isEmpty_iff.mpr hg)))

theorem exec_trap_lanes (hg : c.governed ≠ []) (hl : c.isPattern = false) :
    exec (.trap n) s = .next (s.stop c (c.causeDone causeTRP (n.setWidth 64) (lanesWord c.governed))) := by
  refine (operate_runs _ s _ c hr).trans (congrArg _ ((if_neg ?_).trans (if_pos ?_)))
  · rwa [List.isEmpty_iff]
  · rw [hl]; rfl

theorem exec_trap_pattern (hg : c.governed ≠ []) (hp : c.isPattern = true) : exec (.trap n) s = .next (
    if c.governed = c.positions then s.stop c (c.causeDone causeTRP (n.setWidth 64) c.allLanes) else s.lanesOnly c) := by
  have hlen : c.governed.length = c.positions.length ↔ c.governed = c.positions := ⟨List.filter_sublist.eq_of_length, congrArg _⟩
  refine (operate_runs _ s _ c hr).trans (congrArg _ (((if_neg ?_).trans (if_neg ?_)).trans (if_congr hlen rfl rfl)))
  · rwa [List.isEmpty_iff]
  · rw [hp]; decide

end

/-! ### TRET (R348) -/

/-- Whether a cut may leave its handler: its saved loop stack may become live, and the word at TPC may be executed (R348). -/
def Cut.mayReturn (s : State) (c : Cut) : Prop := savedLoopsOk c.trap.sloops = true ∧ targetCause s c true c.trap.tpc = 0

/-- The cut at TPC with its saved loop stack (R348). -/
def Cut.atTpc (c : Cut) : Cut :=
  { c with ctx := { c.ctx with pc := c.trap.tpc, loops := (liveLevels c.trap.sloops).reverse } }

section
variable {s : State} {c : Cut} (hr : Runs s c .tret)
include hr

theorem exec_tret_barred (h : c.trap.inh = false ∨ ¬ c.mayReturn s) : exec .tret s = .next (s.ill c) := by
  refine (operate_runs _ s _ c hr).trans ?_
  rcases h with hout | hbar
  · rw [hout]; rfl
  · rw [Cut.mayReturn, not_and_or] at hbar
    split
    · rfl
    · rw [if_pos (hbar.imp_left fun h => by simpa using h)]

theorem exec_tret_returns (hin : c.trap.inh = true) (hok : c.mayReturn s) : exec .tret s = .next (s.retired c.returned) := by
  obtain ⟨hloops, htpc⟩ := hok
  refine (operate_runs _ s _ c hr).trans (congrArg _ ((if_neg ?_).trans (if_neg ?_)))
  · rw [hin]; decide
  · rw [hloops, htpc]; decide

end

section
variable (c : Cut)

/-- What a return changes of its cut: `l0`, `l1`, the loop stack and where it goes on, and that it is in its handler no more. -/
theorem returned_eq : c.returned = { c with
    trap := { c.trap with inh := false }
    ctx := { c.ctx with pc := c.returned.ctx.pc, loops := c.returned.ctx.loops, l0 := .val c.trap.sl0, l1 := .val c.trap.sl1 }
    retired := c.retired + 1, outst := c.returned.outst, wait := .none, replay := c.returned.replay, part := c.returned.part
    issuing := [], haltPc := false } := by
  unfold Cut.returned
  extract_lets loops k again
  split
  · rw [advance_eq_goTo]; rfl
  · rfl

/-- A trap that has done every item resumes after its word, with end processing. -/
theorem returned_done (h : c.allDone = true) : c.returned.ctx.pc = c.atTpc.advance.ctx.pc
    ∧ c.returned.ctx.loops = c.atTpc.advance.ctx.loops ∧ c.returned.replay = 0 := by
  unfold Cut.returned
  extract_lets loops k again
  rw [if_pos h, advance_pc, advance_loops, advance_pc, advance_loops, advance_eq_goTo]
  exact ⟨rfl, rfl, rfl⟩

/-- Any other executes its word again, for the items that TDONE does not name. -/
theorem returned_again (h : c.allDone = false) : c.returned.ctx.pc = c.trap.tpc ∧ c.returned.ctx.loops = c.atTpc.ctx.loops
    ∧ c.returned.replay = if c.isPattern then 0 else c.trap.tdone &&& c.ctx.active.setWidth 64 := by
  unfold Cut.returned
  extract_lets loops k again
  rw [if_neg (ne_true_of_eq_false h)]
  exact ⟨rfl, rfl, rfl⟩

end

end Sys2Proof.Machine

namespace Sys2Proof
open Sys2Proof.Machine

/-- Settles O25: the stop of each trap instruction, and the return by whether TDONE covers every item. That `TFENCE` names every active lane
is the model's choice (log 28). -/
theorem trapInstructions : Obligations.TrapInstructions := by
  unfold Obligations.TrapInstructions
  refine ⟨fun s c n => ?_, fun s c hr => ?_⟩
  · exact ⟨exec_tfence, exec_bkpt, exec_trap_none, exec_trap_lanes, exec_trap_pattern, exec_haltd_unarmed, exec_haltd_armed⟩
  · exact ⟨exec_tret_barred hr, fun hin hok =>
      ⟨c.returned, exec_tret_returns hr hin hok, returned_eq c, returned_done c, returned_again c⟩⟩

end Sys2Proof

end

/-! ## Stores, atomics and page requests: where their statements fail

Each state here meets the hypotheses of one statement and departs from what it says: an engine's write that waits for its page (R228), a
sector that its home still holds as a window decoded it (R13), and a lane that has performed before its word is replayed (R125). -/

section

namespace Sys2Proof.Machine

/-! ### An engine's write whose page has gone (R228) -/

/-- A Carter job that waits for its page keeps its write in the queue: nothing performs. -/
theorem exec_homeWrite_stalled (s : State) (w : Store) (bs : List (Nat × Byte)) (j : Job) (hw : s.storeQ.find? (·.id == w.id) = some w)
    (hmay : mayPerform s w = true) (hop : w.op = .bytes bs) (hgone : (walk s (.bench w.bench) w.asid w.ptr).loc = none)
    (hjob : s.jobs.find? (fun j => w.job == some j.id) = some j) (hstalled : j.state = .stalled) : exec (.homeWrite w.id) s = .next s := by
  have hfails : homeFails s w = false := by simp [homeFails, WriteOp.isAtomic, hop]
  have hcarter : w.ofCarter s = true := List.any_eq_true.mpr ⟨j, List.mem_of_find?_eq_some hjob, by
    simpa using List.find?_some hjob⟩
  have hmoved : storeMoved s w = true := by simp [storeMoved, hgone]
  have hkept : s.rehome w = s := by simp [State.rehome, hgone, hjob, hstalled]
  change execHomeWrite w.id s = .next s
  simp [execHomeWrite, hw, hmay, hfails, hcarter, hmoved, hkept]

/-- A Carter job stalled on a page that is no longer mapped, the write of it under way, and the machine that holds them. -/
def stalledJob : Job :=
  { id := 7, seq := 1, uid := 1, cutid := 0, lid := 1, asid := 0, op := 0, card := List.replicate 8 0, copies := 1, deliver := 0, die := 0
    bench := 0, crew := none, handle := 0, credit := false, state := .stalled, status := 0, since := 0, rgen := 0, il := 0, pc := 0 }

def stalledWrite : Store :=
  { id := 3, seq := 1, uid := 1, anc := [], cutid := 0, lid := 1, asid := 0, bench := 0, scope := 3, release := false, order := []
    loc := .dev 0x20000, op := .bytes [(0, 1)], outst := none, job := some 7, held := false, il := 0, ptr := BitVec.ofNat 64 (2 ^ 45), pc := 0 }

def stalledState : State := { State.reset with storeQ := [stalledWrite], jobs := [stalledJob] }

/-! ### A sector that its home holds as a window decoded it (R13) -/

/-- An i32 add at device address 0x20000. -/
def addAtHome : Store :=
  { id := 3, seq := 1, uid := 1, anc := [], cutid := 0, lid := 1, asid := 0, bench := 0, scope := 3, release := false, order := []
    loc := .dev 0x20000, op := .atomic 0 4 [⟨0, 0, 5, 0⟩], outst := none, job := none, held := false, il := 0
    ptr := BitVec.ofNat 64 (2 ^ 45), pc := 0 }

/-- The machine that holds it, the sector of its element still cached as 128 ones though no window is enabled any more. -/
def decodedState : State := { State.reset with storeQ := [addAtHome], views := [(sectorOf 0x20000, List.replicate 128 1)] }

/-- The home adopts the whole cached sector with the write of one element: the byte above the element is 1 in memory from then on. -/
theorem addAtHome_adopts : ∃ t, exec (.homeWrite 3) decodedState = .next t ∧ cellGet t.mem 0x20004 = 1 :=
  ⟨_, rfl, by decide⟩

/-! ### A lane that has performed before a replay (R125) -/

/-- A lane cut's register holds a result that was written to it at the governed items. -/
theorem write_register (s : State) (c : Cut) (srcs : List Opnd) (d : Opnd) (v : RegVal) (hc : s.cutOf c.uid = some c)
    (hl : c.isPattern = false) (hs : srcs.any isQ = false) (hd : d.toNat < 0x40) (hlen : c.ctx.v.length = 64) :
    ∃ k, (s.write c srcs c.gov d v).cutOf c.uid = some k
      ∧ ∀ p ∈ c.governed, p < c.span → c.valAt (k.ctx.v.getD d.toNat (uVal 0)) p = c.valAt v p := by
  have hn : c.needsLanes c.gov v = false := needsLanes_of_lane c _ _ hl
  have huid : ((c.result c.gov d v).advance.quota (s.launchOf c.lid)).uid = c.uid := by
    rw [quota_uid, advance_uid, result_of_ne_z c c.gov d v (ne_z_of_toNat (by omega))]
  have hlid : (c.result c.gov d v).lid = c.lid := by rw [result_of_ne_z c c.gov d v (ne_z_of_toNat (by omega))]
  have hput := cutOf_putCut s ((c.result c.gov d v).advance.quota (s.launchOf c.lid)) c (by rwa [huid])
  rw [huid] at hput
  have hv : ((c.result c.gov d v).advance.quota (s.launchOf c.lid)).ctx.v = (c.result c.gov d v).ctx.v := by rw [advance_quota_eq]
  refine ⟨(c.result c.gov d v).advance.quota (s.launchOf c.lid), ?_, fun p hp hspan => ?_⟩
  · rwa [write_noQ s c srcs c.gov d v hs (isQ_of_main d (by omega)) hn, advance_eq, hlid]
  · obtain ⟨hpos, hguard⟩ := List.mem_filter.mp hp
    rw [hv, result_v_same c c.gov d v hd (hlen ▸ hd), valAt_merge c v _ p hn hpos hspan, if_pos hguard]

/-- `PGTEST` of a lane cut whose pages are of objects that exist writes their residency (R145). -/
theorem exec_pgtest (s : State) (c : Cut) (d a : Opnd) (hr : Runs s c (.pgtest d a)) (hl : c.isPattern = false)
    (hsound : ∀ p ∈ c.governed, accessCause s c.unit (c.asid s) (c.valAt (c.read s a []) p) 1 1 .none = 0) :
    exec (.pgtest d a) s = .next (s.writePages c d a (c.read s a [])) := by
  have hbad : ((c.accesses (c.valAt (c.read s a []))).filter fun x => accessCause s c.unit (c.asid s) x.ptr 1 1 .none != 0) = [] := by
    refine List.filter_eq_nil_iff.mpr fun x hx => ?_
    obtain ⟨p, hp, rfl⟩ := List.mem_map.mp hx
    simp [hsound p (List.mem_of_mem_filter hp)]
  have hchecked : checkPages s c (c.accesses (c.valAt (c.read s a []))) = none := by
    unfold checkPages
    rw [hbad]
  refine (operate_runs _ s _ c hr).trans ?_
  simp only [needsLanes_of_lane c _ _ hl, Bool.false_eq_true, if_false, hchecked]

/-- Where the pointers are not U, a lane that performed before keeps what it has of the destination (R125). -/
theorem writePages_kept (s : State) (c : Cut) (d a : Opnd) (v : RegVal) (hl : c.isPattern = false) (hv : v.isU = false) (p : Nat)
    (hp : p ∈ c.governed) (hdone : c.performed p = true) :
    ∃ r, s.writePages c d a v = s.write c [a] c.gov d r ∧ c.valAt r p = c.kept d 0 p := by
  refine ⟨_, rfl, ?_⟩
  rw [Cut.pageResult, hv, if_neg Bool.false_ne_true, valAt_overLanes c _ p hl (List.mem_of_mem_filter hp), if_pos hdone]

/-- A cut of two items that executes its word again for the second alone: TDONE named lane 0 (R348). Its `v2` holds a pointer to
an object of data in each lane, and `v1` holds 0. -/
def replayingCut : Cut :=
  let c := Cut.atEntry State.reset (placedLaunch 1) 1 .lane ⟨⟨0, 0, 0⟩, 2, 1, 1⟩ [⟨0, 0, 0⟩, ⟨1, 0, 0⟩] (.quad 0 0)
  { c with replay := 1, ctx := { c.ctx with v := c.ctx.v.set 2 (.lanes [BitVec.ofNat 64 (2 ^ 45), BitVec.ofNat 64 (2 ^ 45)]) } }

/-- The machine in which it executes, the page of the data resident. -/
def replayingState : State :=
  { State.reset with
    cur := 1, nextUid := 2, nextLid := 2, cuts := [replayingCut], launches := [placedLaunch 1]
    tlb := [⟨.bench 0, 0, 2, 0, { placedCode with w := true }, 0x20000, true⟩] }

end Sys2Proof.Machine

namespace Sys2Proof
open Sys2Proof.Machine

/-- Refutes O28: a write of a Carter job whose page has gone is neither performed nor dropped when its turn comes. It waits in the queue for
its page (R228), and the clause on a store that performs, which does not ask for a write of no job, has it leave the queue. -/
theorem not_storesPerform : ¬ Obligations.StoresPerform := by
  unfold Obligations.StoresPerform
  rintro ⟨-, hhome, -⟩
  obtain ⟨t, hexec, hqueue, -⟩ := hhome stalledState stalledWrite [(0, 1)] (by decide) (by decide) rfl rfl rfl
  have hstays := exec_homeWrite_stalled stalledState stalledWrite [(0, 1)] stalledJob (by decide) (by decide) rfl (by decide) (by decide) rfl
  cases hstays.symm.trans hexec
  exact absurd hqueue (by decide)

/-- Refutes O29: where a home still holds the sector of the element as a window decoded it, an atomic there puts the decoded bytes of the
whole sector in memory (R13), and the clause at the home, which does not bar such a sector, has every byte beside the element stand. -/
theorem not_atomicsIssueAndPerform : ¬ Obligations.AtomicsIssueAndPerform := by
  unfold Obligations.AtomicsIssueAndPerform
  rintro ⟨-, hhome⟩
  obtain ⟨t, hexec, -, -, hmem, -⟩ := hhome decodedState addAtHome 0x20000 0 4 [⟨0, 0, 5, 0⟩] (by decide) (by decide) rfl rfl rfl
    (by decide) (by decide) rfl
  obtain ⟨u, hu, hone⟩ := addAtHome_adopts
  cases hu.symm.trans hexec
  have hkept := hmem 0x20004
  rw [hone] at hkept
  exact absurd hkept (by decide)

/-- Refutes O30: on a replay a lane that has performed keeps its result (R125), here 0 where its page is resident, and the clause on
`PGTEST`, which does not ask for a first execution, has it read 1. -/
theorem not_pageInstructions : ¬ Obligations.PageInstructions := by
  unfold Obligations.PageInstructions
  intro h
  have hruns : Runs replayingState replayingCut (.pgtest 1 2) := ⟨rfl, rfl⟩
  have hsound : ∀ p ∈ replayingCut.governed, accessCause replayingState replayingCut.unit (replayingCut.asid replayingState)
      (replayingCut.valAt (replayingCut.read replayingState 2 []) p) 1 1 .none = 0 := by decide
  obtain ⟨-, -, htest, -⟩ := h replayingState replayingCut 0 1 2 2
  obtain ⟨r, hexec, htested⟩ := htest hruns ⟨needsLanes_of_lane _ _ _ rfl, hsound⟩
  obtain ⟨k, hwrite, hkept⟩ := writePages_kept replayingState replayingCut 1 2 (replayingCut.read replayingState 2 []) rfl rfl 0 (by decide)
    (by decide)
  rw [exec_pgtest _ _ _ _ hruns rfl hsound, hwrite] at hexec
  obtain ⟨x, hx, hxk⟩ := write_register replayingState replayingCut [2] 1 k rfl rfl rfl (by decide) (by decide)
  obtain ⟨y, hy, hyr⟩ := write_register replayingState replayingCut [2] 1 r rfl rfl rfl (by decide) (by decide)
  rw [Host.Outcome.next.inj hexec] at hx
  cases hx.symm.trans hy
  have hsame := (hxk 0 (by decide) (by decide)).symm.trans (hyr 0 (by decide) (by decide))
  rw [hkept, htested 0 (by decide) (by decide)] at hsame
  exact absurd hsame (by decide)

end Sys2Proof

end

/-! ## Lane moves

Shuffles, broadcasts, votes and compaction, each from the values that its lanes hold (R159, R160, R165). -/

section

namespace Sys2Proof.Machine

/-! ### Shuffles, LIDX and MATL (R160, R165) -/

/-- Every instruction that moves values between lanes names lanes (R171). -/
theorem laneOp_lanes (c : Cut) (i : Instr) (d : Opnd) (srcs : List Opnd) (f : Cut → Nat → List RegVal → W64)
    (hop : laneOp i = some (d, srcs, f)) : (c.usesOf i).lanes = true := by
  unfold laneOp at hop
  split at hop <;> cases hop <;> rfl

/-- A shuffle writes each lane the value of its source lane, or its own where it names none. -/
theorem shuffle_eq (s : State) (c : Cut) (d a b : Opnd) (src : Nat → W64 → Option Nat) (f : Nat → W64)
    (hf : ∀ p, c.lane (c.read s a []) ((src p (c.valAt (c.read s b [a]) p)).getD p) = f p) :
    s.shuffle c d a b src = s.write c [a, b] c.gov d (c.overLanes f) := by
  refine congrArg (fun g => s.write c [a, b] c.gov d (c.overLanes g)) (funext fun p => (Eq.trans ?_ (hf p)))
  cases src p (c.valAt (c.read s b [a]) p) <;> rfl

/-- A lane whose source may lie outside the 32 lanes keeps its own value there. -/
theorem lane_within (c : Cut) (x : RegVal) (near : Prop) [Decidable near] (j p : Nat) :
    c.lane x ((if near then some j else none).getD p) = if near then c.lane x j else c.lane x p := by
  split <;> rfl

/-- A lane move writes in L form what R160 gives each lane. -/
theorem exec_laneOp (i : Instr) (d : Opnd) (srcs : List Opnd) (f : Cut → Nat → List RegVal → W64) (s : State) (c : Cut)
    (hop : laneOp i = some (d, srcs, f)) (hr : Runs s c i) :
    exec i s = .next (s.write c srcs c.gov d (c.overLanes fun p => f c p (c.inputs s srcs))) := by
  unfold laneOp at hop
  split at hop <;> cases hop
  case h_1 => exact (operate_runs _ s _ c hr).trans (congrArg _ (shuffle_eq s c _ _ _ _ _ fun _ => rfl))
  case h_2 => exact (operate_runs _ s _ c hr).trans (congrArg _ (shuffle_eq s c _ _ _ _ _ fun _ => rfl))
  case h_3 => exact (operate_runs _ s _ c hr).trans (congrArg _ (shuffle_eq s c _ _ _ _ _ fun _ => lane_within c _ _ _ _))
  case h_4 => exact (operate_runs _ s _ c hr).trans (congrArg _ (shuffle_eq s c _ _ _ _ _ fun _ => lane_within c _ _ _ _))
  case h_5 => exact operate_runs _ s _ c hr
  case h_6 => exact operate_runs _ s _ c hr

/-! ### BCAST, VOTE and COMPACT (R160) -/

section
variable {s : State} {c : Cut} {d a b : Opnd}

theorem exec_bcast (hr : Runs s c (.bcast d a b)) :
    let y := c.read s b [a]
    exec (.bcast d a b) s
      = .next (if y.isU then s.write c [a, b] c.gov d (uVal (c.lane (c.read s a []) (fld y.base 0 5))) else s.ill c) := by
  intro y
  refine (operate_runs _ s _ c hr).trans (congrArg _ ?_)
  cases hu : y.isU with
  | true => exact if_neg (by simp [y, hu])
  | false => exact if_pos (by simp [y, hu])

/-- The lanes that vote for a value: the governed lanes whose element, the low bits that ET reads, is not zero. -/
def Cut.voters (c : Cut) (x : RegVal) : W32 := maskOf 32 fun n => inMask c.ctx.active n && c.guard n && lowBits c.et (c.valAt x n) != 0

theorem exec_vote (hr : Runs s c (.vote d a)) :
    exec (.vote d a) s = .next (s.write c [a] .all d (uVal ((c.voters (c.read s a [])).setWidth 64))) := operate_runs _ s _ c hr

theorem inMask_voters (c : Cut) (x : RegVal) (n : Nat) (hl : c.isPattern = false) (hn : n < 32) :
    inMask (c.voters x) n = (decide (n ∈ c.governed) && (lowBits c.et (c.valAt x n) != 0)) := by
  rw [Cut.voters, inMask_maskOf, decide_eq_true hn, Bool.true_and, Bool.decide_congr (mem_governed c n hl), Bool.decide_eq_true]

/-- A mask of lanes zero-extended to a register has its lanes' bits. -/
theorem getLsbD_mask (m : W32) (n : Nat) (hn : n < 32) : (m.setWidth 64).getLsbD n = inMask m n := by
  rw [BitVec.getLsbD_setWidth, decide_eq_true (by omega), Bool.true_and, inMask, BitVec.testBit_toNat]

theorem exec_compact (hr : Runs s c (.compact d a)) : exec (.compact d a) s
    = .next (s.write c [a] .all d (c.overLanes fun p => (c.governed.map (c.valAt (c.read s a []))).getD p 0)) := operate_runs _ s _ c hr

end

end Sys2Proof.Machine

namespace Sys2Proof
open Sys2Proof.Machine

/-- Settles O16: each lane move is a result in L form read lane by lane, and a vote's mask is read bit by bit. -/
theorem laneMoves : Obligations.LaneMoves := by
  unfold Obligations.LaneMoves
  refine ⟨fun i d srcs f s c hop hr => ?_, fun s c d a b => ⟨exec_bcast, fun hr => ?_, fun hr => ?_⟩⟩
  · have hl := isPattern_of_lanes s c i hr (laneOp_lanes c i d srcs f hop)
    exact ⟨_, rfl, exec_laneOp i d srcs f s c hop hr, fun p hp => valAt_overLanes c _ p hl hp⟩
  · have hl := isPattern_of_lanes s c _ hr rfl
    exact ⟨_, exec_vote hr, fun n hn => (getLsbD_mask _ n hn).trans (inMask_voters c _ n hl hn)⟩
  · have hl := isPattern_of_lanes s c _ hr rfl
    exact ⟨_, exec_compact hr, fun p hp => valAt_overLanes c _ p hl hp⟩

end Sys2Proof

end

/-! ## Forms of values

What FORM, KILL and PGET make of registers, predicates and stored forms (R164, R166, R168). -/

section

namespace Sys2Proof.Machine

/-! ### Registers and predicates of a cut after a write -/

theorem setReg_v_ne (c : Cut) (r : Opnd) (x : RegVal) (n : Nat) (h : n ≠ r.toNat) :
    (c.setReg r x).ctx.v.getD n (uVal 0) = c.ctx.v.getD n (uVal 0) := by
  rw [setReg_v]
  split
  · simp [List.getElem?_set_ne h.symm]
  · rfl

theorem setReg_o_ne (c : Cut) (r : Opnd) (x : RegVal) (n : Nat) (h : n + 0x40 ≠ r.toNat) :
    (c.setReg r x).ctx.o.getD n (uVal 0) = c.ctx.o.getD n (uVal 0) := by
  rw [setReg_o]
  split
  · simp [List.getElem?_set_ne (show r.toNat - 0x40 ≠ n by omega)]
  · rfl

theorem oldReg_of_v (c : Cut) (r : Opnd) (h : r.toNat < 0x40) : c.oldReg r = c.ctx.v.getD r.toNat (uVal 0) := if_pos h

theorem oldReg_of_o (c : Cut) (r : Opnd) (hlo : 0x40 ≤ r.toNat) (hhi : r.toNat < 0x48) :
    c.oldReg r = c.ctx.o.getD (r.toNat - 0x40) (uVal 0) := (if_neg (Nat.not_lt.mpr hlo)).trans (if_pos hhi)

theorem oldReg_of_neither (c : Cut) (r : Opnd) (h : 0x48 ≤ r.toNat) : c.oldReg r = uVal 0 :=
  (if_neg (by omega)).trans (if_neg (Nat.not_lt.mpr h))

theorem oldReg_setReg_same (c : Cut) (r : Opnd) (x : RegVal) (hr : r.toNat < 0x48) (hv : c.ctx.v.length = 64) (ho : c.ctx.o.length = 8) :
    (c.setReg r x).oldReg r = x := by
  by_cases h : r.toNat < 0x40
  · simp [oldReg_of_v _ r h, setReg_v, h, hv]
  · simp [oldReg_of_o _ r (by omega) hr, setReg_o, hr, ho, show 0x40 ≤ r.toNat by omega, show r.toNat - 0x40 < 8 by omega]

theorem oldReg_setReg_ne (c : Cut) (r o : Opnd) (x : RegVal) (h : o ≠ r) : (c.setReg r x).oldReg o = c.oldReg o := by
  have hne : o.toNat ≠ r.toNat := fun he => h (BitVec.eq_of_toNat_eq he)
  by_cases hv : o.toNat < 0x40
  · rw [oldReg_of_v _ o hv, oldReg_of_v _ o hv, setReg_v_ne c r x _ hne]
  · by_cases ho : o.toNat < 0x48
    · rw [oldReg_of_o _ o (by omega) ho, oldReg_of_o _ o (by omega) ho, setReg_o_ne c r x _ (by omega)]
    · rw [oldReg_of_neither _ o (by omega), oldReg_of_neither _ o (by omega)]

/-- A specifier that is set to zero reads zero, whether or not it names a register. -/
theorem oldReg_setReg_zero (c : Cut) (r : Opnd) : (c.setReg r (uVal 0)).oldReg r = uVal 0 := by
  by_cases hv : r.toNat < 0x40
  · by_cases hlen : r.toNat < c.ctx.v.length <;> simp [oldReg_of_v _ r hv, setReg_v, hv, hlen]
  · by_cases ho : r.toNat < 0x48
    · by_cases hlen : r.toNat - 0x40 < c.ctx.o.length <;>
        simp [oldReg_of_o _ r (by omega) ho, setReg_o, ho, hlen, show 0x40 ≤ r.toNat by omega]
    · exact oldReg_of_neither _ r (by omega)

theorem pred_setPred_false (c : Cut) (n : Nat) (h : n ≠ 0) : (c.setPred n (.uni false)).pred n = .uni false := by
  by_cases hlen : n < c.ctx.preds.length
  · exact pred_setPred_same c _ n h hlen
  · simp [Cut.setPred, Cut.pred, h, hlen]

/-! ### The narrowest form (R164) -/

/-- The narrowest form holds the values it was made of. -/
theorem valAt_narrowest (c : Cut) (f : Nat → W64) (p : Nat) (hl : c.isPattern = false) (hp : p ∈ c.positions) :
    c.valAt (c.narrowest f) p = f p := by
  have hlanes : c.valAt (c.overLanes f) p = f p := valAt_overLanes c f p hl hp
  unfold Cut.narrowest
  split
  · exact hlanes
  · next j js hpos =>
    rw [hpos] at hp
    dsimp only
    split
    · next hall =>
      rw [valAt_uVal]
      rcases List.mem_cons.mp hp with rfl | hp
      · rfl
      · exact (beq_iff_eq.mp (List.all_eq_true.mp hall p hp)).symm
    · split
      · exact hlanes
      · split
        · split
          · next hfits => simpa using List.all_eq_true.mp hfits p hp
          · exact hlanes
        · exact hlanes

/-- Values that are all equal have U form. -/
theorem narrowest_isU (c : Cut) (f : Nat → W64) (hne : c.positions ≠ []) (h : ∀ p ∈ c.positions, ∀ q ∈ c.positions, f p = f q) :
    (c.narrowest f).isU = true := by
  obtain ⟨j, js, hpos⟩ := List.exists_cons_of_ne_nil hne
  have hall : (js.all fun k => f k == f j) = true := List.all_eq_true.mpr fun k hk => by
    simpa using h k (by simp [hpos, hk]) j (by simp [hpos])
  simp [Cut.narrowest, hpos, hall, RegVal.isU, uVal]

/-- In a lane cut, fragment or stray every merged value is the new one in the governed items and the old one elsewhere. -/
theorem valAt_merge_lane (c : Cut) (new old : RegVal) (p : Nat) (hl : c.isPattern = false) (hp : p ∈ c.positions) :
    c.valAt (c.merge c.gov new old) p = if c.guard p then c.valAt new p else c.valAt old p :=
  valAt_merge c new old p (needsLanes_of_lane c _ _ hl) hp (by simpa [Cut.span, hl, Config.lanes] using lt_of_position c p hl hp)

/-! ### FORM (R164) -/

/-- What FORM leaves in its destination: the merged values in their narrowest form. -/
def Cut.formValue (c : Cut) (d : Opnd) (x : RegVal) : RegVal := c.narrowest (c.valAt (c.merge c.gov x (c.oldReg d)))

/-- The newest last result after FORM: zero in the items that are not governed (R76). -/
def Cut.formLast (c : Cut) (d : Opnd) (x : RegVal) : RegVal :=
  if c.gov = .all then c.formValue d x
  else if d = 0x48#7 then c.narrowest (c.valAt (c.merge c.gov x (uVal 0))) else c.merge c.gov x (uVal 0)

/-- The cut that FORM makes of a lane cut, fragment or stray. -/
def Cut.formed (c : Cut) (d a : Opnd) (x : RegVal) : Cut :=
  let k := if isResult d then ((c.popped [a]).setReg d (c.formValue d x)).shift (.val (c.formLast d x)) else c.popped [a]
  if isQ d && c.gov.anyLane then k.effect else k

theorem exec_form_pattern (s : State) (c : Cut) (d a : Opnd) (hr : Runs s c (.form d a)) (hp : c.isPattern = true) :
    exec (.form d a) s = .next (s.write c [a] c.gov d (c.read s a [])) :=
  (operate_runs _ s _ c hr).trans (congrArg _ (if_pos hp))

theorem exec_form_lane (s : State) (c : Cut) (d a : Opnd) (hr : Runs s c (.form d a)) (hl : c.isPattern = false) :
    let t := s.popAll c [a]
    exec (.form d a) s = .next ((if isQ d && c.gov.anyLane then t.pushQ c d (c.entry c.gov (c.read s a [])) c.ctx.pc else t).advance
      (c.formed d a (c.read s a []))) :=
  (operate_runs _ s _ c hr).trans (congrArg _ (if_neg (ne_true_of_eq_false hl)))

theorem isResult_of_ne_z {d : Opnd} (h : d ≠ 0x4A#7) : isResult d = true := by simp [isResult, h]

theorem popped_one (c : Cut) (a : Opnd) : c.popped [a] = { c with effects := c.effects || isQ a } := by
  cases hq : isQ a <;> simp [Cut.popped, Cut.effect, hq]

/-- FORM changes the registers, the last-result file and the note of an effect, and nothing else of its cut. -/
theorem formed_eq (c : Cut) (d a : Opnd) (x : RegVal) : c.formed d a x = { c with
    ctx := { c.ctx with
      v := (c.setReg d (c.formValue d x)).ctx.v, o := (c.setReg d (c.formValue d x)).ctx.o
      l0 := if isResult d then .val (c.formLast d x) else c.ctx.l0
      l1 := if isResult d then c.ctx.l0 else c.ctx.l1 }
    effects := c.effects || isQ a || (isQ d && c.gov.anyLane) } := by
  unfold Cut.formed
  by_cases hz : d = 0x4A#7
  · subst hz
    exact (popped_one c a).trans (by rw [show isQ 0x4A#7 = false from rfl, Bool.false_and, Bool.or_false]; rfl)
  · simp only [isResult_of_ne_z hz, if_true]
    rw [setReg_eq, popped_one, setReg_v, setReg_v, setReg_o, setReg_o]
    cases isQ d && c.gov.anyLane <;> simp [Cut.shift, Cut.effect]

theorem formed_oldReg (c : Cut) (d a : Opnd) (x : RegVal) (hd : d.toNat < 0x48) (hv : c.ctx.v.length = 64) (ho : c.ctx.o.length = 8) :
    (c.formed d a x).oldReg d = c.formValue d x := by
  rw [formed_eq]
  exact oldReg_setReg_same c d _ hd hv ho

/-- The destination of FORM holds the merged values. -/
theorem valAt_formValue (c : Cut) (d : Opnd) (x : RegVal) (p : Nat) (hl : c.isPattern = false) (hp : p ∈ c.positions) :
    c.valAt (c.formValue d x) p = if c.guard p then c.valAt x p else c.valAt (c.oldReg d) p :=
  (valAt_narrowest c _ p hl hp).trans (valAt_merge_lane c x _ p hl hp)

theorem valAt_formLast (c : Cut) (d : Opnd) (x : RegVal) (p : Nat) (hl : c.isPattern = false) (hp : p ∈ c.positions) :
    c.valAt (c.formLast d x) p = if c.guard p then c.valAt x p else 0 := by
  have hzero : c.valAt (c.merge c.gov x (uVal 0)) p = if c.guard p then c.valAt x p else 0 := by
    rw [valAt_merge_lane c x _ p hl hp, valAt_uVal]
  unfold Cut.formLast
  split
  · next hall =>
    rw [← hzero, Cut.formValue, valAt_narrowest c _ p hl hp, hall]
    rfl
  · split
    · exact (valAt_narrowest c _ p hl hp).trans hzero
    · exact hzero

/-- Where all the values that FORM writes are equal, its destination is in U form. -/
theorem formValue_isU (c : Cut) (d : Opnd) (x : RegVal) (hl : c.isPattern = false) (hne : c.positions ≠ [])
    (h : ∀ p ∈ c.positions, ∀ q ∈ c.positions, c.valAt (c.formValue d x) p = c.valAt (c.formValue d x) q) : (c.formValue d x).isU = true :=
  narrowest_isU c _ hne fun p hp q hq =>
    (valAt_narrowest c _ p hl hp).symm.trans ((h p hp q hq).trans (valAt_narrowest c _ q hl hq))

/-! ### KILL (R168) -/

/-- A cut whose registers of a list have been set to uniform zero. -/
def Cut.zeroed (c : Cut) (rs : List Opnd) : Cut := rs.foldl (fun k r => k.setReg r (uVal 0)) c

/-- A cut whose predicates of a list have been set to uniform false. -/
def Cut.falsified (c : Cut) (ps : List Nat) : Cut := ps.foldl (fun k p => k.setPred p (.uni false)) c

theorem exec_kill (s : State) (c : Cut) (m a b : Opnd) (hr : Runs s c (.kill m a b)) :
    exec (.kill m a b) s = .next (s.advance ((c.zeroed (killRegs a b)).falsified (maskPreds m))) := operate_runs _ s _ c hr

theorem zeroed_eq (c : Cut) (rs : List Opnd) : ∃ vs os, c.zeroed rs = { c with ctx := { c.ctx with v := vs, o := os } } := by
  induction rs generalizing c with
  | nil => exact ⟨c.ctx.v, c.ctx.o, rfl⟩
  | cons r rs ih =>
    obtain ⟨vs, os, h⟩ := ih (c.setReg r (uVal 0))
    exact ⟨vs, os, h.trans (by rw [setReg_eq])⟩

theorem falsified_eq (c : Cut) (ps : List Nat) : ∃ qs, c.falsified ps = { c with ctx := { c.ctx with preds := qs } } := by
  induction ps generalizing c with
  | nil => exact ⟨c.ctx.preds, rfl⟩
  | cons p ps ih =>
    obtain ⟨qs, h⟩ := ih (c.setPred p (.uni false))
    exact ⟨qs, h.trans (by rw [setPred_frame])⟩

theorem zeroed_oldReg (c : Cut) (rs : List Opnd) (o : Opnd) : (c.zeroed rs).oldReg o = if o ∈ rs then uVal 0 else c.oldReg o := by
  induction rs generalizing c with
  | nil => rfl
  | cons r rs ih =>
    refine (ih (c.setReg r (uVal 0))).trans ?_
    by_cases ho : o = r
    · rw [ho, oldReg_setReg_zero, ite_self, if_pos (List.mem_cons_self ..)]
    · simp [oldReg_setReg_ne c r o _ ho, ho]

theorem falsified_pred (c : Cut) (ps : List Nat) (n : Nat) (h : n ≠ 0) :
    (c.falsified ps).pred n = if n ∈ ps then .uni false else c.pred n := by
  induction ps generalizing c with
  | nil => rfl
  | cons p ps ih =>
    refine (ih (c.setPred p (.uni false))).trans ?_
    by_cases hn : n = p
    · subst hn
      simp [pred_setPred_false c n h]
    · simp [pred_setPred_ne c _ p n (Ne.symm hn), hn]

theorem toNat_opnd {n : Nat} (h : n < 0x80) : (BitVec.ofNat 7 n).toNat = n := Nat.mod_eq_of_lt h

theorem mem_killRegs (a b o : Opnd) : o ∈ killRegs a b ↔ a ≠ 0x4A#7 ∧ a.toNat ≤ o.toNat ∧ o.toNat ≤ b.toNat := by
  unfold killRegs
  split
  · next hz => simp [hz]
  · next hz =>
    simp only [spanOf, List.mem_map, List.mem_range, ne_eq, hz, not_false_eq_true, true_and]
    constructor
    · rintro ⟨j, hj, rfl⟩
      have := b.isLt
      rw [toNat_opnd (by omega)]
      omega
    · rintro ⟨hlo, hhi⟩
      exact ⟨o.toNat - a.toNat, by omega, by rw [Nat.add_sub_cancel' hlo, BitVec.ofNat_toNat, BitVec.setWidth_eq]⟩

theorem mem_maskPreds (m : Opnd) (n : Nat) (hlo : 0 < n) (hhi : n < 8) : n ∈ maskPreds m ↔ m.toNat.testBit (n - 1) = true := by
  simp only [maskPreds, List.mem_filterMap, List.mem_range, Option.ite_none_right_eq_some, Option.some.injEq]
  constructor
  · rintro ⟨j, -, hbit, rfl⟩
    exact hbit
  · exact fun hbit => ⟨n - 1, by omega, hbit, by omega⟩

theorem zeroed_v (c : Cut) (rs : List Opnd) (n : Nat) (hn : n < 0x40) : (c.zeroed rs).ctx.v.getD n (uVal 0)
    = if BitVec.ofNat 7 n ∈ rs then uVal 0 else c.ctx.v.getD n (uVal 0) := by
  have hnum : (BitVec.ofNat 7 n).toNat = n := toNat_opnd (by omega)
  have h := zeroed_oldReg c rs (BitVec.ofNat 7 n)
  rwa [oldReg_of_v _ _ (by omega), oldReg_of_v _ _ (by omega), hnum] at h

theorem zeroed_o (c : Cut) (rs : List Opnd) (n : Nat) (hn : n < 8) : (c.zeroed rs).ctx.o.getD n (uVal 0)
    = if BitVec.ofNat 7 (n + 0x40) ∈ rs then uVal 0 else c.ctx.o.getD n (uVal 0) := by
  have hnum : (BitVec.ofNat 7 (n + 0x40)).toNat = n + 0x40 := toNat_opnd (by omega)
  have h := zeroed_oldReg c rs (BitVec.ofNat 7 (n + 0x40))
  rwa [oldReg_of_o _ _ (by omega) (by omega), oldReg_of_o _ _ (by omega) (by omega), hnum, Nat.add_sub_cancel] at h

/-! ### Operands that pop (R171, R220) -/

theorem firstUnready_eq_ready (qs : List QReady) : firstUnready qs = .ready ↔ ∀ q ∈ qs, q = .ready := by
  induction qs with
  | nil => simp [firstUnready]
  | cons q qs ih => cases q <;> simp [firstUnready, ih]

/-- An instruction that names `q` registers runs only where every end it needs is ready. -/
theorem queuesReady_of_runs (s : State) (c : Cut) (i : Instr) (hr : Runs s c i) (hq : (c.usesOf i).queues = true) :
    c.queuesReady s (c.usesOf i) = .ready := by
  obtain ⟨-, hgate⟩ := hr
  unfold gate at hgate
  simp only [hq, Bool.not_true, Bool.false_eq_true, if_false] at hgate
  split_ifs at hgate
  split at hgate
  · next hready => exact hready
  · cases hgate
  · cases hgate

theorem read_q (s : State) (c : Cut) (o : Opnd) (before : List Opnd) (hq : isQ o = true) :
    c.read s o before = (popValues s c (c.bindOf o)).getD (popsBefore c o before) (uVal 0) := by
  simp only [isQ, decide_eq_true_eq] at hq
  simp (disch := omega) only [Cut.read, if_neg, if_pos]

/-- What a chute or a stream gives is in L form. -/
theorem popValues_lanes (s : State) (c : Cut) (b : Option Binding) : ∀ x ∈ popValues s c b, ∃ xs, x = .lanes xs := by
  intro x hx
  unfold popValues at hx
  split at hx
  · split at hx
    · obtain ⟨xs, -, rfl⟩ := List.mem_map.mp hx
      exact ⟨xs, rfl⟩
    · cases hx
  · split at hx
    · obtain ⟨p, -, rfl⟩ := List.mem_map.mp hx
      exact ⟨_, rfl⟩
    · cases hx
  · cases hx

/-- An end that is ready has an entry for the pop. -/
theorem popsBefore_lt_of_popReady (s : State) (c : Cut) (o : Opnd) (before : List Opnd) (h : popReady s c o before = .ready) :
    popsBefore c o before < (popValues s c (c.bindOf o)).length := by
  unfold popReady at h
  unfold popValues
  dsimp only at h
  split at h
  · split at h
    · cases h
    · next hcrew =>
      split_ifs at h with hlt
      simpa [hcrew] using hlt
  · split at h
    · cases h
    · next hcrew =>
      split_ifs at h with hlt
      simpa [hcrew] using hlt
  · cases h

/-- A `q` source reads in L form wherever its instruction runs. -/
theorem read_q_of_runs (s : State) (c : Cut) (i : Instr) (o : Opnd) (rest : List Opnd) (hr : Runs s c i)
    (hsrcs : (c.usesOf i).srcs = o :: rest) (hq : isQ o = true) : ∃ xs, c.read s o [] = .lanes xs := by
  have hready := queuesReady_of_runs s c i hr (by simp [Uses.queues, hsrcs, hq])
  have hpop : popReady s c o [] = .ready := (firstUnready_eq_ready _).mp hready _ (by simp [hsrcs, popsReady, hq])
  have hlt := popsBefore_lt_of_popReady s c o [] hpop
  rw [read_q s c o [] hq, List.getD_eq_getElem _ _ hlt]
  exact popValues_lanes s c _ _ (List.getElem_mem hlt)

/-! ### PGET (R166) -/

theorem exec_pget (s : State) (c : Cut) (d a b : Opnd) (hr : Runs s c (.pget d a b)) :
    exec (.pget d a b) s = .next (s.write c [a] c.gov d (uVal (formPart (c.read s a []) (constOf b)))) := operate_runs _ s _ c hr

/-- A word whose selector, count or immediate is not one of its instruction's raises ILL (R75, R87). -/
theorem gate_of_not_selectors (s : State) (c : Cut) (i : Instr) (h : selectorsOk i = false) : gate s c i = some (s.ill c) :=
  gate_of_not_legal s c i (by simp [Cut.legal, staticOk, h])

theorem mem_pgetParts (b : Opnd) (h : constIn b 0 4 = true) : b ∈ [0x70#7, 0x71#7, 0x72#7, 0x73#7, 0x74#7] := by
  simp only [constIn, decide_eq_true_eq] at h
  simp only [List.mem_cons, List.not_mem_nil, or_false, ← BitVec.toNat_inj, BitVec.toNat_ofNat]
  omega

theorem formPart_pat_form (b : W64) (sx sy sz : W32) :
    formPart (.pat b sx sy sz) 4 = if sx = 0 ∧ sy = 0 ∧ sz = 0 then 0 else 1 := by
  simp [formPart, RegVal.isU, and_assoc]

theorem formPart_lanes (xs : List W64) (k : Nat) : formPart (.lanes xs) k = if k = 4 then 2 else 0 := by
  by_cases h : k = 4 <;> simp [formPart, h]

theorem constOf_eq_four (b : Opnd) : constOf b = 4 ↔ b = 0x74#7 := by
  rw [← BitVec.toNat_inj, constOf, BitVec.toNat_ofNat]
  omega

end Sys2Proof.Machine

namespace Sys2Proof
open Sys2Proof.Machine

/-- Settles O13: FORM leaves the merged values in their narrowest form, and KILL's writes are read back register by register. -/
theorem formAndKill : Obligations.FormAndKill := by
  unfold Obligations.FormAndKill
  refine ⟨fun s c d a hr hv ho => ?form, fun s c m a b hr => ?kill⟩
  case form =>
    intro x r
    refine ⟨exec_form_pattern s c d a hr, fun hl => ⟨c.formed d a x, exec_form_lane s c d a hr hl, ?frame, ?z, ?last, ?dst, ?vs, ?os⟩⟩
    case frame => rw [formed_eq]
    case z =>
      rintro rfl
      rw [formed_eq]
      exact ⟨rfl, rfl⟩
    case last =>
      intro hz
      have hres := isResult_of_ne_z hz
      rw [formed_eq]
      exact ⟨if_pos hres, _, if_pos hres, fun p hp => valAt_formLast c d x p hl hp⟩
    case dst =>
      intro hd
      have hval : r (c.formed d a x) = c.formValue d x := formed_oldReg c d a x hd hv ho
      rw [hval]
      exact ⟨fun p hp => valAt_formValue c d x p hl hp, formValue_isU c d x hl⟩
    case vs =>
      intro n hn
      rw [formed_eq]
      exact setReg_v_ne c d _ n hn
    case os =>
      intro n hn
      rw [formed_eq]
      exact setReg_o_ne c d _ n hn
  case kill =>
    obtain ⟨vs, os, hzeroed⟩ := zeroed_eq c (killRegs a b)
    obtain ⟨qs, hfalse⟩ := falsified_eq (c.zeroed (killRegs a b)) (maskPreds m)
    refine ⟨_, exec_kill s c m a b hr, ?frame, fun n _ hn => ?vs, fun n _ hn => ?os, fun n hlo hhi _ => ?preds⟩
    case frame => rw [hfalse, hzeroed]
    case vs =>
      have hz : a.toNat ≤ n → a ≠ 0x4A#7 := by
        rintro hle rfl
        exact absurd hle (Nat.not_le.mpr (Nat.lt_of_lt_of_le hn (by decide)))
      rw [hfalse]
      refine (zeroed_v c _ n hn).trans (if_congr ?_ rfl rfl)
      rw [mem_killRegs, toNat_opnd (by omega)]
      exact and_iff_right_of_imp fun h => hz h.1
    case os =>
      rw [hfalse]
      refine (zeroed_o c _ n hn).trans (if_congr ?_ rfl rfl)
      rw [mem_killRegs, toNat_opnd (by omega)]
    case preds =>
      refine (falsified_pred _ _ n (by omega)).trans ?_
      rw [if_congr (mem_maskPreds m n hlo hhi) rfl rfl, hzeroed]
      rfl

/-- Settles O14: a selector outside the table is not legal, and a `q` operand, which has an entry where the word runs, reads in L form. -/
theorem pgetDescribesForm : Obligations.PgetDescribesForm := by
  unfold Obligations.PgetDescribesForm
  refine fun s c d a b => ⟨fun hc hb => ?ill, fun hr => ⟨_, exec_pget s c d a b hr, fun x sx sy sz hx => ?pat, fun xs hx => ?lanes,
    read_q_of_runs s c _ a [] hr rfl⟩⟩
  case ill =>
    have hsel : selectorsOk (.pget d a b) = false := eq_false_of_ne_true fun h => hb (mem_pgetParts b h)
    exact operate_gate _ s _ c _ hc (gate_of_not_selectors s c _ hsel)
  case pat =>
    rw [hx]
    refine ⟨?_, ?_, ?_, ?_, ?_⟩ <;> rintro rfl
    · rfl
    · rfl
    · rfl
    · rfl
    · exact formPart_pat_form x sx sy sz
  case lanes =>
    rw [hx, formPart_lanes]
    exact if_congr (constOf_eq_four b) rfl rfl

end Sys2Proof

end

section
/-! # The canonical form is kept (O59; R190, R322)

A state is in canonical form when device memory and host memory are listed by rising addresses with no byte at what an unlisted address
reads as, and the control window by rising offsets. Few operations write one of the three: `State.setReg`, the writes at a home, the copies
of the checkpoint engine and the reset of the device. Every other operation is composed of these and of changes elsewhere in the state
(`Canonical.elsewhere`). So each operation of the model has one lemma here, `Canonical.<operation>`, whose proof follows the branches of the
operation's definition and names the operations that each branch applies; each instruction and event has `exec<Name>_canonical`. They stand
in the order of the definitions, and `step_canonical` puts them together. -/

namespace Sys2Proof.Machine

variable {s t : State}

/-- A change elsewhere than in the memories and the control window keeps the canonical form. -/
theorem Canonical.elsewhere (h : Canonical s) (ht : (t.mem, t.host, t.win) = (s.mem, s.host, s.win)) : Canonical t := by
  obtain ⟨hmem, hhost, hwin⟩ : t.mem = s.mem ∧ t.host = s.host ∧ t.win = s.win := by simpa using ht
  exact canonical_of_eq s t hmem hhost hwin h

theorem Canonical.ite {p : Prop} [Decidable p] (hs : Canonical s) (ht : Canonical t) : Canonical (if p then s else t) := by
  split
  · exact hs
  · exact ht

theorem Canonical.foldl {α : Type} {f : State → α → State} {xs : List α} (h : Canonical s)
    (hf : ∀ {t x}, Canonical t → Canonical (f t x)) : Canonical (xs.foldl f s) := foldl_canonical f (fun _ _ => hf) xs s h

/-- A state that an operation may come to is in canonical form. -/
def IfSomeCanonical (o : Option State) : Prop := ∀ t, o = some t → Canonical t

theorem Canonical.ifSome (h : Canonical s) : IfSomeCanonical (some s) := by
  rintro _ ⟨⟩
  exact h

theorem IfSomeCanonical.none : IfSomeCanonical none := nofun

theorem IfSomeCanonical.ite {p : Prop} [Decidable p] {o q : Option State} (ho : IfSomeCanonical o) (hq : IfSomeCanonical q) :
    IfSomeCanonical (if p then o else q) := by
  split
  · exact ho
  · exact hq

/-- The next state of an outcome, where it has one, is in canonical form. -/
def NextCanonical (o : Host.Outcome State Fault Refusal) : Prop := ∀ t, o = .next t → Canonical t

theorem Canonical.next (h : Canonical s) : NextCanonical (.next s) := by
  rintro _ ⟨⟩
  exact h

theorem NextCanonical.fault {f : Fault} : NextCanonical (.fault f) := nofun

/-! ### Registers and memory (R190, R322) -/

theorem Canonical.setReg (h : Canonical s) {off : Nat} {v : W64} : Canonical (s.setReg off v) := setReg_canonical s off v h

theorem Canonical.setField (h : Canonical s) {off lo len v : Nat} : Canonical (s.setField off lo len v) := h.setReg

theorem Canonical.countUp (h : Canonical s) {off lo len n : Nat} : Canonical (s.countUp off lo len n) := h.setField

theorem Canonical.plainWrite (h : Canonical s) {off : Nat} {v : W64} : Canonical (s.plainWrite off v) := h.setReg

theorem Canonical.send (h : Canonical s) {part : Nat} {m : FabMsg} : Canonical (s.send part m) := .ite h h

theorem Canonical.fillView (h : Canonical s) {p : Nat} : Canonical (s.fillView p) := by
  unfold State.fillView
  split
  · exact h
  · exact .ite h h

theorem Canonical.writeBack (h : Canonical s) {sec : Nat} : Canonical (s.writeBack sec) := h

theorem Canonical.devWrite (h : Canonical s) {base : Nat} {bs : List (Nat × Byte)} : Canonical (s.devWrite base bs) := devWrite_canonical s base bs h

theorem Canonical.devPut (h : Canonical s) {p : Nat} {bs : List Byte} : Canonical (s.devPut p bs) := h.devWrite

theorem Canonical.l1Fill (h : Canonical s) {b p : Nat} : Canonical (s.l1Fill b p) := .ite h h

theorem Canonical.l1Update (h : Canonical s) {b base : Nat} {bs : List (Nat × Byte)} : Canonical (s.l1Update b base bs) := h

theorem Canonical.dropLines (h : Canonical s) {hit : Nat → Nat → Bool} : Canonical (s.dropLines hit) := h

theorem Canonical.l1Flash (h : Canonical s) {b : Nat} : Canonical (s.l1Flash b) := h

theorem Canonical.freshFor (h : Canonical s) {old new : Nat} : Canonical (s.freshFor old new) := .ite h h.l1Flash

theorem Canonical.l1Evict (h : Canonical s) {b p : Nat} : Canonical (s.l1Evict b p) := h.dropLines

theorem Canonical.dropTiles (h : Canonical s) {b p : Nat} : Canonical (s.dropTiles b p) := h

theorem Canonical.readFlaw (h : Canonical s) {p : Nat} : Canonical (s.readFlaw p) := readFlaw_canonical s p h

theorem Canonical.readAll (h : Canonical s) {l : Loc} {n : Nat} : Canonical (s.readAll l n) := readAll_canonical s l n h

/-! ### Translation (R356 to R363) -/

theorem Canonical.walkError (h : Canonical s) {reason asid obj : Nat} : Canonical (s.walkError reason asid obj) := h.setReg

theorem Canonical.xlatted (h : Canonical s) {u : TlbUnit} {asid : Nat} {ptr : W64} : Canonical (s.xlatted u asid ptr) :=
  xlatted_canonical s u asid ptr h

theorem Canonical.readPtr (h : Canonical s) {u : TlbUnit} {asid : Nat} {ptr : W64} {n : Nat} : Canonical (s.readPtr u asid ptr n) := by
  unfold State.readPtr
  split
  · exact h.readAll
  · exact h

/-! ### Cuts, launches and crews -/

theorem Canonical.putCut (h : Canonical s) {c : Cut} : Canonical (s.putCut c) := h

theorem Canonical.dropCut (h : Canonical s) {uid : Nat} : Canonical (s.dropCut uid) := h

theorem Canonical.putLaunch (h : Canonical s) {l : Launch} : Canonical (s.putLaunch l) := h

theorem Canonical.putCrew (h : Canonical s) {c : Crew} : Canonical (s.putCrew c) := h

theorem Canonical.retired (h : Canonical s) {c : Cut} : Canonical (s.retired c) := h.putCut

theorem Canonical.advance (h : Canonical s) {c : Cut} : Canonical (s.advance c) := h.retired

theorem Canonical.hold (h : Canonical s) {c : Cut} {w : Wait} : Canonical (s.hold c w) := h.putCut

theorem Canonical.settleFences (h : Canonical s) {c : Cut} : Canonical (s.settleFences c) := .ite h.putCut.l1Flash h.putCut

theorem Canonical.settleBench (h : Canonical s) {b : Nat} : Canonical (s.settleBench b) := h.foldl (·.settleFences)

theorem Canonical.endCrew (h : Canonical s) {k : Crew} : Canonical (s.endCrew k) := (h.elsewhere (by rfl)).putLaunch

theorem Canonical.settleCrew (h : Canonical s) {key : Nat} : Canonical (s.settleCrew key) := by
  unfold State.settleCrew
  split
  · exact h
  · split
    · exact h.endCrew
    · exact .ite h h.putCrew

theorem Canonical.settleConds (h : Canonical s) : Canonical s.settleConds := h.foldl (·.settleCrew)

theorem Canonical.leftCrew (h : Canonical s) {c : Cut} {key : Nat} : Canonical (s.leftCrew c key) := ((h.elsewhere (by rfl)).ite h).settleCrew

theorem Canonical.settleCrewOf (h : Canonical s) {c : Cut} : Canonical (s.settleCrewOf c) := by
  unfold State.settleCrewOf
  split
  · exact h
  · exact h.leftCrew

/-! ### Faults, traps and stops (R336 to R344) -/

theorem Canonical.faultRecord (h : Canonical s) {asid : Nat} {e : FaultEntry} : Canonical (s.faultRecord asid e) := by
  dsimp only [State.faultRecord]
  split
  · exact h.devPut
  · exact h.devPut.ite h.devPut.devPut

theorem Canonical.lateRecord (h : Canonical s) {l : Launch} {cutid : W64} {f : LateFault} : Canonical (s.lateRecord l cutid f) := h.faultRecord

theorem Canonical.holdLate (h : Canonical s) {lid : Nat} {cutid : W64} {f : LateFault} : Canonical (s.holdLate lid cutid f) := by
  unfold State.holdLate
  split
  · exact h.putCut
  · exact h.lateRecord

theorem Canonical.ackMill (h : Canonical s) {c : Cut} : Canonical (s.ackMill c) := h.ite h

theorem Canonical.lived (h : Canonical s) {c : Cut} : Canonical (s.lived c) := by
  unfold State.lived
  split
  · exact h.putLaunch
  · exact h

theorem Canonical.endCut (h : Canonical s) {c : Cut} : Canonical (s.endCut c) :=
  (h.settleFences.lived.dropCut.foldl (·.lateRecord)).settleCrewOf.ackMill

theorem Canonical.settleSlaves (h : Canonical s) : Canonical s.settleSlaves := h

theorem Canonical.dropLoomWork (h : Canonical s) {which : LoomOp → Bool} : Canonical (s.dropLoomWork which) := (h.elsewhere (by rfl)).settleSlaves

theorem Canonical.dropClaims (h : Canonical s) {which : Nat × Nat → Bool} : Canonical (s.dropClaims which) := (h.elsewhere (by rfl)).settleSlaves

theorem Canonical.endLaunch (h : Canonical s) {c : Cut} {kind : Nat} {e : TrapPend} : Canonical (s.endLaunch c kind e) := by
  unfold State.endLaunch
  extract_lets l first reported left idle gone
  have hgone : Canonical gone := ((h.faultRecord.ite h).foldl (·.endCut)).dropLoomWork.foldl (·.endCrew)
  exact hgone.putLaunch.ite hgone

theorem Canonical.enterTrap (h : Canonical s) {c : Cut} {e : TrapPend} : Canonical (s.enterTrap c e) := h.endLaunch.ite (h.endLaunch.ite h.putCut)

theorem Canonical.raisePend (h : Canonical s) {c : Cut} {e : TrapPend} : Canonical (s.raisePend c e) := h.enterTrap.ite h.putCut

theorem Canonical.materialize (h : Canonical s) {c : Cut} : Canonical (s.materialize c) := h.hold.ite h

theorem Canonical.splitBoxes (h : Canonical s) {c : Cut} {b1 b2 : Box} {go1 go2 : Cut → Cut} : Canonical (s.splitBoxes c b1 b2 go1 go2) :=
  (h.elsewhere (by rfl)).retired.retired

theorem Canonical.leave (h : Canonical s) {c : Cut} {m : W32} {go : Cut → Cut} : Canonical (s.leave c m go) := by
  unfold State.leave
  split
  · exact h
  · exact h.foldl id

theorem Canonical.splitLanes (h : Canonical s) {c : Cut} {keep : W32} {goKeep : Cut → Cut} {groups : List (W32 × (Cut → Cut))}
    : Canonical (s.splitLanes c keep goKeep groups) := h.retired.ite ((h.elsewhere (by rfl)).foldl (·.leave)).retired

theorem Canonical.replaceCuts (h : Canonical s) {old : List Cut} {new : Cut} : Canonical (s.replaceCuts old new) := h

theorem Canonical.exitLanes (h : Canonical s) {c : Cut} {m : W32} : Canonical (s.exitLanes c m) := by
  unfold State.exitLanes
  extract_lets left ils gone told k
  have htold : Canonical told := h.foldl (·.lateRecord)
  exact htold.endCut.ite htold.retired.settleCrewOf

theorem Canonical.exitBox (h : Canonical s) {c : Cut} {rest : Box} : Canonical (s.exitBox c rest) :=
  ((h.foldl (·.lateRecord)).elsewhere (by rfl)).retired.settleCrewOf

theorem Canonical.putSec (h : Canonical s) {c : Cut} {x : Section} {mem : List Host.Cell} : Canonical (s.putSec c x mem) := h

theorem Canonical.discard (h : Canonical s) {c : Cut} {upd : Section → Section} : Canonical (s.discard c upd) := by
  dsimp only [State.discard]
  split
  · exact (h.elsewhere (by rfl)).putSec
  · exact (h.elsewhere (by rfl)).putSec.ite h

theorem Canonical.returnTrap (h : Canonical s) {c : Cut} {cause : Nat} : Canonical (s.returnTrap c cause) := h.discard

theorem Canonical.millIll (h : Canonical s) {c : Cut} {e : TrapPend} : Canonical (s.millIll c e) := h.setReg.faultRecord.discard.foldl (·.endCut)

theorem Canonical.stop (h : Canonical s) {c : Cut} {e : TrapPend} : Canonical (s.stop c e) := (h.millIll.ite h.returnTrap).ite h.raisePend

theorem Canonical.ill (h : Canonical s) {c : Cut} : Canonical (s.ill c) := h.stop

theorem Canonical.raiseAll (h : Canonical s) {c : Cut} {cause : Nat} {addr : W64} : Canonical (s.raiseAll c cause addr) := h.stop

theorem Canonical.lanesOnly (h : Canonical s) {c : Cut} : Canonical (s.lanesOnly c) := h.ill.ite h.materialize

theorem Canonical.raiseAt (h : Canonical s) {c : Cut} {causes : Nat} {addr : W64} {lanes : List Nat}
    : Canonical (s.raiseAt c causes addr lanes) := (h.raiseAll.ite h.lanesOnly).ite h.stop

theorem Canonical.stopUnit (h : Canonical s) {slot unit : Nat} : Canonical (s.stopUnit slot unit) := by
  dsimp only [State.stopUnit]
  split
  · exact h
  · split
    · exact (h.elsewhere (by rfl)).discard
    · exact h

theorem Canonical.trigger (h : Canonical s) {slot cause index unit : Nat} : Canonical (s.trigger slot cause index unit) :=
  h.ite (h.setReg.ite (h.setReg.elsewhere (by rfl))).stopUnit

theorem Canonical.triggerAt (h : Canonical s) {c : Cut} {slot cause index : Nat} : Canonical (s.triggerAt c slot cause index) := h.putCut.trigger

/-! ### Running and completing an instruction -/

theorem Canonical.popQ (h : Canonical s) {c : Cut} {o : Opnd} : Canonical (s.popQ c o) := by
  unfold State.popQ
  split
  · split
    · split
      · exact h.putCrew
      · split
        · exact h
        · exact h
    · exact h
  · split
    · split
      · exact h.putCrew.l1Flash.ite h.putCrew
      · exact h
    · exact h
  · exact h

theorem Canonical.pushQ (h : Canonical s) {c : Cut} {d : Opnd} {e : List W64} {pc : W64} : Canonical (s.pushQ c d e pc) := by
  unfold State.pushQ
  split
  · split
    · exact h
    · split
      · exact h.holdLate.ite h.putCrew
      · exact h.holdLate
  · exact h

theorem Canonical.popAll (h : Canonical s) {c : Cut} {srcs : List Opnd} : Canonical (s.popAll c srcs) := h.foldl (·.popQ)

theorem Canonical.complete (h : Canonical s) {c : Cut} {srcs : List Opnd} {k : Cut} : Canonical (s.complete c srcs k) := h.popAll.advance

theorem Canonical.write (h : Canonical s) {c : Cut} {srcs : List Opnd} {g : Gov} {d : Opnd} {v : RegVal} : Canonical (s.write c srcs g d v) :=
  h.lanesOnly.ite (h.popAll.pushQ.ite h.popAll).advance

theorem Canonical.writePred (h : Canonical s) {c : Cut} {srcs : List Opnd} {d : Nat} {p : Option PredVal} : Canonical (s.writePred c srcs d p)
    := by
  unfold State.writePred
  split
  · exact h.popAll.advance
  · exact h.lanesOnly

theorem Canonical.fetchStops (h : Canonical s) {c : Cut} {cause : Nat} : Canonical (s.fetchStops c cause) := h.raiseAll

theorem Canonical.writeRounded (h : Canonical s) {c : Cut} {srcs : List Opnd} {d : Opnd} {r : Rounded} : Canonical (s.writeRounded c srcs d r)
    := h.lanesOnly.ite h.write

theorem Canonical.await (h : Canonical s) {c : Cut} {srcs : List Opnd} {g : Gov} {o : Outst} : Canonical (s.await c srcs g o) :=
  (h.popAll.elsewhere (by rfl)).advance

theorem Canonical.writeLong (h : Canonical s) {c : Cut} {srcs : List Opnd} {d : Opnd} {la : Nat} {v : RegVal} {second : Option RegVal}
    {fls : List Nat} : Canonical (s.writeLong c srcs d la v second fls) := h.lanesOnly.ite (h.complete.ite h.await)

/-- What stops an instruction before its own meaning keeps the canonical form. -/
theorem gate_canonical (h : Canonical s) {c : Cut} {i : Instr} : IfSomeCanonical (gate s c i) := by
  dsimp only [gate]
  refine .ite h.ill.ifSome (.ite h.returnTrap.ifSome (.ite h.hold.ifSome (.ite h.ill.ifSome (.ite h.hold.ifSome
    (.ite h.ill.ifSome (.ite h.lanesOnly.ifSome (.ite .none (.ite h.hold.ifSome ?_))))))))
  split
  · exact .none
  · exact h.hold.ifSome
  · exact h.raiseAll.ifSome

theorem operate_canonical (h : Canonical s) {i : Instr} {body : Cut → State} (hbody : ∀ {c}, Canonical (body c)) :
    NextCanonical (operate i s body) := by
  rcases operate_cases i s body with ⟨-, hr⟩ | ⟨c, -, ⟨u, hg, hr⟩ | ⟨-, hr⟩⟩
  · rw [hr]
    exact .fault
  · rw [hr]
    exact (gate_canonical h u hg).next
  · rw [hr]
    exact hbody.next

/-! ### Mill sections (R270 to R277) -/

theorem Canonical.putAssay (h : Canonical s) {a : Assay} : Canonical (s.putAssay a) := h

theorem Canonical.askFlush (h : Canonical s) {c : Cut} : Canonical (s.askFlush c) := (h.ite h.putAssay).hold

theorem Canonical.offer (h : Canonical s) {c : Cut} : Canonical (s.offer c) := h.putAssay.putCut.putSec

theorem Canonical.flushTouch (h : Canonical s) {y : Section} {sec : Nat} : Canonical (s.flushTouch y sec) := h.writeBack.ite h

theorem Canonical.millError (h : Canonical s) {p : Nat} : Canonical (s.millError p) := h.setReg.countUp.setReg

/-! ### Control (R89 to R108, R173 to R175) -/

theorem Canonical.branch (h : Canonical s) {c : Cut} {srcs : List Opnd} {t : W64} {reg link : Bool} {cond : Nat → Bool}
    : Canonical (s.branch c srcs t reg link cond) :=
  h.complete.ite (h.raiseAt.ite (h.popAll.retired.ite (.ite (h.splitBoxes.ite h.lanesOnly) h.popAll.splitLanes)))

theorem Canonical.branchLanes (h : Canonical s) {c : Cut} {srcs : List Opnd} {v : RegVal} {link : Bool}
    : Canonical (s.branchLanes c srcs v link) := by
  dsimp only [State.branchLanes]
  refine h.raiseAt.ite (h.popAll.splitLanes.ite ?_)
  split
  · exact h.complete
  · exact h.popAll.splitLanes

theorem Canonical.branchReg (h : Canonical s) {c : Cut} {a : Opnd} {link : Bool} : Canonical (s.branchReg c a link) :=
  h.branchLanes.ite (h.branch.ite h.lanesOnly)

theorem Canonical.exitSection (h : Canonical s) {c : Cut} : Canonical (s.exitSection c) := h.offer.ite (h.endCut.ite h.hold)

theorem Canonical.openLoop (h : Canonical s) {c : Cut} {srcs : List Opnd} {body : Nat} {n : Int} : Canonical (s.openLoop c srcs body n) :=
  h.ill.ite (h.popAll.retired.ite (h.raiseAll.ite h.popAll.retired))

theorem Canonical.seamTest (h : Canonical s) {c : Cut} : Canonical (s.seamTest c) := h.hold.ite h.retired

theorem Canonical.seamGroupOn (h : Canonical s) {g : List Cut} : Canonical (s.seamGroupOn g) := by
  dsimp only [State.seamGroupOn]
  split
  · exact (h.foldl (·.freshFor)).replaceCuts.retired
  · exact h.foldl (·.retired)

theorem Canonical.seamEnd (h : Canonical s) {lid : Nat} {pc : W64} : Canonical (s.seamEnd lid pc) := h.foldl (·.seamGroupOn)

/-! ### Arithmetic (R109 to R119, R147 to R158) -/

theorem Canonical.float1 (h : Canonical s) {c : Cut} {d a : Opnd} {f : Rnd → W64 → W64 × Nat} : Canonical (s.float1 c d a f) := h.writeRounded

theorem Canonical.float2 (h : Canonical s) {c : Cut} {d a b : Opnd} {f : Rnd → W64 → W64 → W64 × Nat} : Canonical (s.float2 c d a b f) :=
  h.writeRounded

theorem Canonical.float3 (h : Canonical s) {c : Cut} {d a b e : Opnd} {f : Rnd → W64 → W64 → W64 → W64 × Nat}
    : Canonical (s.float3 c d a b e f) := h.writeRounded

theorem Canonical.bits1 (h : Canonical s) {c : Cut} {d a : Opnd} {f : W64 → W64} : Canonical (s.bits1 c d a f) := h.write

theorem Canonical.special1 (h : Canonical s) {c : Cut} {la : Nat} {d a : Opnd} {f : Exact → Exact × Nat} : Canonical (s.special1 c la d a f)
    := h.writeLong

theorem Canonical.int1 (h : Canonical s) {c : Cut} {d a : Opnd} {f : W64 → W64} : Canonical (s.int1 c d a f) := h.write

theorem Canonical.int2 (h : Canonical s) {c : Cut} {d a b : Opnd} {f : W64 → W64 → W64} : Canonical (s.int2 c d a b f) := h.write

theorem Canonical.affine2 (h : Canonical s) {c : Cut} {d a b : Opnd} {f : W64 → W64 → W64} {aff : RegVal → RegVal → Option RegVal}
    : Canonical (s.affine2 c d a b f aff) := h.write

theorem Canonical.affine1 (h : Canonical s) {c : Cut} {d a : Opnd} {f : W64 → W64} {aff : RegVal → Option RegVal}
    : Canonical (s.affine1 c d a f aff) := h.write

theorem Canonical.divide (h : Canonical s) {c : Cut} {signed : Bool} {la : Nat} {d a b : Opnd} : Canonical (s.divide c signed la d a b) := h.writeLong

theorem Canonical.int3 (h : Canonical s) {c : Cut} {d a b e : Opnd} {f : W64 → W64 → W64 → W64} : Canonical (s.int3 c d a b e f) := h.write

theorem Canonical.wf_host (h : Canonical s) : Memory.wf s.host = true := by
  obtain ⟨-, hhost, -⟩ := h
  exact hhost

theorem Canonical.withHost (h : Canonical s) {m : List Host.Cell} (hm : Memory.wf m = true) : Canonical { s with host := m } := by
  obtain ⟨hmem, -, hwin⟩ := h
  exact ⟨hmem, hm, hwin⟩

/-- A list of updates that carry something beside the state. -/
theorem foldl_fst_canonical {α β : Type} {f : State × β → α → State × β} {xs : List α} {p : State × β} (hp : Canonical p.1)
    (hf : ∀ {q x}, Canonical q.1 → Canonical (f q x).1) : Canonical (xs.foldl f p).1 := by
  induction xs generalizing p with
  | nil => exact hp
  | cons x xs ih => exact ih (hf hp)

/-! ### Control (R89 to R108, R173 to R175) -/

theorem execBr_canonical (h : Canonical s) {x : BitVec 1} {p : BitVec 3} {o : BitVec 21} : NextCanonical (execBr x p o s) :=
  operate_canonical h h.branch

theorem execJmp_canonical (h : Canonical s) {o : BitVec 21} : NextCanonical (execJmp o s) := operate_canonical h h.branch

theorem execCall_canonical (h : Canonical s) {o : BitVec 21} : NextCanonical (execCall o s) := operate_canonical h (h.ill.ite h.branch)

theorem execJmpr_canonical (h : Canonical s) {a : Opnd} : NextCanonical (execJmpr a s) := operate_canonical h h.branchReg

theorem execCallr_canonical (h : Canonical s) {a : Opnd} : NextCanonical (execCallr a s) := operate_canonical h (h.ill.ite h.branchReg)

theorem execRet_canonical (h : Canonical s) : NextCanonical (execRet s) := operate_canonical h h.branchReg

theorem execNop_canonical (h : Canonical s) : NextCanonical (execNop s) := operate_canonical h h.advance

theorem execYield_canonical (h : Canonical s) : NextCanonical (execYield s) := operate_canonical h (h.retired.ite h.retired)

theorem execYieldExpiry_canonical (h : Canonical s) {uid : Nat} : NextCanonical (execYieldExpiry uid s) := by
  refine Canonical.next ?_
  split
  · split
    · exact h.hold.ite h
    · exact h
  · exact h

theorem execExit_canonical (h : Canonical s) : NextCanonical (execExit s) :=
  operate_canonical h (h.hold.ite (h.advance.ite (.ite (h.endCut.ite (h.exitBox.ite h.lanesOnly)) (h.exitSection.ite h.exitLanes))))

theorem execTfence_canonical (h : Canonical s) : NextCanonical (execTfence s) := operate_canonical h (h.hold.ite (h.stop.ite h.advance))

theorem execHaltd_canonical (h : Canonical s) : NextCanonical (execHaltd s) := by
  refine operate_canonical h ?_
  intro c
  split
  · exact h.triggerAt
  · exact h.advance

theorem execBkpt_canonical (h : Canonical s) : NextCanonical (execBkpt s) := operate_canonical h h.stop

theorem execTrap_canonical (h : Canonical s) {i : BitVec 18} : NextCanonical (execTrap i s) :=
  operate_canonical h (h.advance.ite (h.stop.ite (h.stop.ite h.lanesOnly)))

theorem execMode_canonical (h : Canonical s) {a : Opnd} : NextCanonical (execMode a s) := by
  refine operate_canonical h (h.complete.ite (h.raiseAll.ite ?_))
  split
  · exact h.complete.ite h.raiseAll
  · exact h.raiseAll

theorem execModei_canonical (h : Canonical s) {i : BitVec 18} : NextCanonical (execModei i s) := operate_canonical h (h.advance.ite h.raiseAll)

theorem execLoop_canonical (h : Canonical s) {e : Opnd} {n : BitVec 14} : NextCanonical (execLoop e n s) := by
  refine operate_canonical h ?_
  intro c
  split
  · exact h.openLoop
  · exact h.ill

theorem execLoopi_canonical (h : Canonical s) {i : BitVec 11} {n : BitVec 14} : NextCanonical (execLoopi i n s) := operate_canonical h h.openLoop

theorem execLbrk_canonical (h : Canonical s) : NextCanonical (execLbrk s) := by
  refine operate_canonical h ?_
  intro c
  split
  · exact h.ill
  · split
    · exact h.retired
    · exact h.retired

theorem execSeam_canonical (h : Canonical s) : NextCanonical (execSeam s) := operate_canonical h (h.hold.ite (h.hold.ite h.seamTest))

theorem execRejoin_canonical (h : Canonical s) {uid : Nat} : NextCanonical (execRejoin uid s) := by
  refine Canonical.next ?_
  split
  · exact h
  · refine h.ite (h.foldl ?_)
    intro u parts hu
    split
    · exact hu.foldl (·.retired)
    · exact hu.replaceCuts.seamTest.ite hu.replaceCuts.retired

theorem execSeamWaitLimit_canonical (h : Canonical s) {lid : Nat} {pc : W64} : NextCanonical (execSeamWaitLimit lid pc s) := by
  refine Canonical.next ?_
  split
  · exact h.seamEnd.ite h
  · exact h

theorem execSeamWaitEnd_canonical (h : Canonical s) {lid : Nat} {pc : W64} : NextCanonical (execSeamWaitEnd lid pc s) := (h.seamEnd.ite h).next

theorem execIllegalInstruction_canonical (h : Canonical s) {word : W32} : NextCanonical (execIllegalInstruction word s) := by
  unfold execIllegalInstruction
  split
  · exact .fault
  · exact (h.ite h.ill).next

/-! ### Predicates and forms (R101 to R104, R163 to R169) -/

theorem Canonical.predOp (h : Canonical s) {c : Cut} {d : BitVec 3} {ins : List (BitVec 3)} {f : Item → Nat → Bool}
    : Canonical (s.predOp c d ins f) := h.writePred

theorem Canonical.compare (h : Canonical s) {c : Cut} {srcs : List Opnd} {d : Nat} {x y : RegVal} {g : W64 → W64 → Compared}
    : Canonical (s.compare c srcs d x y g) := by
  dsimp only [State.compare]
  split
  · exact h.lanesOnly
  · exact h.writePred

theorem execPand_canonical (h : Canonical s) {d : BitVec 3} {t : BitVec 1} {a : BitVec 3} {u : BitVec 1} {b : BitVec 3}
    : NextCanonical (execPand d t a u b s) := operate_canonical h h.predOp

theorem execPor_canonical (h : Canonical s) {d : BitVec 3} {t : BitVec 1} {a : BitVec 3} {u : BitVec 1} {b : BitVec 3}
    : NextCanonical (execPor d t a u b s) := operate_canonical h h.predOp

theorem execPxor_canonical (h : Canonical s) {d : BitVec 3} {t : BitVec 1} {a : BitVec 3} {u : BitVec 1} {b : BitVec 3}
    : NextCanonical (execPxor d t a u b s) := operate_canonical h h.predOp

theorem execPandn_canonical (h : Canonical s) {d : BitVec 3} {t : BitVec 1} {a : BitVec 3} {u : BitVec 1} {b : BitVec 3}
    : NextCanonical (execPandn d t a u b s) := operate_canonical h h.predOp

theorem execPnot_canonical (h : Canonical s) {d : BitVec 3} {t : BitVec 1} {a : BitVec 3} : NextCanonical (execPnot d t a s) :=
  operate_canonical h h.predOp

theorem execPmov_canonical (h : Canonical s) {d : BitVec 3} {t : BitVec 1} {a : BitVec 3} : NextCanonical (execPmov d t a s) :=
  operate_canonical h h.predOp

theorem execPany_canonical (h : Canonical s) {d : BitVec 3} {t : BitVec 1} {a : BitVec 3} : NextCanonical (execPany d t a s) :=
  operate_canonical h h.writePred

theorem execPall_canonical (h : Canonical s) {d : BitVec 3} {t : BitVec 1} {a : BitVec 3} : NextCanonical (execPall d t a s) :=
  operate_canonical h h.writePred

theorem execPcnt_canonical (h : Canonical s) {d : Opnd} {t : BitVec 1} {a : BitVec 3} : NextCanonical (execPcnt d t a s) :=
  operate_canonical h h.write

theorem execPmask_canonical (h : Canonical s) {d : Opnd} {t : BitVec 1} {a : BitVec 3} : NextCanonical (execPmask d t a s) :=
  operate_canonical h h.write

theorem execPfrom_canonical (h : Canonical s) {d : BitVec 3} {a : Opnd} : NextCanonical (execPfrom d a s) := operate_canonical h h.writePred

theorem execCmp_canonical (h : Canonical s) {k : BitVec 4} {d : BitVec 3} {a b : Opnd} : NextCanonical (execCmp k d a b s) :=
  operate_canonical h h.compare

theorem execCmpi_canonical (h : Canonical s) {k : BitVec 4} {d : BitVec 3} {a : Opnd} {i : BitVec 11} : NextCanonical (execCmpi k d a i s) :=
  operate_canonical h h.compare

theorem execForm_canonical (h : Canonical s) {d a : Opnd} : NextCanonical (execForm d a s) :=
  operate_canonical h (h.write.ite (h.popAll.pushQ.ite h.popAll).advance)

theorem execMatl_canonical (h : Canonical s) {d a : Opnd} : NextCanonical (execMatl d a s) := operate_canonical h h.write

theorem execPget_canonical (h : Canonical s) {d a b : Opnd} : NextCanonical (execPget d a b s) := operate_canonical h h.write

theorem execPmake_canonical (h : Canonical s) {k : BitVec 2} {d : BitVec 3} {a b : Opnd} : NextCanonical (execPmake k d a b s) :=
  operate_canonical h h.writePred

theorem execKill_canonical (h : Canonical s) {m a b : Opnd} : NextCanonical (execKill m a b s) := operate_canonical h h.advance

theorem execCutid_canonical (h : Canonical s) {d : Opnd} : NextCanonical (execCutid d s) := operate_canonical h h.write

theorem execParid_canonical (h : Canonical s) {d : Opnd} : NextCanonical (execParid d s) := operate_canonical h h.write

theorem execCutbox_canonical (h : Canonical s) {d b : Opnd} : NextCanonical (execCutbox d b s) := operate_canonical h h.write

/-! ### Floating point (R147 to R158) -/

theorem execFadd_canonical (h : Canonical s) {d a b : Opnd} : NextCanonical (execFadd d a b s) := operate_canonical h h.float2

theorem execFsub_canonical (h : Canonical s) {d a b : Opnd} : NextCanonical (execFsub d a b s) := operate_canonical h h.float2

theorem execFmul_canonical (h : Canonical s) {d a b : Opnd} : NextCanonical (execFmul d a b s) := operate_canonical h h.float2

theorem execFmin_canonical (h : Canonical s) {d a b : Opnd} : NextCanonical (execFmin d a b s) := operate_canonical h h.float2

theorem execFmax_canonical (h : Canonical s) {d a b : Opnd} : NextCanonical (execFmax d a b s) := operate_canonical h h.float2

theorem execFminn_canonical (h : Canonical s) {d a b : Opnd} : NextCanonical (execFminn d a b s) := operate_canonical h h.float2

theorem execFmaxn_canonical (h : Canonical s) {d a b : Opnd} : NextCanonical (execFmaxn d a b s) := operate_canonical h h.float2

theorem execFabs_canonical (h : Canonical s) {d a : Opnd} : NextCanonical (execFabs d a s) := operate_canonical h h.bits1

theorem execFneg_canonical (h : Canonical s) {d a : Opnd} : NextCanonical (execFneg d a s) := operate_canonical h h.bits1

theorem execFcpsgn_canonical (h : Canonical s) {d a b : Opnd} : NextCanonical (execFcpsgn d a b s) := operate_canonical h h.write

theorem execFclass_canonical (h : Canonical s) {d a : Opnd} : NextCanonical (execFclass d a s) := operate_canonical h h.bits1

theorem execFrnd_canonical (h : Canonical s) {d a : Opnd} : NextCanonical (execFrnd d a s) := operate_canonical h h.float1

theorem execFfrac_canonical (h : Canonical s) {d a : Opnd} : NextCanonical (execFfrac d a s) := operate_canonical h h.float1

theorem execFscale_canonical (h : Canonical s) {d a b : Opnd} : NextCanonical (execFscale d a b s) := operate_canonical h h.float2

theorem execFexpo_canonical (h : Canonical s) {d a : Opnd} : NextCanonical (execFexpo d a s) := operate_canonical h h.float1

theorem execTwosum_canonical (h : Canonical s) {d a b : Opnd} : NextCanonical (execTwosum d a b s) :=
  operate_canonical h (h.lanesOnly.ite h.writeRounded)

theorem execFcvt_canonical (h : Canonical s) {t : BitVec 4} {d a : Opnd} : NextCanonical (execFcvt t d a s) := operate_canonical h h.float1

theorem execF2i_canonical (h : Canonical s) {d a : Opnd} : NextCanonical (execF2i d a s) := operate_canonical h h.float1

theorem execF2u_canonical (h : Canonical s) {d a : Opnd} : NextCanonical (execF2u d a s) := operate_canonical h h.float1

theorem execI2f_canonical (h : Canonical s) {d a : Opnd} : NextCanonical (execI2f d a s) := operate_canonical h h.float1

theorem execU2f_canonical (h : Canonical s) {d a : Opnd} : NextCanonical (execU2f d a s) := operate_canonical h h.float1

theorem execFrcp_canonical (h : Canonical s) {l : BitVec 4} {d a : Opnd} : NextCanonical (execFrcp l d a s) := operate_canonical h h.special1

theorem execFrsq_canonical (h : Canonical s) {l : BitVec 4} {d a : Opnd} : NextCanonical (execFrsq l d a s) := operate_canonical h h.special1

theorem execFsqrt_canonical (h : Canonical s) {l : BitVec 4} {d a : Opnd} : NextCanonical (execFsqrt l d a s) := operate_canonical h h.special1

theorem execFexp2_canonical (h : Canonical s) {l : BitVec 4} {d a : Opnd} : NextCanonical (execFexp2 l d a s) := operate_canonical h h.special1

theorem execFlog2_canonical (h : Canonical s) {l : BitVec 4} {d a : Opnd} : NextCanonical (execFlog2 l d a s) := operate_canonical h h.special1

theorem execFsin_canonical (h : Canonical s) {l : BitVec 4} {d a : Opnd} : NextCanonical (execFsin l d a s) := operate_canonical h h.special1

theorem execFcos_canonical (h : Canonical s) {l : BitVec 4} {d a : Opnd} : NextCanonical (execFcos l d a s) := operate_canonical h h.special1

theorem execFdiv_canonical (h : Canonical s) {l : BitVec 4} {d a b : Opnd} : NextCanonical (execFdiv l d a b s) := operate_canonical h h.writeLong

theorem execFma_canonical (h : Canonical s) {d a b e : Opnd} : NextCanonical (execFma d a b e s) := operate_canonical h h.float3

theorem execFnma_canonical (h : Canonical s) {d a b e : Opnd} : NextCanonical (execFnma d a b e s) := operate_canonical h h.float3

/-! ### Integers and addresses (R109 to R119) -/

theorem execAdd_canonical (h : Canonical s) {d a b : Opnd} : NextCanonical (execAdd d a b s) := operate_canonical h h.affine2

theorem execSub_canonical (h : Canonical s) {d a b : Opnd} : NextCanonical (execSub d a b s) := operate_canonical h h.affine2

theorem execAnd_canonical (h : Canonical s) {d a b : Opnd} : NextCanonical (execAnd d a b s) := operate_canonical h h.int2

theorem execOr_canonical (h : Canonical s) {d a b : Opnd} : NextCanonical (execOr d a b s) := operate_canonical h h.int2

theorem execXor_canonical (h : Canonical s) {d a b : Opnd} : NextCanonical (execXor d a b s) := operate_canonical h h.int2

theorem execAndn_canonical (h : Canonical s) {d a b : Opnd} : NextCanonical (execAndn d a b s) := operate_canonical h h.int2

theorem execShl_canonical (h : Canonical s) {d a b : Opnd} : NextCanonical (execShl d a b s) := operate_canonical h h.affine2

theorem execShr_canonical (h : Canonical s) {d a b : Opnd} : NextCanonical (execShr d a b s) := operate_canonical h h.int2

theorem execSar_canonical (h : Canonical s) {d a b : Opnd} : NextCanonical (execSar d a b s) := operate_canonical h h.int2

theorem execRol_canonical (h : Canonical s) {d a b : Opnd} : NextCanonical (execRol d a b s) := operate_canonical h h.int2

theorem execMin_canonical (h : Canonical s) {d a b : Opnd} : NextCanonical (execMin d a b s) := operate_canonical h h.int2

theorem execMax_canonical (h : Canonical s) {d a b : Opnd} : NextCanonical (execMax d a b s) := operate_canonical h h.int2

theorem execMinu_canonical (h : Canonical s) {d a b : Opnd} : NextCanonical (execMinu d a b s) := operate_canonical h h.int2

theorem execMaxu_canonical (h : Canonical s) {d a b : Opnd} : NextCanonical (execMaxu d a b s) := operate_canonical h h.int2

theorem execAbsd_canonical (h : Canonical s) {d a b : Opnd} : NextCanonical (execAbsd d a b s) := operate_canonical h h.int2

theorem execNeg_canonical (h : Canonical s) {d a : Opnd} : NextCanonical (execNeg d a s) := operate_canonical h h.affine1

theorem execMul_canonical (h : Canonical s) {d a b : Opnd} : NextCanonical (execMul d a b s) := operate_canonical h h.affine2

theorem execMulhi_canonical (h : Canonical s) {d a b : Opnd} : NextCanonical (execMulhi d a b s) := operate_canonical h h.int2

theorem execMulhiu_canonical (h : Canonical s) {d a b : Opnd} : NextCanonical (execMulhiu d a b s) := operate_canonical h h.int2

theorem execMulw_canonical (h : Canonical s) {d a b : Opnd} : NextCanonical (execMulw d a b s) := operate_canonical h h.int2

theorem execMulwu_canonical (h : Canonical s) {d a b : Opnd} : NextCanonical (execMulwu d a b s) := operate_canonical h h.int2

theorem execClz_canonical (h : Canonical s) {d a : Opnd} : NextCanonical (execClz d a s) := operate_canonical h h.int1

theorem execCtz_canonical (h : Canonical s) {d a : Opnd} : NextCanonical (execCtz d a s) := operate_canonical h h.int1

theorem execPopc_canonical (h : Canonical s) {d a : Opnd} : NextCanonical (execPopc d a s) := operate_canonical h h.int1

theorem execBrev_canonical (h : Canonical s) {d a : Opnd} : NextCanonical (execBrev d a s) := operate_canonical h h.int1

theorem execBswap_canonical (h : Canonical s) {d a : Opnd} : NextCanonical (execBswap d a s) := operate_canonical h h.int1

theorem execBfe_canonical (h : Canonical s) {d a b : Opnd} : NextCanonical (execBfe d a b s) := operate_canonical h h.int2

theorem execBfeu_canonical (h : Canonical s) {d a b : Opnd} : NextCanonical (execBfeu d a b s) := operate_canonical h h.int2

theorem execBfi_canonical (h : Canonical s) {d a b : Opnd} : NextCanonical (execBfi d a b s) := operate_canonical h h.write

theorem execAddw_canonical (h : Canonical s) {d a b : Opnd} : NextCanonical (execAddw d a b s) := operate_canonical h h.int2

theorem execAddwu_canonical (h : Canonical s) {d a b : Opnd} : NextCanonical (execAddwu d a b s) := operate_canonical h h.int2

theorem execSubw_canonical (h : Canonical s) {d a b : Opnd} : NextCanonical (execSubw d a b s) := operate_canonical h h.int2

theorem execAccw_canonical (h : Canonical s) {d a b : Opnd} : NextCanonical (execAccw d a b s) := operate_canonical h h.int2

theorem execAccwu_canonical (h : Canonical s) {d a b : Opnd} : NextCanonical (execAccwu d a b s) := operate_canonical h h.int2

theorem execSatadd_canonical (h : Canonical s) {d a b : Opnd} : NextCanonical (execSatadd d a b s) := operate_canonical h h.int2

theorem execSatsub_canonical (h : Canonical s) {d a b : Opnd} : NextCanonical (execSatsub d a b s) := operate_canonical h h.int2

theorem execNarrow_canonical (h : Canonical s) {d a : Opnd} : NextCanonical (execNarrow d a s) := operate_canonical h h.int1

theorem execSext_canonical (h : Canonical s) {d a : Opnd} : NextCanonical (execSext d a s) := operate_canonical h h.int1

theorem execZext_canonical (h : Canonical s) {d a : Opnd} : NextCanonical (execZext d a s) := operate_canonical h h.int1

theorem execMov_canonical (h : Canonical s) {d a : Opnd} : NextCanonical (execMov d a s) := operate_canonical h h.write

theorem execSel_canonical (h : Canonical s) {d a b : Opnd} : NextCanonical (execSel d a b s) := operate_canonical h h.write

theorem execAddi_canonical (h : Canonical s) {d a : Opnd} {i : BitVec 11} : NextCanonical (execAddi d a i s) := operate_canonical h h.affine1

theorem execAndi_canonical (h : Canonical s) {d a : Opnd} {i : BitVec 11} : NextCanonical (execAndi d a i s) := operate_canonical h h.int1

theorem execOri_canonical (h : Canonical s) {d a : Opnd} {i : BitVec 11} : NextCanonical (execOri d a i s) := operate_canonical h h.int1

theorem execXori_canonical (h : Canonical s) {d a : Opnd} {i : BitVec 11} : NextCanonical (execXori d a i s) := operate_canonical h h.int1

theorem execShli_canonical (h : Canonical s) {d a : Opnd} {i : BitVec 11} : NextCanonical (execShli d a i s) := operate_canonical h h.affine1

theorem execShri_canonical (h : Canonical s) {d a : Opnd} {i : BitVec 11} : NextCanonical (execShri d a i s) := operate_canonical h h.int1

theorem execSari_canonical (h : Canonical s) {d a : Opnd} {i : BitVec 11} : NextCanonical (execSari d a i s) := operate_canonical h h.int1

theorem execMuli_canonical (h : Canonical s) {d a : Opnd} {i : BitVec 11} : NextCanonical (execMuli d a i s) := operate_canonical h h.affine1

theorem execMovx_canonical (h : Canonical s) {d : Opnd} {i : BitVec 18} : NextCanonical (execMovx d i s) := operate_canonical h h.write

theorem execMovi_canonical (h : Canonical s) {d : Opnd} {i : BitVec 18} : NextCanonical (execMovi d i s) := operate_canonical h h.write

theorem execDiv_canonical (h : Canonical s) {l : BitVec 4} {d a b : Opnd} : NextCanonical (execDiv l d a b s) := operate_canonical h h.divide

theorem execDivu_canonical (h : Canonical s) {l : BitVec 4} {d a b : Opnd} : NextCanonical (execDivu l d a b s) := operate_canonical h h.divide

theorem execMadw_canonical (h : Canonical s) {d a b e : Opnd} : NextCanonical (execMadw d a b e s) := operate_canonical h h.int3

theorem execMadl_canonical (h : Canonical s) {d a b e : Opnd} : NextCanonical (execMadl d a b e s) := operate_canonical h h.int3

/-! ### Cross-lane work, reductions, scans and dot products (R159 to R162) -/

theorem Canonical.shuffle (h : Canonical s) {c : Cut} {d a b : Opnd} {src : Nat → W64 → Option Nat} : Canonical (s.shuffle c d a b src) := h.write

theorem Canonical.dot (h : Canonical s) {c : Cut} {d a b : Opnd} {size t out : Nat} : Canonical (s.dot c d a b size t out) :=
  h.write.ite h.writeRounded

theorem execShfl_canonical (h : Canonical s) {d a b : Opnd} : NextCanonical (execShfl d a b s) := operate_canonical h h.shuffle

theorem execShflx_canonical (h : Canonical s) {d a b : Opnd} : NextCanonical (execShflx d a b s) := operate_canonical h h.shuffle

theorem execShflu_canonical (h : Canonical s) {d a b : Opnd} : NextCanonical (execShflu d a b s) := operate_canonical h h.shuffle

theorem execShfld_canonical (h : Canonical s) {d a b : Opnd} : NextCanonical (execShfld d a b s) := operate_canonical h h.shuffle

theorem execBcast_canonical (h : Canonical s) {d a b : Opnd} : NextCanonical (execBcast d a b s) := operate_canonical h (h.ill.ite h.write)

theorem execVote_canonical (h : Canonical s) {d a : Opnd} : NextCanonical (execVote d a s) := operate_canonical h h.write

theorem execCompact_canonical (h : Canonical s) {d a : Opnd} : NextCanonical (execCompact d a s) := operate_canonical h h.write

theorem execLidx_canonical (h : Canonical s) {d : Opnd} : NextCanonical (execLidx d s) := operate_canonical h h.write

theorem execRed_canonical (h : Canonical s) {l : BitVec 4} {d a b : Opnd} : NextCanonical (execRed l d a b s) := operate_canonical h h.writeLong

theorem execScan_canonical (h : Canonical s) {l : BitVec 4} {d a b : Opnd} : NextCanonical (execScan l d a b s) := operate_canonical h h.writeLong

theorem execDp4_canonical (h : Canonical s) {d a b : Opnd} : NextCanonical (execDp4 d a b s) := operate_canonical h h.dot

theorem execDp4u_canonical (h : Canonical s) {d a b : Opnd} : NextCanonical (execDp4u d a b s) := operate_canonical h h.dot

theorem execDp2_canonical (h : Canonical s) {d a b : Opnd} : NextCanonical (execDp2 d a b s) := operate_canonical h h.dot

/-! ### Page requests (R366, R367) -/

theorem Canonical.interrupt (h : Canonical s) {vec : Nat} : Canonical (s.interrupt vec) := h

theorem Canonical.pageRequest (h : Canonical s) {part asid obj page src : Nat} : Canonical (s.pageRequest part asid obj page src).2 := by
  dsimp only [State.pageRequest]
  split
  · exact h
  · split
    · exact h.setReg.setField.interrupt.ite h.setReg.setField
    · exact h.setField.countUp

theorem Canonical.request (h : Canonical s) {u : TlbUnit} {part asid : Nat} {ptr : W64} {src : Nat} :
    Canonical (s.request u part asid ptr src).2 := by
  unfold State.request
  split
  · exact h
  · exact h.xlatted.pageRequest

/-! ### Communicators and reports (R287, R292 to R298) -/

theorem Canonical.putComm (h : Canonical s) {k : Comm} : Canonical (s.putComm k) := h

theorem Canonical.putOp (h : Canonical s) {cid : Nat} {o : CollOp} : Canonical (s.putOp cid o) := h.putComm

theorem Canonical.tell (h : Canonical s) {k : Comm} {seq rank tag : Nat} {args : List Nat} {data : List Byte}
    : Canonical (s.tell k seq rank tag args data) := h.send

theorem Canonical.tellAll (h : Canonical s) {k : Comm} {seq tag : Nat} {args : List Nat} {data : List Byte}
    : Canonical (s.tellAll k seq tag args data) := h.foldl (·.tell)

theorem Canonical.breakGen (h : Canonical s) {cid seq rank : Nat} : Canonical (s.breakGen cid seq rank) := h.putComm

theorem Canonical.endOp (h : Canonical s) {cid id : Nat} {word : W64} : Canonical (s.endOp cid id word) := by
  dsimp only [State.endOp]
  split
  · exact h
  · exact (h.ite h.putOp).breakGen.ite (h.ite h.putOp)

theorem Canonical.settled (h : Canonical s) {cid seq : Nat} {w : W64} : Canonical (s.settled cid seq w) := by
  dsimp only [State.settled]
  split
  · exact h.endOp
  · exact h.ite (h.putComm.breakGen.ite h.putComm)

theorem Canonical.arbitrate (h : Canonical s) {cid seq : Nat} {rs : List Report} : Canonical (s.arbitrate cid seq rs) := by
  unfold State.arbitrate
  split
  · exact h
  · exact h.tellAll.settled

theorem Canonical.report (h : Canonical s) {cid id reason failrank : Nat} : Canonical (s.report cid id reason failrank) := by
  dsimp only [State.report]
  split
  · exact h
  · exact h.ite (h.putOp.tellAll.arbitrate.ite h.putOp.tellAll)

theorem Canonical.failOp (h : Canonical s) {id : Nat} : Canonical (s.failOp id) := by
  unfold State.failOp
  split
  · exact h
  · split
    · exact h
    · exact ((h.elsewhere (by rfl)).putOp.ite (h.elsewhere (by rfl))).report

/-! ### Writes and atomics from their issue to their homes (R135 to R140, R190) -/

theorem Canonical.queueEffect (h : Canonical s) {c : Cut} {il : Nat} {eff : QEffect} : Canonical (s.queueEffect c il eff) := h

theorem Canonical.issueWrites (h : Canonical s) {c : Cut} {ws : List Write} {release : Bool} {outst : Option Nat}
    : Canonical (s.issueWrites c ws release outst) := .ite h h

theorem Canonical.lateStore (h : Canonical s) {w : Store} {causes : Nat} : Canonical (s.lateStore w causes) := h.holdLate

theorem Canonical.fillReads (h : Canonical s) {id : Nat} {f : LaneRead → LaneRead} : Canonical (s.fillReads id f) := h

theorem Canonical.fillAtomic (h : Canonical s) {w : Store} {et : Nat} {olds : List (Nat × W64)} : Canonical (s.fillAtomic w et olds) := by
  unfold State.fillAtomic
  split
  · exact h
  · exact h.fillReads

theorem Canonical.fillFailed (h : Canonical s) {w : Store} : Canonical (s.fillFailed w) := by
  unfold State.fillFailed
  split
  · exact h.fillAtomic
  · exact h

theorem Canonical.storeL1 (h : Canonical s) {w : Store} {p : Nat} {bs : List (Nat × Byte)} : Canonical (s.storeL1 w p bs) :=
  h.ite (h.l1Update.dropTiles.foldl (·.l1Evict))

theorem Canonical.perform (h : Canonical s) {w : Store} : Canonical (s.perform w) := by
  unfold State.perform
  split
  · exact h.devWrite.storeL1
  · exact h.readAll.devWrite.storeL1.fillAtomic
  · exact h.withHost (scatter_wf _ _ _ h.wf_host)
  · exact (h.withHost (cellsPut_wf _ _ _ h.wf_host)).fillAtomic
  · exact h.send

theorem Canonical.failJob (h : Canonical s) {id status : Nat} {addr : W64} : Canonical (s.failJob id status addr) := by
  unfold State.failJob
  split
  · exact h.failOp
  · exact h.ite (h.elsewhere (by rfl)).holdLate

theorem Canonical.failStore (h : Canonical s) {w : Store} : Canonical (s.failStore w) := by
  unfold State.failStore
  extract_lets u left
  have hleft : Canonical left := (h.readAll.ite h).elsewhere (by rfl)
  split
  · exact hleft.failJob
  · exact hleft.lateStore.fillFailed

theorem Canonical.rehome (h : Canonical s) {w : Store} : Canonical (s.rehome w) := by
  unfold State.rehome
  split
  · exact h
  · split
    · exact h
    · exact h.ite h.request

theorem execHomeWrite_canonical (h : Canonical s) {id : Nat} : NextCanonical (execHomeWrite id s) := by
  refine Canonical.next ?_
  split
  · exact h
  · exact h.ite (h.failStore.ite (h.rehome.ite (h.elsewhere (by rfl)).perform))

theorem execLateStoreFault_canonical (h : Canonical s) {id : Nat} : NextCanonical (execLateStoreFault id s) := by
  refine Canonical.next ?_
  split
  · exact h
  · exact h.rehome.ite (h.failStore.ite h)

/-! ### Accesses (R122 to R145) -/

theorem Canonical.translated (h : Canonical s) {c : Cut} {q : Ask} {as : List ItemAcc} : Canonical (s.translated c q as) :=
  h.foldl (·.foldl (·.xlatted))

theorem checkAccess_canonical (h : Canonical s) {c : Cut} {q : Ask} {load store : Bool} {as : List ItemAcc} {lanes : List Nat → List Nat} :
    IfSomeCanonical (checkAccess s c q load store as lanes) := by
  dsimp only [checkAccess]
  split
  · exact .ite h.lanesOnly.ifSome h.translated.stop.ifSome
  · refine .ite h.returnTrap.ifSome ?_
    split
    · exact h.triggerAt.ifSome
    · exact .none

theorem Canonical.inSection (h : Canonical s) {c : Cut} {perform : State → Cut → State}
    (hperform : ∀ {t k}, Canonical t → Canonical (perform t k)) : Canonical (s.inSection c perform) := by
  unfold State.inSection
  extract_lets offer start
  have hoffer : ∀ {t}, Canonical t → Canonical (offer t) := by
    intro t ht
    dsimp only [offer]
    split
    · exact ht.offer.ite ht
    · exact ht
  have hstart : ∀ {y}, Canonical (start y) := hoffer (hperform h.putSec)
  exact hstart.ite ((h.askFlush.ite hstart).ite (hperform h))

theorem Canonical.sectionAfter (h : Canonical s) {c : Cut} {y : Section} {go : State → Cut → State}
    (hgo : ∀ {t k}, Canonical t → Canonical (go t k)) : Canonical (s.sectionAfter c y go) :=
  h.putSec.returnTrap.ite (hgo h.putSec)

theorem Canonical.millReads (h : Canonical s) {y : Section} {size : Nat} {reads : List LaneRead} :
    Canonical (s.millReads y size reads).1 :=
  foldl_fst_canonical (p := (s, y, [])) h fun ht => (ht.flushTouch.millError.ite ht.flushTouch).readFlaw

theorem Canonical.awaitHere (h : Canonical s) {c : Cut} {srcs : List Opnd} {g : Gov} {o : Outst} {pend : Option TrapPend}
    : Canonical (s.awaitHere c srcs g o pend) := ((h.ite h.popAll).elsewhere (by rfl)).putCut

theorem Canonical.millLoadGo (h : Canonical s) {c : Cut} {o : LoadOp} {flagged : W32} {present absent : List ItemAcc}
    : Canonical (s.millLoadGo c o flagged present absent) := h.returnTrap.ite h.millReads.putSec.await

theorem Canonical.loadGo (h : Canonical s) {c : Cut} {o : LoadOp} {present absent : List ItemAcc} : Canonical (s.loadGo c o present absent) := by
  unfold State.loadGo
  extract_lets flagging lanesFor flagged reads delivers go
  have hgo : Canonical (go s) := h.awaitHere.ite h.await
  refine h.millLoadGo.ite (h.lanesOnly.ite ?_)
  split
  · exact hgo
  · exact hgo.ite (h.lanesOnly.ite (h.stop.ite h.awaitHere))

theorem Canonical.load (h : Canonical s) {c : Cut} {o : LoadOp} {addr : Nat → W64} : Canonical (s.load c o addr) := by
  unfold State.load
  extract_lets o all as
  refine h.write.ite (h.lanesOnly.ite ?_)
  split
  · next u hu => exact checkAccess_canonical h u hu
  · exact (h.inSection (·.translated.loadGo)).ite h.translated.loadGo

theorem Canonical.load1 (h : Canonical s) {c : Cut} {l : BitVec 4} {d a b : Opnd} {l1 acquire : Bool}
    : Canonical (s.load1 c l d a b l1 acquire) := h.load

theorem execLd_canonical (h : Canonical s) {l : BitVec 4} {d a b : Opnd} : NextCanonical (execLd l d a b s) := operate_canonical h h.load1

theorem execLdb_canonical (h : Canonical s) {l : BitVec 4} {d a b : Opnd} : NextCanonical (execLdb l d a b s) := operate_canonical h h.load1

theorem execLda_canonical (h : Canonical s) {l : BitVec 4} {d a b : Opnd} : NextCanonical (execLda l d a b s) := operate_canonical h h.load1

theorem execLdt_canonical (h : Canonical s) {l : BitVec 4} {d a b : Opnd} : NextCanonical (execLdt l d a b s) := operate_canonical h h.load

theorem execLdm_canonical (h : Canonical s) {l : BitVec 4} {d a b : Opnd} : NextCanonical (execLdm l d a b s) := operate_canonical h h.load

theorem Canonical.flushWrites (h : Canonical s) {y : Section} {bs : List StoredByte} : Canonical (s.flushWrites y bs) := h.foldl (·.flushTouch)

theorem Canonical.storeGo (h : Canonical s) {c : Cut} {srcs : List Opnd} {q : Ask} {vals : List RegVal} {release : Bool}
    {present absent : List ItemAcc} : Canonical (s.storeGo c srcs q vals release present absent) := by
  dsimp only [State.storeGo]
  split
  · exact h.lanesOnly.ite (h.returnTrap.ite (h.ite h.issueWrites).stop)
  · exact (h.flushWrites.sectionAfter (·.complete)).ite (h.complete.ite h.issueWrites.complete)

theorem Canonical.store (h : Canonical s) {c : Cut} {srcs : List Opnd} {elems : Nat} {vals : List RegVal} {release : Bool} {addr : Nat → W64}
    : Canonical (s.store c srcs elems vals release addr) := by
  unfold State.store
  extract_lets q as
  refine h.hold.ite ?_
  split
  · next u hu => exact checkAccess_canonical h u hu
  · exact (h.inSection (·.translated.storeGo)).ite h.translated.storeGo

theorem Canonical.store1 (h : Canonical s) {c : Cut} {d a b : Opnd} {release : Bool} : Canonical (s.store1 c d a b release) := h.store

theorem execSt_canonical (h : Canonical s) {d a b : Opnd} : NextCanonical (execSt d a b s) := operate_canonical h h.store1

theorem execStl_canonical (h : Canonical s) {d a b : Opnd} : NextCanonical (execStl d a b s) := operate_canonical h h.store1

theorem execStm_canonical (h : Canonical s) {d a b : Opnd} : NextCanonical (execStm d a b s) := operate_canonical h h.store

theorem Canonical.millAtomics (h : Canonical s) {c : Cut} {o : AtomOp} {size : Nat} {as : List ItemAcc} {reads : List LaneRead} :
    Canonical (s.millAtomics c o size as reads).1 := by
  refine foldl_fst_canonical (p := (s, c.sec, [])) h ?_
  intro q x hq
  dsimp only
  split
  · exact hq
  · exact hq.millReads

theorem Canonical.endQuantum (h : Canonical s) {uid : Nat} : Canonical (s.endQuantum uid) := by
  unfold State.endQuantum
  split
  · exact h.hold.ite h
  · exact h

theorem Canonical.aredDone (h : Canonical s) {c : Cut} {srcs : List Opnd} {bad : List ItemAcc} : Canonical (s.aredDone c srcs bad) := by
  dsimp only [State.aredDone]
  split
  · exact h.countUp.popAll.stop.ite h.countUp.complete
  · exact h.countUp.complete

theorem Canonical.atomGo (h : Canonical s) {c : Cut} {o : AtomOp} {q : Ask} {present absent : List ItemAcc}
    : Canonical (s.atomGo c o q present absent) := by
  unfold State.atomGo
  extract_lets reads ws bad id numbered issue
  have hissue : ∀ {t out}, Canonical t → Canonical (issue t out) := fun ht => ht.ite ht.issueWrites
  have hnumbered : Canonical numbered := h
  refine h.lanesOnly.ite ?_
  split
  · exact h.lanesOnly.ite (h.returnTrap.ite (h.stop.ite ((hissue hnumbered).awaitHere.ite (hissue h.countUp).stop)))
  · exact (h.millAtomics.sectionAfter fun ht => ht.await.ite ht.complete).ite ((hissue h).aredDone.ite
      ((hissue hnumbered).awaitHere.ite (hissue hnumbered).await.endQuantum))

theorem Canonical.atomics (h : Canonical s) {c : Cut} {o : AtomOp} {addr : Nat → W64} : Canonical (s.atomics c o addr) := by
  unfold State.atomics
  extract_lets q as
  refine h.write.ite (h.hold.ite ?_)
  split
  · next u hu => exact checkAccess_canonical h u hu
  · exact (h.inSection (·.translated.atomGo)).ite h.translated.atomGo

theorem execAtom_canonical (h : Canonical s) {l : BitVec 4} {d a b : Opnd} : NextCanonical (execAtom l d a b s) := operate_canonical h h.atomics

theorem execAred_canonical (h : Canonical s) {a b : Opnd} : NextCanonical (execAred a b s) := operate_canonical h h.atomics

theorem execPref_canonical (h : Canonical s) {a b : Opnd} : NextCanonical (execPref a b s) := by
  refine operate_canonical h (h.complete.ite (h.settleBench.foldl ?_).complete)
  intro t p ht
  refine ht.ite ?_
  split
  · exact ht.fillView.l1Fill.ite ht.fillView
  · exact ht

theorem checkPages_canonical (h : Canonical s) {c : Cut} {as : List ItemAcc} : IfSomeCanonical (checkPages s c as) := by
  dsimp only [checkPages]
  split
  · exact .none
  · exact .ite h.lanesOnly.ifSome h.stop.ifSome

theorem Canonical.requestAll (h : Canonical s) {c : Cut} {asked : List ((Nat × Nat) × Nat)} {as : List ItemAcc} :
    Canonical (s.requestAll c asked as).1 := by
  induction as generalizing s asked with
  | nil => exact h
  | cons a as ih =>
    unfold State.requestAll
    split
    · exact ih h
    · exact ih h.request

theorem Canonical.writePages (h : Canonical s) {c : Cut} {d a : Opnd} {v : RegVal} : Canonical (s.writePages c d a v) := h.write

theorem execPgreq_canonical (h : Canonical s) {l : BitVec 4} {d a : Opnd} : NextCanonical (execPgreq l d a s) := by
  refine operate_canonical h (h.lanesOnly.ite ?_)
  split
  · next u hu => exact checkPages_canonical h u hu
  · exact h.requestAll.writeLong

theorem execPgwait_canonical (h : Canonical s) {d a : Opnd} : NextCanonical (execPgwait d a s) := by
  refine operate_canonical h (h.lanesOnly.ite ?_)
  split
  · next u hu => exact checkPages_canonical h u hu
  · refine h.writePages.ite ?_
    split
    · exact h
    · exact h.hold

theorem execPgtest_canonical (h : Canonical s) {d a : Opnd} : NextCanonical (execPgtest d a s) := by
  refine operate_canonical h (h.lanesOnly.ite ?_)
  split
  · next u hu => exact checkPages_canonical h u hu
  · exact h.writePages

/-! ### Arrival of results (R77, R126, R129) -/

theorem Canonical.throughL1 (h : Canonical s) {b p : Nat} : Canonical (s.throughL1 b p) := by
  dsimp only [State.throughL1]
  split
  · split
    · exact (h.fillView.elsewhere (by rfl)).l1Evict.l1Fill
    · exact h.fillView
    · exact h.fillView
  · exact h.fillView.l1Fill

theorem Canonical.bringIn (h : Canonical s) {c : Cut} {l1 fresh : Bool} {reads : List LaneRead} : Canonical (s.bringIn c l1 fresh reads) :=
  (h.foldl (·.fillView)).ite ((h.foldl (·.fillView)).foldl fun ht => (ht.l1Evict.ite ht).throughL1)

theorem Canonical.bindReads (h : Canonical s) {c : Cut} {seq : Nat} {l1 fresh : Bool} {size : Nat} {reads : List LaneRead} :
    Canonical (s.bindReads c seq l1 fresh size reads).1 := h.bringIn.foldl (·.readFlaw)

theorem Canonical.bound (h : Canonical s) {c : Cut} {o : Outst} : Canonical (s.bound c o).after := by
  dsimp only [State.bound]
  split
  · exact h
  · exact h.bindReads.l1Flash.ite h.bindReads
  · exact h
  · exact h

theorem Canonical.askRemote (h : Canonical s) {c : Cut} {o : Outst} : Canonical (s.askRemote c o) := by
  unfold State.askRemote
  split
  · exact h.ite (h.foldl (·.send))
  · exact h

theorem Canonical.overdue (h : Canonical s) {c : Cut} {o : Outst} {a : Arrival} {late : List LaneRead} : Canonical (s.overdue c o a late) :=
  h.raisePend

theorem Canonical.deliverTo (h : Canonical s) {c : Cut} {o : Outst} {a : Arrival} : Canonical (s.deliverTo c o a) := by
  unfold State.deliverTo
  extract_lets g last counted k lanes ecc pushed noted late
  have hcounted : Canonical counted := h.ite h.countUp
  have hpushed : Canonical pushed := hcounted.pushQ.ite hcounted
  refine hpushed.overdue.ite (hpushed.putCut.ite ?_)
  split
  · exact hpushed.putCut
  · exact hpushed.stop.ite hpushed.advance

theorem Canonical.arrive (h : Canonical s) {c : Cut} {o : Outst} : Canonical (s.arrive c o) := h.bound.deliverTo.ite h.askRemote

theorem Canonical.arrival (h : Canonical s) {uid id : Nat} : Canonical (s.arrival uid id) := by
  unfold State.arrival
  split
  · exact h
  · next c _ =>
    refine h.ite ?_
    have hsettled : Canonical (if c.onMill then s.settleFences c else s.settleBench c.bench) := h.settleFences.ite h.settleBench
    dsimp only
    split
    · exact hsettled
    · split
      · exact hsettled
      · exact hsettled.arrive.settleConds

theorem execTrapEntry_canonical (h : Canonical s) {uid : Nat} : NextCanonical (execTrapEntry uid s) := by
  refine Canonical.next ?_
  split
  · exact h
  · split
    · exact h.enterTrap.ite h
    · exact h

/-! ### Other devices (R296, R363) -/

theorem Canonical.dropRemote (h : Canonical s) {id : Nat} : Canonical (s.dropRemote id) := h

theorem Canonical.fillRemoteAtom (h : Canonical s) {w : Store} {f : LaneRead → LaneRead} : Canonical (s.fillRemoteAtom w f) := by
  unfold State.fillRemoteAtom
  split
  · exact h
  · exact h.fillReads

theorem Canonical.fillRemoteLoad (h : Canonical s) {r : Remote} {f : LaneRead → LaneRead} : Canonical (s.fillRemoteLoad r f) := by
  unfold State.fillRemoteLoad
  split
  · exact h
  · exact h.fillReads

theorem Canonical.refusedWrite (h : Canonical s) {w : Store} : Canonical (s.refusedWrite w) := by
  unfold State.refusedWrite
  split
  · exact h.failJob
  · exact h.lateStore

theorem Canonical.refusedRead (h : Canonical s) {r : Remote} : Canonical (s.refusedRead r) := h.failJob.ite h

theorem Canonical.replied (h : Canonical s) {r : Remote} {performed : Bool} {data : List Byte} : Canonical (s.replied r performed data) := by
  have hd : Canonical (s.dropRemote r.id) := h.dropRemote
  unfold State.replied
  dsimp only
  split
  · exact (hd.ite (hd.elsewhere (by rfl))).ite (((hd.elsewhere (by rfl)).ite hd.refusedRead).ite hd.fillRemoteLoad)
  · split
    · exact hd.ite hd.refusedWrite
    · exact (hd.ite hd.refusedWrite).ite (hd.fillAtomic.ite hd.fillRemoteAtom)

theorem execRemoteReply_canonical (h : Canonical s) {id : Nat} {performed : Bool} {data : List Byte}
    : NextCanonical (execRemoteReply id performed data s) := by
  refine Canonical.next ?_
  split
  · exact h.replied
  · exact h

theorem execRemoteDeadline_canonical (h : Canonical s) {id : Nat} : NextCanonical (execRemoteDeadline id s) := by
  have hd : Canonical (s.dropRemote id) := h.dropRemote
  refine Canonical.next ?_
  split
  · exact h
  · refine h.ite ?_
    dsimp only
    split
    · exact (hd.elsewhere (by rfl)).ite (h.ite (hd.refusedRead.ite hd.fillRemoteLoad))
    · refine hd.fillRemoteAtom.ite ?_
      split
      · exact hd.failJob
      · exact hd.lateStore

theorem Canonical.putAt (h : Canonical s) {ls : List Loc} {bs : List Byte} : Canonical (s.putAt ls bs) := putAt_canonical s ls bs h

theorem Canonical.answer (h : Canonical s) {asid : Nat} {performed : Bool} {data : List Byte} : Canonical (s.answer asid performed data) := h.send

theorem execRemoteRequest_canonical (h : Canonical s) {kind asid obj off et aop : Nat} {data : List Byte}
    : NextCanonical (execRemoteRequest kind asid obj off et aop data s) := by
  refine Canonical.next ?_
  extract_lets ptr size align need u translated was v e
  have ht : Canonical translated := h.xlatted
  refine ht.answer.ite ?_
  split
  · exact ht.answer
  · extract_lets bad read m
    have hread : Canonical read := ht.ite (ht.foldl (·.readAll))
    exact hread.answer.ite (hread.answer.ite (ht.ite (hread.putAt.answer.ite hread.putAt.answer)))

/-! ### The paged scratchpad (R197 to R211) -/

theorem Canonical.backRead (h : Canonical s) {k : Crew} {n : Nat} : Canonical (s.backRead k n) := h.ite (h.foldl (·.readAll))

theorem Canonical.poisonAt (h : Canonical s) {ls : List Loc} : Canonical (s.poisonAt ls) := by
  refine h.foldl ?_
  intro t l ht
  split
  · exact ht.ite ht
  · exact ht

theorem Canonical.backPage (h : Canonical s) {key n : Nat} {bs : List Byte} : Canonical (s.backPage key n bs) := by
  unfold State.backPage
  split
  · exact h
  · dsimp only
    split
    · exact h.putAt.poisonAt.putCrew
    · exact h.putCrew

theorem Canonical.evictPage (h : Canonical s) {key n : Nat} : Canonical (s.evictPage key n) := by
  unfold State.evictPage
  split
  · exact h
  · exact h.ite (h.backPage.ite h.putCrew)

theorem Canonical.takeFrame (h : Canonical s) {part b f : Nat} {keep : List (Nat × Nat)} (ht : s.takeFrame part b keep = some (f, t)) :
    Canonical t := by
  dsimp only [State.takeFrame] at ht
  split at ht
  · cases ht
    exact h
  · split at ht
    · cases ht
    · obtain ⟨_, -, hpair⟩ := Option.map_eq_some_iff.mp ht
      cases hpair
      exact h.evictPage

theorem Canonical.pageUp (h : Canonical s) {key n : Nat} {keep : List (Nat × Nat)} : Canonical (s.pageUp key n keep).2 := by
  dsimp only [State.pageUp]
  split
  · exact h
  · split
    · exact h
    · split
      · exact h
      · split
        · exact h
        · next hframe =>
          have hf := h.takeFrame hframe
          exact (hf.backRead.ite hf).putCrew.setReg

theorem Canonical.pagesUp (h : Canonical s) {key : Nat} {keep : List (Nat × Nat)} {ns : List Nat} :
    Canonical (s.pagesUp key keep ns).2.2 := by
  induction ns generalizing s with
  | nil => exact h
  | cons n ns ih =>
    have hup : Canonical (s.pageUp key n keep).2 := h.pageUp
    unfold State.pagesUp
    split
    · next hgot =>
      rw [hgot] at hup
      exact ih hup
    · next hgot =>
      rw [hgot] at hup
      exact hup

theorem Canonical.pagesGot (h : Canonical s) {key : Nat} {keep : List (Nat × Nat)} {ns left : List Nat} {g : PageGot}
    (hgot : s.pagesUp key keep ns = (g, left, t)) : Canonical t := by
  have hup : Canonical (s.pagesUp key keep ns).2.2 := h.pagesUp
  rw [hgot] at hup
  exact hup

theorem Canonical.backBytes (h : Canonical s) {k : Crew} {n : Nat} {bs : List (Nat × Byte)} : Canonical (s.backBytes k n bs) := h.putAt

theorem Canonical.spaceWrite (h : Canonical s) {key : Nat} {bytes : List (Nat × Byte)} : Canonical (s.spaceWrite key bytes) := by
  refine h.foldl ?_
  intro t n ht
  split
  · exact ht
  · refine ht.putCrew.ite ?_
    split
    · exact ht.backBytes
    · exact ht.putCrew.backPage

theorem Canonical.spaceFree (h : Canonical s) {key lo n : Nat} : Canonical (s.spaceFree key lo n) := by
  unfold State.spaceFree
  split
  · exact h
  · exact h.putCrew

theorem Canonical.frameRead (h : Canonical s) {key : Nat} {own : List QEffect} {offs : List Nat} : Canonical (s.frameRead key own offs) := by
  unfold State.frameRead
  split
  · exact h
  · refine h.foldl ?_
    intro t off ht
    split
    · exact ht
    · exact ht.putCrew.countUp

theorem Canonical.touches (h : Canonical s) {c : Cut} {key : Nat} {ns : List Nat} : Canonical (s.touches c key ns) := h.ite h.queueEffect

theorem Canonical.commitTouch (h : Canonical s) {key : Nat} {ns : List Nat} : Canonical (s.commitTouch key ns) := by
  refine h.foldl ?_
  intro t n ht
  split
  · exact ht
  · exact ht.backPage.ite ht

theorem checkScratch_canonical (h : Canonical s) {c : Cut} {size : Nat} {as : List ItemAcc} {lanes : List Nat → List Nat} :
    IfSomeCanonical (checkScratch s c size as lanes) := by
  dsimp only [checkScratch]
  split
  · exact .none
  · exact .ite h.lanesOnly.ifSome h.stop.ifSome

theorem Canonical.scratchFault (h : Canonical s) {c : Cut} {once : Bool} {as : List ItemAcc} : Canonical (s.scratchFault c once as) := h.hold

theorem Canonical.scratchGo (h : Canonical s) {c : Cut} {srcs : List Opnd} {d : Opnd} {la et size : Nat} {once : Bool} {as : List ItemAcc}
    : Canonical (s.scratchGo c srcs d la et size once as) := by
  unfold State.scratchGo
  extract_lets errs load val v read named
  have hread : Canonical read := by
    dsimp only [read]
    split
    · exact h
    · exact h.frameRead.touches.ite h.frameRead
  clear_value errs read
  split
  · exact hread.writeLong
  · exact (hread.countUp.lanesOnly.ite hread.countUp.popAll.stop).ite hread.countUp.await

theorem execLds_canonical (h : Canonical s) {l : BitVec 4} {d a b : Opnd} : NextCanonical (execLds l d a b s) := by
  refine operate_canonical h (h.hold.ite (h.write.ite (h.lanesOnly.ite ?_)))
  split
  · next u hu => exact checkScratch_canonical h u hu
  · exact h.scratchFault.ite h.scratchGo

theorem Canonical.localStore (h : Canonical s) {c : Cut} {srcs : List Opnd} {bs : List (Nat × Byte)} : Canonical (s.localStore c srcs bs) :=
  h.putSec.returnTrap.ite h.putSec.complete

theorem execSts_canonical (h : Canonical s) {d a b : Opnd} : NextCanonical (execSts d a b s) := by
  refine operate_canonical h (h.hold.ite ?_)
  split
  · next u hu => exact checkScratch_canonical h u hu
  · refine h.scratchFault.ite (h.complete.ite (h.localStore.ite ?_))
    split
    · exact h.complete
    · exact (h.queueEffect.ite h.spaceWrite).complete

theorem Canonical.scratchPoison (h : Canonical s) {c : Cut} {accs : List (Nat × Nat)} {bad : List Nat}
    : Canonical (s.scratchPoison c accs bad) := h.raiseAt

theorem execPageIn_canonical (h : Canonical s) {uid : Nat} : NextCanonical (execPageIn uid s) := by
  refine Canonical.next ?_
  split
  · exact h
  · split
    · refine (h.foldl (·.backRead)).scratchPoison.ite ?_
      split
      · next hgot => exact h.pagesGot hgot
      · exact h
    · exact h

theorem Canonical.scratchRange (h : Canonical s) {c : Cut} {a b : Opnd} {none_ : State} {whole : Bool} {go : Nat → Nat → State}
    (hnone : Canonical none_) (hgo : ∀ {lo n}, Canonical (go lo n)) : Canonical (s.scratchRange c a b none_ whole go) := by
  refine h.ill.ite ?_
  split
  · exact hnone.ite (h.raiseAll.ite (h.raiseAll.ite hgo))
  · exact h.ill

theorem execSalloc_canonical (h : Canonical s) {d a b : Opnd} : NextCanonical (execSalloc d a b s) := by
  refine operate_canonical h (h.scratchRange h.write ?_)
  intro lo n
  split
  · exact h.write
  · exact (h.pagesUp.touches.ite h.pagesUp).write

theorem execSfree_canonical (h : Canonical s) {a b : Opnd} : NextCanonical (execSfree a b s) := by
  refine operate_canonical h (h.hold.ite (h.scratchRange h.complete ?_))
  intro lo n
  split
  · exact h.complete
  · exact (h.queueEffect.ite h.spaceFree).complete

theorem Canonical.pinRange (h : Canonical s) {c : Cut} {key lo n : Nat} {up : Bool} : Canonical (s.pinRange c key lo n up) := by
  refine h.queueEffect.ite ?_
  split
  · exact h
  · exact h.putCrew

theorem Canonical.commitPin (h : Canonical s) {key lo n : Nat} {up : Bool} : Canonical (s.commitPin key lo n up) := by
  unfold State.commitPin
  extract_lets ns up'
  have hup : Canonical up' := h.pagesUp.ite h
  split
  · exact hup
  · exact hup.putCrew

theorem execSpin_canonical (h : Canonical s) {d a b : Opnd} : NextCanonical (execSpin d a b s) := by
  refine operate_canonical h (h.scratchRange h.write ?_)
  intro lo n
  split
  · exact h.write
  · refine h.write.ite ?_
    split
    · next hgot => exact (h.pagesGot hgot).pinRange.write
    · exact h.write

theorem execSunpin_canonical (h : Canonical s) {a b : Opnd} : NextCanonical (execSunpin a b s) := by
  refine operate_canonical h (h.scratchRange h.complete ?_)
  intro lo n
  split
  · exact h.complete
  · exact h.pinRange.complete

theorem execSpgq_canonical (h : Canonical s) {d a b : Opnd} : NextCanonical (execSpgq d a b s) := by
  refine operate_canonical h ?_
  intro c
  dsimp only
  split
  · refine h.lanesOnly.ite ?_
    split
    · exact h.raiseAt
    · exact h.write
  · exact h.write
  · exact h.write
  · exact h.write

theorem Canonical.deliverScratch (h : Canonical s) {w : ScratchWrite} : Canonical (s.deliverScratch w) := by
  dsimp only [State.deliverScratch]
  split
  · exact h.ite (h.elsewhere (by rfl)).spaceWrite
  · exact (h.elsewhere (by rfl)).setReg

theorem execScratchWriteDelivery_canonical (h : Canonical s) {id : Nat} : NextCanonical (execScratchWriteDelivery id s) := by
  refine Canonical.next ?_
  split
  · exact h
  · exact h.ite h.deliverScratch

/-! ### Fences (R181 to R186) -/

theorem execFence_canonical (h : Canonical s) {e f : BitVec 1} {k : BitVec 2} {d : Opnd} : NextCanonical (execFence e f k d s) := by
  refine operate_canonical h ?_
  intro c
  dsimp only
  split
  · exact h.settleFences.hold
  · exact h.settleFences.write

theorem Canonical.observe (h : Canonical s) {c : Cut} {slot : Nat} {f : Fence} {go : State → Cut → State}
    (hgo : ∀ {t k}, Canonical t → Canonical (go t k)) : Canonical (s.observe c slot f go) := by
  dsimp only [State.observe]
  split
  · exact hgo h
  · refine Canonical.stop ?_
    split
    · exact h
    · exact h.faultRecord

theorem execFwait_canonical (h : Canonical s) {a : Opnd} : NextCanonical (execFwait a s) := by
  refine operate_canonical h ?_
  intro c
  dsimp only
  split
  · exact h.settleFences.ill
  · exact h.settleFences.complete
  · exact h.settleFences.hold.ite (h.settleFences.observe (·.complete))

theorem execFtest_canonical (h : Canonical s) {d a : Opnd} : NextCanonical (execFtest d a s) := by
  refine operate_canonical h ?_
  intro c
  dsimp only
  split
  · exact h.settleFences.ill
  · exact h.settleFences.write
  · exact h.settleFences.write.ite (h.settleFences.write.ite ((h.settleFences.observe (·.write)).ite
      ((h.settleFences.popAll.pushQ.ite h.settleFences.popAll).observe (·.putCut))))

/-! ### Crews, barriers, roles, chutes and streams (R212 to R222) -/

theorem Canonical.saveLooms (h : Canonical s) {which : Loom → Bool} : Canonical (s.saveLooms which) := h

theorem Canonical.saveClaims (h : Canonical s) {c : Cut} : Canonical (s.saveClaims c) := (h.elsewhere (by rfl)).saveLooms

theorem Canonical.moveCut (h : Canonical s) {c : Cut} {b : Nat} : Canonical (s.moveCut c b).1 := h.settleBench.freshFor.saveClaims.putCut

theorem execCnew_canonical (h : Canonical s) {d a : Opnd} : NextCanonical (execCnew d a s) := by
  refine operate_canonical h ?_
  intro c
  dsimp only
  split
  · exact h.ill
  · refine h.ill.ite ?_
    split
    · exact h.write
    · exact (h.elsewhere (by rfl)).write

theorem execCjoin_canonical (h : Canonical s) {d a : Opnd} : NextCanonical (execCjoin d a s) := by
  refine operate_canonical h ?_
  intro c
  split
  · exact h.ill
  · refine h.ill.ite ?_
    split
    · exact h.write
    · refine h.write.ite (h.hold.ite (Canonical.write ?_))
      split
      · exact h
      · exact h.moveCut

theorem execCleave_canonical (h : Canonical s) : NextCanonical (execCleave s) := by
  refine operate_canonical h ?_
  intro c
  split
  · exact h.ill
  · exact h.ill.ite h.advance.leftCrew

theorem execCsize_canonical (h : Canonical s) {d : Opnd} : NextCanonical (execCsize d s) := operate_canonical h h.write

theorem execCrank_canonical (h : Canonical s) {d : Opnd} : NextCanonical (execCrank d s) := operate_canonical h h.write

theorem Canonical.evictAll (h : Canonical s) {k : Crew} : Canonical (s.evictAll k) := h.foldl (·.evictPage)

theorem Canonical.bringAll (h : Canonical s) {key : Nat} {keep : List (Nat × Nat)} {ns : List Nat} : IfSomeCanonical (s.bringAll key keep ns) := by
  induction ns generalizing s with
  | nil => exact h.ifSome
  | cons n ns ih =>
    have hup : Canonical (s.pageUp key n keep).2 := h.pageUp
    unfold State.bringAll
    split
    · exact .none
    · next hgot =>
      rw [hgot] at hup
      exact ih hup

theorem Canonical.settleSpace (h : Canonical s) {key b : Nat} : IfSomeCanonical (s.settleSpace key b) := by
  unfold State.settleSpace
  split
  · exact .none
  · exact h.putCrew.bringAll

theorem execCrewMove_canonical (h : Canonical s) {key bench : Nat} : NextCanonical (execCrewMove key bench s) := by
  refine Canonical.next ?_
  split
  · exact h
  · refine h.ite ?_
    split
    · exact h
    · next u hu => exact (h.evictAll.settleSpace u hu).foldl (·.moveCut)

theorem Canonical.arriveAt (h : Canonical s) {key n : Nat} {rel : List Fence} {items : List (Nat × Nat)}
    : Canonical (s.arriveAt key n rel items) := by
  unfold State.arriveAt
  split
  · exact h
  · exact h.putCrew.settleCrew

theorem Canonical.arriving (h : Canonical s) {c : Cut} {n : Nat} : Canonical (s.arriving c n).2.1 := by
  unfold State.arriving
  split
  · exact h
  · exact h.queueEffect.ite h.arriveAt

theorem execBar_canonical (h : Canonical s) {a : Opnd} : NextCanonical (execBar a s) := by
  refine operate_canonical h ?_
  intro c
  dsimp only
  split
  · exact h.advance.ite h.hold
  · exact h.arriving.advance.ite h.arriving.hold

theorem execBara_canonical (h : Canonical s) {d a : Opnd} : NextCanonical (execBara d a s) := operate_canonical h h.arriving.write

theorem execBarw_canonical (h : Canonical s) {a : Opnd} : NextCanonical (execBarw a s) := by
  refine operate_canonical h ?_
  intro c
  split
  · exact h.ill
  · exact h.ill.ite (h.complete.ite h.hold)

theorem execRole_canonical (h : Canonical s) {a : Opnd} : NextCanonical (execRole a s) := by
  refine operate_canonical h ?_
  intro c
  dsimp only
  split
  · exact h.ill
  · split
    · exact h.ill
    · exact h.ill.ite (h.hold.ite h.popAll.retired)

theorem execQbind_canonical (h : Canonical s) {d a b : Opnd} : NextCanonical (execQbind d a b s) := by
  refine operate_canonical h ?_
  intro c
  dsimp only
  split
  · exact h.ill
  · refine h.ill.ite ?_
    split
    · exact h.raiseAll
    · exact (h.complete.ite h.ill).ite h.complete

theorem execQunbind_canonical (h : Canonical s) {d : Opnd} : NextCanonical (execQunbind d s) := operate_canonical h (h.ill.ite h.advance)

theorem execQcnt_canonical (h : Canonical s) {d a : Opnd} : NextCanonical (execQcnt d a s) := by
  refine operate_canonical h ?_
  intro c
  extract_lets count
  have hcount : ∀ {key n}, Canonical (count key n) := by
    intro key n
    dsimp only [count]
    split
    · exact h.write
    · exact h.write
  refine h.ill.ite ?_
  split
  · exact hcount
  · exact hcount
  · exact h.ill

theorem execQclose_canonical (h : Canonical s) {d : Opnd} : NextCanonical (execQclose d s) := by
  refine operate_canonical h ?_
  intro c
  extract_lets close
  have hclose : ∀ {key n popEnd}, Canonical (close key n popEnd) := by
    intro key n popEnd
    dsimp only [close]
    split
    · exact h.raiseAll
    · exact h.queueEffect.advance.ite h.putCrew.advance
  refine h.ill.ite ?_
  split
  · exact hclose
  · exact hclose
  · exact h.ill

theorem execSbind_canonical (h : Canonical s) {d a : Opnd} : NextCanonical (execSbind d a s) := by
  refine operate_canonical h ?_
  intro c
  split
  · exact h.ill.ite h.complete
  · exact h.ill

theorem execSrel_canonical (h : Canonical s) {d a : Opnd} : NextCanonical (execSrel d a s) := by
  refine operate_canonical h ?_
  intro c
  split
  · exact h.ill.ite h.putCrew.complete
  · exact h.ill

theorem execScnt_canonical (h : Canonical s) {d a : Opnd} : NextCanonical (execScnt d a s) := by
  refine operate_canonical h ?_
  intro c
  split
  · exact h.ill.ite h.write
  · exact h.ill

/-! ### Carter jobs, counters and event queues (R223 to R231) -/

theorem Canonical.cardRead (h : Canonical s) {c : Cut} {n : Nat} {ptr : W64} : Canonical (s.cardRead c n ptr) := by
  dsimp only [State.cardRead]
  split
  · exact h.xlatted.millError.readFlaw.ite h.xlatted.countUp.readFlaw
  · exact h.xlatted.readAll
  · exact h.xlatted

theorem Canonical.rejected (h : Canonical s) {c : Cut} {reason : Nat} {ptr : W64} : Canonical (s.rejected c reason ptr) := h.ite h.setReg

theorem Canonical.addJob (h : Canonical s) {m : Maker} {op : Nat} {card : List W64} {coord : BitVec 14} : Canonical (s.addJob m op card coord)
    := by
  dsimp only [State.addJob]
  split
  · exact (h.elsewhere (by rfl)).putCrew
  · exact h

theorem Canonical.holdIssue (h : Canonical s) {c : Cut} {x : HeldIssue} : Canonical (s.holdIssue c x) := h.putSec

theorem Canonical.cardInSection (h : Canonical s) {c : Cut} {ptr : W64} : Canonical (s.cardInSection c ptr) := by
  unfold State.cardInSection
  split
  · exact h.flushTouch.putSec
  · exact h

theorem Canonical.issueCards (h : Canonical s) {c : Cut} {op : Nat} {coord : BitVec 14} {go : State → Maker → List W64 → State}
    {eff : List W64 → QEffect} {items : List (Nat × List W64)} (hgo : ∀ {t m w}, Canonical t → Canonical (go t m w)) :
    Canonical (s.issueCards c op coord go eff items) := by
  unfold State.issueCards
  have hitems : Canonical (items.foldl (fun (t : State) p =>
      if c.inOpenSection then t.holdIssue c ⟨op, p.2, coord, c.ilAt s p.1, c.ctx.pc⟩
      else if c.quantum s then
        { t with qeff := t.qeff ++ [⟨c.lid, c.uid, c.cutid, s.nextSeq, c.ilAt s p.1, c.ctx.pc, c.engineBench s, c.asid s, eff p.2⟩] }
      else go t (c.maker s p.1) p.2) s) := h.foldl fun ht => ht.holdIssue.ite ((ht.elsewhere (by rfl)).ite (hgo ht))
  exact h.ite (hitems.elsewhere (by rfl))

theorem Canonical.issueSome {c : Cut} {srcs : List Opnd} {room : Nat} {full : Wait} {items : List (Nat × List W64)}
    {issue : State → List (Nat × List W64) → State} (hissue : ∀ {xs}, Canonical (issue s xs)) :
    Canonical (s.issueSome c srcs room full items issue) := by
  dsimp only [State.issueSome]
  split
  · exact hissue.complete
  · exact hissue.hold

theorem Canonical.cardsFail (h : Canonical s) {c : Cut} {v : RegVal} {checks : List ((Nat × W64) × CardCheck)}
    : Canonical (s.cardsFail c v checks) := by
  refine h.lanesOnly.ite (Canonical.stop ?_)
  split
  · exact (h.foldl (·.cardRead)).rejected
  · exact h.foldl (·.cardRead)

theorem Canonical.cardsIssue (h : Canonical s) {c : Cut} {v : RegVal} {checks : List ((Nat × W64) × CardCheck)}
    {go : State → Cut → List (Nat × List W64) → State} (hgo : ∀ {t k xs}, Canonical t → Canonical (go t k xs)) :
    Canonical (s.cardsIssue c v checks go) :=
  ((h.foldl (·.cardRead)).inSection fun ht => hgo (ht.foldl (·.cardInSection))).ite (hgo (h.foldl (·.cardRead)))

theorem Canonical.issueJobs (h : Canonical s) {c : Cut} {op : Nat} {a : Opnd} {coord : BitVec 14} : Canonical (s.issueJobs c op a coord) := by
  unfold State.issueJobs
  extract_lets v items copies issue
  have hissue : ∀ {t k xs}, Canonical t → Canonical (issue t k xs) := fun ht => .issueSome (ht.issueCards (·.addJob))
  exact (hissue h).ite (h.complete.ite (h.hold.ite (h.hold.ite (h.returnTrap.ite (h.cardsFail.ite (h.cardsIssue hissue))))))

theorem execCpy_canonical (h : Canonical s) {l : BitVec 4} {a : Opnd} : NextCanonical (execCpy l a s) := operate_canonical h h.issueJobs

theorem execCpyt_canonical (h : Canonical s) {l : BitVec 4} {a : Opnd} : NextCanonical (execCpyt l a s) := operate_canonical h h.issueJobs

theorem execCpym_canonical (h : Canonical s) {l : BitVec 4} {a : Opnd} {m : BitVec 14} : NextCanonical (execCpym l a m s) :=
  operate_canonical h h.issueJobs

theorem Canonical.requestJob (h : Canonical s) {j : Job} {ps : List W64} : Canonical (s.requestJob j ps) := h.foldl (·.request)

theorem Canonical.sourceRead (h : Canonical s) {j : Job} : Canonical (s.sourceRead j) := by
  unfold State.sourceRead
  split
  · split
    · exact h
    · exact h.frameRead
  · exact h.ite (h.foldl (·.readPtr))

theorem Canonical.askRows (h : Canonical s) {j : Job} : Canonical (s.askRows j) := by
  refine h.ite (h.foldl ?_)
  intro t q ht
  split
  · exact ht.send
  · exact ht

theorem Canonical.putJob (h : Canonical s) {j : Job} : Canonical (s.putJob j) := h

theorem Canonical.sendRows (h : Canonical s) {j : Job} {rows : List (List Byte)} : Canonical (s.sendRows j rows) := by
  dsimp only [State.sendRows]
  exact (h.foldl fun ht => ht.elsewhere (by rfl)).ite h

theorem Canonical.takeCredit (h : Canonical s) {j : Job} : IfSomeCanonical (s.takeCredit j) := by
  dsimp only [State.takeCredit]
  split
  · exact h.ifSome
  · exact .ite h.putCrew.putJob.ifSome .none

theorem Canonical.unstall (h : Canonical s) {j : Job} : Canonical (s.unstall j) := h.putJob.ite (h.requestJob.putJob.ite h)

theorem Canonical.startJob (h : Canonical s) {j : Job} : Canonical (s.startJob j) := by
  refine h.unstall.ite (h.ite ?_)
  split
  · exact h
  · next u hu =>
    have hcredit : Canonical u := h.takeCredit u hu
    refine .ite (hcredit.requestJob.putJob.ite (hcredit.requestJob.putJob.ite hcredit)) ?_
    dsimp only
    split
    · exact (hcredit.foldl (·.xlatted)).sourceRead.failJob
    · exact (hcredit.foldl (·.xlatted)).sourceRead.askRows.putJob.ite
        ((hcredit.foldl (·.xlatted)).sourceRead.sendRows.elsewhere (by rfl)).putJob

theorem execJobFailure_canonical (h : Canonical s) {id : Nat} : NextCanonical (execJobFailure id s) := by
  refine Canonical.next ?_
  split
  · exact h
  · split
    · exact h
    · exact h.failJob.ite h

/-- The state in which an engine's write is made is in canonical form. -/
def MadeCanonical (w : EngineWrite) : Prop := ∀ t, w = .made t → Canonical t

theorem Canonical.made (h : Canonical s) : MadeCanonical (.made s) := by
  rintro _ ⟨⟩
  exact h

theorem MadeCanonical.held : MadeCanonical .held := nofun

theorem MadeCanonical.ite {p : Prop} [Decidable p] {w x : EngineWrite} (hw : MadeCanonical w) (hx : MadeCanonical x) :
    MadeCanonical (if p then w else x) := by
  split
  · exact hw
  · exact hx

theorem Canonical.engineWrite (h : Canonical s) {m : Maker} {unit : TlbUnit} {ptr : W64} {scope : Nat} {op : WriteOp} :
    MadeCanonical (s.engineWrite m unit ptr scope op) := by
  have hid : Canonical { s.xlatted unit m.asid ptr with nextId := s.nextId + 1 } := h.xlatted (u := unit) (asid := m.asid) (ptr := ptr)
  dsimp only [State.engineWrite]
  split
  · exact h.holdLate.made
  · refine .ite .held (.ite hid.holdLate.made ?_)
    split
    · exact Canonical.made (Canonical.perform hid)
    · exact Canonical.made (Canonical.perform hid)
    · exact Canonical.made (Canonical.perform hid)

theorem Canonical.addAndEnd (h : Canonical s) {j : Job} : Canonical (s.addAndEnd j) := by
  dsimp only [State.addAndEnd]
  split
  · exact h
  · split
    · exact h.putJob
    · next hmade => exact Canonical.elsewhere (h.engineWrite _ hmade) (by rfl)

theorem Canonical.postEvent (h : Canonical s) {crew : Option Nat} {rec : W64} {scope : Nat} : IfSomeCanonical (s.postEvent crew rec scope) := by
  unfold State.postEvent
  split
  · exact h.ifSome
  · exact .ite h.putCrew.ifSome .none

theorem Canonical.waitPost (h : Canonical s) {crew : Option Nat} {id : Nat} : Canonical (s.waitPost crew id) := by
  unfold State.waitPost
  split
  · exact h
  · exact h.putCrew

theorem Canonical.streamPush (h : Canonical s) {j : Job} : IfSomeCanonical (s.streamPush j) := by
  dsimp only [State.streamPush]
  split
  · exact h.ifSome
  · exact .ite h.ifSome (.ite h.putCrew.ifSome .none)

theorem Canonical.completeJob (h : Canonical s) {j : Job} : Canonical (s.completeJob j) := by
  refine h.addAndEnd.ite (h.ite ?_)
  split
  · exact h
  · next u hu =>
    have hpushed : Canonical u := h.streamPush u hu
    refine hpushed.addAndEnd.ite ?_
    split
    · next v hv => exact (hpushed.postEvent v hv).addAndEnd
    · exact hpushed.putJob.waitPost

theorem Canonical.dropCounters (h : Canonical s) {uid : Nat} : Canonical (s.dropCounters uid) := h

theorem Canonical.askCounters (h : Canonical s) {c : Cut} {ls : List (ItemAcc × Loc)} : Canonical (s.askCounters c ls) := by
  refine h.dropCounters.foldl ?_
  intro t p ht
  split
  · exact ht.ite ht.send
  · exact ht

theorem Canonical.counterDone (h : Canonical s) {c : Cut} {l : Nat} {d a b : Opnd} {ls : List (ItemAcc × Loc)} {u : Bool}
    : Canonical (s.counterDone c l d a b ls u) := h.dropCounters.writeLong.l1Flash.ite h.dropCounters.writeLong

theorem execCwait_canonical (h : Canonical s) {l : BitVec 4} {d a b : Opnd} : NextCanonical (execCwait l d a b s) := by
  refine operate_canonical h (h.hold.ite (h.write.ite (h.lanesOnly.ite ?_)))
  split
  · next u hu => exact checkAccess_canonical h u hu
  · split
    · exact h.raiseAt
    · extract_lets overdue go
      have hgo : ∀ {t k}, Canonical t → Canonical (go t k) := by
        intro t k ht
        refine Canonical.ite (Canonical.counterDone ?_) (.ite ?_ (Canonical.hold (Canonical.askCounters ?_))) <;>
          exact ht.millReads.putSec.ite (ht.translated.foldl (·.readAll))
      clear_value overdue go
      split
      · exact h.dropCounters.raiseAt
      · exact (h.inSection hgo).ite (hgo h)

theorem execCadd_canonical (h : Canonical s) {a b : Opnd} : NextCanonical (execCadd a b s) := operate_canonical h h.atomics

theorem execEvwait_canonical (h : Canonical s) {d : Opnd} : NextCanonical (execEvwait d s) := by
  refine operate_canonical h (h.ill.ite (h.hold.ite ?_))
  split
  · exact h.hold
  · split
    · exact h.hold
    · exact (h.putCrew.l1Flash.ite h.putCrew).write

theorem execEvpeek_canonical (h : Canonical s) {d : Opnd} : NextCanonical (execEvpeek d s) := operate_canonical h (h.ill.ite h.write)

/-! ### Collectives (R287 to R302) -/

theorem Canonical.rangeRead (h : Canonical s) {unit : TlbUnit} {asid : Nat} {ptr : W64} {n : Nat} : Canonical (s.rangeRead unit asid ptr n) :=
  h.ite (h.foldl (·.readPtr))

theorem Canonical.ownData (h : Canonical s) {cid : Nat} {o : CollOp} {off n : Nat} {go : State → List Byte → State}
    (hgo : ∀ {t bs}, Canonical t → Canonical (go t bs)) : Canonical (s.ownData cid o off n go) := by
  refine h.ite ?_
  dsimp only
  split
  · exact hgo h.rangeRead
  · exact h.rangeRead.report

theorem Canonical.collWrite (h : Canonical s) {cid : Nat} {o : CollOp} {off : Nat} {bs : List Byte} : Canonical (s.collWrite cid o off bs) :=
  h.report.ite h

theorem Canonical.sendChunk (h : Canonical s) {cid : Nat} {o : CollOp} {rank off : Nat} {bs : List Byte}
    : Canonical (s.sendChunk cid o rank off bs) := h.tell

theorem Canonical.spread (h : Canonical s) {cid : Nat} {o : CollOp} {off : Nat} {bs : List Byte} : Canonical (s.spread cid o off bs) := by
  unfold State.spread
  extract_lets x give
  have hgive : ∀ {t r off bs}, Canonical t → Canonical (give t r off bs) := fun ht => ht.collWrite.ite ht.sendChunk
  exact (hgive h).ite (h.foldl fun ht => (hgive ht).ite ((hgive ht).ite ht))

theorem Canonical.chainOn (h : Canonical s) {cid : Nat} {o : CollOp} {off : Nat} {bs : List Byte} : Canonical (s.chainOn cid o off bs) :=
  h.sendChunk.ite h.spread

theorem Canonical.begin (h : Canonical s) {cid : Nat} {o : CollOp} : Canonical (s.begin cid o) := by
  unfold State.begin
  extract_lets x k told each toAll
  have htold : Canonical told := h.ite h.tell
  have heach : ∀ {t n go}, (∀ {u off bs}, Canonical u → Canonical (go u off bs)) → Canonical t → Canonical (each t n go) :=
    fun hgo ht => ht.foldl (·.ownData hgo)
  have hall : ∀ {t off bs}, Canonical t → Canonical (toAll t off bs) := fun ht => ht.foldl (·.sendChunk)
  clear_value told each toAll
  split
  · exact htold
  · exact heach (fun ht => (hall ht).collWrite) htold
  · exact (heach (fun ht => (hall ht).collWrite) htold).ite htold
  · exact htold.ite (heach (fun ht => ht.spread.ite ht.chainOn) htold)

theorem Canonical.takeChunk (h : Canonical s) {cid : Nat} {o : CollOp} {rank off : Nat} {bs : List Byte}
    : Canonical (s.takeChunk cid o rank off bs) := by
  dsimp only [State.takeChunk]
  split
  · exact h.putOp
  · exact h.putOp.collWrite
  · exact h.putOp.collWrite
  · exact (h.putOp.ownData (·.chainOn)).ite h.putOp.collWrite

theorem Canonical.takeFields (h : Canonical s) {cid : Nat} {o : CollOp} {rank : Nat} {vals : List Nat}
    : Canonical (s.takeFields cid o rank vals) := h.ite (h.putOp.ite h.putOp.report)

theorem Canonical.takeReport (h : Canonical s) {cid seq rank reason failrank : Nat} : Canonical (s.takeReport cid seq rank reason failrank) := by
  unfold State.takeReport
  extract_lets k sendNone decideWith
  have hsend : ∀ {t first}, Canonical t → Canonical (sendNone t first) := fun ht => ht.tell.ite ht
  have hdecide : ∀ {t rs}, Canonical t → Canonical (decideWith t rs) := fun ht => ht.arbitrate.ite ht
  refine h.ite ?_
  split
  · exact hdecide (hsend h.putOp)
  · exact h.ite (hdecide (hsend h.putComm))

theorem Canonical.keepFor (h : Canonical s) {cid : Nat} {m : CollMsg} : Canonical (s.keepFor cid m) := h.putComm

theorem Canonical.receive (h : Canonical s) {cid : Nat} {m : CollMsg} : Canonical (s.receive cid m) := by
  dsimp only [State.receive]
  split
  · exact h.keepFor.ite h
  · refine h.keepFor.ite ?_
    split
    · exact h.takeChunk.ite h
    · exact h.takeFields
    · exact h.putOp.ite h

theorem Canonical.openInbox (h : Canonical s) {cid seq : Nat} : Canonical (s.openInbox cid seq) := h.putComm.foldl (·.receive)

theorem execChunkArrival_canonical (h : Canonical s) {cid seq rank off : Nat} {bytes : List Byte}
    : NextCanonical (execChunkArrival cid seq rank off bytes s) := h.receive.next

theorem execControlFlit_canonical (h : Canonical s) {cid seq rank : Nat} {fields : List Nat}
    : NextCanonical (execControlFlit cid seq rank fields s) := h.receive.next

theorem execCompletionNotice_canonical (h : Canonical s) {cid seq : Nat} : NextCanonical (execCompletionNotice cid seq s) := h.receive.next

theorem execAbortReport_canonical (h : Canonical s) {cid seq rank reason failrank : Nat}
    : NextCanonical (execAbortReport cid seq rank reason failrank s) := h.takeReport.next

theorem execArbiterWord_canonical (h : Canonical s) {cid seq : Nat} {word : W64} : NextCanonical (execArbiterWord cid seq word s) :=
  (h.settled.ite h).next

theorem Canonical.startOp (h : Canonical s) {cid : Nat} {o : CollOp} : Canonical (s.startOp cid o) := h.ite h.putOp.begin.openInbox

theorem Canonical.enterOp (h : Canonical s) {cid : Nat} {o : CollOp} {broken : Option (Nat × Nat)} {x : Option Settling}
    : Canonical (s.enterOp cid o broken x) := by
  refine h.endOp.ite ?_
  split
  · exact h.endOp
  · split
    · exact h.endOp
    · exact h.putOp.openInbox
  · exact ((h.foldl (·.tell)).ite h).openInbox

theorem Canonical.issueOp (h : Canonical s) {m : Maker} {w : List W64} {handle : W64} : Canonical (s.issueOp m w handle).1 := by
  refine Canonical.enterOp ?_
  exact h

theorem Canonical.issueColl (h : Canonical s) {c : Cut} {l : Nat} {d a b : Opnd} {w : List W64} {handle : W64}
    : Canonical (s.issueColl c l d a b w handle) := by
  refine h.queueEffect.await.ite (Canonical.writeLong ?_)
  exact h.issueOp

theorem execColl_canonical (h : Canonical s) {l : BitVec 4} {d a b : Opnd} : NextCanonical (execColl l d a b s) := by
  refine operate_canonical h (h.ill.ite ?_)
  split
  · exact h.write.ite (h.hold.ite ((h.cardRead.rejected.ite h.cardRead).raiseAll.ite (h.hold.ite (h.hold.ite h.cardRead.issueColl))))
  · exact h.ill

theorem execCstat_canonical (h : Canonical s) {d a b : Opnd} : NextCanonical (execCstat d a b s) := by
  refine operate_canonical h ?_
  intro c
  split
  · exact h.ill
  · exact h.ill.ite (h.hold.ite (h.hold.ite (h.l1Flash.ite h).write))

theorem Canonical.cancelOp (h : Canonical s) {id : Nat} : Canonical (s.cancelOp id) := by
  unfold State.cancelOp
  split
  · exact h
  · split
    · exact h
    · exact h.ite h.report

theorem execCabort_canonical (h : Canonical s) {a : Opnd} : NextCanonical (execCabort a s) := by
  refine operate_canonical h ?_
  intro c
  split
  · exact h.ill
  · refine h.ill.ite (h.hold.ite ?_)
    split
    · exact h.complete
    · exact (h.queueEffect.ite h.cancelOp).complete

theorem execCollectiveDeadline_canonical (h : Canonical s) {cid seq : Nat} : NextCanonical (execCollectiveDeadline cid seq s) := by
  refine Canonical.next ?_
  dsimp only
  split
  · exact h
  · refine h.ite ?_
    split
    · exact h.report
    · exact h

theorem execAgreementWindowExpiry_canonical (h : Canonical s) {cid seq : Nat} : NextCanonical (execAgreementWindowExpiry cid seq s) := by
  refine Canonical.next ?_
  dsimp only
  split
  · exact h.arbitrate.ite h
  · exact h

theorem execIsolatedEnding_canonical (h : Canonical s) {cid seq : Nat} : NextCanonical (execIsolatedEnding cid seq s) := by
  refine Canonical.next ?_
  dsimp only
  split
  · refine h.ite ?_
    split
    · exact h.settled
    · exact h
  · exact h

theorem Canonical.opAdd (h : Canonical s) {cid : Nat} {o : CollOp} : Canonical (s.opAdd cid o) := by
  dsimp only [State.opAdd]
  split
  · exact h.putComm
  · split
    · exact h.putOp
    · next hmade => exact Canonical.putComm (h.engineWrite _ hmade)

theorem Canonical.opEvent (h : Canonical s) {cid : Nat} {o : CollOp} {word : W64} : Canonical (s.opEvent cid o word) := by
  refine h.opAdd.ite ?_
  split
  · next u hu => exact (h.postEvent u hu).opAdd
  · exact h.putOp.waitPost

theorem Canonical.notifyDone (h : Canonical s) {cid : Nat} {o : CollOp} : Canonical (s.notifyDone cid o) := h.putOp.tellAll.ite h

theorem Canonical.keepWord (h : Canonical s) {cid : Nat} {o : CollOp} {word : W64} : Canonical (s.keepWord cid o word) :=
  (h.ite h.putComm).putOp.opEvent

theorem Canonical.landOp (h : Canonical s) {cid : Nat} {o : CollOp} {word : W64} : Canonical (s.landOp cid o word) := by
  unfold State.landOp
  extract_lets x kept
  have hkept : Canonical kept := h.ite h
  clear_value kept
  split
  · refine hkept.ite ?_
    have hnotified : Canonical (if fld word 62 2 = 1 then kept.notifyDone cid o else kept) := hkept.notifyDone.ite hkept
    refine hnotified.keepWord.ite ?_
    split
    · exact hnotified
    · next hmade => exact Canonical.keepWord (hnotified.engineWrite _ hmade)
  · exact hkept.opAdd
  · exact hkept

theorem Canonical.finishOp (h : Canonical s) {cid : Nat} {o : CollOp} : Canonical (s.finishOp cid o) := h.ite h.endOp

theorem Canonical.completeOp (h : Canonical s) {cid : Nat} {o : CollOp} : Canonical (s.completeOp cid o) := by
  dsimp only [State.completeOp]
  split
  · exact h.finishOp
  · split
    · exact h.finishOp.ite h.finishOp.landOp
    · exact h.finishOp

/-! ### Completions and posts (R229, R231, R297) -/

theorem execJobStart_canonical (h : Canonical s) {id : Nat} : NextCanonical (execJobStart id s) := by
  refine Canonical.next ?_
  split
  · exact h.startJob
  · split
    · split
      · exact h.startOp
      · exact h
    · exact h

theorem execJobCompletion_canonical (h : Canonical s) {id : Nat} : NextCanonical (execJobCompletion id s) := by
  refine Canonical.next ?_
  split
  · exact h.ite h.completeJob
  · split
    · split
      · exact h.completeOp
      · exact h
    · exact h

theorem Canonical.postNext (h : Canonical s) {key : Nat} : Canonical (s.postNext key) := by
  unfold State.postNext
  split
  · exact h
  · split
    · exact h
    · refine h.ite ?_
      dsimp only
      split
      · exact h.putCrew.addAndEnd
      · split
        · exact h.putCrew
        · split
          · exact h.putCrew.opAdd
          · exact h.putCrew

theorem execEventPost_canonical (h : Canonical s) {key : Nat} : NextCanonical (execEventPost key s) := by
  refine Canonical.next ?_
  split
  · exact h
  · exact h.ite h.postNext

/-! ### Residence (R34 to R39) -/

theorem Canonical.recordRead (h : Canonical s) {asid : Nat} {ptr : W64} : Canonical (s.recordRead asid ptr) :=
  h.ite (h.rangeRead.foldl fun ht => ht.ite ht.rangeRead)

theorem Canonical.putSlice (h : Canonical s) {x : Slice} : Canonical (s.putSlice x) := h

theorem Canonical.placeFamily (h : Canonical s) {c : Cut} {p : Place} : Canonical (s.placeFamily c p) := h

theorem execCutQueueIssue_canonical (h : Canonical s) {bench quad : Nat} : NextCanonical (execCutQueueIssue bench quad s) := by
  refine Canonical.next ?_
  split
  · exact h.placeFamily
  · exact h

theorem Canonical.standDown (h : Canonical s) {key : Nat} : Canonical (s.standDown key) := h

theorem Canonical.saveCut (h : Canonical s) {c : Cut} : Canonical (s.saveCut c) := by
  unfold State.saveCut
  extract_lets all t
  have ht : Canonical t := (h.foldl (·.settleBench)).foldl (·.saveClaims.putCut)
  refine (h.foldl (·.putCut)).ite ?_
  clear_value t
  split
  · exact ht.evictAll.standDown
  · exact ht

/-! ### Queues, admission and launch (R323 to R333) -/

theorem execQtailWrite_canonical (h : Canonical s) {queue : Nat} {v : W64} : NextCanonical (execQtailWrite queue v s) :=
  (h.setField.ite h.setReg).next

theorem execQstatWrite_canonical (h : Canonical s) {queue : Nat} {v : W64} : NextCanonical (execQstatWrite queue v s) := h.setReg.next

theorem Canonical.putTaken (h : Canonical s) {t : Taken} : Canonical (s.putTaken t) := h

theorem Canonical.dropTaken (h : Canonical s) {q : Nat} : Canonical (s.dropTaken q) := h

theorem Canonical.awaitPage (h : Canonical s) {t : Taken} {part : Nat} {ptr : W64} : Canonical (s.awaitPage t part ptr) := by
  dsimp only [State.awaitPage]
  split
  · exact h.ite h.request.putTaken
  · exact h.request.putTaken

theorem Canonical.passHead (h : Canonical s) {t : Taken} : Canonical (s.passHead t) := h.setReg

theorem Canonical.enterEntry (h : Canonical s) {t : Taken} {part : Nat} : Canonical (s.enterEntry t part) := by
  unfold State.enterEntry
  extract_lets first enter go
  have hfirst : Canonical first := h.rangeRead
  have henter : ∀ {u k}, Canonical u → Canonical (enter u k) := fun hu => hu.passHead.putTaken
  have hgo : ∀ {k}, Canonical (go k) := henter hfirst
  clear_value first go
  split
  · exact hgo
  · exact h.awaitPage
  · refine hgo.ite (hgo.ite ?_)
    split
    · exact hgo
    · exact h.awaitPage
    · dsimp only
      split
      · exact h.awaitPage
      · exact hgo
      · exact henter hfirst.rangeRead

theorem execEntryTake_canonical (h : Canonical s) {queue : Nat} : NextCanonical (execEntryTake queue s) := by
  refine Canonical.next ?_
  split
  · exact h
  · split
    · exact h.ite h.enterEntry
    · refine h.ite (Canonical.enterEntry ?_)
      exact h

theorem Canonical.recorded (h : Canonical s) {l : Launch} : Canonical (s.recorded l) := by
  refine Canonical.ite (Canonical.interrupt ?_) ?_
  · exact h
  · exact h

theorem Canonical.dropRecord (h : Canonical s) {l : Launch} : Canonical (s.dropRecord l) := h.setField.recorded

theorem Canonical.writeRecord (h : Canonical s) {l : Launch} : Canonical (s.writeRecord l) := by
  refine h.recorded.ite ?_
  split
  · exact h.ite h.request.putLaunch
  · exact h.ite (h.dropRecord.ite h.xlatted.putAt.recorded)

theorem execCompletionRecordWaitLimit_canonical (h : Canonical s) {lid : Nat} : NextCanonical (execCompletionRecordWaitLimit lid s) := by
  refine Canonical.next ?_
  split
  · exact h
  · exact h.dropRecord.ite h

theorem Canonical.listRecorded (h : Canonical s) {queue index : Nat} : Canonical (s.listRecorded queue index) := h

theorem Canonical.dropTakenOf (h : Canonical s) {l : Launch} : Canonical (s.dropTakenOf l) := h

theorem Canonical.finish (h : Canonical s) {l : Launch} : Canonical (s.finish l) := by
  unfold State.finish
  extract_lets left
  have hleft : Canonical left := h
  exact hleft.putLaunch.ite (hleft.putLaunch.listRecorded.dropTakenOf.ite (hleft.putLaunch.ite hleft.putLaunch.listRecorded))

theorem execLaunchCompletion_canonical (h : Canonical s) {lid : Nat} : NextCanonical (execLaunchCompletion lid s) := by
  refine Canonical.next ?_
  split
  · exact h
  · split
    · exact h.finish.ite h
    · exact h.writeRecord
    · exact h

theorem Canonical.rejectEntry (h : Canonical s) {t : Taken} {part reason : Nat} : Canonical (s.rejectEntry t part reason) := by
  unfold State.rejectEntry
  extract_lets passed named gone l
  have hpassed : Canonical passed := h.ite h.passHead
  have hnamed : Canonical named := hpassed.setField.setField
  have hgone : Canonical gone := hnamed.dropTaken.listRecorded
  exact hgone.elsewhere rfl

theorem Canonical.descriptorRead (h : Canonical s) {asid : Nat} : Canonical (s.descriptorRead asid) := h.readAll.ite h.readAll.walkError

theorem Canonical.meetContext (h : Canonical s) {asid : Nat} : Canonical (s.meetContext asid) := h.ite h.descriptorRead

theorem Canonical.requestRanges (h : Canonical s) {l : Launch} : Canonical (s.requestRanges l) := h.foldl (·.foldl (·.request))

theorem Canonical.copyParams (h : Canonical s) {asid slot : Nat} {bs : List Byte} : Canonical (s.copyParams asid slot bs) := by
  dsimp only [State.copyParams]
  split
  · exact h
  · exact h.xlatted.putAt.dropLines

theorem Canonical.nextRecord (h : Canonical s) {t : Taken} {r : Record} : Canonical (s.nextRecord t r) := h.dropTaken.ite h.putTaken

theorem Canonical.admitRecord (h : Canonical s) {t : Taken} {part : Nat} {r : Record} : Canonical (s.admitRecord t part r) := by
  unfold State.admitRecord
  extract_lets go
  have hgo : ∀ {u slot}, Canonical u → Canonical (go u slot) := by
    intro u slot hu
    refine (Canonical.meetContext ?_).requestRanges.nextRecord
    exact hu
  refine (hgo h).ite ?_
  split
  · exact h
  · exact h.ite (h.awaitPage.ite (hgo h.copyParams))

theorem execAdmission_canonical (h : Canonical s) {queue : Nat} : NextCanonical (execAdmission queue s) := by
  refine Canonical.next ?_
  split
  · extract_lets v read
    have hread : Canonical read := h.recordRead.ite h
    clear_value v read
    refine hread.ite ?_
    split
    · exact hread.rejectEntry
    · exact hread.awaitPage
    · exact hread.ite hread.admitRecord
  · exact h

theorem execAdmissionWaitLimit_canonical (h : Canonical s) {queue : Nat} : NextCanonical (execAdmissionWaitLimit queue s) := by
  refine Canonical.next ?_
  split
  · exact h
  · dsimp only
    split
    · exact h
    · refine h.ite (h.rejectEntry.ite ?_)
      split
      · exact h.rejectEntry
      · exact h.rejectEntry
      · exact h.rejectEntry

theorem execPreMigration_canonical (h : Canonical s) {lid range page frame : Nat} : NextCanonical (execPreMigration lid range page frame s) := by
  refine Canonical.next ?_
  extract_lets l
  split
  · exact h
  · extract_lets ptrs
    split
    · exact h
    · extract_lets e size entry old near w copied dropped
      have hdropped : Canonical dropped := h.devPut.devPut.dropLines
      exact h.ite (hdropped.elsewhere rfl)

theorem execDispatch_canonical (h : Canonical s) {lid : Nat} : NextCanonical (execDispatch lid s) := by
  refine Canonical.next ?_
  split
  · exact h
  · split
    · exact h
    · exact h

theorem Canonical.enqueue (h : Canonical s) {l : Launch} {q : Nat} {e : List W64} : Canonical (s.enqueue l q e).2 := by
  dsimp only [State.enqueue]
  split
  · exact h
  · split
    · exact h
    · split
      · exact h
      · split
        · exact h
        · refine Canonical.setReg ?_
          split
          · exact h.putAt
          · exact h

theorem execLaunch_canonical (h : Canonical s) {l : BitVec 4} {d a b : Opnd} : NextCanonical (execLaunch l d a b s) := by
  refine operate_canonical h (h.complete.ite (h.ill.ite ?_))
  split
  · refine h.ill.ite (h.hold.ite (h.raiseAll.ite ?_))
    split
    · exact h.raiseAll
    · refine (h.xlatted.readPtr.queueEffect.await.endQuantum).ite (Canonical.writeLong ?_)
      exact h.xlatted.readPtr.enqueue
  · exact h.ill

/-! ### Tile handles and Looms (R233 to R258) -/

theorem Canonical.handles (h : Canonical s) {c : Cut} {d : Opnd} {srcs : List Opnd} {f : List W64 → Option W64}
    : Canonical (s.handles c d srcs f) := by
  unfold State.handles
  extract_lets vals atLane
  clear_value vals atLane
  refine .ite (h.write.ite ?_) (h.lanesOnly.ite (h.ill.ite h.write))
  split
  · exact h.write
  · exact h.ill

theorem execThmake_canonical (h : Canonical s) {d a b : Opnd} : NextCanonical (execThmake d a b s) := operate_canonical h h.handles

theorem execThoff_canonical (h : Canonical s) {d a : Opnd} : NextCanonical (execThoff d a s) := operate_canonical h h.handles

theorem execThshape_canonical (h : Canonical s) {d a : Opnd} : NextCanonical (execThshape d a s) := operate_canonical h h.handles

theorem Canonical.askPieces (h : Canonical s) {loom : Nat} {o : LoomOp} {rows : List Row} : Canonical (s.askPieces loom o rows) := by
  refine h.foldl ?_
  intro t p ht
  dsimp only
  split
  · exact ht.xlatted.ite (ht.xlatted.send.elsewhere (by rfl))
  · exact ht.xlatted.readAll
  · exact ht.xlatted

theorem Canonical.keepTile (h : Canonical s) {t : WTile} : Canonical (s.keepTile t) := h

theorem Canonical.bringTile (h : Canonical s) {loom : Nat} {o : LoomOp} {m : TileMap} {l0 k0 : Nat} : Canonical (s.bringTile loom o m l0 k0)
    := by
  unfold State.bringTile
  split
  · exact h
  · exact h
  · exact h.ite (h.keepTile.foldl (·.readAll))

theorem Canonical.putLoom (h : Canonical s) {m : Loom} : Canonical (s.putLoom m) := h

theorem Canonical.claimLoom (h : Canonical s) {n : Nat} {k : Nat × Nat} : Canonical (s.claimLoom n k) := h.ite h.putLoom

theorem Canonical.queueOps (h : Canonical s) {items : List (LoomOp × Nat × (Nat × Nat))} {coord : BitVec 14}
    : Canonical (s.queueOps items coord) := by
  refine h.foldl ?_
  intro t p ht
  refine Canonical.putLoom ?_
  exact ht.claimLoom.elsewhere rfl

theorem Canonical.rowsFail (h : Canonical s) {c : Cut} {items bad : List (Nat × List (Nat × W64))} : Canonical (s.rowsFail c items bad) :=
  h.lanesOnly.ite h.stop

/-- The state in which a check of an accumulator instruction has failed is in canonical form. -/
def FailedCanonical {α : Type} (r : State ⊕ α) : Prop := ∀ t, r = .inl t → Canonical t

theorem Canonical.failed {α : Type} (h : Canonical s) : FailedCanonical (.inl s : State ⊕ α) := by
  rintro _ ⟨⟩
  exact h

theorem FailedCanonical.ite {α : Type} {p : Prop} [Decidable p] {r q : State ⊕ α} (hr : FailedCanonical r) (hq : FailedCanonical q) :
    FailedCanonical (if p then r else q) := by
  split
  · exact hr
  · exact hq

theorem Canonical.loomChecks (h : Canonical s) {c : Cut} {u : LoomUse} {is : List Nat} : FailedCanonical (s.loomChecks c u is) :=
  .ite h.ill.failed (.ite h.ill.failed (.ite h.hold.failed (.ite h.hold.failed (.ite h.ill.failed (.ite h.raiseAll.failed
    (.ite h.rowsFail.failed nofun))))))

theorem Canonical.queueItems (h : Canonical s) {part : Nat} {coord : BitVec 14} {items : List (Nat × LoomOp × Nat × (Nat × Nat))} :
    Canonical (s.queueItems part coord items).1 := by
  induction items generalizing s with
  | nil => exact h
  | cons p ps ih =>
    dsimp only [State.queueItems]
    rw [apply_ite Prod.fst, apply_ite Prod.fst]
    exact h.ite (h.ite (ih h.queueOps))

theorem Canonical.issueLoom (h : Canonical s) {c : Cut} {u : LoomUse} {items : List (Nat × LoomOp × Nat × (Nat × Nat))}
    : Canonical (s.issueLoom c u items) := by
  dsimp only [State.issueLoom]
  split
  · exact (h.queueItems.elsewhere (by rfl)).complete
  · exact (h.queueItems.elsewhere (by rfl)).hold

theorem Canonical.accumulate (h : Canonical s) {c : Cut} {u : LoomUse} {d : Opnd} : Canonical (s.accumulate c u d) := by
  unfold State.accumulate
  extract_lets is keys goOn
  have hgo : ∀ {ops}, Canonical (goOn ops) := by
    intro ops
    dsimp only [goOn]
    split
    · exact h.hold
    · exact h.hold.ite ((h.foldl (·.claimLoom)).write.ite (h.foldl (·.claimLoom)).issueLoom)
  clear_value is goOn
  refine hgo.ite (h.ill.ite ((h.write.ite h.complete).ite ?_))
  split
  · next hfailed => exact h.loomChecks _ hfailed
  · exact h.hold.ite (h.hold.ite (h.saveCut.ite hgo))

theorem execMld_canonical (h : Canonical s) {d a b : Opnd} : NextCanonical (execMld d a b s) := operate_canonical h h.accumulate

theorem execMma_canonical (h : Canonical s) {d a b : Opnd} : NextCanonical (execMma d a b s) := operate_canonical h h.accumulate

theorem execMmap_canonical (h : Canonical s) {a : Opnd} {m : BitVec 14} : NextCanonical (execMmap a m s) := operate_canonical h h.accumulate

theorem execMzero_canonical (h : Canonical s) {d : Opnd} : NextCanonical (execMzero d s) := operate_canonical h h.accumulate

theorem execMdrn_canonical (h : Canonical s) {d a b : Opnd} : NextCanonical (execMdrn d a b s) := operate_canonical h h.accumulate

theorem execMstat_canonical (h : Canonical s) {d a : Opnd} : NextCanonical (execMstat d a s) := operate_canonical h h.accumulate

theorem Canonical.bringTiles (h : Canonical s) {c : Cut} {loom : Nat} {m : TileMap} {o : LoomOp} {handle n : W64} :
    Canonical (s.bringTiles c loom m o handle n) := h.foldl fun ht => ht.bringTile.ite ht

theorem execMwb_canonical (h : Canonical s) {a b : Opnd} : NextCanonical (execMwb a b s) := by
  refine operate_canonical h (h.foldl ?_).complete
  intro t i ht
  split
  · exact ht.bringTiles
  · exact ht

theorem execMtest_canonical (h : Canonical s) {d : Opnd} : NextCanonical (execMtest d s) := by
  refine operate_canonical h (h.ill.ite (h.write.ite ?_))
  split
  · exact h.putLoom.write.ite h.putLoom.hold
  · exact h.putLoom.hold.ite h.hold

theorem execMfenced_canonical (h : Canonical s) {d : Opnd} : NextCanonical (execMfenced d s) := operate_canonical h (h.ill.ite h.write)

theorem Canonical.retireOp (h : Canonical s) {n : Nat} {o : LoomOp} : Canonical (s.retireOp n o) := by
  dsimp only [State.retireOp]
  split
  · exact h.putLoom.putLoom
  · exact h.putLoom

theorem Canonical.popStep (h : Canonical s) {n : Nat} {o : LoomOp} {stream off : Nat} (ht : s.popStep n o stream = some (off, t)) :
    Canonical t := by
  dsimp only [State.popStep] at ht
  split at ht
  · cases ht
    exact h
  · split at ht
    · cases ht
    · cases ht
      exact (h.putCrew.l1Flash.ite h.putCrew).elsewhere (by rfl)

theorem Canonical.bringB (h : Canonical s) {n : Nat} {o : LoomOp} {mb : TileMap} : Canonical (s.bringB n o mb) := h.foldl (·.bringTile)

theorem Canonical.operandError (h : Canonical s) {n : Nat} {err : Bool} : Canonical (s.operandError n err) := h.countUp.ite h

theorem Canonical.applyStep (h : Canonical s) {n : Nat} {o : LoomOp} {fmt : Nat} {ta : Tile} {tbs : List Tile}
    : Canonical (s.applyStep n o fmt ta tbs) := h.putLoom.operandError.retireOp.ite h.putLoom.operandError

theorem Canonical.productStep (h : Canonical s) {n : Nat} {o : LoomOp} : Canonical (s.productStep n o) := by
  dsimp only [State.productStep]
  split
  · exact h.retireOp
  · refine h.retireOp.ite ?_
    split
    · split
      · next hpop => exact (h.askPieces.bringB.popStep hpop).applyStep
      · exact h.askPieces.bringB
    · split
      · exact h.askPieces.bringB.applyStep
      · exact h.askPieces.bringB
    · exact h.retireOp

theorem Canonical.beginPair (h : Canonical s) {n : Nat} {o p : LoomOp} (ht : s.beginPair n o = some (t, p)) : Canonical t := by
  dsimp only [State.beginPair] at ht
  split at ht
  · cases ht
    exact h
  · split at ht
    · split at ht
      · cases ht
        exact h.putLoom
      · cases ht
        exact h
    · split at ht
      · cases ht
        exact h.putLoom
      · split at ht
        · cases ht
          exact h.putLoom.putLoom
        · cases ht

theorem Canonical.loadStep (h : Canonical s) {n : Nat} {o : LoomOp} : Canonical (s.loadStep n o) :=
  h.askPieces.ite h.askPieces.putLoom.operandError.retireOp

theorem Canonical.reclaim (h : Canonical s) {n : Nat} : Canonical (s.reclaim n) := by
  dsimp only [State.reclaim]
  split
  · exact h
  · refine Canonical.putLoom ?_
    exact h

theorem Canonical.loomStep (h : Canonical s) {n : Nat} : Canonical (s.loomStep n) := by
  refine h.ite ?_
  split
  · exact h.reclaim.ite h
  · refine h.ite ?_
    split
    · exact h.loadStep
    · exact h.putLoom.retireOp
    · exact h
    · split
      · next hpair => exact (h.beginPair hpair).productStep
      · exact h

theorem execLoomStep_canonical (h : Canonical s) {loom : Nat} : NextCanonical (execLoomStep loom s) := h.loomStep.settleConds.next

theorem Canonical.drainStores (h : Canonical s) {n : Nat} {o : LoomOp} {ws : List (W64 × List Byte)} : Canonical (s.drainStores n o ws) := by
  unfold State.drainStores
  extract_lets parts unit entered bytes recs numbered made
  have hentered : Canonical entered := h.foldl (·.xlatted)
  have hnumbered : Canonical numbered := hentered
  have hmade : Canonical made := .ite (hnumbered.elsewhere rfl) hnumbered
  exact hmade.foldl (·.holdLate)

theorem execLoomDrain_canonical (h : Canonical s) {loom : Nat} : NextCanonical (execLoomDrain loom s) := by
  refine Canonical.next ?_
  dsimp only
  split
  · exact h
  · refine h.ite (Canonical.retireOp ?_).putLoom.settleConds
    split
    · exact h.drainStores
    · exact h

theorem Canonical.fenceSubs (h : Canonical s) {n : Nat} {subs : List Nat} : Canonical (s.fenceSubs n subs) :=
  h.foldl fun ht => ht.setReg.ite ht.setField

theorem Canonical.evictLoom (h : Canonical s) {n : Nat} : Canonical (s.evictLoom n) := by
  unfold State.evictLoom
  split
  · exact h
  · exact h.saveLooms.ite h.saveCut

theorem Canonical.suspectAcc (h : Canonical s) {key : Nat × Nat} {a : Nat} : Canonical (s.suspectAcc key a) := h

theorem execSelfTest_canonical (h : Canonical s) {loom : Nat} {first second : BitVec 16} : NextCanonical (execSelfTest loom first second s) := by
  refine Canonical.next ?_
  extract_lets m fenced fail again counted marked k told u
  have hmarked : Canonical marked := h.countUp.ite (h.countUp.foldl (·.suspectAcc))
  have hu : Canonical u := hmarked.putLoom.fenceSubs
  exact h.ite (hu.evictLoom.ite hu)

/-! ### Mills (R259 to R286) -/

theorem Canonical.putMill (h : Canonical s) {m : Mill} : Canonical (s.putMill m) := h

theorem Canonical.sendMill (h : Canonical s) {m : Maker} {mill : Nat} {card : List W64} : Canonical (s.sendMill m mill card) := h.putLaunch.putMill

theorem execMsend_canonical (h : Canonical s) {l : BitVec 4} {a : Opnd} {m : BitVec 14} : NextCanonical (execMsend l a m s) := by
  refine operate_canonical h ?_
  intro c
  extract_lets v items mill issue
  have hissue : ∀ {t k xs}, Canonical t → Canonical (issue t k xs) := fun ht => .issueSome (ht.issueCards (·.sendMill))
  exact (hissue h).ite (h.complete.ite (h.hold.ite (h.hold.ite (h.returnTrap.ite (h.cardsFail.ite (h.cardsIssue hissue))))))

theorem execMillCutStart_canonical (h : Canonical s) {mill : Nat} : NextCanonical (execMillCutStart mill s) := by
  refine Canonical.next ?_
  dsimp only
  split
  · exact .ite (h.elsewhere rfl) h
  · exact h

theorem execRefreshStart_canonical (h : Canonical s) {mill : Nat} : NextCanonical (execRefreshStart mill s) := h.putMill.next

theorem execRefreshEnd_canonical (h : Canonical s) {mill : Nat} : NextCanonical (execRefreshEnd mill s) := h.putMill.next

theorem Canonical.wf_mem (h : Canonical s) : Memory.wf s.mem = true := by
  obtain ⟨hmem, -, -⟩ := h
  exact hmem

theorem Canonical.withMem (h : Canonical s) (hmem : Memory.wf t.mem = true) (ht : (t.host, t.win) = (s.host, s.win)) : Canonical t := by
  obtain ⟨-, hhost, hwin⟩ := h
  obtain ⟨hhost', hwin'⟩ : t.host = s.host ∧ t.win = s.win := by simpa using ht
  exact ⟨hmem, hhost' ▸ hhost, hwin' ▸ hwin⟩

theorem Canonical.dropWrites (h : Canonical s) {ps : List Nat} : Canonical (s.dropWrites ps) := dropWrites_canonical s _ h

theorem Canonical.noteWrite (h : Canonical s) {sec : Nat} : Canonical (s.noteWrite sec) := noteWrite_canonical s _ h

theorem Canonical.dropViews (h : Canonical s) {p : Nat} : Canonical (s.dropViews p) := dropViews_canonical s _ h

theorem putCells_wf {buf m : List Host.Cell} (hm : Memory.wf m = true) : Memory.wf (buf.foldl (fun m p => cellPut p.1 p.2 m) m) = true := by
  simpa using foldl_cellPut_wf Prod.fst Prod.snd (fun _ => true) buf m hm

theorem Canonical.drain (h : Canonical s) {buf : List Host.Cell} : Canonical (s.drain buf) := by
  unfold State.drain
  extract_lets seen buf dropped secs drained noted
  have hdropped : Canonical dropped := h.dropWrites
  have hdrained : Canonical drained := hdropped.withMem (putCells_wf hdropped.wf_mem) rfl
  have hnoted : Canonical noted := hdrained.foldl (·.noteWrite)
  exact hnoted.foldl (·.dropViews)

theorem Canonical.issueHeld (h : Canonical s) {c : Cut} {x : HeldIssue} : Canonical (s.issueHeld c x) := (h.sendMill.ite h.addJob).elsewhere (by rfl)

theorem Canonical.leaveAssay (h : Canonical s) {c : Cut} : Canonical (s.leaveAssay c) := h

theorem Canonical.afterCommit (h : Canonical s) {c : Cut} {implicit : Bool} : Canonical (s.afterCommit c implicit) :=
  h.putCut.ite (h.endCut.ite h.write)

theorem Canonical.commitSection (h : Canonical s) {c : Cut} : Canonical (s.commitSection c) := by
  dsimp only [State.commitSection]
  split
  · exact (h.putSec.drain.foldl (·.issueHeld)).afterCommit
  · exact h.putSec.drain.foldl (·.issueHeld)

theorem Canonical.assayTest (h : Canonical s) {c : Cut} : Canonical (s.assayTest c) := h.leaveAssay.discard.ite h.leaveAssay.commitSection

theorem execAssayCommit_canonical (h : Canonical s) {stack : Nat} : NextCanonical (execAssayCommit stack s) := by
  refine Canonical.next ?_
  split
  · exact h.assayTest
  · exact h

theorem Canonical.quantumCommits (h : Canonical s) {lid : Nat} : Canonical (s.quantumCommits lid) := by
  refine h.foldl ?_
  intro t st ht
  refine foldl_fst_canonical (p := (t, false)) ht ?_
  intro q d hq
  split
  · exact hq
  · split
    · exact hq
    · split
      · exact hq
      · exact hq.assayTest

theorem execFlushedAttemptStart_canonical (h : Canonical s) {stack : Nat} : NextCanonical (execFlushedAttemptStart stack s) := by
  refine Canonical.next ?_
  dsimp only
  split
  · split
    · exact h.putAssay
    · exact ((h.foldl (·.writeBack)).elsewhere (by rfl)).putAssay.hold
  · exact h

theorem execFlushedLimit_canonical (h : Canonical s) {uid : Nat} : NextCanonical (execFlushedLimit uid s) := by
  refine Canonical.next ?_
  split
  · exact h.returnTrap.ite h
  · exact h

theorem Canonical.openSection (h : Canonical s) {c : Cut} {w l : Nat} : Canonical (s.openSection c w l) := by
  unfold State.openSection
  extract_lets start go
  have hstart : ∀ {y}, Canonical (start y) := h.putSec.advance
  have hgo : ∀ {fl y}, Canonical (go fl y) := h.askFlush.ite hstart
  exact hgo.ite (hgo.ite h.ill)

theorem Canonical.openOnBench (h : Canonical s) {c : Cut} {w l : Nat} : Canonical (s.openOnBench c w l) := h.advance.ite (h.advance.ite h.ill)

theorem execMsect_canonical (h : Canonical s) {w : BitVec 4} {a : Opnd} : NextCanonical (execMsect w a s) :=
  operate_canonical h (h.ill.ite (h.openSection.ite h.openOnBench))

theorem execMcommit_canonical (h : Canonical s) {l : BitVec 4} {d : Opnd} : NextCanonical (execMcommit l d s) :=
  operate_canonical h (h.ill.ite (h.hold.ite (h.offer.ite (h.hold.ite h.write))))

theorem execMrcnt_canonical (h : Canonical s) {d : Opnd} : NextCanonical (execMrcnt d s) := operate_canonical h h.write

theorem execMsig_canonical (h : Canonical s) {d a b : Opnd} : NextCanonical (execMsig d a b s) := operate_canonical h h.write

theorem execMstate_canonical (h : Canonical s) {d : Opnd} : NextCanonical (execMstate d s) := operate_canonical h h.write

theorem execMesc_canonical (h : Canonical s) {d a : Opnd} : NextCanonical (execMesc d a s) :=
  operate_canonical h (h.write.ite (h.ill.ite (h.advance.ite (h.ill.ite (h.discard.ite h.returnTrap)))))

theorem execReturnedCutResume_canonical (h : Canonical s) {uid : Nat} : NextCanonical (execReturnedCutResume uid s) := by
  refine Canonical.next ?_
  split
  · exact h
  · split
    · dsimp only
      split
      · exact h
      · refine Canonical.placeFamily ?_
        exact h
    · exact h

theorem execMsumWrite_canonical (h : Canonical s) {stack : Nat} {v : W64} : NextCanonical (execMsumWrite stack v s) := (h.setReg.ite h).next

theorem execMderrWrite_canonical (h : Canonical s) {stack dist : Nat} {v : W64} : NextCanonical (execMderrWrite stack dist v s) :=
  (h.setReg.setField.ite h).next

/-! ### Special registers, traps and system instructions (R345 to R350) -/

theorem execCsrr_canonical (h : Canonical s) {d : Opnd} {i : BitVec 11} : NextCanonical (execCsrr d i s) := operate_canonical h (h.hold.ite h.write)

theorem execCsrw_canonical (h : Canonical s) {a : Opnd} {i : BitVec 11} : NextCanonical (execCsrw a i s) := by
  refine operate_canonical h ?_
  intro c
  split
  · exact h.ill
  · refine h.raiseAll.ite (h.hold.ite ?_)
    split
    · exact h.ill
    · exact h.complete

theorem execTret_canonical (h : Canonical s) : NextCanonical (execTret s) := operate_canonical h (h.ill.ite (h.ill.ite h.retired))

theorem execFlags_canonical (h : Canonical s) {d a : Opnd} : NextCanonical (execFlags d a s) := by
  refine operate_canonical h ?_
  intro c
  split
  · exact h.ill
  · exact h.ill.ite h.write

theorem execFlagc_canonical (h : Canonical s) {d a : Opnd} : NextCanonical (execFlagc d a s) := by
  refine operate_canonical h ?_
  intro c
  split
  · exact h.ill
  · exact h.write

theorem Canonical.tlbDrop (h : Canonical s) {asid : Nat} {b : W64} : Canonical (s.tlbDrop asid b) := h

theorem execTlbinv_canonical (h : Canonical s) {a b : Opnd} : NextCanonical (execTlbinv a b s) := by
  refine operate_canonical h ?_
  intro c
  split
  · exact h.ill.ite (h.tlbDrop.hold.ite h.tlbDrop.complete)
  · exact h.ill

theorem Canonical.scrInvalidate (h : Canonical s) {key : Nat} : Canonical (s.scrInvalidate key) := by
  refine h.foldl ?_
  intro t n ht
  split
  · exact ht
  · refine ht.ite (ht.evictPage.ite ?_)
    split
    · exact ht.putAt.poisonAt.putCrew
    · exact ht

theorem execScrinv_canonical (h : Canonical s) {a b : Opnd} : NextCanonical (execScrinv a b s) := by
  refine operate_canonical h ?_
  intro c
  split
  · exact h.ill.ite (h.foldl (·.scrInvalidate)).complete
  · exact h.ill

theorem execClock_canonical (h : Canonical s) {d : Opnd} : NextCanonical (execClock d s) := operate_canonical h h.write

theorem execPerf_canonical (h : Canonical s) {d a : Opnd} : NextCanonical (execPerf d a s) := by
  refine operate_canonical h ?_
  intro c
  split
  · exact h.ill
  · exact h.ill.ite h.write

theorem execPageWaitLimit_canonical (h : Canonical s) {uid : Nat} : NextCanonical (execPageWaitLimit uid s) := by
  refine Canonical.next ?_
  split
  · exact h
  · split
    · exact h.writePages.ite h
    · exact h

/-! ### Pre-emption and forced reset (R351 to R355, R378 to R380) -/

theorem Canonical.resetOps (h : Canonical s) {asid : Nat} : Canonical (s.resetOps asid) := h.foldl (·.report)

theorem Canonical.dropEngines (h : Canonical s) {lids : List Nat} : Canonical (s.dropEngines lids) := h

theorem Canonical.forceReset (h : Canonical s) {asid : Nat} : Canonical (s.forceReset asid) := by
  unfold State.forceReset
  extract_lets lids mine forgotten ended unworked reset undone left failed
  have hended : Canonical ended := Canonical.foldl h (·.endCut)
  have hleft : Canonical left := hended.dropLoomWork.resetOps.dropEngines.foldl (·.endCrew)
  have hfailed : Canonical failed := hleft
  exact hfailed.faultRecord

theorem execForcedContextReset_canonical (h : Canonical s) {asid : Nat} : NextCanonical (execForcedContextReset asid s) := h.forceReset.next

theorem execContextReload_canonical (h : Canonical s) {asid : Nat} : NextCanonical (execContextReload asid s) :=
  Canonical.next (.ite (h.descriptorRead.elsewhere rfl) h)

theorem Canonical.saveMill (h : Canonical s) {c : Cut} : Canonical (s.saveMill c) := by
  unfold State.saveMill
  extract_lets fam forgotten dropped mine ready
  have hforgotten : Canonical forgotten := h
  have hdropped : Canonical dropped := hforgotten.discard
  exact hdropped

theorem Canonical.saveWhere (h : Canonical s) {test : Cut → Bool} : Canonical (s.saveWhere test) := by
  refine h.foldl ?_
  intro t c ht
  split
  · exact ht.ite (ht.saveMill.ite ht.saveCut)
  · exact ht

theorem Canonical.saveLeaving (h : Canonical s) {uid : Nat} : Canonical (s.saveLeaving uid) := by
  unfold State.saveLeaving
  split
  · exact h.ite (h.saveMill.ite h.saveCut)
  · exact h

theorem execResultArrival_canonical (h : Canonical s) {uid id : Nat} : NextCanonical (execResultArrival uid id s) := h.arrival.saveLeaving.next

theorem Canonical.saveCluster (h : Canonical s) {asid : Nat} {lids : List Nat} {cluster : Nat} : Canonical (s.saveCluster asid lids cluster)
    := by
  unfold State.saveCluster
  extract_lets saved
  have hsaved : Canonical saved := h.saveWhere
  exact h.forceReset.ite hsaved

theorem Canonical.discardCut (h : Canonical s) {c : Cut} : Canonical (s.discardCut c) := by
  unfold State.discardCut
  split
  · exact h
  · extract_lets fam items k uids dropped added
    have hdropped : Canonical dropped := h.dropClaims
    have hadded : Canonical added := hdropped
    exact hadded.dropLoomWork

theorem Canonical.credit (h : Canonical s) {part : Nat} : Canonical (s.credit part) := h.foldl (·.setReg)

theorem Canonical.takeAction (h : Canonical s) {p : Preempt} : Canonical (s.takeAction p) := by
  dsimp only [State.takeAction]
  split
  · exact h.saveCluster
  · exact (h.foldl (·.discardCut)).elsewhere (by rfl)
  · exact h

theorem Canonical.preemptContext (h : Canonical s) {part asid : Nat} {ls : List Launch} : Canonical (s.preemptContext part asid ls) := by
  unfold State.preemptContext
  extract_lets lids ps recorded saved t
  have hrecorded : Canonical recorded := h
  have hsaved : Canonical saved := hrecorded.saveWhere
  have ht : Canonical t := hsaved.forceReset.ite hsaved
  exact ht.foldl fun hu => hu.ite hu.takeAction

theorem execSliceEnd_canonical (h : Canonical s) {part : Nat} : NextCanonical (execSliceEnd part s) :=
  (h.ite (h.credit.putSlice.foldl (·.preemptContext))).next

theorem Canonical.finishActions (h : Canonical s) {part : Nat} : Canonical (s.finishActions part) := by
  unfold State.finishActions
  extract_lets done finished
  have hfinished : Canonical finished := h
  exact hfinished.foldl fun ht => ht.saveWhere.ite ht

theorem execDrainDeadline_canonical (h : Canonical s) {part : Nat} : NextCanonical (execDrainDeadline part s) := by
  refine (h.foldl ?_).next
  intro t p ht
  refine Canonical.takeAction ?_
  exact ht

theorem execPreemptionDeadline_canonical (h : Canonical s) {part : Nat} : NextCanonical (execPreemptionDeadline part s) :=
  (h.foldl (·.forceReset)).next

theorem execPreemptionReport_canonical (h : Canonical s) {part : Nat} : NextCanonical (execPreemptionReport part s) := by
  refine Canonical.next ?_
  extract_lets finished mine x ls base clusters launches written r counted
  have hfinished : Canonical finished := h.finishActions
  have hwritten : Canonical written := hfinished.devPut
  clear_value written r
  have hcounted : Canonical counted := hwritten.setField.setField.setField
  clear_value counted
  refine hfinished.ite (Canonical.putSlice ?_)
  exact hcounted.elsewhere rfl

theorem Canonical.resumeCrew (h : Canonical s) {k : Crew} {bench : Nat} : Canonical (s.resumeCrew k bench) := by
  refine h.ite ?_
  split
  · exact h
  · next u hu =>
    refine (h.settleSpace u hu).foldl ?_
    intro t m ht
    split
    · exact ht.ite (ht.moveCut.ite ht.freshFor.placeFamily)
    · exact ht

theorem execCutResume_canonical (h : Canonical s) {uid bench quad : Nat} : NextCanonical (execCutResume uid bench quad s) := by
  refine Canonical.next ?_
  split
  · exact h
  · refine h.ite ?_
    split
    · exact h.placeFamily.ite h
    · exact h.resumeCrew
    · exact (h.freshFor.putCut.ite h).ite (h.freshFor.placeFamily.ite h)

/-! ### The end of a quantum (R36 to R38, R302) -/

theorem Canonical.commitStore (h : Canonical s) {w : Store} : Canonical (s.commitStore w) := h.failStore.ite (.ite (h.elsewhere rfl) h.perform)

theorem Canonical.commitPush (h : Canonical s) {q : QEntry} {ended : Bool} {key n : Nat} {e : List W64}
    : Canonical (s.commitPush q ended key n e) := by
  dsimp only [State.commitPush]
  split
  · exact h.holdLate.ite h.putCrew
  · exact h.holdLate.ite h

theorem Canonical.deliverLater (h : Canonical s) {id : Nat} {v : W64} : Canonical (s.deliverLater id v) := h

theorem Canonical.commitEffect (h : Canonical s) {q : QEntry} {ended : List Nat} : Canonical (s.commitEffect q ended) := by
  unfold State.commitEffect
  split
  · exact h.commitStore
  · exact h.commitPush
  · split
    · exact h.putCrew
    · exact h
  · exact h.addJob
  · exact h.sendMill
  · exact h.issueOp.deliverLater
  · exact h.cancelOp
  · exact h.enqueue.deliverLater
  · split
    · exact h.putCrew
    · exact h
  · exact h.spaceWrite
  · exact h.spaceFree
  · exact h.commitPin
  · exact h.commitTouch
  · exact h

theorem Canonical.commitInOrder (h : Canonical s) {ended : List Nat} {qs : List QEntry} : Canonical (s.commitInOrder ended qs) := by
  induction qs generalizing s ended with
  | nil => exact h
  | cons q qs ih => exact ih h.commitEffect

theorem Canonical.commitEffects (h : Canonical s) {lid : Nat} : Canonical (s.commitEffects lid) := by
  refine Canonical.commitInOrder ?_
  exact h

theorem Canonical.releaseWrites (h : Canonical s) {id : Nat} : Canonical (s.releaseWrites id) := by
  unfold State.releaseWrites
  extract_lets freed performed
  have hfreed : Canonical freed := h
  have hperformed : Canonical performed := by
    refine hfreed.foldl ?_
    intro t w ht
    refine Canonical.ite (Canonical.perform ?_) ht
    exact ht
  exact hperformed.foldl (·.deliverScratch)

theorem Canonical.commitJob (h : Canonical s) {id : Nat} : Canonical (s.commitJob id) := by
  unfold State.commitJob
  split
  · dsimp only
    split
    · exact h.releaseWrites.completeJob
    · exact h.releaseWrites
  · extract_lets op
    clear_value op
    split
    · exact h
    · dsimp only
      split
      · exact (h.releaseWrites.ite h).landOp
      · exact h.releaseWrites.ite h

theorem Canonical.commitJobs (h : Canonical s) {lid : Nat} : Canonical (s.commitJobs lid) := (h.foldl (·.foldl (·.postNext))).foldl (·.commitJob)

theorem Canonical.settlePhases (h : Canonical s) {lid : Nat} : Canonical (s.settlePhases lid) := h

theorem Canonical.endSeams (h : Canonical s) {lid : Nat} : Canonical (s.endSeams lid) := h.foldl fun ht => ht.ite ht.seamEnd

theorem Canonical.flashAll (h : Canonical s) {l : Launch} : Canonical (s.flashAll l) := h.foldl (·.l1Flash)

theorem Canonical.nextQuantum (h : Canonical s) {lid : Nat} : Canonical (s.nextQuantum lid) := h

theorem Canonical.takePending (h : Canonical s) {lid : Nat} : Canonical (s.takePending lid) := h.foldl (·.saveCluster)

theorem execQuantumEnd_canonical (h : Canonical s) {lid : Nat} : NextCanonical (execQuantumEnd lid s) :=
  (h.ite h.commitEffects.commitJobs.settlePhases.quantumCommits.nextQuantum.endSeams.flashAll.takePending).next

/-! ### Communicator commands (R334, R335) -/

theorem Canonical.cmdResult (h : Canonical s) {v : W64} {code : Nat} : Canonical (s.cmdResult v code) := h.setReg.setReg

theorem Canonical.install (h : Canonical s) {k : Comm} {rank size : Nat} : Canonical (s.install k rank size) := h.putComm.setReg

theorem Canonical.endStale (h : Canonical s) {cid : Nat} : Canonical (s.endStale cid) := h.foldl (·.endOp)

theorem execCreate_canonical (h : Canonical s) {v : W64} : NextCanonical (execCreate v s) :=
  (h.ite (h.cmdResult.ite (h.cmdResult.ite (h.cmdResult.ite h.install.cmdResult)))).next

theorem execReForm_canonical (h : Canonical s) {v : W64} : NextCanonical (execReForm v s) :=
  (h.ite (h.cmdResult.ite (h.cmdResult.ite (h.cmdResult.ite (h.cmdResult.ite h.endStale.install.cmdResult))))).next

theorem execDestroy_canonical (h : Canonical s) {v : W64} : NextCanonical (execDestroy v s) :=
  (h.ite (h.cmdResult.ite h.endStale.putComm.cmdResult)).next

theorem execCommunicatorCommandDone_canonical (h : Canonical s) : NextCanonical (execCommunicatorCommandDone s) := h.setField.next

/-! ### Translation, ownership and the control window (R13, R322, R366 to R374) -/

theorem execReplayAll_canonical (h : Canonical s) {part : Nat} : NextCanonical (execReplayAll part s) :=
  (h.foldl (·.setReg)).setField.setField.setField.next

theorem execOwnershipReload_canonical (h : Canonical s) : NextCanonical (execOwnershipReload s) := by
  refine (h.ite (Canonical.readAll ?_)).next
  exact h.setField.elsewhere rfl

theorem Canonical.owning (h : Canonical s) {table : List Byte} : Canonical (s.owning table) := h

theorem Canonical.leaveQuad (h : Canonical s) {q : Nat} : Canonical (s.leaveQuad q) := by
  unfold State.leaveQuad
  extract_lets old b of claimed left
  have hclaimed : Canonical claimed := h.evictLoom.ite h
  have hleft : Canonical left := hclaimed.saveWhere
  exact hleft.saveWhere

theorem Canonical.leaveUnits (h : Canonical s) : Canonical (s.leaveUnits new) := by
  unfold State.leaveUnits
  extract_lets quads mills left saved
  have hleft : Canonical left := h.foldl (·.leaveQuad)
  have hsaved : Canonical saved := hleft.saveWhere
  exact hsaved.foldl fun ht => ht.forceReset.ite ht

theorem execOwnershipReloadDone_canonical (h : Canonical s) : NextCanonical (execOwnershipReloadDone s) := by
  refine Canonical.next ?_
  split
  · exact h
  · extract_lets done left
    have hdone : ∀ {t}, Canonical t → Canonical (done t) := fun ht => ht.setField.elsewhere rfl
    have hleft : Canonical left := h.leaveUnits
    exact (hleft.ite (hdone hleft.owning)).ite (hdone h.setReg)

theorem Canonical.checkWindow (h : Canonical s) {stack win : Nat} : Canonical (s.checkWindow stack win) := h.ite h.setField

theorem execFwbaseWrite_canonical (h : Canonical s) {stack win : Nat} {v : W64} : NextCanonical (execFwbaseWrite stack win v s) :=
  (h.setReg.checkWindow.ite h).next

theorem execFwctlWrite_canonical (h : Canonical s) {stack win : Nat} {v : W64} : NextCanonical (execFwctlWrite stack win v s) :=
  (h.setReg.checkWindow.ite h).next

theorem execPmapWrite_canonical (h : Canonical s) {part : Nat} {v : W64} : NextCanonical (execPmapWrite part v s) := (h.setReg.ite h).next

theorem execSdropWrite_canonical (h : Canonical s) {bench : Nat} {v : W64} : NextCanonical (execSdropWrite bench v s) := (h.setField.ite h).next

theorem execBrerrWrite_canonical (h : Canonical s) {bench : Nat} {v : W64} : NextCanonical (execBrerrWrite bench v s) := (h.setReg.ite h).next

theorem execMemerrWrite_canonical (h : Canonical s) {stack : Nat} {v : W64} : NextCanonical (execMemerrWrite stack v s) := (h.setReg.ite h).next

theorem execMemaddrWrite_canonical (h : Canonical s) {stack : Nat} {v : W64} : NextCanonical (execMemaddrWrite stack v s) := (h.setField.ite h).next

theorem execLhealthWrite_canonical (h : Canonical s) {loom : Nat} {v : W64} : NextCanonical (execLhealthWrite loom v s) := (h.setField.ite h).next

theorem execLkstatWrite_canonical (h : Canonical s) {link : Nat} {v : W64} : NextCanonical (execLkstatWrite link v s) := (h.setReg.ite h).next

theorem execPrstatWrite_canonical (h : Canonical s) {part : Nat} {v : W64} : NextCanonical (execPrstatWrite part v s) := (h.setField.ite h).next

theorem execWalkerrWrite_canonical (h : Canonical s) {v : W64} : NextCanonical (execWalkerrWrite v s) := h.setField.setField.next

theorem execSmpheadWrite_canonical (h : Canonical s) {v : W64} : NextCanonical (execSmpheadWrite v s) := h.setReg.next

theorem execEligWrite_canonical (h : Canonical s) {bench sched bin : Nat} {v : W64} : NextCanonical (execEligWrite bench sched bin v s) :=
  (h.setReg.ite h).next

theorem execStallWrite_canonical (h : Canonical s) {bench sched reason : Nat} {v : W64}
    : NextCanonical (execStallWrite bench sched reason v s) := (h.setReg.ite h).next

theorem execRegisterWrite_canonical (h : Canonical s) {off : Nat} {v : W64} : NextCanonical (execRegisterWrite off v s) :=
  ((h.ite h.setReg).ite h.plainWrite).next

/-! ### The host (R322) -/

theorem Canonical.hostPut (h : Canonical s) {asid : Nat} {ptr : W64} {bs : List Byte} : Canonical (s.hostPut asid ptr bs) := by
  refine h.ite ?_
  split
  · exact h
  · refine h.xlatted.foldl ?_
    intro t w ht
    split
    · exact ht.devWrite
    · exact ht.withHost (scatter_wf _ _ _ ht.wf_host)
    · exact ht

theorem Canonical.holdHost (h : Canonical s) {w : HeldWrite} : Canonical (s.holdHost w) := h

theorem execHostWrite_canonical (h : Canonical s) {asid : Nat} {ptr : W64} {bytes : List Byte}
    : NextCanonical (execHostWrite asid ptr bytes s) := (h.holdHost.ite h.hostPut).next

theorem Canonical.heldTurn (h : Canonical s) {i : Option Instr} (ht : s.heldTurn = some (i, t)) : Canonical t := by
  have hrest : ∀ {rest}, Canonical { s with heldHost := rest } := h
  unfold State.heldTurn at ht
  split at ht
  · cases ht
  · split at ht
    · cases ht
    · cases ht
      exact hrest.hostPut
  · cases ht
    exact h

theorem execHostRead_canonical (h : Canonical s) {asid : Nat} {ptr : W64} {len : Nat} : NextCanonical (execHostRead asid ptr len s) :=
  Canonical.next (h.rangeRead.elsewhere rfl)

theorem execDeviceReset_canonical (h : Canonical s) : NextCanonical (execDeviceReset s) :=
  Canonical.next ((reset_canonical.withHost h.wf_host).elsewhere rfl)

/-! ### Links and the checkpoint engine (R381 to R385) -/

theorem Canonical.setResends (h : Canonical s) {link n : Nat} : Canonical (s.setResends link n) := h

theorem execFlitResend_canonical (h : Canonical s) {link : Nat} {delivered : Bool} : NextCanonical (execFlitResend link delivered s) :=
  (h.ite (h.setResends.countUp.ite h.setResends)).next

theorem execLinkDown_canonical (h : Canonical s) {link : Nat} : NextCanonical (execLinkDown link s) := (h.setResends.setField.countUp.ite h).next

theorem execRetrain_canonical (h : Canonical s) {link : Nat} {success : Bool} : NextCanonical (execRetrain link success s) :=
  (h.setResends.setField.ite h).next

theorem execUcieModuleRetirement_canonical (h : Canonical s) {module : Nat} : NextCanonical (execUcieModuleRetirement module s) :=
  Canonical.next (.ite (h.elsewhere rfl) h)

theorem Canonical.ckptStat (h : Canonical s) {state code : Nat} {plovf : Bool} {npoison prog : Nat}
    : Canonical (s.ckptStat state code plovf npoison prog) := h.setReg

theorem Canonical.ckptStart (h : Canonical s) {op : Nat} {go : State → State} (hgo : Canonical (go s)) : Canonical (s.ckptStart op go) :=
  h.ite (h.ckptStat.ite (hgo.ckptStat.elsewhere rfl))

theorem execCheckpointSave_canonical (h : Canonical s) : NextCanonical (execCheckpointSave s) := by
  refine (h.ckptStart ?_).next
  have hwritten := h.foldl (f := State.scrInvalidate) (xs := s.crews.map (·.key)) (·.scrInvalidate)
  exact hwritten.elsewhere rfl

theorem execCheckpointRestore_canonical (h : Canonical s) : NextCanonical (execCheckpointRestore s) := (h.ckptStart h).next

theorem Canonical.findFlaws (h : Canonical s) {mib : Nat} : Canonical (s.findFlaws mib) := h.foldl (·.readFlaw)

theorem Canonical.copyOut (h : Canonical s) {mib : Nat} : Canonical (s.copyOut mib) := copyOut_canonical s mib h

theorem Canonical.copyIn (h : Canonical s) {mib : Nat} : Canonical (s.copyIn mib) := copyIn_canonical s mib h

theorem Canonical.copyEnded (h : Canonical s) : Canonical s.copyEnded := h

theorem Canonical.dropCaches (h : Canonical s) : Canonical s.dropCaches := h

theorem execCheckpointDone_canonical (h : Canonical s) : NextCanonical (execCheckpointDone s) := by
  refine Canonical.next ?_
  split
  · exact h
  · exact (h.findFlaws.ite h).copyOut.ckptStat.copyEnded.ite (h.findFlaws.ite h).copyIn.dropCaches.ckptStat.copyEnded

theorem execCheckpointAbort_canonical (h : Canonical s) : NextCanonical (execCheckpointAbort s) := by
  refine Canonical.next ?_
  split
  · exact h
  · exact (h.findFlaws.copyOut.ite h.copyIn.dropCaches).ckptStat.copyEnded

/-! ### Halting and the dump (R391 to R394) -/

theorem execHalt_canonical (h : Canonical s) {slot : Nat} : NextCanonical (execHalt slot s) := Canonical.next (.ite (h.setReg.elsewhere rfl) h)

theorem execResume_canonical (h : Canonical s) {slot : Nat} : NextCanonical (execResume slot s) := Canonical.next (.ite (h.setReg.elsewhere rfl) h)

theorem execDebugStop_canonical (h : Canonical s) {slot bench : Nat} : NextCanonical (execDebugStop slot bench s) := by
  refine Canonical.next ?_
  split
  · exact h
  · exact h.ite h.stopUnit.setField

theorem Canonical.arriveAll (h : Canonical s) {uid : Nat} : Canonical (s.arriveAll uid) := by
  refine h.foldl ?_
  intro t o ht
  split
  · exact ht
  · dsimp only
    split
    · exact ht.settleFences
    · split
      · exact ht.settleFences.arrive
      · exact ht.settleFences

theorem execDump_canonical (h : Canonical s) {slot : Nat} : NextCanonical (execDump slot s) := by
  refine Canonical.next ?_
  split
  · exact h
  · extract_lets cuts t bytes w
    have ht : Canonical t := h.foldl (·.arriveAll)
    exact h.ite (h.ite (ht.setField.ite ht.devPut.setField))

/-! ### Cycles and counters (R31, R33, R379, R386 to R390) -/

theorem Canonical.count64 (h : Canonical s) {off : Nat} : Canonical (s.count64 off) := h.ite h.setReg

theorem Canonical.countCycle (h : Canonical s) {before : State} {k : Nat × Nat} : Canonical (State.countCycle before s k) := by
  unfold State.countCycle
  extract_lets cs n keep idle nothing
  have hkeep : ∀ {t off}, Canonical t → Canonical (keep t off) := (·.setReg)
  clear_value cs keep
  refine (hkeep (hkeep h)).count64.ite ?_
  split
  · exact h
  · exact (hkeep h).count64

theorem Canonical.charge (h : Canonical s) : Canonical s.charge := h.foldl fun ht => ht.ite ht.putLaunch.setReg

theorem Canonical.openLease (h : Canonical s) {asid : Nat} {p : Bool × Nat} {eff : Nat} : Canonical (s.openLease asid p eff) := h

theorem Canonical.settleLeases (h : Canonical s) : Canonical s.settleLeases := by
  unfold State.settleLeases
  extract_lets opened
  have hopened : Canonical opened := h.foldl fun ht => ht.ite ht.openLease
  exact hopened

theorem Canonical.moveLease (h : Canonical s) {asid : Nat} {old new : Bool × Nat} : Canonical (s.moveLease asid old new) := by
  unfold State.moveLease
  split
  · exact h
  · exact h.openLease.openLease

theorem Canonical.followCuts (h : Canonical s) {before : State} : Canonical (State.followCuts before s) := by
  refine h.foldl ?_
  intro t c ht
  split
  · exact ht.ite ht.moveLease
  · exact ht

theorem Canonical.countEvent (h : Canonical s) {asid : Nat} {p : Bool × Nat} {n k : Nat} : Canonical (s.countEvent asid p n k) := .ite h h

theorem Canonical.countInstr (h : Canonical s) {before : State} {c : Cut} {i : Instr} : Canonical (State.countInstr before s c i) := by
  dsimp only [State.countInstr]
  exact (h.foldl (·.countEvent)).ite h

theorem Canonical.tally (h : Canonical s) {before : State} : Canonical (State.tally before s) := h.foldl (·.countEvent)

theorem Canonical.countLeases (h : Canonical s) {before : State} : Canonical (State.countLeases before s) := by
  unfold State.countLeases
  extract_lets counted
  have hcounted : Canonical counted := h.foldl fun ht => ((ht.countEvent.ite ht).countEvent.ite (ht.countEvent.ite ht))
  refine hcounted.foldl ?_
  intro t k ht
  refine ht.ite ?_
  split
  · exact ht
  · split
    · exact ht.countEvent
    · exact ht

theorem Canonical.passCycle (h : Canonical s) : Canonical s.passCycle := by
  unfold State.passCycle
  extract_lets begun counted leased charged t
  have hbegun : Canonical begun := h
  have hcounted : Canonical counted := hbegun.foldl (·.countCycle)
  have hleased : Canonical leased := hcounted.ite hcounted.countLeases
  have hcharged : Canonical charged := hleased.charge
  have ht : Canonical t := hcharged
  clear_value t
  split
  · exact ht.setField
  · exact ht

theorem execSchedulerCycle_canonical (h : Canonical s) : NextCanonical (execSchedulerCycle s) :=
  Canonical.next (h.settleLeases.passCycle.elsewhere rfl)

theorem execSample_canonical (h : Canonical s) {bench sched : Nat} : NextCanonical (execSample bench sched s) := by
  refine Canonical.next (h.ite ?_)
  split
  · exact h
  · extract_lets noted size head base written
    have hnoted : Canonical noted := h
    have hwritten : Canonical written := hnoted.devPut
    exact hnoted.countUp.ite hwritten.setField

theorem Canonical.noteIssue (h : Canonical s) {c : Cut} : Canonical (s.noteIssue c) := by
  unfold State.noteIssue
  split
  · exact h
  · exact h

theorem Canonical.issues (h : Canonical s) {c : Cut} {w : W32} : Canonical (s.issues c w) := by
  unfold State.issues
  extract_lets fetched
  have hfetched : Canonical fetched := h.xlatted.readPtr.noteIssue
  exact hfetched

/-! ### A step (R31, R190, R322) -/

/-- Every instruction and event, each by its own lemma. -/
theorem exec_canonical (h : Canonical s) {i : Instr} : NextCanonical (exec i s) := by
  cases i with
  | nop => exact execNop_canonical h | yield => exact execYield_canonical h | exit => exact execExit_canonical h
  | seam => exact execSeam_canonical h | tfence => exact execTfence_canonical h | haltd => exact execHaltd_canonical h
  | bkpt => exact execBkpt_canonical h | ret => exact execRet_canonical h | mode => exact execMode_canonical h
  | modei => exact execModei_canonical h | br => exact execBr_canonical h | jmp => exact execJmp_canonical h | call => exact execCall_canonical h
  | jmpr => exact execJmpr_canonical h | callr => exact execCallr_canonical h | loop => exact execLoop_canonical h
  | loopi => exact execLoopi_canonical h | lbrk => exact execLbrk_canonical h | trap => exact execTrap_canonical h
  | pand => exact execPand_canonical h | por => exact execPor_canonical h | pxor => exact execPxor_canonical h
  | pandn => exact execPandn_canonical h | pnot => exact execPnot_canonical h | pmov => exact execPmov_canonical h
  | pany => exact execPany_canonical h | pall => exact execPall_canonical h | pcnt => exact execPcnt_canonical h
  | pmask => exact execPmask_canonical h | pfrom => exact execPfrom_canonical h | cmp => exact execCmp_canonical h
  | cmpi => exact execCmpi_canonical h | form => exact execForm_canonical h | matl => exact execMatl_canonical h
  | pget => exact execPget_canonical h | pmake => exact execPmake_canonical h | kill => exact execKill_canonical h
  | cutid => exact execCutid_canonical h | parid => exact execParid_canonical h | cutbox => exact execCutbox_canonical h
  | add => exact execAdd_canonical h | sub => exact execSub_canonical h | and => exact execAnd_canonical h | or => exact execOr_canonical h
  | xor => exact execXor_canonical h | andn => exact execAndn_canonical h | shl => exact execShl_canonical h | shr => exact execShr_canonical h
  | sar => exact execSar_canonical h | rol => exact execRol_canonical h | min => exact execMin_canonical h | max => exact execMax_canonical h
  | minu => exact execMinu_canonical h | maxu => exact execMaxu_canonical h | absd => exact execAbsd_canonical h
  | neg => exact execNeg_canonical h | mul => exact execMul_canonical h | mulhi => exact execMulhi_canonical h
  | mulhiu => exact execMulhiu_canonical h | mulw => exact execMulw_canonical h | mulwu => exact execMulwu_canonical h
  | clz => exact execClz_canonical h | ctz => exact execCtz_canonical h | popc => exact execPopc_canonical h | brev => exact execBrev_canonical h
  | bswap => exact execBswap_canonical h | bfe => exact execBfe_canonical h | bfeu => exact execBfeu_canonical h
  | bfi => exact execBfi_canonical h | addw => exact execAddw_canonical h | addwu => exact execAddwu_canonical h
  | subw => exact execSubw_canonical h | accw => exact execAccw_canonical h | accwu => exact execAccwu_canonical h
  | satadd => exact execSatadd_canonical h | satsub => exact execSatsub_canonical h | narrow => exact execNarrow_canonical h
  | sext => exact execSext_canonical h | zext => exact execZext_canonical h | mov => exact execMov_canonical h | sel => exact execSel_canonical h
  | addi => exact execAddi_canonical h | andi => exact execAndi_canonical h | ori => exact execOri_canonical h
  | xori => exact execXori_canonical h | shli => exact execShli_canonical h | shri => exact execShri_canonical h
  | sari => exact execSari_canonical h | muli => exact execMuli_canonical h | movx => exact execMovx_canonical h
  | movi => exact execMovi_canonical h | div => exact execDiv_canonical h | divu => exact execDivu_canonical h
  | fadd => exact execFadd_canonical h | fsub => exact execFsub_canonical h | fmul => exact execFmul_canonical h
  | fmin => exact execFmin_canonical h | fmax => exact execFmax_canonical h | fminn => exact execFminn_canonical h
  | fmaxn => exact execFmaxn_canonical h | fabs => exact execFabs_canonical h | fneg => exact execFneg_canonical h
  | fcpsgn => exact execFcpsgn_canonical h | fclass => exact execFclass_canonical h | frnd => exact execFrnd_canonical h
  | ffrac => exact execFfrac_canonical h | fscale => exact execFscale_canonical h | fexpo => exact execFexpo_canonical h
  | twosum => exact execTwosum_canonical h | fcvt => exact execFcvt_canonical h | f2i => exact execF2i_canonical h
  | f2u => exact execF2u_canonical h | i2f => exact execI2f_canonical h | u2f => exact execU2f_canonical h | frcp => exact execFrcp_canonical h
  | frsq => exact execFrsq_canonical h | fsqrt => exact execFsqrt_canonical h | fexp2 => exact execFexp2_canonical h
  | flog2 => exact execFlog2_canonical h | fsin => exact execFsin_canonical h | fcos => exact execFcos_canonical h
  | fdiv => exact execFdiv_canonical h | shfl => exact execShfl_canonical h | shflx => exact execShflx_canonical h
  | shflu => exact execShflu_canonical h | shfld => exact execShfld_canonical h | bcast => exact execBcast_canonical h
  | vote => exact execVote_canonical h | compact => exact execCompact_canonical h | lidx => exact execLidx_canonical h
  | red => exact execRed_canonical h | scan => exact execScan_canonical h | dp4 => exact execDp4_canonical h | dp4u => exact execDp4u_canonical h
  | dp2 => exact execDp2_canonical h | ld => exact execLd_canonical h | st => exact execSt_canonical h | ldb => exact execLdb_canonical h
  | lda => exact execLda_canonical h | stl => exact execStl_canonical h | ldt => exact execLdt_canonical h | lds => exact execLds_canonical h
  | sts => exact execSts_canonical h | atom => exact execAtom_canonical h | ared => exact execAred_canonical h
  | pgreq => exact execPgreq_canonical h | pgwait => exact execPgwait_canonical h | pgtest => exact execPgtest_canonical h
  | pref => exact execPref_canonical h | salloc => exact execSalloc_canonical h | sfree => exact execSfree_canonical h
  | spin => exact execSpin_canonical h | sunpin => exact execSunpin_canonical h | spgq => exact execSpgq_canonical h
  | ldm => exact execLdm_canonical h | stm => exact execStm_canonical h | fence => exact execFence_canonical h
  | fwait => exact execFwait_canonical h | ftest => exact execFtest_canonical h | bar => exact execBar_canonical h
  | bara => exact execBara_canonical h | barw => exact execBarw_canonical h | cnew => exact execCnew_canonical h
  | cjoin => exact execCjoin_canonical h | cleave => exact execCleave_canonical h | csize => exact execCsize_canonical h
  | crank => exact execCrank_canonical h | role => exact execRole_canonical h | qbind => exact execQbind_canonical h
  | qunbind => exact execQunbind_canonical h | qcnt => exact execQcnt_canonical h | qclose => exact execQclose_canonical h
  | sbind => exact execSbind_canonical h | srel => exact execSrel_canonical h | scnt => exact execScnt_canonical h
  | cpy => exact execCpy_canonical h | cpyt => exact execCpyt_canonical h | cpym => exact execCpym_canonical h
  | cwait => exact execCwait_canonical h | cadd => exact execCadd_canonical h | evwait => exact execEvwait_canonical h
  | evpeek => exact execEvpeek_canonical h | coll => exact execColl_canonical h | cstat => exact execCstat_canonical h
  | cabort => exact execCabort_canonical h | launch => exact execLaunch_canonical h | mld => exact execMld_canonical h
  | mwb => exact execMwb_canonical h | mma => exact execMma_canonical h | mmap => exact execMmap_canonical h
  | mzero => exact execMzero_canonical h | mdrn => exact execMdrn_canonical h | mstat => exact execMstat_canonical h
  | mtest => exact execMtest_canonical h | mfenced => exact execMfenced_canonical h | thmake => exact execThmake_canonical h
  | thoff => exact execThoff_canonical h | thshape => exact execThshape_canonical h | msect => exact execMsect_canonical h
  | mcommit => exact execMcommit_canonical h | msend => exact execMsend_canonical h | mrcnt => exact execMrcnt_canonical h
  | msig => exact execMsig_canonical h | mstate => exact execMstate_canonical h | mesc => exact execMesc_canonical h
  | csrr => exact execCsrr_canonical h | csrw => exact execCsrw_canonical h | tret => exact execTret_canonical h
  | flags => exact execFlags_canonical h | flagc => exact execFlagc_canonical h | tlbinv => exact execTlbinv_canonical h
  | scrinv => exact execScrinv_canonical h | clock => exact execClock_canonical h | perf => exact execPerf_canonical h
  | fma => exact execFma_canonical h | fnma => exact execFnma_canonical h | madw => exact execMadw_canonical h
  | madl => exact execMadl_canonical h | cutQueueIssue => exact execCutQueueIssue_canonical h | rejoin => exact execRejoin_canonical h
  | seamWaitLimit => exact execSeamWaitLimit_canonical h | seamWaitEnd => exact execSeamWaitEnd_canonical h
  | yieldExpiry => exact execYieldExpiry_canonical h | quantumEnd => exact execQuantumEnd_canonical h
  | trapEntry => exact execTrapEntry_canonical h | homeWrite => exact execHomeWrite_canonical h
  | lateStoreFault => exact execLateStoreFault_canonical h | pageIn => exact execPageIn_canonical h | crewMove => exact execCrewMove_canonical h
  | scratchWriteDelivery => exact execScratchWriteDelivery_canonical h | jobStart => exact execJobStart_canonical h
  | jobCompletion => exact execJobCompletion_canonical h | eventPost => exact execEventPost_canonical h
  | jobFailure => exact execJobFailure_canonical h | pageWaitLimit => exact execPageWaitLimit_canonical h
  | loomStep => exact execLoomStep_canonical h | loomDrain => exact execLoomDrain_canonical h | selfTest => exact execSelfTest_canonical h
  | millCutStart => exact execMillCutStart_canonical h | assayCommit => exact execAssayCommit_canonical h
  | flushedAttemptStart => exact execFlushedAttemptStart_canonical h | flushedLimit => exact execFlushedLimit_canonical h
  | returnedCutResume => exact execReturnedCutResume_canonical h | refreshStart => exact execRefreshStart_canonical h
  | refreshEnd => exact execRefreshEnd_canonical h | chunkArrival => exact execChunkArrival_canonical h
  | controlFlit => exact execControlFlit_canonical h | completionNotice => exact execCompletionNotice_canonical h
  | collectiveDeadline => exact execCollectiveDeadline_canonical h | abortReport => exact execAbortReport_canonical h
  | arbiterWord => exact execArbiterWord_canonical h | agreementWindowExpiry => exact execAgreementWindowExpiry_canonical h
  | isolatedEnding => exact execIsolatedEnding_canonical h | remoteRequest => exact execRemoteRequest_canonical h
  | remoteReply => exact execRemoteReply_canonical h | remoteDeadline => exact execRemoteDeadline_canonical h
  | linkDown => exact execLinkDown_canonical h | retrain => exact execRetrain_canonical h | hostWrite => exact execHostWrite_canonical h
  | hostRead => exact execHostRead_canonical h | deviceReset => exact execDeviceReset_canonical h
  | qtailWrite => exact execQtailWrite_canonical h | entryTake => exact execEntryTake_canonical h | admission => exact execAdmission_canonical h
  | admissionWaitLimit => exact execAdmissionWaitLimit_canonical h | preMigration => exact execPreMigration_canonical h
  | dispatch => exact execDispatch_canonical h | launchCompletion => exact execLaunchCompletion_canonical h
  | sliceEnd => exact execSliceEnd_canonical h | drainDeadline => exact execDrainDeadline_canonical h
  | preemptionDeadline => exact execPreemptionDeadline_canonical h | preemptionReport => exact execPreemptionReport_canonical h
  | cutResume => exact execCutResume_canonical h | contextReload => exact execContextReload_canonical h
  | forcedContextReset => exact execForcedContextReset_canonical h | create => exact execCreate_canonical h
  | reForm => exact execReForm_canonical h | destroy => exact execDestroy_canonical h | replayAll => exact execReplayAll_canonical h
  | ownershipReload => exact execOwnershipReload_canonical h | checkpointSave => exact execCheckpointSave_canonical h
  | checkpointAbort => exact execCheckpointAbort_canonical h | checkpointRestore => exact execCheckpointRestore_canonical h
  | checkpointDone => exact execCheckpointDone_canonical h | halt => exact execHalt_canonical h | resume => exact execResume_canonical h
  | debugStop => exact execDebugStop_canonical h | dump => exact execDump_canonical h | sample => exact execSample_canonical h
  | fwbaseWrite => exact execFwbaseWrite_canonical h | fwctlWrite => exact execFwctlWrite_canonical h
  | pmapWrite => exact execPmapWrite_canonical h | sdropWrite _ v => exact execSdropWrite_canonical (v := v) h
  | qstatWrite => exact execQstatWrite_canonical h | msumWrite => exact execMsumWrite_canonical h
  | mderrWrite => exact execMderrWrite_canonical h | brerrWrite _ v => exact execBrerrWrite_canonical (v := v) h
  | memerrWrite _ v => exact execMemerrWrite_canonical (v := v) h | memaddrWrite => exact execMemaddrWrite_canonical h
  | lhealthWrite _ v => exact execLhealthWrite_canonical (v := v) h | lkstatWrite _ v => exact execLkstatWrite_canonical (v := v) h
  | prstatWrite _ v => exact execPrstatWrite_canonical (v := v) h | walkerrWrite v => exact execWalkerrWrite_canonical (v := v) h
  | smpheadWrite => exact execSmpheadWrite_canonical h | eligWrite _ _ _ v => exact execEligWrite_canonical (v := v) h
  | stallWrite _ _ _ v => exact execStallWrite_canonical (v := v) h | registerWrite => exact execRegisterWrite_canonical h
  | illegalInstruction => exact execIllegalInstruction_canonical h | resultArrival => exact execResultArrival_canonical h
  | schedulerCycle => exact execSchedulerCycle_canonical h | flitResend => exact execFlitResend_canonical h
  | ucieModuleRetirement => exact execUcieModuleRetirement_canonical h
  | completionRecordWaitLimit => exact execCompletionRecordWaitLimit_canonical h
  | communicatorCommandDone => exact execCommunicatorCommandDone_canonical h | ownershipReloadDone => exact execOwnershipReloadDone_canonical h

theorem followed_canonical {before : State} (h : Canonical s) : Canonical (followed before s) := h.ite h.tally.followCuts

theorem noted_canonical {before : State} {i : Option Instr} {o : Host.Outcome State Fault Refusal} (ho : NextCanonical o) :
    NextCanonical (noted before i o) := by
  cases o with
  | next t =>
    have ht : Canonical t := ho t rfl
    dsimp only [noted]
    split
    · exact ht.next
    · refine Canonical.next ?_
      split
      · exact ht.tally.followCuts.countInstr
      · exact ht.tally.followCuts
  | fault f => exact .fault
  | refused r => exact nofun

theorem Canonical.waitsEntered (h : Canonical s) : Canonical s.waitsEntered := by
  refine h.foldl ?_
  intro t d ht
  split
  · split
    · exact ht.hold
    · exact ht
  · exact ht

theorem turnOutcome_canonical (ht : Canonical t) {i : Instr} : NextCanonical (turnOutcome s t i) := by
  dsimp only [turnOutcome]
  split
  · refine (Canonical.hold ?_).next
    exact ht.elsewhere rfl
  · exact noted_canonical (exec_canonical ht)

/-- The meanings that an event takes keep the canonical form. -/
def MeaningsCanonical (fs : Meanings) : Prop := ∀ f ∈ fs, ∀ s, Canonical s → NextCanonical (f s)

theorem MeaningsCanonical.nil : MeaningsCanonical [] := nofun

theorem MeaningsCanonical.cons {f : State → Host.Outcome State Fault Refusal} {fs : Meanings}
    (hf : ∀ {s}, Canonical s → NextCanonical (f s)) (hfs : MeaningsCanonical fs) : MeaningsCanonical (f :: fs) :=
  List.forall_mem_cons.mpr ⟨fun _ => hf, hfs⟩

theorem MeaningsCanonical.ite {p : Prop} [Decidable p] {fs gs : Meanings} (hf : MeaningsCanonical fs) (hg : MeaningsCanonical gs) :
    MeaningsCanonical (if p then fs else gs) := by
  split
  · exact hf
  · exact hg

theorem Due.meanings_canonical (d : Due) : MeaningsCanonical (d.meanings s) := by
  cases d with
  | home => exact .cons (execHomeWrite_canonical ·) (.cons (execLateStoreFault_canonical ·) .nil)
  | scratch => exact .cons (execScratchWriteDelivery_canonical ·) .nil
  | result => exact .cons (execResultArrival_canonical ·) .nil
  | job => exact .cons (execJobStart_canonical ·) (.cons (execJobCompletion_canonical ·) (.cons (execJobFailure_canonical ·) .nil))
  | collective => exact .cons (execCollectiveDeadline_canonical ·) (.cons (execAgreementWindowExpiry_canonical ·)
      (.cons (execIsolatedEnding_canonical ·) .nil))
  | post => exact .cons (execEventPost_canonical ·) .nil
  | loom => exact .cons (execLoomStep_canonical ·) (.cons (execLoomDrain_canonical ·) (.cons (execSelfTest_canonical ·) .nil))
  | mill => exact .cons (execMillCutStart_canonical ·) .nil
  | assay => exact .cons (execAssayCommit_canonical ·) (.cons (execFlushedAttemptStart_canonical ·) .nil)
  | cut => exact .cons (execTrapEntry_canonical ·) (.cons (execPageIn_canonical ·) (.cons (execRejoin_canonical ·)
      (.cons (execPageWaitLimit_canonical ·) (.cons (execFlushedLimit_canonical ·) (.cons (execReturnedCutResume_canonical ·)
      (.cons (execYieldExpiry_canonical ·) .nil))))))
  | seam => exact .cons (execSeamWaitEnd_canonical ·) (.cons (execSeamWaitLimit_canonical ·) .nil)
  | remote => exact .cons (execRemoteDeadline_canonical ·) .nil
  | link => exact .cons (execLinkDown_canonical ·) .nil
  | enter => exact .cons (execCutQueueIssue_canonical ·) .nil
  | resume => exact .cons (execCutResume_canonical ·) .nil
  | launch => exact .cons (execDispatch_canonical ·) (.cons (execQuantumEnd_canonical ·) (.cons (execLaunchCompletion_canonical ·)
      (.cons (execCompletionRecordWaitLimit_canonical ·) .nil)))
  | queue => exact .cons (execEntryTake_canonical ·) (.cons (execAdmission_canonical ·) (.cons (execAdmissionWaitLimit_canonical ·) .nil))
  | part => exact .cons (execPreemptionReport_canonical ·) (.cons (execSliceEnd_canonical ·) (.cons (execDrainDeadline_canonical ·)
      (.cons (execPreemptionDeadline_canonical ·) .nil)))
  | stop => exact .cons (execDebugStop_canonical ·) .nil
  | dump => exact .cons (execDump_canonical ·) .nil
  | command => exact .cons (execCommunicatorCommandDone_canonical ·) .nil
  | reload => exact .cons (execOwnershipReloadDone_canonical ·) .nil
  | checkpoint => exact .ite (.cons (execCheckpointDone_canonical ·) .nil) .nil
  | sample => exact .cons (execSample_canonical ·) .nil

theorem firstChange_canonical {fs : Meanings} (hfs : ∀ f ∈ fs, NextCanonical (f s)) : IfSomeCanonical (firstChange s fs) := by
  induction fs with
  | nil => exact .none
  | cons f fs ih =>
    obtain ⟨hf, hrest⟩ := List.forall_mem_cons.mp hfs
    unfold firstChange
    split
    · next u hu =>
      refine .ite (ih hrest) ?_
      exact (hf u hu).ifSome
    · exact ih hrest

theorem Canonical.due (h : Canonical s) : IfSomeCanonical s.due := by
  refine firstChange_canonical ?_
  intro f hf
  obtain ⟨d, -, hd⟩ := List.mem_flatMap.mp hf
  exact Due.meanings_canonical d f hd s h

/-- The state that a turn comes to is in canonical form. -/
def Turn.IsCanonical : Turn → Prop
  | .over s | .run _ s | .illegal _ s => Canonical s

theorem Canonical.turn (h : Canonical s) {uid : Nat} : (s.turn uid).IsCanonical := by
  unfold State.turn
  split
  · exact h
  · split
    · exact h
    · split
      · exact h.triggerAt
      · split
        · exact h.issues.fetchStops
        · split
          · exact h.issues
          · exact h.issues

theorem step_canonical (h : Canonical s) : NextCanonical (step s) := by
  unfold step
  split
  · next i rest _ =>
    have htaken : Canonical { s with agenda := rest } := h
    extract_lets taken entered
    have hentered : Canonical entered := htaken.waitsEntered.ite htaken
    split
    · exact hentered.holdHost.next
    · exact noted_canonical (exec_canonical hentered)
  · split
    · next uid rest _ =>
      have hrest : Canonical { s with issue := rest } := h
      have hturn := hrest.turn (uid := uid)
      split
      · next t hover =>
        rw [hover] at hturn
        exact Canonical.next hturn
      · next i t hrun =>
        rw [hrun] at hturn
        exact turnOutcome_canonical hturn
      · next w t hillegal =>
        rw [hillegal] at hturn
        exact noted_canonical (execIllegalInstruction_canonical hturn)
    · split
      · next hheld => exact noted_canonical (exec_canonical (h.heldTurn hheld))
      · next hheld => exact (followed_canonical (h.heldTurn hheld)).next
      · split
        · next t ht => exact (followed_canonical (h.due t ht)).next
        · exact execSchedulerCycle_canonical h.waitsEntered

end Sys2Proof.Machine

namespace Sys2Proof

open Sys2Proof.Machine

/-- Settles O59: every instruction, event and turn is composed of operations that keep the canonical form (`step_canonical`). -/
theorem canonicalKept : Obligations.CanonicalKept := by
  unfold Obligations.CanonicalKept
  exact fun _ t h ht => step_canonical h t ht

end Sys2Proof

end

section
/-! # FENCE, FWAIT and FTEST (O34; R181 to R185, R341) -/

namespace Sys2Proof.Machine

/-! ### The fences of a cut that executes settle first (R181) -/

theorem settleFences_cutOf_self {s : State} {c : Cut} (hc : s.cutOf c.uid = some c) :
    (s.settleFences c).cutOf c.uid = some (c.settled s) := by
  rw [cutOf_congr (settleFences_cuts s c)]
  exact cutOf_putCut s (c.settled s) c hc

@[simp] theorem settleFences_nextSeq (s : State) (c : Cut) : (s.settleFences c).nextSeq = s.nextSeq := by
  obtain ⟨k, -, -, hk⟩ := settleFences_frame s c
  rw [hk]
  rfl

/-- The cut as it stands once its fences have settled. -/
def Cut.afterSettling (s : State) (c : Cut) : Cut := ((s.settleFences c).cutOf c.uid).getD c

theorem afterSettling_eq {s : State} {c : Cut} (hc : s.cutOf c.uid = some c) : c.afterSettling s = c.settled s := by
  unfold Cut.afterSettling
  rw [settleFences_cutOf_self hc, Option.getD_some]

theorem withDone_self {f : Fence} {b : Bool} (h : f.done = b) : { f with done := b } = f := by
  subst h
  rfl

theorem settledFence_eq (s : State) (f : Fence) :
    (if !f.done && fenceDone s f then { f with done := true } else f) = { f with done := fenceDone s f } := by
  cases hdone : f.done with
  | true =>
    have hnow : fenceDone s f = true := by simp [fenceDone, hdone]
    rw [hnow, withDone_self hdone]
    rfl
  | false =>
    cases hnow : fenceDone s f with
    | true => rfl
    | false => exact (withDone_self hdone).symm

theorem settled_fence {s : State} {c : Cut} {n : Nat} {f : Fence} (hf : c.ctx.fences.getD n none = some f) :
    (c.settled s).ctx.fences.getD n none = some { f with done := fenceDone s f } := by
  rw [← settledFence_eq]
  simp only [Cut.settled, List.getD_eq_getElem?_getD, List.getElem?_map] at hf ⊢
  cases ho : c.ctx.fences[n]? with
  | none => simp [ho] at hf
  | some o =>
    obtain rfl : o = some f := by simpa [ho] using hf
    rfl

theorem newFence_afterSettling {s : State} {c : Cut} (e m : Bool) (kind : Nat) (hc : s.cutOf c.uid = some c) :
    (c.afterSettling s).newFence (s.settleFences c) e m kind = c.newFence s e m kind := by
  rw [afterSettling_eq hc, Cut.newFence, settleFences_nextSeq]
  rfl

theorem afterSettling_fseq {s : State} {c : Cut} (hc : s.cutOf c.uid = some c) : (c.afterSettling s).ctx.fseq = c.ctx.fseq := by
  rw [afterSettling_eq hc]
  rfl

/-! ### The slot and the token (R182, R183) -/

theorem lowestFree_lt {lo n i : Nat} {used : List Nat} (h : lowestFree lo n used = some i) : i < lo + n := by
  induction n generalizing lo with
  | zero => cases h
  | succ n ih =>
    unfold lowestFree at h
    split at h
    · have := ih h
      omega
    · cases h
      omega

theorem fenceSlot_lt {s : State} {c : Cut} {i : Nat} (h : c.fenceSlot s = some i) : i < 8 := by
  unfold Cut.fenceSlot at h
  split at h
  · next hfree =>
    cases h
    exact lowestFree_lt hfree
  · exact List.mem_range.mp (List.mem_of_find?_eq_some h)

theorem fenceToken_toNat {slot : Nat} (f : Fence) (hs : slot < 8) : (fenceToken slot f).toNat = f.seq % 2 ^ 24 * 2 ^ 8 + slot := by
  simp only [fenceToken, BitVec.toNat_ofNat]
  omega

theorem fenceToken_slot {slot : Nat} (f : Fence) (hs : slot < 8) : fld (fenceToken slot f) 0 8 = slot := by
  rw [fld, fenceToken_toNat f hs, Nat.shiftRight_eq_div_pow]
  omega

theorem fenceToken_seq {slot : Nat} (f : Fence) (hs : slot < 8) : fld (fenceToken slot f) 8 24 = f.seq % 2 ^ 24 := by
  rw [fld, fenceToken_toNat f hs, Nat.shiftRight_eq_div_pow]
  omega

theorem fenceToken_reserved {slot : Nat} (f : Fence) (hs : slot < 8) : fld (fenceToken slot f) 32 32 = 0 := by
  rw [fld, fenceToken_toNat f hs, Nat.shiftRight_eq_div_pow]
  omega

/-! ### A fence that is opened (R181) -/

/-- A cut's eight slots with a fence put in one. -/
def Cut.slotsWith (c : Cut) (i : Nat) (f : Fence) : List (Option Fence) :=
  (c.ctx.fences ++ List.replicate (8 - c.ctx.fences.length) none).set i (some f)

theorem slotsWith_same {i : Nat} (c : Cut) (f : Fence) (hi : i < 8) : (c.slotsWith i f).getD i none = some f := by
  have hlen : i < (c.ctx.fences ++ List.replicate (8 - c.ctx.fences.length) none).length := by
    rw [List.length_append, List.length_replicate]
    omega
  simp [Cut.slotsWith, List.getD_eq_getElem?_getD, List.getElem?_set_self hlen]

theorem slotsWith_other {i n : Nat} (c : Cut) (f : Fence) (hn : n ≠ i) : (c.slotsWith i f).getD n none = c.ctx.fences.getD n none := by
  simp only [Cut.slotsWith, List.getD_eq_getElem?_getD, List.getElem?_set_ne (Ne.symm hn)]
  rcases Nat.lt_or_ge n c.ctx.fences.length with hlt | hge
  · rw [List.getElem?_append_left hlt]
  · rw [List.getElem?_append_right hge, List.getElem?_eq_none hge, List.getElem?_replicate]
    split <;> rfl

/-- The cut that has opened a fence: all but an acquire fence is an effect. -/
def Cut.opening (c : Cut) (i : Nat) (f : Fence) (kind : BitVec 2) : Cut :=
  let k : Cut := { c with ctx := { c.ctx with fences := c.slotsWith i f, fseq := c.ctx.fseq + 1 } }
  if kind = 1#2 then k else k.effect

theorem opening_eq (c : Cut) (i : Nat) (f : Fence) (kind : BitVec 2) : c.opening i f kind
    = { c with ctx := { c.ctx with fences := (c.opening i f kind).ctx.fences, fseq := c.ctx.fseq + 1 },
               effects := (c.opening i f kind).effects } := by
  unfold Cut.opening
  split <;> rfl

@[simp] theorem opening_fences (c : Cut) (i : Nat) (f : Fence) (kind : BitVec 2) : (c.opening i f kind).ctx.fences = c.slotsWith i f := by
  unfold Cut.opening
  split <;> rfl

theorem opening_afterSettling {s : State} {c : Cut} (i : Nat) (f : Fence) (kind : BitVec 2) (hc : s.cutOf c.uid = some c) :
    let j := (c.afterSettling s).opening i f kind
    j = { c.afterSettling s with
      ctx := { (c.afterSettling s).ctx with fences := j.ctx.fences, fseq := c.ctx.fseq + 1 }, effects := j.effects } := by
  dsimp only
  rw [← afterSettling_fseq hc]
  exact opening_eq (c.afterSettling s) i f kind

/-- What `FENCE` makes of a cut whose fences have settled, by the slot that it finds. -/
def State.openFence (s : State) (c : Cut) (e m : BitVec 1) (kind : BitVec 2) (d : Opnd) : Option Nat → State
  | none => s.hold c .fenceSlot
  | some i =>
    let f := c.newFence s (e == 1#1) (m == 1#1) kind.toNat
    s.write (c.opening i f kind) [] .all d (uVal (fenceToken i f))

theorem exec_fence {s : State} {c : Cut} {e m : BitVec 1} {kind : BitVec 2} {d : Opnd} {x : Option Nat} (hr : Runs s c (.fence e m kind d))
    (hslot : (c.afterSettling s).fenceSlot (s.settleFences c) = x) :
    exec (.fence e m kind d) s = .next ((s.settleFences c).openFence (c.afterSettling s) e m kind d x) := by
  subst hslot
  exact operate_runs _ s _ c hr

theorem exec_fence_opens {s : State} {c : Cut} {e m : BitVec 1} {kind : BitVec 2} {d : Opnd} {i : Nat} (hr : Runs s c (.fence e m kind d))
    (hslot : (c.afterSettling s).fenceSlot (s.settleFences c) = some i) :
    let f := c.newFence s (e == 1#1) (m == 1#1) kind.toNat
    exec (.fence e m kind d) s
      = .next ((s.settleFences c).write ((c.afterSettling s).opening i f kind) [] .all d (uVal (fenceToken i f))) := by
  rw [← newFence_afterSettling _ _ _ (cutOf_of_runs s c _ hr)]
  exact exec_fence hr hslot

/-! ### A fence that is observed complete (R183, R341) -/

theorem observe_nothing {s : State} {c : Cut} {slot : Nat} {f : Fence} {go : State → Cut → State} (h : c.late.filter f.delivers = []) :
    s.observe c slot f go = go s { c with ctx := { c.ctx with fences := c.ctx.fences.set slot none } } := by
  unfold State.observe
  rw [h]
  rfl

theorem observe_one {s : State} {c : Cut} {slot : Nat} {f : Fence} {go : State → Cut → State} {x : LateFault}
    (h : c.late.filter f.delivers = [x]) :
    s.observe c slot f go = s.stop { c with
        ctx := { c.ctx with fences := c.ctx.fences.set slot none }, late := c.late.filter fun y => !f.delivers y }
      ⟨x.causes, c.ctx.pc, x.addr, x.lanes, c.allLanes, x.pc⟩ := by
  unfold State.observe
  rw [h]
  simp only [earliest, sortBy, List.foldl_cons, List.foldl_nil, insertBy, BitVec.zero_or]
  rfl

/-! ### What a token names (R184, R185) -/

/-- What `FWAIT` makes of a cut whose fences have settled, by what its token names. -/
def State.waitFence (s : State) (c : Cut) (a : Opnd) : TokenIs → State
  | .illegal => s.ill c
  | .stale => s.complete c [a] c
  | .current slot f => if !f.done then s.hold c (.fence slot f.seq) else s.observe c slot f fun s k => s.complete k [a] k

/-- What `FTEST` makes of a cut whose fences have settled, by what its token names. -/
def State.testFence (s : State) (c : Cut) (d a : Opnd) : TokenIs → State
  | .illegal => s.ill c
  | .stale => s.write c [a] c.gov d (uVal 1)
  | .current slot f =>
    if !f.done then s.write c [a] c.gov d (uVal 0)
    else if !c.gov.anyLane || c.needsLanes c.gov (uVal 1) then s.write c [a] c.gov d (uVal 1)
    else if (c.late.filter f.delivers).isEmpty then s.observe c slot f fun s k => s.write k [a] k.gov d (uVal 1)
    else
      let t := s.popAll c [a]
      let t := if isQ d then t.pushQ c d (c.entry c.gov (uVal 1)) c.ctx.pc else t
      t.observe ((c.popped [a]).result c.gov d (uVal 1)) slot f fun s k => s.putCut k

section
variable {s : State} {c : Cut} {d a : Opnd} {x : TokenIs}

theorem exec_fwait (hr : Runs s c (.fwait a))
    (htok : (c.afterSettling s).tokenOf ((c.afterSettling s).read (s.settleFences c) a []) = x) :
    exec (.fwait a) s = .next ((s.settleFences c).waitFence (c.afterSettling s) a x) := by
  subst htok
  exact operate_runs _ s _ c hr

theorem exec_ftest (hr : Runs s c (.ftest d a))
    (htok : (c.afterSettling s).tokenOf ((c.afterSettling s).read (s.settleFences c) a []) = x) :
    exec (.ftest d a) s = .next ((s.settleFences c).testFence (c.afterSettling s) d a x) := by
  subst htok
  exact operate_runs _ s _ c hr

end

section
variable {s : State} {c : Cut} {d a : Opnd} {slot : Nat} {f : Fence}

theorem waitFence_pending (hf : f.done = false) : s.waitFence c a (.current slot f) = s.hold c (.fence slot f.seq) := by
  simp [State.waitFence, hf]

theorem waitFence_done (hf : f.done = true) :
    s.waitFence c a (.current slot f) = s.observe c slot f fun s k => s.complete k [a] k := by
  simp [State.waitFence, hf]

theorem testFence_pending (hf : f.done = false) : s.testFence c d a (.current slot f) = s.write c [a] c.gov d (uVal 0) := by
  simp [State.testFence, hf]

theorem testFence_done (hf : f.done = true) (hany : c.gov.anyLane = true) (hlanes : c.needsLanes c.gov (uVal 1) = false)
    (hlate : c.late.filter f.delivers = []) :
    s.testFence c d a (.current slot f) = s.observe c slot f fun s k => s.write k [a] k.gov d (uVal 1) := by
  have hgoes : (!c.gov.anyLane || c.needsLanes c.gov (uVal 1)) = false := by
    rw [hany, hlanes]
    rfl
  unfold State.testFence
  simp only [hf, hgoes, hlate, List.isEmpty_nil, Bool.not_true, Bool.false_eq_true, if_false, if_true]

end

end Sys2Proof.Machine

namespace Sys2Proof

open Sys2Proof.Machine

/-- Settles O34: the cut that runs is stored, so that its fences settle in place (`afterSettling_eq`), and each clause is what the instruction
makes of the slot that it finds (`State.openFence`) or of what its token names (`State.waitFence`, `State.testFence`). -/
theorem fenceInstructions : Obligations.FenceInstructions := by
  unfold Obligations.FenceInstructions
  intro s c e m kind d a t k free
  refine ⟨fun hr => ⟨exec_fence hr, fun i hslot => ?fence⟩, fun hc n f hf => ?settle, fun hr => ⟨exec_fwait hr, exec_fwait hr,
    fun i f htok hf => ?hold, fun i f htok hf hlate => ?goOn, fun i f x htok hf hlate => ?deliver⟩, fun hr => ⟨exec_ftest hr, exec_ftest hr,
    fun i f htok hf => ?no, fun i f htok hf hlate hany hlanes => ?yes⟩⟩
  case fence =>
    have hi : i < 8 := fenceSlot_lt hslot
    let f := c.newFence s (e == 1#1) (m == 1#1) kind.toNat
    refine ⟨k.opening i f kind, f, fenceToken i f, exec_fence_opens hr hslot, fenceToken_slot f hi, fenceToken_seq f hi, fenceToken_reserved f hi,
      opening_afterSettling i f kind (cutOf_of_runs s c _ hr), ?_, rfl, rfl, rfl, rfl, rfl, rfl, rfl, rfl, rfl, fun n hn => ?_⟩
    · rw [opening_fences]
      exact slotsWith_same k f hi
    · rw [opening_fences]
      exact slotsWith_other k f hn
  case settle =>
    have hk : k = c.settled s := afterSettling_eq hc
    rw [hk]
    exact settled_fence hf
  case hold => exact (exec_fwait hr htok).trans (congrArg _ (waitFence_pending hf))
  case goOn => exact (exec_fwait hr htok).trans (congrArg _ ((waitFence_done hf).trans (observe_nothing hlate)))
  case deliver => exact (exec_fwait hr htok).trans (congrArg _ ((waitFence_done hf).trans (observe_one hlate)))
  case no => exact (exec_ftest hr htok).trans (congrArg _ (testFence_pending hf))
  case yes => exact (exec_ftest hr htok).trans (congrArg _ ((testFence_done hf hany hlanes hlate).trans (observe_nothing hlate)))

end Sys2Proof
end

section
/-! # The paged scratchpad: crews, pages and bytes (R197 to R204) -/

namespace Sys2Proof.Machine

/-! ### The bytes of a frame (R135, R205) -/

theorem wrote_cons (base : Nat) (x : Nat × Byte) (bs : List (Nat × Byte)) (a : Nat) :
    wrote base (x :: bs) a = (wrote base bs a).or (if base + x.1 = a then some x.2 else none) := by
  unfold wrote
  by_cases hx : base + x.1 = a
  · rw [List.filter_cons_of_pos (by simpa using hx), List.getLast?_cons, if_pos hx]
    cases (bs.filter fun y => base + y.1 == a).getLast? <;> rfl
  · rw [List.filter_cons_of_neg (by simpa using hx), if_neg hx, Option.or_none]

/-- Of the bytes scattered over a frame, the last that names an offset is read there. -/
theorem cellGet_scatter (m : List Host.Cell) (base : Nat) (bs : List (Nat × Byte)) (a : Nat) (hm : Memory.wf m = true) :
    cellGet (scatter m base bs) a = (wrote base bs a).getD (cellGet m a) := by
  induction bs generalizing m with
  | nil => rfl
  | cons x bs ih =>
    have hput := ih (cellPut (base + x.1) x.2 m) (cellPut_wf _ _ m hm)
    rw [cellGet_cellPut _ _ m hm] at hput
    rw [wrote_cons]
    refine hput.trans ?_
    by_cases hx : base + x.1 = a
    · rw [if_pos hx.symm, if_pos hx]
      cases wrote base bs a <;> rfl
    · rw [if_neg (Ne.symm hx), if_neg hx, Option.or_none]

/-- A frame filled with zeros lists no byte. -/
theorem cellsPut_zeros (n a : Nat) : cellsPut [] a (List.replicate n 0) = [] := by
  induction n generalizing a with
  | zero => rfl
  | succ n ih => exact ih (a + 1)

/-! ### The crew with a key (R198, R213) -/

theorem crewOf_key {s : State} {n : Nat} {k : Crew} (h : s.crewOf n = some k) : k.key = n := by
  simpa using List.find?_some h

theorem crewOf_putCrew_ne (s : State) (j : Crew) (n : Nat) (h : n ≠ j.key) : (s.putCrew j).crewOf n = s.crewOf n := by
  have hkeep : ∀ d : Crew, ((if d.key = j.key then j else d).key == n) = (d.key == n) := fun d => by
    split
    · next hd => simp [hd]
    · rfl
  have hother : ∀ d : Crew, (d.key == n) = true → (if d.key = j.key then j else d) = d := fun d hd =>
    if_neg fun hj => h (by rw [← hj]; exact (beq_iff_eq.mp hd).symm)
  unfold State.crewOf State.putCrew
  simp only [List.find?_map, Function.comp_def, hkeep]
  cases hfound : s.crews.find? (·.key == n) with
  | none => rfl
  | some d => exact congrArg some (hother d (by simpa using List.find?_some hfound))

theorem crewOf_putCrew_key {s : State} {j k : Crew} (hk : s.crewOf k.key = some k) (hj : j.key = k.key) : (s.putCrew j).crewOf k.key = some j :=
  hj ▸ crewOf_putCrew s j k (hj ▸ hk)

theorem crewOf_congr {s t : State} (h : t.crews = s.crews) (n : Nat) : t.crewOf n = s.crewOf n := by
  unfold State.crewOf
  rw [h]

/-! ### The pages of a crew (R200, R201) -/

@[simp] theorem setPage_key (k : Crew) (n : Nat) (p : SPage) : (k.setPage n p).key = k.key := rfl
@[simp] theorem setPage_length (k : Crew) (n : Nat) (p : SPage) : (k.setPage n p).pages.length = k.pages.length := List.length_set ..

theorem page_setPage_same (k : Crew) (n : Nat) (p : SPage) (h : n < k.pages.length) : (k.setPage n p).page n = p := by
  simp [Crew.page, Crew.setPage, h]

theorem page_setPage_ne (k : Crew) (n m : Nat) (p : SPage) (h : m ≠ n) : (k.setPage n p).page m = k.page m := by
  simp [Crew.page, Crew.setPage, Ne.symm h]

theorem page_eq_zero (k : Crew) (n : Nat) (h : k.pages.length ≤ n) : k.page n = SPage.zero := by
  simp [Crew.page, h]

/-- Only a page of the space can be RES. -/
theorem lt_of_res {k : Crew} {n : Nat} (h : (k.page n).state = .res) : n < k.pages.length := by
  by_contra hn
  rw [page_eq_zero k n (Nat.le_of_not_lt hn)] at h
  cases h

/-- A space with a change made to some of its pages, in turn. -/
def Crew.onPages (k : Crew) (f : Nat → SPage → SPage) (ns : List Nat) : Crew := ns.foldl (fun k n => k.setPage n (f n (k.page n))) k

@[simp] theorem onPages_key (k : Crew) (f : Nat → SPage → SPage) (ns : List Nat) : (k.onPages f ns).key = k.key := by
  induction ns generalizing k with
  | nil => rfl
  | cons m ns ih => exact ih _

theorem page_onPages (k : Crew) (f : Nat → SPage → SPage) (ns : List Nat) (n : Nat) (hns : ns.Nodup) (hn : n < k.pages.length) :
    (k.onPages f ns).page n = if n ∈ ns then f n (k.page n) else k.page n := by
  induction ns generalizing k with
  | nil => rfl
  | cons m ns ih =>
    obtain ⟨hm, hns⟩ := List.nodup_cons.mp hns
    refine (ih (k.setPage m (f m (k.page m))) hns (by simpa using hn)).trans ?_
    by_cases hnm : n = m
    · subst hnm
      rw [if_neg hm, if_pos (List.mem_cons_self ..), page_setPage_same k n _ hn]
    · rw [page_setPage_ne k m n _ hnm]
      simp only [List.mem_cons, hnm, false_or]

/-- The pin counts of a space's pages. -/
def Crew.pinCounts (k : Crew) : List Nat := k.pages.map fun p => p.pins

theorem pinCounts_setPage (k : Crew) (n : Nat) (p : SPage) (h : p.pins = (k.page n).pins) : (k.setPage n p).pinCounts = k.pinCounts := by
  unfold Crew.pinCounts Crew.setPage
  refine List.ext_getElem (by simp) fun i hi hi' => ?_
  simp only [List.getElem_map, List.getElem_set]
  split
  · next hin =>
    subst hin
    have hlt : n < k.pages.length := by simpa using hi'
    simp [h, Crew.page, hlt]
  · rfl

end Sys2Proof.Machine
end

section
/-! # Page-ins, page faults, crew moves and deliveries into a space (O33; R204, R209 to R211) -/

namespace Sys2Proof.Machine

/-! ### The pager (R204) -/

/-- What PAGE_IN makes of a waiting instruction's accesses, with the pages that it touches given. -/
def State.pagedIn (s : State) (c : Cut) (k : Crew) (accs : List (Nat × Nat)) : State :=
  let ns := distinct (accs.map (·.2 / Config.scratchPage))
  let bad := ns.filter fun n => (k.bytesOf s n).isNone
  if !bad.isEmpty then (bad.foldl (fun s n => s.backRead k n) s).scratchPoison c accs bad
  else match s.pagesUp k.key (ns.map (fun n => (k.key, n)) ++ heldPages s) ns with
    | (.res, _, t) => t
    | _ => s

theorem exec_pageIn {s : State} {c : Cut} {k : Crew} {accs : List (Nat × Nat)} (hc : s.cutOf c.uid = some c)
    (hw : c.wait = .scratchPage accs) (hp : c.place.resident = true) (hk : c.crewIn s = some k) :
    exec (.pageIn c.uid) s = .next (s.pagedIn c k accs) := by
  show execPageIn c.uid s = _
  simp only [execPageIn, hc, hw, hp, hk, if_true]
  rfl

/-- A ZERO page in its frame: nothing of it is in its backing. -/
def SPage.zeroFilled (p : SPage) (f : Nat) : SPage := { p with state := .res, frame := f, dirty := false, fresh := true, data := [] }

/-- The frame that the pager takes where one is free on the Bench: the first (R199). -/
def Crew.FirstFree (s : State) (k : Crew) (f : Nat) : Prop :=
  (benchFrames s (k.part s) k.bench).find? (fun f => !decide (f ∈ usedFrames s k.bench)) = some f

theorem pageUp_zero {s : State} {k : Crew} {n f : Nat} (keep : List (Nat × Nat)) (hk : s.crewOf k.key = some k)
    (hz : (k.page n).state = .zero) (hf : k.FirstFree s f) :
    s.pageUp k.key n keep = (.res, (s.putCrew (k.setPage n ((k.page n).zeroFilled f))).setReg (regPagein k.bench)
      (s.reg (regPagein k.bench) + 1)) := by
  have hbytes : k.bytesOf s n = some (List.replicate Config.scratchPage 0) := by simp only [Crew.bytesOf, hz]
  have htake : s.takeFrame (k.part s) k.bench keep = some (f, s) := by
    unfold Crew.FirstFree at hf
    simp only [State.takeFrame, hf]
  have hnew : (PageState.zero == PageState.backed) = false := rfl
  simp only [State.pageUp, hk, hz, hbytes, htake, reduceCtorEq, if_false, false_and, Option.getD_some, cellsPut_zeros, hnew,
    Bool.false_and, beq_self_eq_true]
  rfl

theorem pagedIn_zero {s : State} {c : Cut} {k : Crew} {p off f : Nat} (hk : s.crewOf k.key = some k)
    (hz : (k.page (off / 2048)).state = .zero) (hf : k.FirstFree s f) :
    s.pagedIn c k [(p, off)] = (s.putCrew (k.setPage (off / 2048) ((k.page (off / 2048)).zeroFilled f))).setReg (regPagein k.bench)
      (s.reg (regPagein k.bench) + 1) := by
  have hone : distinct ([(p, off)].map fun a : Nat × Nat => a.2 / Config.scratchPage) = [off / 2048] := rfl
  have hread : (k.bytesOf s (off / 2048)).isNone = false := by simp only [Crew.bytesOf, hz, Option.isNone_some]
  simp only [State.pagedIn, hone, List.filter_cons, hread, Bool.false_eq_true, if_false, List.filter_nil, List.isEmpty_nil,
    Bool.not_true, State.pagesUp, pageUp_zero _ hk hz hf]

/-! ### A page whose backing cannot be read (R204) -/

theorem backRead_sameButReads (s : State) (k : Crew) (n : Nat) : SameButReads s (s.backRead k n) := by
  unfold State.backRead
  split
  · rfl
  · exact foldl_sameButReads _ (fun s l => readAll_sameButReads s l 1) _ s

/-- The accesses whose pages cannot be read, as the pager finds them by their pages. -/
theorem filter_unreadable (s : State) (k : Crew) (accs : List (Nat × Nat)) :
    (accs.filter fun a => decide (a.2 / Config.scratchPage ∈
        (distinct (accs.map (·.2 / Config.scratchPage))).filter fun n => (k.bytesOf s n).isNone))
      = accs.filter fun a => (k.bytesOf s (a.2 / 2048)).isNone := by
  refine List.filter_congr fun a ha => ?_
  have hmem : a.2 / Config.scratchPage ∈ distinct (accs.map (·.2 / Config.scratchPage)) :=
    (mem_distinct _ _).mpr (List.mem_map_of_mem (f := fun a : Nat × Nat => a.2 / Config.scratchPage) ha)
  simp only [List.mem_filter, hmem, true_and, Bool.decide_eq_true]
  rfl

theorem raiseAt_lane (s : State) (c : Cut) (causes : Nat) (addr : W64) (lanes : List Nat) (hl : c.isPattern = false) :
    s.raiseAt c causes addr lanes = s.stop c (c.cause causes addr (lanesWord lanes)) := by
  simp [State.raiseAt, hl]

theorem pagedIn_unreadable {s : State} {c : Cut} {k : Crew} {accs : List (Nat × Nat)} (hl : c.isPattern = false)
    (hne : (accs.filter fun a => (k.bytesOf s (a.2 / 2048)).isNone) ≠ []) :
    ∃ t, SameButReads s t ∧ s.pagedIn c k accs = t.stop c (c.cause causeSPF
      (BitVec.ofNat 64 (leastOf 0 ((accs.filter fun a => (k.bytesOf s (a.2 / 2048)).isNone).map fun a => a.2)))
      (lanesWord ((accs.filter fun a => (k.bytesOf s (a.2 / 2048)).isNone).map fun a => a.1))) := by
  have hfilter := filter_unreadable s k accs
  generalize hbad : ((distinct (accs.map (·.2 / Config.scratchPage))).filter fun n => (k.bytesOf s n).isNone) = bad at hfilter
  have hsome : bad.isEmpty = false := by
    cases bad with
    | nil => exact absurd (hfilter.symm.trans (by simp)) hne
    | cons n ns => rfl
  refine ⟨bad.foldl (fun s n => s.backRead k n) s, foldl_sameButReads _ (fun s n => backRead_sameButReads s k n) bad s, ?_⟩
  simp only [State.pagedIn, hbad, hsome, Bool.not_false, if_true, State.scratchPoison, hfilter, raiseAt_lane _ c _ _ _ hl]

theorem leastOf_snd (xs : List (Nat × Nat)) (h : xs ≠ []) :
    ∃ a ∈ xs, leastOf 0 (xs.map fun a => a.2) = a.2 ∧ ∀ b ∈ xs, a.2 ≤ b.2 := by
  obtain ⟨a, ha, hleast⟩ := List.mem_map.mp (leastOf_mem 0 (xs.map fun a => a.2) (by simpa using h))
  exact ⟨a, ha, hleast.symm, fun b hb => hleast.le.trans (leastOf_le 0 _ _ (List.mem_map_of_mem hb))⟩

/-! ### What the pager keeps of every space (R201, R204, R209) -/

/-- Every crew is still there, on its Bench, moving or not as it was, with every pin count. -/
def KeepsSpaces (s t : State) : Prop :=
  ∀ n k, s.crewOf n = some k → ∃ j, t.crewOf n = some j ∧ j.bench = k.bench ∧ j.moving = k.moving ∧ j.pinCounts = k.pinCounts

theorem KeepsSpaces.of_crews {s t : State} (h : t.crews = s.crews) : KeepsSpaces s t :=
  fun n k hk => ⟨k, (crewOf_congr h n).trans hk, rfl, rfl, rfl⟩

theorem KeepsSpaces.refl (s : State) : KeepsSpaces s s := .of_crews rfl

theorem setReg_keepsSpaces (s : State) (off : Nat) (v : W64) : KeepsSpaces s (s.setReg off v) := .of_crews rfl

theorem KeepsSpaces.trans {s t u : State} (h : KeepsSpaces s t) (h' : KeepsSpaces t u) : KeepsSpaces s u := fun n k hk => by
  obtain ⟨i, hi, hbench, hmoving, hpins⟩ := h n k hk
  obtain ⟨j, hj, hbench', hmoving', hpins'⟩ := h' n i hi
  exact ⟨j, hj, hbench'.trans hbench, hmoving'.trans hmoving, hpins'.trans hpins⟩

/-- A page of a crew takes another state and keeps its pin count. -/
theorem KeepsSpaces.setPage {s : State} {key : Nat} {k : Crew} (hk : s.crewOf key = some k) {n : Nat} {p : SPage}
    (hp : p.pins = (k.page n).pins) : KeepsSpaces s (s.putCrew (k.setPage n p)) := fun m j hj => by
  have hkey : k.key = key := crewOf_key hk
  by_cases hm : m = k.key
  · subst hm
    obtain rfl : k = j := Option.some.inj ((hkey ▸ hk).symm.trans hj)
    exact ⟨k.setPage n p, crewOf_putCrew s (k.setPage n p) k hj, rfl, rfl, pinCounts_setPage k n p hp⟩
  · exact ⟨j, (crewOf_putCrew_ne s (k.setPage n p) m hm).trans hj, rfl, rfl, rfl⟩

theorem putAt_crews (s : State) (ls : List Loc) (bs : List Byte) : (s.putAt ls bs).crews = s.crews := by
  unfold State.putAt
  extract_lets ps devs t
  have hwrites : WritesOnly t _ := foldl_writesOnly (fun (s : State) sec =>
    s.devWrite (sec * 128) ((devs.filter fun p => sectorOf p.1 == sec).map fun p => (p.1 % 128, p.2)))
    (fun s sec => devWrite_writesOnly s _ _) (sectorsOf (devs.map (·.1))) t
  rw [hwrites.1]

theorem poisonAt_crews (s : State) (ls : List Loc) : (s.poisonAt ls).crews = s.crews := by
  refine foldl_rel (fun s t => t.crews = s.crews) (fun _ => rfl) (fun h k => k.trans h) _ (fun s l => ?_) ls s
  split
  · split <;> rfl
  · rfl

theorem backPage_keepsSpaces (s : State) (key n : Nat) (bs : List Byte) : KeepsSpaces s (s.backPage key n bs) := by
  unfold State.backPage
  split
  · exact .refl s
  · next k hk =>
    dsimp only
    split
    · next ls _ =>
      have hcrews := (poisonAt_crews (s.putAt ls bs) ((k.page n).lost.filterMap fun i => ls[i]?)).trans (putAt_crews s ls bs)
      exact (KeepsSpaces.of_crews hcrews).trans (.setPage ((crewOf_congr hcrews key).trans hk) rfl)
    · exact .setPage hk rfl

theorem evictPage_keepsSpaces (s : State) (key n : Nat) : KeepsSpaces s (s.evictPage key n) := by
  unfold State.evictPage
  split
  · exact .refl s
  · next k hk =>
    dsimp only
    split
    · exact .refl s
    · split
      · exact backPage_keepsSpaces s key n _
      · exact .setPage hk rfl

theorem takeFrame_keepsSpaces {s : State} {part b f : Nat} {keep : List (Nat × Nat)} {t : State}
    (h : s.takeFrame part b keep = some (f, t)) : KeepsSpaces s t := by
  unfold State.takeFrame at h
  dsimp only at h
  split at h
  · cases h
    exact .refl s
  · split at h
    · cases h
    · next v _ =>
      obtain ⟨g, -, hg⟩ := Option.map_eq_some_iff.mp h
      cases hg
      exact evictPage_keepsSpaces s v.1 v.2

theorem pageUp_keepsSpaces (s : State) (key n : Nat) (keep : List (Nat × Nat)) : KeepsSpaces s (s.pageUp key n keep).2 := by
  unfold State.pageUp
  split
  · exact .refl s
  · next k hk =>
    split
    · exact .refl s
    · split
      · exact .refl s
      · split
        · exact .refl s
        · next f t htake =>
          have hread : KeepsSpaces t (if (k.page n).state = .backed ∧ !(k.page n).dirty then t.backRead k n else t) := by
            split
            · exact .of_crews (by rw [(backRead_sameButReads t k n).eq])
            · exact .refl t
          have hbefore := (takeFrame_keepsSpaces htake).trans hread
          dsimp only
          generalize (if (k.page n).state = .backed ∧ !(k.page n).dirty then t.backRead k n else t) = u at hbefore
          obtain ⟨j, hj, -, -, -⟩ := hbefore key k hk
          rw [hj, Option.getD_some]
          refine (hbefore.trans (.setPage hj ?_)).trans (setReg_keepsSpaces _ _ _)
          rfl

theorem evictAll_keepsSpaces (s : State) (k : Crew) : KeepsSpaces s (s.evictAll k) :=
  foldl_rel KeepsSpaces KeepsSpaces.refl KeepsSpaces.trans _ (fun s n => evictPage_keepsSpaces s k.key n) _ s

theorem bringAll_keepsSpaces {key : Nat} {keep : List (Nat × Nat)} (ns : List Nat) {s t : State}
    (h : s.bringAll key keep ns = some t) : KeepsSpaces s t := by
  induction ns generalizing s with
  | nil =>
    cases h
    exact .refl _
  | cons n ns ih =>
    have hup := pageUp_keepsSpaces s key n keep
    unfold State.bringAll at h
    split at h
    · cases h
    · next u hu =>
      rw [hu] at hup
      exact hup.trans (ih h)

/-- A space that settles on a Bench is there, moves no more, and has every pin count (R209 steps 3 and 4). -/
theorem settleSpace_places {s t : State} {key b : Nat} {k : Crew} (hk : s.crewOf key = some k) (h : s.settleSpace key b = some t) :
    ∃ j, t.crewOf key = some j ∧ j.bench = b ∧ j.moving = false ∧ j.pinCounts = k.pinCounts := by
  obtain rfl : k.key = key := crewOf_key hk
  simp only [State.settleSpace, hk] at h
  exact bringAll_keepsSpaces _ h k.key _ (crewOf_putCrew s { k with bench := b, moving := false } k hk)

/-! ### The members of a crew that moves (R209) -/

theorem settleBench_crews (s : State) (b : Nat) : (s.settleBench b).crews = s.crews :=
  foldl_rel (fun s t => t.crews = s.crews) (fun _ => rfl) (fun h k => k.trans h) _ (fun s c => by
    obtain ⟨k, -, -, hk⟩ := settleFences_frame s c
    rw [hk]
    rfl) _ s

theorem moveCut_crews (s : State) (c : Cut) (b : Nat) : (s.moveCut c b).1.crews = s.crews := by
  have hfresh : ((s.settleBench c.bench).freshFor c.bench b).crews = s.crews := by
    rw [freshFor_frame]
    exact settleBench_crews s c.bench
  exact hfresh

/-- A cut that moves is on the Bench; every other cut has its crew and place. -/
theorem moveCut_cuts (s : State) (c : Cut) (b : Nat) : ∀ d ∈ (s.moveCut c b).1.cuts,
    (d.uid = c.uid ∧ d.place.bench = b) ∨ (d.uid ≠ c.uid ∧ FencesOf s.cuts d) := by
  have hfences : ∀ d ∈ (s.settleBench c.bench).cuts, FencesOf s.cuts d :=
    foldl_settleFences_fencesOf _ s s.cuts (fun d hd => ⟨d, hd, d.ctx.fences, rfl⟩) fun d hd => (List.mem_filter.mp hd).1
  have hcuts : (((s.settleBench c.bench).freshFor c.bench b).saveClaims c).cuts = (s.settleBench c.bench).cuts := by
    show ((s.settleBench c.bench).freshFor c.bench b).cuts = _
    rw [freshFor_frame]
  intro d hd
  unfold State.moveCut at hd
  extract_lets t k place j at hd
  have huid : j.uid = c.uid := by
    show ((t.cutOf c.uid).getD c).uid = c.uid
    cases hfound : t.cutOf c.uid with
    | none => rfl
    | some x => exact cutOf_uid t c.uid x hfound
  rcases mem_putCut t j d hd with rfl | ⟨hmem, hne⟩
  · refine .inl ⟨huid, ?_⟩
    show place.bench = b
    unfold place
    split
    · rfl
    · split <;> rfl
  · exact .inr ⟨fun h => hne (huid.trans h.symm), hfences d (hcuts ▸ hmem)⟩

/-- The members of a crew are on a Bench, but for those that have still to move. -/
def Gathered (key b : Nat) (left : List Nat) (s : State) : Prop := ∀ c ∈ s.cuts, c.crew = some key → c.place.bench = b ∨ c.uid ∈ left

theorem foldl_moveCut_gathers (key b : Nat) (cs : List Cut) (s : State) (h : Gathered key b (cs.map (·.uid)) s) :
    Gathered key b [] (cs.foldl (fun s c => (s.moveCut c b).1) s) := by
  induction cs generalizing s with
  | nil => exact h
  | cons c cs ih =>
    refine ih _ fun d hd hcrew => ?_
    rcases moveCut_cuts s c b d hd with ⟨-, hb⟩ | ⟨hne, e, he, fs, rfl⟩
    · exact .inl hb
    · rcases h e he hcrew with hb | hleft
      · exact .inl hb
      · exact .inr ((List.mem_cons.mp hleft).resolve_left hne)

/-- CREW_MOVE takes the members to the Bench once the space has settled there. -/
def State.membersMoved (s : State) (key b : Nat) : State :=
  (s.cuts.filter (·.crew == some key)).foldl (fun s c => (s.moveCut c b).1) s

theorem membersMoved_crews (s : State) (key b : Nat) : (s.membersMoved key b).crews = s.crews :=
  foldl_rel (fun s t => t.crews = s.crews) (fun _ => rfl) (fun h k => k.trans h) _ (fun s c => moveCut_crews s c b) _ s

theorem membersMoved_gathers (s : State) (key b : Nat) : ∀ c ∈ (s.membersMoved key b).cuts, c.crew = some key → c.place.bench = b :=
  fun c hc hcrew => by
    have hstart : Gathered key b ((s.cuts.filter (·.crew == some key)).map (·.uid)) s := fun d hd hd' =>
      .inr (List.mem_map_of_mem (List.mem_filter.mpr ⟨hd, by simp [hd']⟩))
    simpa using foldl_moveCut_gathers key b _ s hstart c hc hcrew

theorem exec_crewMove {s t : State} {k : Crew} {b : Nat} (hk : s.crewOf k.key = some k) (hm : k.moving = false) (hb : k.bench ≠ b)
    (hroom : roomFor s k b = true) (ht : (s.evictAll k).settleSpace k.key b = some t) :
    exec (.crewMove k.key b) s = .next (t.membersMoved k.key b) := by
  show execCrewMove k.key b s = _
  simp [execCrewMove, hk, hm, hb, hroom, ht, State.membersMoved]

/-! ### Deliveries (R210, R211) -/

section
variable {s : State} {w : ScratchWrite}

theorem exec_scratchWriteDelivery (hw : s.scratchW.find? (·.id == w.id) = some w) (hq : (s.launchOf w.lid).qm = false) :
    exec (.scratchWriteDelivery w.id) s = .next (s.deliverScratch w) := by
  show execScratchWriteDelivery w.id s = _
  simp [execScratchWriteDelivery, hw, hq]

theorem deliverScratch_space {k : Crew} (hk : spaceOf s w.lid w.handle = some k) : s.deliverScratch w = if k.moving then s
    else ({ s with scratchW := s.scratchW.filter (·.id != w.id) } : State).spaceWrite k.key
      ((List.range w.bytes.length).map fun i => (w.off + i, w.bytes.getD i 0)) := by
  simp only [State.deliverScratch, hk]

theorem deliverScratch_gone (h : spaceOf s w.lid w.handle = none) : s.deliverScratch w
    = ({ s with scratchW := s.scratchW.filter (·.id != w.id) } : State).setReg (regSdrop w.deliver)
      (BitVec.ofNat 64 (fld w.handle 48 16 * 2 ^ 48 + fld w.handle 0 24 * 2 ^ 24 + min 0xFFFFFF (fld (s.reg (regSdrop w.deliver)) 0 24 + 1))) := by
  simp only [State.deliverScratch, h]
  rfl

end

end Sys2Proof.Machine

namespace Sys2Proof

open Sys2Proof.Machine

/-- Settles O33: the pager fills the one ZERO page's frame (`pagedIn_zero`) or finds the pages that it cannot read (`pagedIn_unreadable`); a
move keeps every space through its evictions and page-ins (`KeepsSpaces`) and gathers the members (`foldl_moveCut_gathers`). -/
theorem scratchEvents : Obligations.ScratchEvents := by
  unfold Obligations.ScratchEvents
  refine ⟨fun s c k accs hc hw hp hcrew => ⟨fun p off n f haccs hn hlt hz hf => ?zero, fun hl => ?unreadable⟩,
    fun s k b t hk hm hb hroom ht => ?move, fun s w hw hq => ⟨fun k hk hm => ?live, fun k hk hm => ?moving, fun hnone => ?gone⟩⟩
  case zero =>
    subst haccs hn
    have hk := crewOf_bind s c.crew k hcrew
    refine ⟨_, (exec_pageIn hc hw hp hcrew).trans (congrArg _ (pagedIn_zero hk hz hf)), ⟨rfl, rfl⟩, rfl, ?_, fun hcan =>
      reg_setReg_same _ _ _ hcan⟩
    have hput := crewOf_putCrew s (k.setPage (off / 2048) ((k.page (off / 2048)).zeroFilled f)) k hk
    refine (congrArg (Option.map fun j => j.page (off / 2048)) (hput :)).trans ?_
    exact congrArg some (page_setPage_same k _ _ hlt)
  case unreadable =>
    intro bad hne
    obtain ⟨t, hreads, hpaged⟩ := pagedIn_unreadable (s := s) (k := k) (accs := accs) hl hne
    obtain ⟨a, ha, hoff, hleast⟩ := leastOf_snd bad hne
    exact ⟨t, _, hreads.keepsMemory, hreads.cuts, ⟨a, ha, hoff, hleast⟩, (exec_pageIn hc hw hp hcrew).trans (congrArg _ hpaged)⟩
  case move =>
    obtain ⟨i, hi, -, -, hevicted⟩ := evictAll_keepsSpaces s k k.key k hk
    obtain ⟨j, hj, hbench, hmoving, hpins⟩ := settleSpace_places hi ht
    exact ⟨_, j, exec_crewMove hk hm hb hroom ht, (crewOf_congr (membersMoved_crews t k.key b) k.key).trans hj, hbench, hmoving,
      hpins.trans hevicted, membersMoved_gathers t k.key b⟩
  case live => exact (exec_scratchWriteDelivery hw hq).trans (congrArg _ ((deliverScratch_space hk).trans (if_neg (by simp [hm]))))
  case moving => exact (exec_scratchWriteDelivery hw hq).trans (congrArg _ ((deliverScratch_space hk).trans (if_pos hm)))
  case gone => exact (exec_scratchWriteDelivery hw hq).trans (congrArg _ (deliverScratch_gone hnone))

end Sys2Proof
end

section
/-! # SALLOC, SFREE, SPIN, SUNPIN and SPGQ (O32; R207, R208) -/

namespace Sys2Proof.Machine

theorem spaceLength_of_crew {s : State} {c : Cut} {k : Crew} (hk : c.crewIn s = some k) (hm : c.onMill = false) :
    c.spaceLength s = k.length := by
  simp [Cut.spaceLength, hk, hm]

/-! ### The range that the four instructions name (R207) -/

/-- A cut of a crew on a Bench names a range by two operands, each one value in the items that it governs. -/
structure Ranged (s : State) (c : Cut) (a b : Opnd) (k : Crew) (x y : W64) : Prop where
  crew : c.crewIn s = some k
  bench : c.onMill = false
  governs : c.governed ≠ []
  start : c.governedOf (c.read s a []) = some x
  len : c.governedOf (c.read s b [a]) = some y

section
variable {s : State} {c : Cut} {a b : Opnd} {k : Crew} {x y : W64} {none_ : State} {whole : Bool} {go : Nat → Nat → State}

theorem scratchRange_mixed (hne : c.governed ≠ []) (hmix : c.governed ≠ c.positions) : s.scratchRange c a b none_ whole go = s.ill c := by
  simp [State.scratchRange, hne, length_governed_ne c hmix]

theorem Ranged.scratchRange_beyond (h : Ranged s c a b k x y) (hall : c.governed = c.positions) (hy : y ≠ 0) (hlen : k.length < x.toNat + y.toNat) :
    s.scratchRange c a b none_ whole go = s.raiseAll c causeBND x := by
  have hne : c.positions ≠ [] := hall ▸ h.governs
  have hsome : ¬ y = 0#64 := hy
  simp [State.scratchRange, h.start, h.len, hall, hne, hsome, spaceLength_of_crew h.crew h.bench, hlen]

theorem Ranged.scratchRange_aligned (h : Ranged s c a b k x y) (hall : c.governed = c.positions) (hlen : x.toNat + y.toNat ≤ k.length)
    (hwhole : whole = true → x.toNat % 2048 = 0 ∧ y.toNat % 2048 = 0) :
    s.scratchRange c a b none_ whole go = go (rangePages x.toNat y.toNat).1 (rangePages x.toNat y.toNat).2 := by
  have hne : c.positions ≠ [] := hall ▸ h.governs
  have haligned : (whole && (x.toNat % Config.scratchPage != 0 || y.toNat % Config.scratchPage != 0)) = false := by
    cases whole with
    | false => rfl
    | true =>
      obtain ⟨hx, hy⟩ := hwhole rfl
      simp [Config.scratchPage, hx, hy]
  simp [State.scratchRange, h.start, h.len, hall, hne, spaceLength_of_crew h.crew h.bench, Nat.not_lt.mpr hlen, haligned]

theorem Ranged.scratchRange_inside (h : Ranged s c a b k x y) (hall : c.governed = c.positions) (hlen : x.toNat + y.toNat ≤ k.length) :
    s.scratchRange c a b none_ false go = go (rangePages x.toNat y.toNat).1 (rangePages x.toNat y.toNat).2 :=
  h.scratchRange_aligned hall hlen fun hw => absurd hw Bool.false_ne_true

theorem Ranged.crewOf (h : Ranged s c a b k x y) : s.crewOf k.key = some k := crewOf_bind s c.crew k h.crew

end

theorem mem_pagesFrom (lo m n : Nat) : n ∈ pagesFrom lo m ↔ lo ≤ n ∧ n < lo + m := by
  simp only [pagesFrom, List.mem_map, List.mem_range]
  constructor
  · rintro ⟨i, hi, rfl⟩
    omega
  · exact fun h => ⟨n - lo, by omega, by omega⟩

theorem pagesFrom_nodup (lo m : Nat) : (pagesFrom lo m).Nodup := List.nodup_range.map fun _ _ h => Nat.add_left_cancel h

/-! ### SALLOC (R207) -/

theorem touches_crews (s : State) (c : Cut) (key : Nat) (ns : List Nat) : (s.touches c key ns).crews = s.crews := by
  unfold State.touches
  extract_lets freed
  split <;> rfl

/-- What SALLOC leaves of the space: its pages up as far as frames are to be had, and in quantum mode the touches of those that its cut has
freed (R38). -/
def State.allocated (s : State) (c : Cut) (k : Crew) (ns : List Nat) : State :=
  let t := (s.pagesUp k.key (ns.map (fun p => (k.key, p)) ++ heldPages s) ns).2.2
  let j := (t.crewOf k.key).getD k
  if c.quantum s then t.touches c j.key (ns.filter fun p => (j.page p).state == .res) else t

theorem allocated_crewOf (s : State) (c : Cut) (k : Crew) (ns : List Nat) : (s.allocated c k ns).crewOf k.key
    = (s.pagesUp k.key (ns.map (fun p => (k.key, p)) ++ heldPages s) ns).2.2.crewOf k.key := by
  unfold State.allocated
  extract_lets t j
  split
  · exact crewOf_congr (touches_crews t c j.key _) k.key
  · rfl

section
variable {s : State} {c : Cut} {d a b : Opnd} {k : Crew} {x y : W64} (h : Ranged s c a b k x y)
include h

theorem exec_salloc (hr : Runs s c (.salloc d a b)) (hall : c.governed = c.positions) (hlen : x.toNat + y.toNat ≤ k.length) :
    let ns := pagesFrom (rangePages x.toNat y.toNat).1 (rangePages x.toNat y.toNat).2
    let t := s.allocated c k ns
    exec (.salloc d a b) s = .next (t.write c.effect [a, b] .all d
      (uVal (BitVec.ofNat 64 (ns.filter fun n => (((t.crewOf k.key).getD k).page n).state == .res).length))) := by
  intro ns t
  refine (operate_runs _ s _ c hr).trans (congrArg _ ((h.scratchRange_inside hall hlen).trans ?_))
  simp only [h.crew, t, allocated_crewOf]
  rfl

end

/-! ### SFREE (R207) -/

/-- A space with some pages made ZERO. -/
def Crew.freed (k : Crew) (lo m : Nat) : Crew :=
  { k with pages := (List.range k.pages.length).map fun i => if lo ≤ i ∧ i < lo + m then SPage.zero else k.page i }

theorem spaceFree_eq {s : State} {k : Crew} (hk : s.crewOf k.key = some k) (lo m : Nat) : s.spaceFree k.key lo m = s.putCrew (k.freed lo m) := by
  simp only [State.spaceFree, hk, Crew.freed]

theorem page_freed (k : Crew) (lo m n : Nat) (hn : n < k.pages.length) :
    (k.freed lo m).page n = if lo ≤ n ∧ n < lo + m then SPage.zero else k.page n := by
  have hlen : n < (k.freed lo m).pages.length := by simpa [Crew.freed] using hn
  show (k.freed lo m).pages.getD n SPage.zero = _
  rw [List.getD_eq_getElem _ _ hlen]
  simp [Crew.freed]

section
variable {s : State} {c : Cut} {a b : Opnd} {k : Crew} {x y : W64} (h : Ranged s c a b k x y)
include h

theorem exec_sfree (hr : Runs s c (.sfree a b)) (hall : c.governed = c.positions) (hlen : x.toNat + y.toNat ≤ k.length)
    (hx : x.toNat % 2048 = 0) (hy : y.toNat % 2048 = 0) (he : effectMayIssue s c = true) :
    let r := rangePages x.toNat y.toNat
    exec (.sfree a b) s = .next ((if c.quantum s then s.queueEffect c (c.ilLow s) (.sfree k.key r.1 r.2)
      else s.spaceFree k.key r.1 r.2).complete c [a, b] c.effect) := by
  intro r
  refine (operate_runs _ s _ c hr).trans (congrArg _ ?_)
  simp only [he, Bool.not_true, Bool.false_eq_true, if_false]
  refine (h.scratchRange_aligned hall hlen fun _ => ⟨hx, hy⟩).trans ?_
  simp only [h.crew]
  rfl

end

/-! ### Pins (R207) -/

/-- A page with its pin count raised or lowered. -/
def SPage.pinned (p : SPage) (up : Bool) : SPage := { p with pins := if up then p.pins + 1 else p.pins - 1 }

theorem pin_eq_onPages (k : Crew) (ns : List Nat) (up : Bool) : k.pin ns up = k.onPages (fun _ p => p.pinned up) ns := rfl

@[simp] theorem pin_key (k : Crew) (ns : List Nat) (up : Bool) : (k.pin ns up).key = k.key := by
  rw [pin_eq_onPages, onPages_key]

/-- Pinning a range raises the counts of its pages by one. -/
theorem page_pin_up (k : Crew) (lo m n : Nat) (hn : n < k.pages.length) : (k.pin (pagesFrom lo m) true).page n
    = { k.page n with pins := (k.page n).pins + if decide (lo ≤ n ∧ n < lo + m) then 1 else 0 } := by
  rw [pin_eq_onPages, page_onPages k _ _ n (pagesFrom_nodup lo m) hn]
  simp only [mem_pagesFrom, decide_eq_true_eq]
  split <;> rfl

/-- Unpinning lowers them, a count of 0 staying 0. -/
theorem page_pin_down (k : Crew) (lo m n : Nat) (hn : n < k.pages.length) : (k.pin (pagesFrom lo m) false).page n
    = { k.page n with pins := (k.page n).pins - if decide (lo ≤ n ∧ n < lo + m) then 1 else 0 } := by
  rw [pin_eq_onPages, page_onPages k _ _ n (pagesFrom_nodup lo m) hn]
  simp only [mem_pagesFrom, decide_eq_true_eq]
  split <;> rfl

theorem pinRange_quantum {s : State} {c : Cut} (hq : c.quantum s = true) (key lo m : Nat) (up : Bool) :
    s.pinRange c key lo m up = s.queueEffect c (c.ilLow s) (.pin key lo m up) := if_pos hq

theorem pinRange_now {s : State} {c : Cut} {k : Crew} (hq : c.quantum s = false) (hk : s.crewOf k.key = some k) (lo m : Nat) (up : Bool) :
    s.pinRange c k.key lo m up = s.putCrew (k.pin (pagesFrom lo m) up) := by
  simp only [State.pinRange, hq, Bool.false_eq_true, if_false, hk]

/-- Pages that are RES are up already. -/
theorem pagesUp_res {s : State} {k : Crew} (hk : s.crewOf k.key = some k) (keep : List (Nat × Nat)) (ns : List Nat)
    (hres : ∀ n ∈ ns, (k.page n).state = .res) : s.pagesUp k.key keep ns = (.res, [], s) := by
  induction ns with
  | nil => rfl
  | cons n ns ih =>
    have hup : s.pageUp k.key n keep = (.res, s) := by simp only [State.pageUp, hk, hres n (List.mem_cons_self ..), if_true]
    simp only [State.pagesUp, hup]
    exact ih fun m hm => hres m (List.mem_cons_of_mem n hm)

section
variable {s : State} {c : Cut} {d a b : Opnd} {k : Crew} {x y : W64} (h : Ranged s c a b k x y)
include h

theorem exec_spin_refused (hr : Runs s c (.spin d a b)) (hall : c.governed = c.positions) (hlen : x.toNat + y.toNat ≤ k.length)
    (hmay : mayPin s c k (pagesFrom (rangePages x.toNat y.toNat).1 (rangePages x.toNat y.toNat).2) = false) :
    exec (.spin d a b) s = .next (s.write c [a, b] .all d (uVal 0)) := by
  refine (operate_runs _ s _ c hr).trans (congrArg _ ((h.scratchRange_inside hall hlen).trans ?_))
  simp only [h.crew, hmay, Bool.not_false, if_true]

theorem exec_spin_pins (hr : Runs s c (.spin d a b)) (hall : c.governed = c.positions) (hlen : x.toNat + y.toNat ≤ k.length)
    (hmay : mayPin s c k (pagesFrom (rangePages x.toNat y.toNat).1 (rangePages x.toNat y.toNat).2) = true)
    (hres : ∀ n ∈ pagesFrom (rangePages x.toNat y.toNat).1 (rangePages x.toNat y.toNat).2, (k.page n).state = .res) :
    exec (.spin d a b) s = .next ((s.pinRange c k.key (rangePages x.toNat y.toNat).1 (rangePages x.toNat y.toNat).2 true).write
      c.effect [a, b] .all d (uVal 1)) := by
  refine (operate_runs _ s _ c hr).trans (congrArg _ ((h.scratchRange_inside hall hlen).trans ?_))
  simp only [h.crew, hmay, Bool.not_true, Bool.false_eq_true, if_false, pagesUp_res h.crewOf _ _ hres]

theorem exec_sunpin (hr : Runs s c (.sunpin a b)) (hall : c.governed = c.positions) (hlen : x.toNat + y.toNat ≤ k.length) :
    exec (.sunpin a b) s = .next ((s.pinRange c k.key (rangePages x.toNat y.toNat).1 (rangePages x.toNat y.toNat).2 false).complete
      c [a, b] c.effect) := by
  refine (operate_runs _ s _ c hr).trans (congrArg _ ((h.scratchRange_inside hall hlen).trans ?_))
  simp only [h.crew]

end

/-! ### SPGQ (R208) -/

section
variable {s : State} {c : Cut} {d a e : Opnd} {k : Crew} (hr : Runs s c (.spgq d a e)) (hk : c.crewIn s = some k)
include hr hk

theorem exec_spgq_handle (he : constOf e = 1) : exec (.spgq d a e) s = .next (s.write c [a] c.gov d (uVal k.handle)) := by
  refine (operate_runs _ s _ c hr).trans (congrArg _ ?_)
  simp only [he, hk, Option.map_some, Option.getD_some]

theorem exec_spgq_length (hm : c.onMill = false) (he : constOf e = 2) :
    exec (.spgq d a e) s = .next (s.write c [a] c.gov d (uVal (BitVec.ofNat 64 (2048 * k.pages.length)))) := by
  refine (operate_runs _ s _ c hr).trans (congrArg _ ?_)
  simp only [he, spaceLength_of_crew hk hm]
  rfl

theorem exec_spgq_resident (he : constOf e = 3) :
    exec (.spgq d a e) s = .next (s.write c [a] c.gov d (uVal (BitVec.ofNat 64 (k.pages.filter (·.state == .res)).length))) := by
  refine (operate_runs _ s _ c hr).trans (congrArg _ ?_)
  simp only [he, hk, Option.map_some, Option.getD_some]

theorem exec_spgq_page (hm : c.onMill = false) (he : constOf e = 0) (hu : (c.read s a []).isU = true)
    (hlanes : c.needsLanes c.gov (uVal 0) = false) (hin : (c.read s a []).base.toNat < k.length) :
    exec (.spgq d a e) s = .next (s.write c [a] c.gov d (uVal (pageWord s c k ((c.read s a []).base.toNat / 2048)))) := by
  have hbad : (c.governed.filter fun _ => decide (c.spaceLength s ≤ (c.read s a []).base.toNat)) = [] := by
    simp [spaceLength_of_crew hk hm, hin]
  refine (operate_runs _ s _ c hr).trans (congrArg _ ?_)
  simp only [he, hu, if_true, hlanes, Bool.false_eq_true, if_false, valAt_of_isU c _ _ hu, hbad, hk, Option.map_some, Option.getD_some]
  rfl

end

end Sys2Proof.Machine

namespace Sys2Proof

open Sys2Proof.Machine

/-- Settles O32: the range that the operands name is checked once for the four instructions (`Ranged.scratchRange_inside`,
`Ranged.scratchRange_beyond`, `scratchRange_mixed`); then each does to the pages what R207 says of it. -/
theorem scratchPages : Obligations.ScratchPages := by
  unfold Obligations.ScratchPages
  intro s c d a b k x y hcrew hmill hne hx hy r inside at_ isIn
  have h : Ranged s c a b k x y := ⟨hcrew, hmill, hne, hx, hy⟩
  have hk : s.crewOf k.key = some k := h.crewOf
  have hin : ∀ n, n ∈ pagesFrom r.1 r.2 ↔ isIn n = true := fun n => (mem_pagesFrom r.1 r.2 n).trans decide_eq_true_iff.symm
  have hat : ∀ j : Crew, j.key = k.key → at_ (s.putCrew j) = j := fun j hj => congrArg (Option.getD · k) (crewOf_putCrew_key hk hj)
  refine ⟨fun hr ⟨hall, hlen⟩ => ?salloc, fun hr ⟨hall, hlen⟩ hxa hya he => ⟨fun hq => ?sfreeQuantum, fun hq => ?sfree⟩,
    fun hr ⟨hall, hlen⟩ => ⟨exec_spin_refused h hr hall hlen, fun hmay hq hres => ?spinQuantum, fun hmay hq hres => ?spin⟩,
    fun hr ⟨hall, hlen⟩ hq => ?sunpinQuantum, fun hr ⟨hall, hlen⟩ hq => ?sunpin, fun e hr => ⟨exec_spgq_handle hr hcrew,
      exec_spgq_length hr hcrew hmill, exec_spgq_resident hr hcrew, exec_spgq_page hr hcrew hmill⟩,
    fun hall hy0 hlen => ⟨fun hr => ?sunpinBeyond, fun hr => ?sallocBeyond⟩, fun hmix => ⟨fun hr => ?spinMixed, fun hr => ?sunpinMixed⟩⟩
  case salloc => exact ⟨s.allocated c k (pagesFrom r.1 r.2), exec_salloc h hr hall hlen⟩
  case sfreeQuantum =>
    have hexec := exec_sfree h hr hall hlen hxa hya he
    simpa only [hq, if_true] using hexec
  case sfree =>
    have hexec := exec_sfree h hr hall hlen hxa hya he
    simp only [hq, Bool.false_eq_true, if_false, spaceFree_eq hk] at hexec
    refine ⟨_, hexec, ⟨rfl, rfl⟩, rfl, fun n hn => ?_⟩
    rw [hat (k.freed r.1 r.2) rfl, page_freed k r.1 r.2 n hn]
    simp only [isIn, decide_eq_true_eq]
    rfl
  case spinQuantum =>
    have hexec := exec_spin_pins h hr hall hlen hmay fun n hn => hres n ((hin n).mp hn)
    rwa [pinRange_quantum hq] at hexec
  case spin =>
    have hexec := exec_spin_pins h hr hall hlen hmay fun n hn => hres n ((hin n).mp hn)
    rw [pinRange_now hq hk] at hexec
    refine ⟨_, hexec, ⟨rfl, rfl⟩, fun n hn => ?_⟩
    rw [hat _ (pin_key ..)]
    exact page_pin_up k r.1 r.2 n hn
  case sunpinQuantum =>
    have hexec := exec_sunpin h hr hall hlen
    rwa [pinRange_quantum hq] at hexec
  case sunpin =>
    have hexec := exec_sunpin h hr hall hlen
    rw [pinRange_now hq hk] at hexec
    refine ⟨_, hexec, ⟨rfl, rfl⟩, fun n hn => ?_⟩
    rw [hat _ (pin_key ..)]
    exact page_pin_down k r.1 r.2 n hn
  case sunpinBeyond => exact (operate_runs _ s _ c hr).trans (congrArg _ (h.scratchRange_beyond hall hy0 hlen))
  case sallocBeyond => exact (operate_runs _ s _ c hr).trans (congrArg _ (h.scratchRange_beyond hall hy0 hlen))
  case spinMixed => exact (operate_runs _ s _ c hr).trans (congrArg _ (scratchRange_mixed hne hmix))
  case sunpinMixed => exact (operate_runs _ s _ c hr).trans (congrArg _ (scratchRange_mixed hne hmix))

end Sys2Proof
end

section
/-! # LDS and STS on a space (O31; R203 to R206) -/

namespace Sys2Proof.Machine

/-! ### What the accesses are and where they lie (R203) -/

theorem accesses_of_no_replay (c : Cut) (addr : Nat → W64) (h : c.replay = 0) : c.accesses addr = c.governed.map fun i => ⟨i, addr i⟩ := by
  simp [Cut.accesses, performed_of_no_replay c h]

/-- An access made once for every item is one of the items' accesses. -/
theorem mem_of_mem_once {once : Bool} {as : List ItemAcc} {m : ItemAcc} (h : m ∈ if once then as.take 1 else as) : m ∈ as := by
  cases once with
  | true => exact List.mem_of_mem_take h
  | false => exact h

theorem scratchCause_eq_zero (len size : Nat) (a : W64) : scratchCause len size a = 0 ↔ a.toNat + size ≤ len ∧ a.toNat % size = 0 := by
  unfold scratchCause
  split
  · next h => exact iff_of_false (by decide) fun h' => Nat.not_lt.mpr h'.1 h
  · next h =>
    split
    · next ha => exact iff_of_false (by decide) fun h' => ha h'.2
    · next ha => exact iff_of_true rfl ⟨Nat.le_of_not_lt h, not_not.mp ha⟩

theorem elemBytes_cases (et : Nat) : elemBytes et = 0 ∨ elemBytes et = 1 ∨ elemBytes et = 2 ∨ elemBytes et = 4 ∨ elemBytes et = 8 := by
  unfold elemBytes width
  split <;> simp

/-- An aligned element never crosses a page (R203). -/
theorem page_of_element (et a i : Nat) (ha : a % elemBytes et = 0) (hi : i < elemBytes et) : (a + i) / 2048 = a / 2048 := by
  rcases elemBytes_cases et with h | h | h | h | h <;> rw [h] at ha hi <;> omega

section
variable {s : State} {c : Cut} {size : Nat} {as : List ItemAcc} {lanes : List Nat → List Nat}

theorem checkScratch_sound (h : ∀ m ∈ as, scratchCause (c.spaceLength s) size m.ptr = 0) : checkScratch s c size as lanes = none := by
  have hbad : (as.filter fun a => scratchCause (c.spaceLength s) size a.ptr != 0) = [] :=
    List.filter_eq_nil_iff.mpr fun a ha => by simp [h a ha]
  simp only [checkScratch, hbad]

theorem checkScratch_fails {a : ItemAcc} {rest : List ItemAcc} (hl : c.isPattern = false)
    (h : (as.filter fun a => scratchCause (c.spaceLength s) size a.ptr != 0) = a :: rest) :
    checkScratch s c size as lanes = some (s.stop c (c.cause ((a :: rest).foldl (fun m b => m ||| scratchCause (c.spaceLength s) size b.ptr) 0)
      a.ptr (lanesWord (lanes ((a :: rest).map (·.pos)))))) := by
  simp only [checkScratch, h, hl, Bool.false_eq_true, if_false]

theorem scratchIn_iff {k : Crew} (hk : c.crewIn s = some k) (hm : c.onMill = false) :
    scratchIn s c as = true ↔ ∀ m ∈ as, (k.page (m.ptr.toNat / 2048)).state = .res := by
  simp [scratchIn, hk, hm, Config.scratchPage]

end

/-! ### What an LDS reads (R205) -/

theorem faults_of_clean (k : Crew) (own : List QEffect) (lasting : Bool) (offs : List Nat) (h : ∀ off ∈ offs, (k.page (off / 2048)).bad = []) :
    k.faults own lasting offs = [] :=
  List.filter_eq_nil_iff.mpr fun off hoff => by simp [Config.scratchPage, h off hoff]

theorem frameRead_of_clean {s : State} {k : Crew} (hk : s.crewOf k.key = some k) (own : List QEffect) (offs : List Nat)
    (h : ∀ off ∈ offs, (k.page (off / 2048)).bad = []) : s.frameRead k.key own offs = s := by
  simp only [State.frameRead, hk, faults_of_clean k own false offs h]
  rfl

/-- What an LDS returns where no byte that it reads has a fault. -/
def Cut.scratchLoaded (s : State) (c : Cut) (et size : Nat) (once : Bool) (as : List ItemAcc) : RegVal :=
  if once then uVal ((as.head?.map fun a => scratchLoad s c et size a.ptr).getD 0)
  else c.overLanes fun i => ((as.find? (·.pos == i)).map fun a => scratchLoad s c et size a.ptr).getD 0

section
variable {s : State} {c : Cut} {k : Crew} {et : Nat} {as : List ItemAcc}

/-- The bytes of aligned elements lie in the pages that the accesses name. -/
theorem clean_offsets (haligned : ∀ m ∈ as, m.ptr.toNat % elemBytes et = 0) (hbad : ∀ m ∈ as, (k.page (m.ptr.toNat / 2048)).bad = []) :
    ∀ m ∈ as, ∀ off ∈ m.offsets (elemBytes et), (k.page (off / 2048)).bad = [] := by
  intro m hm off hoff
  obtain ⟨i, hi, rfl⟩ := List.mem_map.mp hoff
  rw [page_of_element et _ i (haligned m hm) (List.mem_range.mp hi)]
  exact hbad m hm

theorem scratchGo_clean {srcs : List Opnd} {d : Opnd} {la : Nat} {once : Bool} (hk : c.crewIn s = some k) (hm : c.onMill = false)
    (hreplay : c.replay = 0) (haligned : ∀ m ∈ as, m.ptr.toNat % elemBytes et = 0)
    (hbad : ∀ m ∈ as, (k.page (m.ptr.toNat / 2048)).bad = []) :
    s.scratchGo c srcs d la et (elemBytes et) once as
      = (if c.quantum s then s.touches c k.key (distinct (as.map fun m => m.ptr.toNat / 2048)) else s).writeLong c srcs d la
        (c.scratchLoaded s et (elemBytes et) once as) none [] := by
  have hclean := clean_offsets haligned hbad
  have herrs : scratchErrs s c (elemBytes et) as = [] := by
    simp only [scratchErrs, hm, hk, Bool.false_eq_true, if_false]
    exact List.filter_eq_nil_iff.mpr fun a ha => by simp [faults_of_clean k _ true _ (hclean a ha)]
  have hread : s.frameRead k.key (ownScratch s c k.key) (as.flatMap fun a => a.offsets (elemBytes et)) = s :=
    frameRead_of_clean (crewOf_bind s c.crew k hk) _ _ fun off hoff => by
      obtain ⟨m, hm, hoff⟩ := List.mem_flatMap.mp hoff
      exact hclean m hm off hoff
  simp only [State.scratchGo, herrs, hk, hread, List.any_nil, Bool.false_eq_true, if_false, performed_of_no_replay c hreplay]
  refine congrArg (State.writeLong _ c srcs d la · none []) ?_
  cases once with
  | true => rfl
  | false =>
    refine congrArg c.overLanes (funext fun i => ?_)
    split
    · next a ha => rw [ha]; rfl
    · next ha => rw [ha]; rfl

theorem scratchLoad_crew (hk : c.crewIn s = some k) (hm : c.onMill = false) (size : Nat) (a : W64) :
    scratchLoad s c et size a = extend et (natLE ((List.range size).map fun i => scratchByte s c k (a.toNat + i))) := by
  simp only [scratchLoad, hm, hk, Bool.false_eq_true, if_false]

end

theorem find?_access (addr : Nat → W64) (is : List Nat) (p : Nat) (hp : p ∈ is) :
    (is.map fun i => (⟨i, addr i⟩ : ItemAcc)).find? (·.pos == p) = some ⟨p, addr p⟩ := by
  induction is with
  | nil => cases hp
  | cons i is ih =>
    by_cases hi : i = p
    · subst hi
      simp
    · simpa [hi] using ih ((List.mem_cons.mp hp).resolve_left (Ne.symm hi))

/-- What an LDS returns in a governed item is the element at its own offset, made once where both inputs are U. -/
theorem valAt_scratchLoaded {s : State} {c : Cut} {x y : RegVal} {et size p : Nat} (hreplay : c.replay = 0)
    (hn : c.needsLanes c.gov (if x.isU && y.isU then uVal 0 else .lanes []) = false) (hp : p ∈ c.governed) :
    c.valAt (c.scratchLoaded s et size (x.isU && y.isU)
      (if x.isU && y.isU then (c.accesses (c.sumAddr x y)).take 1 else c.accesses (c.sumAddr x y))) p
      = scratchLoad s c et size (c.sumAddr x y p) := by
  rw [accesses_of_no_replay c _ hreplay]
  unfold Cut.scratchLoaded
  cases hu : x.isU && y.isU with
  | true =>
    obtain ⟨hx, hy⟩ := Bool.and_eq_true_iff.mp hu
    obtain ⟨q, qs, hq⟩ := List.exists_cons_of_ne_nil (List.ne_nil_of_mem hp)
    simp [hq, Cut.sumAddr, valAt_of_isU c x _ hx, valAt_of_isU c y _ hy]
  | false =>
    rw [hu] at hn
    have hl : c.isPattern = false := isPattern_of_governed c (.lanes []) p rfl hn hp
    simp only [Bool.false_eq_true, if_false, valAt_overLanes c _ p hl (positions_of_governed c p hp), find?_access _ c.governed p hp,
      Option.map_some, Option.getD_some]

/-! ### The two instructions (R203 to R205) -/

section
variable {s : State} {c : Cut} {l : BitVec 4} {d a b : Opnd}

/-- An LDS that has passed its checks: it performs, or waits for the pager. -/
theorem exec_lds_sound {x y : RegVal} {as one : List ItemAcc} (hx : x = c.read s a []) (hy : y = c.read s b [a])
    (has : as = c.accesses (c.sumAddr x y)) (hone : one = if x.isU && y.isU then as.take 1 else as)
    (hr : Runs s c (.lds l d a b)) (ho : readMayIssue s c = true) (hreplay : c.replay = 0) (hg : c.gov ≠ .none)
    (hn : c.needsLanes c.gov (if x.isU && y.isU then uVal 0 else .lanes []) = false)
    (hsound : ∀ m ∈ as, scratchCause (c.spaceLength s) (elemBytes c.et) m.ptr = 0) :
    exec (.lds l d a b) s = .next (if scratchIn s c one then s.scratchGo c [a, b] d l.toNat c.et (elemBytes c.et) (x.isU && y.isU) one
      else s.scratchFault c (x.isU && y.isU) one) := by
  have hcheck := fun f => checkScratch_sound (lanes := f) fun m (hm : m ∈ one) => hsound m (mem_of_mem_once (hone ▸ hm))
  have hread : (c.replay == 0) = true := by rw [hreplay]; rfl
  refine (operate_runs _ s _ c hr).trans (congrArg _ ?_)
  subst hx hy has
  simp only [Cut.et] at hcheck hone ⊢
  simp only [hread, Bool.and_true, ho, Bool.not_true, Bool.false_eq_true, if_false, if_neg hg, hn, ← hone, hcheck]
  cases scratchIn s c one <;> rfl

variable {as : List ItemAcc} (has : as = c.accesses (c.sumAddr (c.read s a []) (c.read s b [a])))
include has

theorem exec_sts_sound {k : Crew} (hr : Runs s c (.sts d a b)) (ho : effectMayIssue s c = true) (hk : c.crewIn s = some k) (hm : c.onMill = false)
    (hsound : ∀ m ∈ as, scratchCause (c.spaceLength s) (elemBytes c.et) m.ptr = 0) (hne : as ≠ []) :
    let bs := scratchBytes c (elemBytes c.et) (c.read s d [a, b]) as
    exec (.sts d a b) s = .next (if scratchIn s c as then (if c.quantum s then s.queueEffect c (c.ilLow s) (.scratch k.key bs)
      else s.spaceWrite k.key bs).complete c [a, b, d] c.effect else s.scratchFault c false as) := by
  have hcheck := fun f => checkScratch_sound (lanes := f) hsound
  have hsome : as.isEmpty = false := by simpa using hne
  intro bs
  refine (operate_runs _ s _ c hr).trans (congrArg _ ?_)
  simp only [Cut.et] at hcheck
  simp only [ho, Bool.not_true, Bool.false_eq_true, if_false, ← has, hcheck, hsome, hm, hk]
  cases scratchIn s c as <;> rfl

theorem exec_sts_fails (hr : Runs s c (.sts d a b)) (ho : effectMayIssue s c = true) (hl : c.isPattern = false) {m : ItemAcc} {rest : List ItemAcc}
    (hbad : (as.filter fun a => scratchCause (c.spaceLength s) (elemBytes c.et) a.ptr != 0) = m :: rest) :
    ∃ causes lanes, exec (.sts d a b) s = .next (s.stop c (c.cause causes m.ptr lanes)) := by
  have hcheck := fun f => checkScratch_fails (lanes := f) hl hbad
  refine ⟨(m :: rest).foldl (fun n b => n ||| scratchCause (c.spaceLength s) (elemBytes c.et) b.ptr) 0, lanesWord ((m :: rest).map (·.pos)),
    (operate_runs _ s _ c hr).trans (congrArg _ ?_)⟩
  simp only [Cut.et] at hcheck
  simp only [ho, Bool.not_true, Bool.false_eq_true, if_false, ← has, hcheck]
  rfl

end

/-! ### What an STS leaves in the frames (R205) -/

/-- The bytes that fall in a page, by their offsets there. -/
def pageBytes (bs : List (Nat × Byte)) (n : Nat) : List (Nat × Byte) :=
  (bs.filter fun b => b.1 / Config.scratchPage == n).map fun b => (b.1 % Config.scratchPage, b.2)

/-- A page in its frame after a write. -/
def SPage.written (p : SPage) (bs : List (Nat × Byte)) : SPage :=
  { p with dirty := true, bad := p.bad.filter fun b => !bs.any (·.1 == b.1), data := scatter p.data 0 bs }

theorem pageBytes_cons (x : Nat × Byte) (bs : List (Nat × Byte)) (n : Nat) :
    pageBytes (x :: bs) n = if x.1 / 2048 = n then (x.1 % 2048, x.2) :: pageBytes bs n else pageBytes bs n := by
  by_cases hx : x.1 / 2048 = n
  · rw [if_pos hx, pageBytes, List.filter_cons_of_pos (by simpa [Config.scratchPage] using hx)]
    rfl
  · rw [if_neg hx, pageBytes, List.filter_cons_of_neg (by simpa [Config.scratchPage] using hx)]
    rfl

/-- The byte that prevails at an offset of the space is the one that prevails in its page. -/
theorem wrote_pageBytes (bs : List (Nat × Byte)) (off : Nat) : wrote 0 (pageBytes bs (off / 2048)) (off % 2048) = wrote 0 bs off := by
  induction bs with
  | nil => rfl
  | cons x bs ih =>
    rw [pageBytes_cons, wrote_cons 0 x]
    split
    · next hpage =>
      have hoff : 0 + x.1 % 2048 = off % 2048 ↔ 0 + x.1 = off := by omega
      rw [wrote_cons, ih]
      simp only [hoff]
    · next hpage =>
      have hoff : ¬ 0 + x.1 = off := fun h => hpage (by omega)
      rw [ih, if_neg hoff, Option.or_none]

theorem wrote_eq_none (bs : List (Nat × Byte)) (off : Nat) (h : off / 2048 ∉ bs.map (·.1 / 2048)) : wrote 0 bs off = none := by
  induction bs with
  | nil => rfl
  | cons x bs ih =>
    rw [List.map_cons, List.mem_cons, not_or] at h
    have hoff : ¬ 0 + x.1 = off := fun hx => h.1 (by omega)
    rw [wrote_cons, ih h.2, if_neg hoff, Option.or_none]

theorem distinct_nodup {α : Type} [DecidableEq α] (xs : List α) : (distinct xs).Nodup := by
  refine List.foldlRecOn xs _ List.nodup_nil fun acc hacc x _ => ?_
  split
  · exact hacc
  · next hx => exact List.nodup_append.mpr ⟨hacc, List.nodup_singleton x, fun y hy z hz => by
      rw [List.mem_singleton.mp hz]
      exact fun h => hx (h ▸ hy)⟩

/-- A fold that writes one RES page of a space after the other leaves the crew with those pages written, and memory alone. -/
theorem foldl_frameWrites {f : State → Nat → State} {g : Nat → SPage → SPage} {key : Nat} (hg : ∀ n p, (g n p).state = p.state)
    (hf : ∀ s k n, s.crewOf key = some k → (k.page n).state = .res → f s n = s.putCrew (k.setPage n (g n (k.page n))))
    (ns : List Nat) {s : State} {k : Crew} (hk : s.crewOf key = some k) (hres : ∀ n ∈ ns, (k.page n).state = .res) :
    KeepsMemory s (ns.foldl f s) ∧ (ns.foldl f s).crewOf key = some (k.onPages g ns) := by
  induction ns generalizing s k with
  | nil => exact ⟨⟨rfl, rfl⟩, hk⟩
  | cons n ns ih =>
    have hn := hres n (List.mem_cons_self ..)
    obtain rfl : k.key = key := crewOf_key hk
    have hput : (s.putCrew (k.setPage n (g n (k.page n)))).crewOf k.key = some (k.setPage n (g n (k.page n))) := crewOf_putCrew_key hk rfl
    have hkept : ∀ m ∈ ns, ((k.setPage n (g n (k.page n))).page m).state = .res := fun m hm => by
      by_cases hmn : m = n
      · rw [hmn, page_setPage_same k n _ (lt_of_res hn), hg]
        exact hn
      · rw [page_setPage_ne k n m _ hmn]
        exact hres m (List.mem_cons_of_mem n hm)
    rw [List.foldl_cons, hf s k n hk hn]
    exact ih hput hkept

/-- A write whose bytes all lie in frames of the space. -/
theorem spaceWrite_frames {s : State} {k : Crew} {bs : List (Nat × Byte)} (hk : s.crewOf k.key = some k) (hlen : ∀ b ∈ bs, b.1 < k.length)
    (hres : ∀ b ∈ bs, (k.page (b.1 / 2048)).state = .res) :
    KeepsMemory s (s.spaceWrite k.key bs) ∧ (s.spaceWrite k.key bs).crewOf k.key
      = some (k.onPages (fun n p => p.written (pageBytes bs n)) (distinct (bs.map (·.1 / 2048)))) := by
  have hall : (bs.filter fun b => decide (b.1 < ((s.crewOf k.key).map Crew.length).getD 0)) = bs :=
    List.filter_eq_self.mpr fun b hb => by simpa [hk] using hlen b hb
  simp only [State.spaceWrite, hall]
  refine foldl_frameWrites (g := fun n p => p.written (pageBytes bs n)) (fun _ _ => rfl) (fun t j n hj hn => ?_) _ hk fun n hn => ?_
  · simp only [hj]
    exact if_pos hn
  · obtain ⟨b, hb, rfl⟩ := List.mem_map.mp ((mem_distinct _ _).mp hn)
    exact hres b hb

/-- Then an offset of a RES page reads the last byte that names it, or what it held. -/
theorem cellGet_onPages_written (k : Crew) (bs : List (Nat × Byte)) (off : Nat) (hoff : (k.page (off / 2048)).state = .res)
    (hwf : ∀ p ∈ k.pages, Memory.wf p.data = true) :
    cellGet ((k.onPages (fun n p => p.written (pageBytes bs n)) (distinct (bs.map (·.1 / 2048)))).page (off / 2048)).data (off % 2048)
      = (wrote 0 bs off).getD (cellGet (k.page (off / 2048)).data (off % 2048)) := by
  have hlt := lt_of_res hoff
  rw [page_onPages k _ _ _ (distinct_nodup _) hlt]
  split
  · have hpage : k.page (off / 2048) ∈ k.pages := by
      rw [Crew.page, List.getD_eq_getElem _ _ hlt]
      exact List.getElem_mem hlt
    rw [← wrote_pageBytes]
    exact cellGet_scatter _ 0 _ _ (hwf _ hpage)
  · next hout => rw [wrote_eq_none bs off fun h => hout ((mem_distinct _ _).mpr h), Option.getD_none]

/-- The offsets that an STS of sound accesses writes. -/
theorem mem_scratchBytes {c : Cut} {size : Nat} {v : RegVal} {as : List ItemAcc} {x : Nat × Byte} (h : x ∈ scratchBytes c size v as) :
    ∃ m ∈ as, ∃ i < size, x.1 = m.ptr.toNat + i := by
  obtain ⟨m, hm, hx⟩ := List.mem_flatMap.mp h
  obtain ⟨i, hi, rfl⟩ := List.mem_map.mp hx
  exact ⟨m, hm, i, List.mem_range.mp hi, rfl⟩

theorem spaceWrite_scratchBytes {s : State} {c : Cut} {k : Crew} {et : Nat} {v : RegVal} {as : List ItemAcc} (hk : s.crewOf k.key = some k)
    (hsound : ∀ m ∈ as, scratchCause k.length (elemBytes et) m.ptr = 0) (hin : ∀ m ∈ as, (k.page (m.ptr.toNat / 2048)).state = .res) :
    let bs := scratchBytes c (elemBytes et) v as
    KeepsMemory s (s.spaceWrite k.key bs) ∧ (s.spaceWrite k.key bs).crewOf k.key
      = some (k.onPages (fun n p => p.written (pageBytes bs n)) (distinct (bs.map (·.1 / 2048)))) := by
  intro bs
  refine spaceWrite_frames hk (fun x hx => ?_) fun x hx => ?_
  · obtain ⟨m, hm, i, hi, hxi⟩ := mem_scratchBytes hx
    obtain ⟨hlen, -⟩ := (scratchCause_eq_zero _ _ _).mp (hsound m hm)
    omega
  · obtain ⟨m, hm, i, hi, hxi⟩ := mem_scratchBytes hx
    obtain ⟨-, haligned⟩ := (scratchCause_eq_zero _ _ _).mp (hsound m hm)
    rw [hxi, page_of_element et _ i haligned hi]
    exact hin m hm

end Sys2Proof.Machine

namespace Sys2Proof

open Sys2Proof.Machine

/-- Settles O31: an element that passes R203 lies in one page (`page_of_element`), so that an LDS reads and an STS writes the frames of the pages
that its accesses name (`scratchGo_clean`, `spaceWrite_frames`). -/
theorem scratchAccesses : Obligations.ScratchAccesses := by
  unfold Obligations.ScratchAccesses
  intro s c l d a b k hk hmill hreplay x y size as one sound bs t
  have hlen := spaceLength_of_crew hk hmill
  refine ⟨fun hr ho hg hn hsound => ?lds, fun hr ho hsound hne => ?sts, fun hq hin hsound hwf => ?frames, fun hr ho hl m rest hbad => ?fails⟩
  case lds =>
    have hexec := exec_lds_sound (as := as) (one := one) rfl rfl rfl rfl hr ho hreplay hg hn (hlen ▸ hsound)
    refine ⟨fun hin hbad => ?_, fun hin => by simpa only [hin, Bool.false_eq_true, if_false] using hexec⟩
    have haligned : ∀ m ∈ one, m.ptr.toNat % size = 0 := fun m hm => ((scratchCause_eq_zero _ _ _).mp (hsound m (mem_of_mem_once hm))).2
    refine ⟨c.scratchLoaded s c.et size (x.isU && y.isU) one, ?_, fun p hp _ => ?_⟩
    · rw [hexec, if_pos hin]
      exact congrArg _ (scratchGo_clean hk hmill hreplay haligned hbad)
    · exact (valAt_scratchLoaded hreplay hn hp).trans (scratchLoad_crew hk hmill size _)
  case sts =>
    have hexec := exec_sts_sound (as := as) rfl hr ho hk hmill (hlen ▸ hsound) hne
    exact ⟨fun hin => by simpa only [hin, if_true] using hexec, fun hin => by simpa only [hin, Bool.false_eq_true, if_false] using hexec⟩
  case frames =>
    obtain ⟨hkeeps, hcrew⟩ := spaceWrite_scratchBytes (c := c) (v := c.read s d [a, b]) (crewOf_bind s c.crew k hk) hsound
      ((scratchIn_iff hk hmill).mp hin)
    have ht : t = s.spaceWrite k.key bs := if_neg (by simp [hq])
    rw [ht]
    refine ⟨hkeeps, fun off _ hoff => ?_⟩
    rw [hcrew]
    exact congrArg some (cellGet_onPages_written k bs off hoff hwf)
  case fails => exact exec_sts_fails (as := as) rfl hr ho hl (hlen ▸ hbad)

end Sys2Proof
end

section
/-! # BAR, BARA and BARW (O35; R216, R217) -/

namespace Sys2Proof.Machine

/-! ### The phases that are pending (R217) -/

theorem not_pending (b : Barrier) (p : Nat) : (!b.pending p) = (p != b.phase && p != (b.phase + 1) % 2 ^ 24) := Bool.not_or _ _

/-- A phase is complete once the barrier is in the one after it. -/
theorem pending_completed (p : Nat) : (⟨(p + 1) % 2 ^ 24, [], [], []⟩ : Barrier).pending p = false := by
  have hnow : p ≠ (p + 1) % 2 ^ 24 := by omega
  have hnext : p ≠ ((p + 1) % 2 ^ 24 + 1) % 2 ^ 24 := by omega
  simp only [Barrier.pending, beq_false_of_ne hnow, beq_false_of_ne hnext, Bool.or_self]

theorem phaseDone_member {s : State} {c : Cut} {k : Crew} (hk : c.crewIn s = some k) (n p : Nat) :
    phaseDone s c n p = !(k.barrier n).pending p := by
  unfold phaseDone
  rw [hk]

theorem phaseDone_alone {c : Cut} (hc : c.crew = none) (s : State) (n p : Nat) :
    phaseDone s c n p = !(⟨c.solo.getD n 0, [], [], []⟩ : Barrier).pending p := by
  unfold phaseDone Cut.crewIn
  rw [hc]
  rfl

/-! ### A cut that arrives (R216) -/

/-- A cut in no crew after its arrival at a barrier: its own phase is the next. -/
def Cut.arrivedAlone (c : Cut) (n : Nat) : Cut :=
  { c.effect with solo := (List.range 8).map fun i => if i = n then (c.solo.getD n 0 + 1) % 2 ^ 24 else c.solo.getD i 0 }

theorem arrivedAlone_solo (c : Cut) {n : Nat} (hn : n < 8) : (c.arrivedAlone n).solo.getD n 0 = (c.solo.getD n 0 + 1) % 2 ^ 24 :=
  (getD_range_map (fun i => if i = n then (c.solo.getD n 0 + 1) % 2 ^ 24 else c.solo.getD i 0) 8 n 0 hn).trans (if_pos rfl)

theorem arriving_alone {c : Cut} (hc : c.crew = none) (s : State) (n : Nat) :
    s.arriving c n = (c.solo.getD n 0, s, c.arrivedAlone n) := by
  unfold State.arriving Cut.crewIn
  rw [hc]
  rfl

/-- The arrival of a cut in no crew completes the phase it arrives in. -/
theorem phaseDone_arrivedAlone {c : Cut} (hc : c.crew = none) (s : State) {n : Nat} (hn : n < 8) :
    phaseDone s (c.arrivedAlone n) n (c.solo.getD n 0) = true := by
  rw [phaseDone_alone (c := c.arrivedAlone n) hc, arrivedAlone_solo c hn, pending_completed]
  rfl

theorem arriving_phase {s : State} {c : Cut} {k : Crew} (hk : c.crewIn s = some k) (n : Nat) :
    (s.arriving c n).1 = (k.barrier n).phase ∨ (s.arriving c n).1 = ((k.barrier n).phase + 1) % 2 ^ 24 := by
  unfold State.arriving
  rw [hk]
  dsimp only
  split
  · exact .inr rfl
  · exact .inl rfl

/-! ### The instructions (R216, R217) -/

section
variable {s : State} {c : Cut} {d a : Opnd}

theorem exec_bara (hr : Runs s c (.bara d a)) :
    let r := s.arriving c (constOf a)
    exec (.bara d a) s = .next (r.2.1.write r.2.2 [] .all d (uVal (BitVec.ofNat 64 (r.1 * 2 ^ 8 + constOf a)))) :=
  operate_runs _ s _ c hr

theorem exec_bar_arrives (hr : Runs s c (.bar a)) (harrived : c.arrived = none) :
    let r := s.arriving c (constOf a)
    exec (.bar a) s = .next (if phaseDone r.2.1 r.2.2 (constOf a) r.1 then r.2.1.advance r.2.2
      else r.2.1.hold { r.2.2 with arrived := some (constOf a, r.1) } (.barrier (c.crew.getD 0) (constOf a) r.1)) := by
  refine (operate_runs _ s _ c hr).trans ?_
  rw [harrived]

theorem exec_bar_arrived (hr : Runs s c (.bar a)) {n p : Nat} (harrived : c.arrived = some (n, p)) :
    exec (.bar a) s = .next (if phaseDone s c n p then s.advance { c with arrived := none }
      else s.hold c (.barrier (c.crew.getD 0) n p)) := by
  refine (operate_runs _ s _ c hr).trans ?_
  rw [harrived]

theorem exec_barw {v : W64} (hr : Runs s c (.barw a)) (hv : c.uniformOf (c.read s a []) = some v) :
    exec (.barw a) s = .next (if fld v 32 32 ≠ 0 ∨ fld v 3 5 ≠ 0 then s.ill c
      else if phaseDone s c (fld v 0 3) (fld v 8 24) then s.complete c [a] c
      else s.hold c (.barrier (c.crew.getD 0) (fld v 0 3) (fld v 8 24))) := by
  refine (operate_runs _ s _ c hr).trans ?_
  rw [hv]

end

/-! ### The items that a barrier counts (R216) -/

/-- A barrier with an arrival of one item: in the next phase where the present one has counted it. -/
def Barrier.count (b : Barrier) (i : Nat × Nat) : Barrier :=
  if i ∈ b.here then (if i ∈ b.next then b else { b with next := b.next ++ [i] }) else { b with here := b.here ++ [i] }

/-- A barrier that has counted more items in its present phase. -/
def Barrier.counting (b : Barrier) (items : List (Nat × Nat)) : Barrier := { b with here := b.here ++ items }

/-- Items that arrive for the first time are counted in the present phase. -/
theorem foldl_count_new (b : Barrier) (items : List (Nat × Nat)) (hnodup : items.Nodup) (hnew : ∀ x ∈ items, x ∉ b.here) :
    items.foldl Barrier.count b = b.counting items := by
  induction items generalizing b with
  | nil => rw [List.foldl_nil, Barrier.counting, List.append_nil]
  | cons x xs ih =>
    obtain ⟨hx, hxs⟩ := List.nodup_cons.mp hnodup
    have hcount : b.count x = b.counting [x] := if_neg (hnew x (List.mem_cons_self ..))
    have hrest : ∀ y ∈ xs, y ∉ b.here ++ [x] := fun y hy hin => by
      rcases List.mem_append.mp hin with hhere | hlast
      · exact hnew y (List.mem_cons_of_mem x hy) hhere
      · exact hx (List.mem_singleton.mp hlast ▸ hy)
    rw [List.foldl_cons, hcount, ih _ hxs hrest]
    simp only [Barrier.counting, List.append_assoc, List.singleton_append]

theorem arrive_new (b : Barrier) (items : List (Nat × Nat)) (hnodup : items.Nodup) (hnew : ∀ x ∈ items, x ∉ b.here) :
    b.arrive [] items = b.counting items := by
  rw [← foldl_count_new b items hnodup hnew]
  unfold Barrier.arrive
  rw [List.append_nil]
  rfl

/-! ### A phase that completes (R216) -/

theorem settle_full (b : Barrier) (items : List (Nat × Nat)) (hall : ∀ x ∈ items, x ∈ b.here) (hne : b.here ≠ []) :
    b.settle true items = ⟨(b.phase + 1) % 2 ^ 24, b.next.filter (· ∈ items), [], []⟩ :=
  if_pos (by simpa [hne] using hall)

theorem settle_wanting (b : Barrier) (items : List (Nat × Nat)) (hall : ¬ ∀ x ∈ items, x ∈ b.here) : b.settle true items = b :=
  if_neg fun h => hall (by simpa using And.left (Bool.and_eq_true_iff.mp h))

theorem settle_empty (b : Barrier) (ready : Bool) (items : List (Nat × Nat)) (h : b.here = []) : b.settle ready items = b :=
  if_neg (by simp [h])

/-- With nothing counted ahead a barrier goes on by one phase, where every member item has arrived. -/
theorem settle_twice_phase (b : Barrier) (items : List (Nat × Nat)) (hhere : b.here ≠ []) (hnext : b.next = []) :
    ((b.settle true items).settle true items).phase = if ∀ x ∈ items, x ∈ b.here then (b.phase + 1) % 2 ^ 24 else b.phase := by
  by_cases hall : ∀ x ∈ items, x ∈ b.here
  · have hnone : b.next.filter (· ∈ items) = [] := by rw [hnext]; rfl
    rw [if_pos hall, settle_full b items hall hhere, settle_empty _ _ _ hnone]
  · rw [if_neg hall, settle_wanting b items hall, settle_wanting b items hall]

theorem settleCrew_members {s : State} {key : Nat} {k : Crew} (hk : s.crewOf key = some k) (hmembers : crewItems s key ≠ [])
    (hqm : (s.launchOf k.lid).qm = false) : s.settleCrew key = s.putCrew (k.settled s (crewItems s key)) := by
  unfold State.settleCrew
  rw [hk]
  dsimp only
  split
  · next hnone => exact absurd hnone hmembers
  · rw [hqm, if_neg Bool.false_ne_true]

/-- A barrier of a crew whose arrivals release nothing, once the crew has settled. -/
theorem barrier_settled (s : State) (k : Crew) (items : List (Nat × Nat)) {n : Nat} (hn : n < k.barriers.length)
    (hconds : (k.barrier n).conds = []) :
    (k.settled s items).barrier n = ((k.barrier n).settle true items).settle true items := by
  have hready : (k.barrier n).conds.all (fenceDone s) = true := by rw [hconds]; rfl
  rw [← hready]
  simp [Crew.barrier, Crew.settled, hn]

/-- A crew with items arrived at one of its barriers, before it settles. -/
def Crew.withArrivals (k : Crew) (n : Nat) (rel : List Fence) (items : List (Nat × Nat)) : Crew :=
  { k with barriers := k.barriers.set n ((k.barrier n).arrive rel items) }

theorem barrier_withArrivals (k : Crew) {n : Nat} (rel : List Fence) (items : List (Nat × Nat)) (hn : n < k.barriers.length) :
    (k.withArrivals n rel items).barrier n = (k.barrier n).arrive rel items := by
  simp [Crew.barrier, Crew.withArrivals, hn]

theorem arriveAt_eq {s : State} {key : Nat} {k : Crew} (hk : s.crewOf key = some k) (n : Nat) (rel : List Fence) (items : List (Nat × Nat)) :
    s.arriveAt key n rel items = (s.putCrew (k.withArrivals n rel items)).settleCrew key := by
  unfold State.arriveAt
  rw [hk]
  rfl

/-- The crew after an arrival, which settles it. -/
theorem crewOf_arriveAt {s : State} {k : Crew} (n : Nat) (rel : List Fence) (items : List (Nat × Nat)) (hk : s.crewOf k.key = some k)
    (hqm : (s.launchOf k.lid).qm = false) (hmembers : crewItems s k.key ≠ []) :
    let t := s.putCrew (k.withArrivals n rel items)
    (s.arriveAt k.key n rel items).crewOf k.key = some ((k.withArrivals n rel items).settled t (crewItems s k.key)) := by
  intro t
  have harrived : t.crewOf k.key = some (k.withArrivals n rel items) := crewOf_putCrew_key hk rfl
  rw [arriveAt_eq hk, settleCrew_members (k := k.withArrivals n rel items) harrived hmembers hqm]
  exact crewOf_putCrew_key (k := k.withArrivals n rel items) harrived rfl

end Sys2Proof.Machine

namespace Sys2Proof

open Sys2Proof.Machine

/-- Settles O35: each instruction is what it makes of its arrival, and an arrival of new items adds them to the present phase
(`foldl_count_new`), which the crew then completes or not (`settle_twice_phase`). -/
theorem barriers : Obligations.Barriers := by
  unfold Obligations.Barriers
  refine ⟨?instructions, ?phase⟩
  case instructions =>
    intro s c d a n r
    refine ⟨exec_bara, exec_bar_arrives, fun hr m p => exec_bar_arrived hr, fun v => exec_barw, fun hc hn => ?_,
      fun k hk => ⟨arriving_phase hk n, fun p => (phaseDone_member hk n p).trans (not_pending _ p)⟩⟩
    have hr : r = (c.solo.getD n 0, s, c.arrivedAlone n) := arriving_alone hc s n
    rw [hr]
    exact ⟨rfl, rfl, phaseDone_arrivedAlone hc s hn, arrivedAlone_solo c hn, fun p => (phaseDone_alone hc s n p).trans (not_pending _ p)⟩
  case phase =>
    intro s k n items hk hqm hn hmembers hitems hnodup hnew hnext hconds
    have hbarrier : (k.withArrivals n [] items).barrier n = (k.barrier n).counting items :=
      (barrier_withArrivals k [] items hn).trans (arrive_new _ items hnodup hnew)
    have hcounted : ((k.barrier n).counting items).here ≠ [] := List.append_ne_nil_of_right_ne_nil _ hitems
    rw [crewOf_arriveAt n [] items hk hqm hmembers, Option.map_some,
      barrier_settled _ _ _ (by simpa [Crew.withArrivals] using hn) (hbarrier ▸ hconds), hbarrier, settle_twice_phase _ _ hcounted hnext]
    simp only [Barrier.counting, List.mem_append]

end Sys2Proof
end

section
/-! # QBIND, QUNBIND, QCNT, QCLOSE, SBIND, SREL and SCNT (O37; R219, R220, R222) -/

namespace Sys2Proof.Machine

/-! ### The ends of chutes (R219, R220) -/

/-- The live crew of a launch that a chute word names by slot and generation (R219). -/
def Cut.chuteCrew (s : State) (c : Cut) (v : W64) : Option Crew :=
  s.crews.find? fun k => k.lid == c.lid && !k.ret && k.slot == fld v 0 24 && k.gen == fld v 48 16

/-- What `QBIND` makes of the crew that its word names. -/
def State.bindChute (s : State) (c : Cut) (d a b : Opnd) (n : Nat) : Option Crew → State
  | none => s.raiseAll c causeCHC 0
  | some k =>
    if constOf b = 0 then (if c.crew = some k.key then s.complete c [a] (c.bind d (some (.pop k.key n))) else s.ill c)
    else s.complete c [a] (c.bind d (some (.push k.key n)))

theorem close_chute (k : Crew) {n : Nat} (popEnd : Bool) (hn : n < k.chutes.length) :
    (k.close n popEnd).chute n = { k.chute n with closed := true, entries := if popEnd then [] else (k.chute n).entries } := by
  simp [Crew.close, Crew.chute, hn]

section
variable {s : State} {c : Cut} {d a b : Opnd} (hpart : c.isPart = false)
include hpart

theorem exec_qbind {v : W64} {x : Option Crew} (hr : Runs s c (.qbind d a b)) (hv : c.uniformOf (c.read s a []) = some v)
    (hzero : fld v 30 18 = 0) (hdeclared : (s.launchOf c.lid).chutes.getD (fld v 24 6) 0 ≠ 0) (hx : c.chuteCrew s v = x) :
    exec (.qbind d a b) s = .next (s.bindChute c d a b (fld v 24 6) x) := by
  refine (operate_runs _ s _ c hr).trans ?_
  have hok : (c.isPart || fld v 30 18 != 0 || (s.launchOf c.lid).chutes.getD (fld v 24 6) 0 == 0) = false := by
    rw [hpart, hzero, beq_false_of_ne hdeclared]
    rfl
  unfold Cut.chuteCrew at hx
  simp only [hv, hok, hx, Bool.false_eq_true, if_false]
  cases x <;> rfl

theorem exec_qunbind (hr : Runs s c (.qunbind d)) :
    exec (.qunbind d) s = .next (if (c.bindOf d).isSome then s.advance (c.bind d none) else s.ill c) := by
  refine (operate_runs _ s _ c hr).trans ?_
  rw [hpart]
  cases c.bindOf d <;> rfl

theorem exec_qcnt {key n : Nat} {k : Crew} (hr : Runs s c (.qcnt d a))
    (hbound : c.bindOf a = some (.pop key n) ∨ c.bindOf a = some (.push key n)) (hk : s.crewOf key = some k) :
    exec (.qcnt d a) s = .next (s.write c [] .all d (uVal (BitVec.ofNat 64 (seenEntries s c k n).length))) := by
  refine (operate_runs _ s _ c hr).trans ?_
  rcases hbound with hbound | hbound <;> simp only [hpart, hbound, hk, Bool.false_eq_true, if_false]

theorem exec_qclose {key n : Nat} {k : Crew} {popEnd : Bool} (hr : Runs s c (.qclose d))
    (hbound : c.bindOf d = some (if popEnd then .pop key n else .push key n)) (hk : s.crewOf key = some k) :
    exec (.qclose d) s = .next (if c.quantum s then (s.queueEffect c (c.ilLow s) (.close key n popEnd)).advance c.effect
      else (s.putCrew (k.close n popEnd)).advance c.effect) := by
  refine (operate_runs _ s _ c hr).trans ?_
  cases popEnd <;> simp only [hpart, hbound, hk, Bool.false_eq_true, if_false, if_true]

/-! ### Streams (R222) -/

theorem exec_sbind {v : W64} {key : Nat} (hr : Runs s c (.sbind d a)) (hv : c.uniformOf (c.read s a []) = some v)
    (hcrew : c.crew = some key) (hlt : v.toNat < 16) :
    exec (.sbind d a) s = .next (s.complete c [a] (c.bind d (some (.stream key v.toNat)))) := by
  refine (operate_runs _ s _ c hr).trans ?_
  have hok : (c.isPart || decide (16 ≤ v.toNat)) = false := by simp [hpart, hlt]
  simp only [hv, hcrew, hok, Bool.false_eq_true, if_false]

end

theorem streamOf_bound {s : State} {c : Cut} {q : Opnd} {key n : Nat} {k : Crew} (hbound : c.bindOf q = some (.stream key n))
    (hk : s.crewOf key = some k) : c.streamOf s q = some (k, n) := by
  unfold Cut.streamOf
  rw [hbound]
  simp only [hk, Option.map_some]

/-- A stream to which credits have come back (R222). -/
def Stream.released (t : Stream) (credits : Nat) : Stream := { t with popped := t.popped - credits, taken := t.taken - credits }

/-- A crew to one of whose streams credits have come back. -/
def Crew.released (k : Crew) (n credits : Nat) : Crew := { k with streams := k.streams.set n ((k.stream n).released credits) }

theorem released_stream (k : Crew) {n : Nat} (credits : Nat) (hn : n < k.streams.length) :
    (k.released n credits).stream n = (k.stream n).released credits := by
  simp [Crew.released, Crew.stream, hn]

section
variable {s : State} {c : Cut} {d a : Opnd} (hpart : c.isPart = false)
include hpart

theorem exec_srel {v : W64} {key n : Nat} {k : Crew} (hr : Runs s c (.srel d a)) (hv : c.uniformOf (c.read s a []) = some v)
    (hbound : c.bindOf d = some (.stream key n)) (hk : s.crewOf key = some k) (hv0 : v ≠ 0) (hmost : v.toNat ≤ 16)
    (hpopped : v.toNat ≤ (k.stream n).popped) :
    exec (.srel d a) s = .next ((s.putCrew (k.released n v.toNat)).complete c [a] c.effect) := by
  refine (operate_runs _ s _ c hr).trans ?_
  have hok : (c.isPart || v == 0 || decide (16 < v.toNat) || decide ((k.stream n).popped < v.toNat)) = false := by
    rw [hpart, beq_false_of_ne hv0, decide_eq_false (not_lt.mpr hmost), decide_eq_false (not_lt.mpr hpopped)]
    rfl
  simp only [hv, streamOf_bound hbound hk, hok, Bool.false_eq_true, if_false]
  rfl

theorem exec_scnt {key n : Nat} {k : Crew} (hr : Runs s c (.scnt d a)) (hbound : c.bindOf a = some (.stream key n))
    (hk : s.crewOf key = some k) :
    exec (.scnt d a) s = .next (s.write c [] .all d (uVal (BitVec.ofNat 64 (k.stream n).ready.length))) := by
  refine (operate_runs _ s _ c hr).trans ?_
  simp only [hbound, streamOf_bound hbound hk, hpart, Bool.false_eq_true, if_false, Option.map_some, Option.getD_some]

end

/-! ### A crew that changes (R220, R222) -/

/-- What a crew with changed ends leaves of the machine, and what it holds. -/
theorem putCrew_changed {α : Type} {s : State} {key : Nat} {k j : Crew} (f : Crew → α) (hk : s.crewOf key = some k) (hj : j.key = k.key) :
    KeepsMemory s (s.putCrew j) ∧ ((s.putCrew j).crewOf key).map f = some (f j) := by
  obtain rfl := crewOf_key hk
  exact ⟨⟨rfl, rfl⟩, congrArg (Option.map f) (crewOf_putCrew_key hk hj)⟩

end Sys2Proof.Machine

namespace Sys2Proof

open Sys2Proof.Machine

/-- Settles O37: each instruction by the checks that it passes; QCLOSE and SREL change one chute (`close_chute`) or stream
(`released_stream`) of the crew that they store. -/
theorem bindingInstructions : Obligations.BindingInstructions := by
  unfold Obligations.BindingInstructions
  intro s c d a b v hpart _ n own bound
  refine ⟨fun hr hv hzero hdeclared => ?qbind, exec_qunbind hpart, fun key m k _ hr hbound hk => exec_qcnt hpart hr hbound hk,
    fun key m k popEnd hr hbound hk => ?qclose, fun key hr hv hcrew hlt => exec_sbind hpart hr hv hcrew hlt,
    fun key m k hr hv hbound hk hv0 hmost hpopped hm => ?srel, fun key m k hr hbound hk => exec_scnt hpart hr hbound hk⟩
  case qbind =>
    have hexec : ∀ x, own = x → exec (.qbind d a b) s = .next (s.bindChute c d a b n x) :=
      fun x hx => exec_qbind hpart hr hv hzero hdeclared hx
    exact ⟨hexec none, fun k hk hb => (hexec _ hk).trans (congrArg _ (if_neg hb)), fun k hk hb => (hexec _ hk).trans (congrArg _ (if_pos hb))⟩
  case qclose =>
    have hexec := exec_qclose hpart hr hbound hk
    refine ⟨fun hq => hexec.trans (congrArg _ (if_pos hq)), fun hq hm => ⟨s.putCrew (k.close m popEnd),
      hexec.trans (congrArg _ (if_neg (ne_true_of_eq_false hq))), ?_⟩⟩
    have hchanged := putCrew_changed (j := k.close m popEnd) (fun j => ((j.chute m).closed, (j.chute m).entries)) hk rfl
    rwa [close_chute k popEnd hm] at hchanged
  case srel =>
    refine ⟨_, exec_srel hpart hr hv hbound hk hv0 hmost hpopped, ?_⟩
    have hchanged := putCrew_changed (j := k.released m v.toNat) (fun j => ((j.stream m).popped, (j.stream m).taken)) hk rfl
    rwa [released_stream k v.toNat hm] at hchanged

end Sys2Proof
end

section
/-! # CWAIT, EVWAIT and EVPEEK (O42; R230, R231) -/

namespace Sys2Proof.Machine

/-! ### What a CWAIT reads (R230) -/

/-- Updates that find no flaw find none in turn. -/
theorem foldl_no_flaws {α : Type} (f : State → α → State) (hf : ∀ s x, s.flaws = [] → (f s x).flaws = []) (xs : List α) (s : State) :
    s.flaws = [] → (xs.foldl f s).flaws = [] :=
  foldl_rel (fun s t => s.flaws = [] → t.flaws = []) (fun _ hs => hs) (fun hst htu hs => htu (hst hs)) f hf xs s

theorem translated_flaws {s : State} (c : Cut) (q : Ask) (as : List ItemAcc) : s.flaws = [] → (s.translated c q as).flaws = [] :=
  foldl_no_flaws _ (fun s _ => foldl_no_flaws _ (fun s _ => xlatted_flaws s _ _ _) _ s) as s

theorem readAll_of_no_flaws {s : State} (l : Loc) (n : Nat) (h : s.flaws = []) : s.readAll l n = s := by
  unfold State.readAll
  split
  · exact if_pos (.inl (by rw [h]; rfl))
  · rfl

/-- Translations leave the cut that runs as it is. -/
theorem translated_running {s : State} {c : Cut} {i : Instr} (hr : Runs s c i) (q : Ask) (as : List ItemAcc) :
    ((s.translated c q as).cutOf c.uid).getD c = c := by
  rw [cutOf_congr (translated_sameButReads s c q as).cuts, cutOf_of_runs s c i hr, Option.getD_some]

/-- Without a reply that is overdue no counter has timed out. -/
theorem no_overdue {s : State} {c : Cut} (h : ∀ r ∈ s.remotes, r.uid = c.uid → r.kind < 7) :
    (s.remotes.filter fun r => r.kind == 8 && r.uid == c.uid) = [] := by
  refine List.filter_eq_nil_iff.mpr fun r hr hover => ?_
  obtain ⟨hkind, huid⟩ := Bool.and_eq_true_iff.mp hover
  have := h r hr (beq_iff_eq.mp huid)
  rw [beq_iff_eq.mp hkind] at this
  omega

/-- Whether both operands of a `CWAIT` are U. -/
def Cut.counterU (s : State) (c : Cut) (a b : Opnd) : Bool := (c.read s a []).isU && (c.read s b [a]).isU

/-- A `CWAIT` on a Bench whose counters pass the checks and are present reads them, and completes or waits. -/
theorem exec_cwait {s : State} {c : Cut} {l : BitVec 4} {d a b : Opnd} {ls : List (ItemAcc × Loc)} (hr : Runs s c (.cwait l d a b))
    (ho : readMayIssue s c = true) (hg : c.gov ≠ .none) (hflaws : s.flaws = []) (hremotes : ∀ r ∈ s.remotes, r.uid = c.uid → r.kind < 7)
    (hn : c.needsLanes c.gov (if c.counterU s a b then uVal 0 else .lanes []) = false)
    (hclean : Clean s c ⟨8, 1, .read⟩ true false (c.counterItems s a b)) (hls : counterLocs s c (c.counterItems s a b) = some ls) :
    let t := s.translated c ⟨8, 1, .read⟩ (c.counterItems s a b)
    exec (.cwait l d a b) s = .next (if countersMet t c (c.read s b [a]) ls then t.counterDone c l.toNat d a b ls (c.counterU s a b)
      else (t.askCounters c ls).hold c .counter) := by
  intro t
  have hread : ls.foldl (fun s p => s.readAll p.2 8) t = t :=
    foldl_id _ ls t fun p _ => readAll_of_no_flaws p.2 8 (translated_flaws c _ _ hflaws)
  unfold Cut.counterU at hn ⊢
  refine (operate_runs _ s _ c hr).trans ?_
  simp only [ho, Bool.not_true, Bool.false_eq_true, if_false, hg, hn, checkAccess_clean s c _ true false _ _ hclean, hls, no_overdue hremotes,
    hclean.1]
  rw [hread, translated_running hr, hclean.1]
  rfl

/-! ### Event queues (R231) -/

section
variable {s : State} {c : Cut} {d : Opnd} {k : Crew} (hpart : c.isPart = false) (hk : c.crewIn s = some k)
include hpart hk

theorem exec_evwait_empty (hr : Runs s c (.evwait d)) (ho : readMayIssue s c = true) (hnone : k.events = []) :
    exec (.evwait d) s = .next (s.hold c (.event k.key)) := by
  refine (operate_runs _ s _ c hr).trans ?_
  simp only [hpart, ho, hk, hnone, Bool.not_true, Bool.false_eq_true, if_false]

theorem exec_evwait_takes {rec : W64} {scope : Nat} {rest : List (W64 × Nat)} (hr : Runs s c (.evwait d)) (ho : readMayIssue s c = true)
    (hevents : k.events = (rec, scope) :: rest) :
    let t := s.putCrew { k with events := rest }
    exec (.evwait d) s = .next
      ((if decide (2 ≤ scope) && !c.quantum s then t.l1Flash c.bench else t).write c [] .all d (uVal rec)) := by
  refine (operate_runs _ s _ c hr).trans ?_
  simp only [hpart, ho, hk, hevents, Bool.not_true, Bool.false_eq_true, if_false]

theorem exec_evpeek (hr : Runs s c (.evpeek d)) :
    exec (.evpeek d) s = .next (s.write c [] .all d (uVal ((k.events.head?.map (·.1)).getD 0))) := by
  refine (operate_runs _ s _ c hr).trans ?_
  simp only [hpart, hk, Bool.false_eq_true, if_false, Option.bind_some]

end

end Sys2Proof.Machine

namespace Sys2Proof

open Sys2Proof.Machine

/-- Settles O42: where nothing is flawed the reads of CWAIT leave the machine as its translations made it (`exec_cwait`), and the event
queue of the crew that EVWAIT and EVPEEK name decides between their outcomes. -/
theorem waitsForEvents : Obligations.WaitsForEvents := by
  unfold Obligations.WaitsForEvents
  intro s c l d a b hpart ho
  refine ⟨?cwait, fun k hr hk hkey => ?evwait, fun k hr hk => ?evpeek⟩
  case cwait =>
    intro ls hr hg hflaws hremotes u as t k hn hclean hls
    have hexec := exec_cwait hr ho hg hflaws hremotes hn hclean hls
    have hk : k = c := translated_running hr _ _
    rw [hk]
    exact ⟨(translated_sameButReads s c _ as).keepsMemory, fun hmet => hexec.trans (congrArg _ (if_neg (ne_true_of_eq_false hmet))),
      fun hmet => hexec.trans (congrArg _ (if_pos hmet))⟩
  case evwait =>
    refine ⟨exec_evwait_empty hpart hk hr ho, fun rec scope rest hevents => ⟨_, exec_evwait_takes hpart hk hr ho hevents, ?_⟩⟩
    have hcrew : (s.putCrew { k with events := rest }).crewOf k.key = some { k with events := rest } := crewOf_putCrew_key hkey rfl
    split <;> exact ⟨⟨rfl, rfl⟩, rfl, congrArg (Option.map Crew.events) hcrew⟩
  case evpeek =>
    have hexec := exec_evpeek hpart hk hr
    exact ⟨fun hnone => by rwa [hnone] at hexec, fun e rest hevents => by rwa [hevents] at hexec⟩

end Sys2Proof
end
